-- ==== Sys2Proof/Word.lean ====
section
/-! DEFINITION. The word types of the BQ64: 64-bit words, bytes, vector registers and predicates. -/

namespace Sys2Proof

/-- A dword of 8 bytes (spec/00 R5): scalar registers, addresses, control registers. -/
abbrev Word := BitVec 64

/-- A byte. -/
abbrev Byte := BitVec 8

/-- A word of 4 bytes (spec/00 R5). -/
abbrev Word32 := BitVec 32

/-- A vector register of 512 bytes (spec/08 R144), element 0 in the low bits. -/
abbrev VReg := BitVec 4096

/-- A predicate of 1,024 bits (spec/08 R146). -/
abbrev PReg := BitVec 1024

/-- A device core index: half x 32 + cascade x 4 + tier (spec/01 R13). -/
abbrev CoreId := Fin 64

/-- A context bank: 2 x core + bank (spec/14 R275 numbers owners so). -/
abbrev CtxId := Fin 128

/-- A device cascade: half x 8 + cascade (spec/01 R13). -/
abbrev CascId := Fin 16

/-- A half. -/
abbrev HalfId := Fin 2

/-- A user queue. -/
abbrev QueueId := Fin 64

/-- A turnout. -/
abbrev TurnoutId := Fin 64

end Sys2Proof
end

