-- ==== Sys2Proof/Syntax.lean ====
section
/-! DEFINITION. The instructions of the BQ64 as syntax: the operand formats of spec/02 R24 and one
constructor for each row of the opcode table (200 encoded instructions, 97 steps of the part). -/

namespace Sys2Proof

/-- The type codes of spec/02 R32, in code order. -/
inductive Ty
  | s8 | n8 | s16 | n16 | s32 | n32 | s4 | n4 | bf16 | f16 | f32 | e4m3 | e5m2 | e2m1 | e8m0 | b
  deriving DecidableEq, Repr

/-- The token field tok[57:54] (spec/02 R26). -/
structure Tok where
  /-- Waits on the previous stream. -/
  wp : Bool
  /-- Waits on the next stream. -/
  wn : Bool
  /-- Signals the previous stream. -/
  sp : Bool
  /-- Signals the next stream. -/
  sn : Bool
  deriving DecidableEq, Repr

/-- No token is waited on or signalled. -/
def Tok.none : Tok := ⟨false, false, false, false⟩

/-- A vector operand (spec/02 R29). -/
inductive VOp
  | v (n : Fin 48)
  | qv (n : Fin 4)
  | qa
  | qb
  | qs (n : Fin 2)
  | rsv (n : Fin 8)
  deriving DecidableEq, Repr

/-- An accumulator tile operand (spec/02 R29). -/
inductive ZOp
  | z (n : Fin 4)
  | zt (n : Fin 2)
  | rsv (n : Fin 2)
  deriving DecidableEq, Repr

/-- A scope (spec/02 R29). -/
inductive Scope
  | context | core | cascade | half | device | system
  | rsv (n : Fin 2)
  deriving DecidableEq, Repr

/-- Format SR (spec/02 R24). -/
structure SR where
  sd : BitVec 5
  sa : BitVec 5
  sb : BitVec 5
  deriving DecidableEq, Repr

/-- Format SI (spec/02 R24). -/
structure SI where
  sd : BitVec 5
  sa : BitVec 5
  imm : BitVec 36
  deriving DecidableEq, Repr

/-- Format SB (spec/02 R24). -/
structure SB where
  sa : BitVec 5
  sb : BitVec 5
  off : BitVec 36
  deriving DecidableEq, Repr

/-- Format SJ (spec/02 R24). -/
structure SJ where
  sd : BitVec 5
  sa : BitVec 5
  off : BitVec 36
  deriving DecidableEq, Repr

/-- Format SL (spec/02 R24). -/
structure SL where
  sa : BitVec 5
  vrot : BitVec 6
  prot : BitVec 3
  lvl : BitVec 3
  imm : BitVec 29
  deriving DecidableEq, Repr

/-- Format FB (spec/02 R24). -/
structure FB where
  sd : BitVec 5
  sa : BitVec 5
  f : BitVec 2
  off : BitVec 34
  deriving DecidableEq, Repr

/-- Format SX (spec/02 R24). -/
structure SX where
  v : BitVec 6
  p : BitVec 4
  imm : BitVec 36
  deriving DecidableEq, Repr

/-- Format SY (spec/02 R24). -/
structure SY where
  tok : Tok
  sd : BitVec 5
  sa : BitVec 5
  sb : BitVec 5
  scope : Scope
  subop : BitVec 4
  imm : BitVec 24
  deriving DecidableEq, Repr

/-- Format VX (spec/02 R24). The fields vd, va and vb hold operand codes (spec/02 R29), or
predicate and flag numbers where the instruction says so. -/
structure VX where
  tok : Tok
  ty : Ty
  pred : BitVec 4
  vd : BitVec 6
  va : BitVec 6
  vb : BitVec 6
  vc : BitVec 6
  imm : BitVec 14
  deriving DecidableEq, Repr

/-- Format MX (spec/02 R24). -/
structure MX where
  tok : Tok
  shape : BitVec 5
  aty : Ty
  bty : Ty
  z : ZOp
  v : BitVec 6
  v2 : BitVec 6
  sd : BitVec 5
  flags : BitVec 13
  deriving DecidableEq, Repr

/-- Format MM (spec/02 R24). -/
structure MM where
  tok : Tok
  ty : Ty
  pred : BitVec 4
  v : BitVec 6
  sa : BitVec 5
  sb : BitVec 5
  vi : BitVec 6
  off : BitVec 16
  deriving DecidableEq, Repr

/-- Format E (spec/02 R24, R35); act[1:0] chooses the constructor, the patch mode is act[3:2]. -/
structure E where
  tok : Tok
  tmpl : BitVec 6
  fsel : BitVec 6
  sa : BitVec 5
  kp : BitVec 4
  ka : BitVec 4
  kb : BitVec 4
  kc : BitVec 4
  mode : BitVec 3
  val : BitVec 16
  deriving DecidableEq, Repr

/-- What an address is used for (spec/03 R54, spec/18 R354). -/
inductive Access
  | fetch | load | store | atomic | engineRead | engineWrite
  deriving DecidableEq, Repr

/-- The four masters that may own the device (spec/21 R397). -/
inductive Master
  | fn0 | fn1 | i3c | spi
  deriving DecidableEq, Repr

/-- A register write in BAR0, and who makes it (spec/21 R397). -/
structure RegWrite where
  master : Master
  value : Word
  deriving DecidableEq, Repr

/-- A PCIe memory write to BAR2: its offset and its bytes. -/
structure BarWrite where
  off : Nat
  data : List Byte
  deriving DecidableEq, Repr

/-- A PCIe memory read of BAR2. -/
structure BarRead where
  off : Nat
  len : Nat
  deriving DecidableEq, Repr

/-- A BAR2 access, either way. -/
inductive BarAccess
  | write (w : BarWrite)
  | read (r : BarRead)
  deriving DecidableEq, Repr

/-- A write to the notify page of a queue (spec/17 R334). -/
structure Notify where
  fn : Fin 2
  queue : QueueId
  index : Word32
  deriving DecidableEq, Repr

/-- What a detected error concerns (spec/13 R261, R262). -/
inductive ErrorKind
  /-- ECC, parity, residue or timing: the region is replayed. -/
  | replay
  /-- A double-bit error in a weir entry of the context, by its place in the buffer. -/
  | weirEntry (n : Nat)
  /-- Data that no replay can restore, and the address reported for them. -/
  | uncorrectable (va : Word)
  /-- Such data in what a command of the core of the context has read, by its place among the active ones (spec/04
  R77). -/
  | command (n : Nat) (va : Word)
  /-- Such data in what the part has read for an operator: a template image, a continuation record (spec/04 R68,
  spec/11 R215). -/
  | operator (id : Nat)
  /-- Such data in the saved state of a slot of the core of the context (spec/18 R362). -/
  | saved (slot : Fin 8)
  /-- Such data in the runtime package (spec/21 R402). -/
  | package
  /-- A value that the region has sent to a slice was wrong: write n of those it has sent (spec/13 R259). -/
  | sent (n : Nat)
  deriving DecidableEq, Repr

/-- A detected error: the context, and whether it lies in the younger of its two regions. -/
structure ErrorReport where
  ctx : CtxId
  younger : Bool
  kind : ErrorKind
  deriving DecidableEq, Repr

/-- A transient upset of a tile that a checksum comparison may meet (spec/10 R193): one bit of one
element of the result as it is compared, or none. -/
structure Upset where
  hit : Bool
  row : Fin 64
  col : Fin 128
  bit : Fin 32
  deriving DecidableEq, Repr

/-- Why a full reset happens (spec/21 R400). -/
inductive ResetCause
  | powerOn
  | fundamental
  | rstctl (w : RegWrite)
  deriving DecidableEq, Repr

/-- The deviations of the tiers of a cascade in mV, averaged over 64 aclk (spec/20 R380). -/
structure TierReport where
  t0 : Int
  t1 : Int
  t2 : Int
  t3 : Int
  deriving DecidableEq, Repr

/-- What an I/O island loses (spec/19 R368). -/
inductive IslandLoss
  | controllers
  | sram
  deriving DecidableEq, Repr

/-- The instructions and steps of the BQ64: one constructor for each row of the opcode table. -/
inductive Instr
  -- Scalar arithmetic, major 0x01 (spec/12 R235).
  | add (o : SR)
  | sub (o : SR)
  | mul (o : SR)
  | mulhS (o : SR)
  | mulhN (o : SR)
  | divS (o : SR)
  | divN (o : SR)
  | remS (o : SR)
  | remN (o : SR)
  | minS (o : SR)
  | minN (o : SR)
  | maxS (o : SR)
  | maxN (o : SR)
  | and (o : SR)
  | or (o : SR)
  | xor (o : SR)
  | andn (o : SR)
  | shl (o : SR)
  | shrN (o : SR)
  | shrS (o : SR)
  | rot (o : SR)
  | sltS (o : SR)
  | sltN (o : SR)
  | seq (o : SR)
  | sne (o : SR)
  | clz (o : SR)
  | ctz (o : SR)
  | popc (o : SR)
  | sextB (o : SR)
  | sextH (o : SR)
  | sextW (o : SR)
  | zextB (o : SR)
  | zextH (o : SR)
  | zextW (o : SR)
  -- Scalar arithmetic with an immediate, major 0x02 (spec/12 R236).
  | addi (o : SI)
  | andi (o : SI)
  | ori (o : SI)
  | xori (o : SI)
  | shli (o : SI)
  | shriN (o : SI)
  | shriS (o : SI)
  | sltiS (o : SI)
  | sltiN (o : SI)
  | li (o : SI)
  | lih (o : SI)
  | adr (o : SI)
  -- Branches, major 0x03 (spec/12 R237).
  | beq (o : SB)
  | bne (o : SB)
  | bltS (o : SB)
  | bgeS (o : SB)
  | bltN (o : SB)
  | bgeN (o : SB)
  -- Jumps, major 0x04 (spec/12 R238).
  | j (o : SJ)
  | jal (o : SJ)
  | jr (o : SJ)
  | jalr (o : SJ)
  -- Loops, major 0x05 (spec/12 R229 to R234).
  | loop (o : SL)
  | loopT (o : SL)
  | endloop (o : SL)
  | brkloop (o : SL)
  | lidx (o : SL)
  -- Flag branches, major 0x06 (spec/12 R239).
  | bfAny (o : FB)
  | bfNany (o : FB)
  | bfAll (o : FB)
  | bfNall (o : FB)
  | bfCeq (o : FB)
  | bfCne (o : FB)
  | bfCge (o : FB)
  | bfClt (o : FB)
  | fcnt (o : FB)
  -- Control and status registers, major 0x07 (spec/12 R240).
  | csrr (o : SI)
  | csrw (o : SI)
  | csrs (o : SI)
  | csrc (o : SI)
  -- System, major 0x08 (spec/12 R247).
  | nop (o : SX)
  | commit (o : SX)
  | guardMax (o : SX)
  | guardSsq (o : SX)
  | trapi (o : SX)
  | ebreak (o : SX)
  | rett (o : SX)
  | done (o : SX)
  | fence (o : SX)
  -- Vector loads, major 0x10 (spec/06 R118).
  | ldV (o : MM)
  | ldVs (o : MM)
  | ldVx (o : MM)
  | ldBc (o : MM)
  | ldQsc (o : MM)
  -- Scalar load, major 0x11 (spec/06 R124).
  | lds (o : MM)
  -- Gather, major 0x12 (spec/06 R126).
  | gatA (o : MM)
  -- Acquires, major 0x13 (spec/14 R282).
  | acq (o : SY)
  | waitw (o : SY)
  | ringwf (o : SY)
  | ringfree (o : SY)
  | tlwait (o : SY)
  -- Engine, L stream, major 0x14 (spec/04 R78).
  | eset (o : E)
  | efire (o : E)
  | eclr (o : E)
  | cbload (o : E)
  -- Token counters, L stream, major 0x15 (spec/06 R114).
  | kwaitL (o : SY)
  | ksigL (o : SY)
  -- Vector integer, major 0x20 (spec/08 R155).
  | vadd (o : VX)
  | vsub (o : VX)
  | vaddSat (o : VX)
  | vsubSat (o : VX)
  | vmul (o : VX)
  | vmulh (o : VX)
  | vmla (o : VX)
  | vmlaW (o : VX)
  | vmulW (o : VX)
  | vabs (o : VX)
  | vneg (o : VX)
  | vmin (o : VX)
  | vmax (o : VX)
  | vand (o : VX)
  | vor (o : VX)
  | vxor (o : VX)
  | vandn (o : VX)
  | vshl (o : VX)
  | vshr (o : VX)
  | vrshr (o : VX)
  | vclz (o : VX)
  | vpopc (o : VX)
  | vavg (o : VX)
  | vcmp (o : VX)
  | vsel (o : VX)
  | vdot4 (o : VX)
  -- Vector floating, major 0x21 (spec/09 R170).
  | vfadd (o : VX)
  | vfsub (o : VX)
  | vfmul (o : VX)
  | vfma (o : VX)
  | vfnma (o : VX)
  | vfmin (o : VX)
  | vfmax (o : VX)
  | vfabs (o : VX)
  | vfneg (o : VX)
  | vfcmp (o : VX)
  | vfrcp (o : VX)
  | vfrsq (o : VX)
  | vfsqrt (o : VX)
  | vfexp2 (o : VX)
  | vflog2 (o : VX)
  | vftanh (o : VX)
  | vfsig (o : VX)
  | vfclass (o : VX)
  -- Conversions, major 0x22 (spec/09 R175).
  | vcvt (o : VX)
  | vnarrow (o : VX)
  | vwiden (o : VX)
  | vrqs (o : VX)
  -- Permutations and reductions, major 0x23 (spec/09 R178).
  | vperm (o : VX)
  | vslideup (o : VX)
  | vslidedn (o : VX)
  | vzip (o : VX)
  | vunzip (o : VX)
  | vbcast (o : VX)
  | vredsum (o : VX)
  | vredmax (o : VX)
  | vredmin (o : VX)
  | vscan (o : VX)
  -- Predicates, major 0x24 (spec/08 R161).
  | pand (o : VX)
  | por (o : VX)
  | pxor (o : VX)
  | pandn (o : VX)
  | pnot (o : VX)
  | pfirst (o : VX)
  | ptest (o : VX)
  | pmov (o : VX)
  -- Register moves, major 0x25 (spec/08 R163).
  | vmov (o : VX)
  | vli (o : VX)
  | viota (o : VX)
  | vdup (o : VX)
  | vclr (o : VX)
  -- Matrix engine, major 0x26 (spec/10 R197).
  | mma (o : MX)
  | mzero (o : MX)
  | mwr (o : MX)
  | mrd (o : MX)
  | mdrain (o : MX)
  -- Token counters, C stream, major 0x27.
  | kwaitC (o : SY)
  | ksigC (o : SY)
  -- Vector stores, major 0x30 (spec/11 R216).
  | stV (o : MM)
  | stVs (o : MM)
  | stVx (o : MM)
  -- Scalar store, major 0x31 (spec/11 R218).
  | sts (o : MM)
  -- Releases, major 0x32 (spec/14 R282).
  | rel (o : SY)
  | ringwe (o : SY)
  | ringpub (o : SY)
  | setw (o : SY)
  | tlsig (o : SY)
  -- Atomics and reductions, major 0x33 (spec/05 R97).
  | amo (o : SY)
  | red (o : SY)
  | vred (o : SY)
  -- Tasks, major 0x34 (spec/14 R282).
  | tpost (o : SY)
  | tjoin (o : SY)
  | grais (o : SY)
  -- Engine, S stream, major 0x35.
  | esetS (o : E)
  | efireS (o : E)
  | eclrS (o : E)
  | cbloadS (o : E)
  -- Token counters, S stream, major 0x36.
  | kwaitS (o : SY)
  | ksigS (o : SY)
  -- Steps of the part that have no instruction word (spec/95).
  | engineCommandStart (core : CoreId)
  | engineCommandComplete (core : CoreId) (n : Nat)
  | arrivalWordWrite (core : CoreId) (n : Nat)
  | regionRetire (c : CtxId)
  | regionOverrun (c : CtxId)
  | detectedError (e : ErrorReport)
  | checksumCompare (core : CoreId) (n : Nat) (upset : Upset)
  | trapEntry (c : CtxId)
  | pageWalk (c : CtxId) (va : Word) (acc : Access)
  | pageFault (c : CtxId)
  | pageRequestWrite (half : HalfId)
  | preemptRequest (c : CtxId)
  | evict (c : CtxId)
  | restore (c : CtxId)
  | bankSwitch (core : CoreId)
  | gangForm (half : HalfId)
  | gangStart (casc : CascId)
  | taskPop (c : CtxId)
  | taskRefill (casc : CascId)
  | weirDrain (half : HalfId) (n : Nat)
  | postedAck (c : CtxId) (n : Nat)
  | reductionApply (c : CtxId)
  | deferredEffectApply (c : CtxId) (n : Nat)
  | joinPostRetry (casc : CascId)
  | waiterWake (key : Nat)
  | waitwPoll (c : CtxId)
  | waitwTimeout (c : CtxId)
  | icacheRefill (core : CoreId) (line : Nat)
  | turnoutWrite (w : BarWrite)
  | turnoutRead (r : BarRead)
  | bar2Access (a : BarAccess)
  | outboundReadTimeout (c : CtxId)
  | notifyWrite (n : Notify)
  | packetFetch (q : QueueId)
  | packetPoll (q : QueueId)
  | launch (q : QueueId)
  | graph (q : QueueId)
  | signal (q : QueueId)
  | waitTl (q : QueueId)
  | waitMem (q : QueueId)
  | waitMemReread (q : QueueId)
  | waitMemTimeout (q : QueueId)
  | write (q : QueueId)
  | fencePacket (q : QueueId)
  | inval (q : QueueId)
  | invalComplete (q : QueueId)
  | pageResp (q : QueueId)
  | patch (q : QueueId)
  | patchQuiesce (half : HalfId)
  | attest (q : QueueId)
  | queueCfgWrite (q : QueueId)
  | queueCfgEnable (q : QueueId)
  | queueCfgDisable (q : QueueId)
  | queueCfgReset (q : QueueId)
  | opCard (q : QueueId)
  | cond (q : QueueId)
  | loopn (q : QueueId)
  | signalCard (q : QueueId)
  | waitCard (q : QueueId)
  | waitCardTimeout (q : QueueId)
  | join (q : QueueId)
  | endCard (q : QueueId)
  | operatorComplete (op : Nat)
  | memcfgWrite (w : RegWrite)
  | toctlWrite (n : TurnoutId) (w : RegWrite)
  | qctlWrite (q : QueueId) (w : RegWrite)
  | tqctlWrite (casc : CascId) (w : RegWrite)
  | registerWrite (off : Nat) (w : RegWrite)
  | ownctlClaim (m : Master)
  | ownctlRelease (m : Master)
  | ownctlHandover (m : Master) (target : Master)
  | ownctlCandidate (m : Master) (set : Bool)
  | ownhbWrite (m : Master)
  | heartbeatExpiry
  | handoverTimeout
  | fullReset (cause : ResetCause)
  | functionLevelReset (fn : Fin 2)
  | dramTrainingDone (ok : Bool)
  | bootctlGo (w : RegWrite)
  | measextGo (w : RegWrite)
  | failoverTrigger (half : HalfId)
  | foctlGo (w : RegWrite)
  | adoption
  | islandWatchdogExpiry (half : HalfId)
  | cascopWrite (casc : CascId) (w : RegWrite)
  | operatingPointStep (casc : CascId)
  | clockHop (casc : CascId)
  | clockHoldEnd (casc : CascId)
  | balanceEval (casc : CascId) (r : TierReport)
  | droopDetect (core : CoreId) (mv : Nat)
  | droopRelease (core : CoreId)
  | powerLimitEval (mw : Nat)
  | thermalLimit (half : HalfId) (temp : Int)
  | thermtrip (half : HalfId)
  | pcSample (core : CoreId)
  | resizableBarWrite (lgGiB : Nat)
  | islandHealthLoss (half : HalfId) (cause : IslandLoss)
  deriving DecidableEq, Repr

end Sys2Proof
end

