-- ==== Sys2Proof/Machine/Legal.lean ====
section
/-! DEFINITION. Operand codes, type codes and the rules that make a word legal (spec/02 R25, R29 to
R37 and the further illegal words of each chapter). -/

namespace Sys2Proof

/-- Why a word is not a legal instruction (spec/02 R37). All but `privileged` are TCAUSE 1. -/
inductive Reject
  /-- The byte list is not one word of 8 bytes. -/
  | length
  /-- A major opcode marked reserved in R36. -/
  | reservedMajor
  /-- fn8 above the highest listed value of its major. -/
  | reservedFn
  /-- tok nonzero in an F major. -/
  | tokNonzero
  /-- A must-be-zero field is nonzero. -/
  | mustBeZero
  /-- A reserved operand code (R29). -/
  | reservedOperand
  /-- An act value that R35 excludes. -/
  | actValue
  /-- A subop that R34 or R295 excludes. -/
  | subopValue
  /-- A queue used contrary to R30. -/
  | queueUse
  /-- A register group contrary to R31. -/
  | groupUse
  /-- A type code or pairing that the instruction does not accept (R32). -/
  | typeCode
  /-- first row + row count above 64 (R25). -/
  | rowRange
  /-- A CSR number absent from the map, or a write to a read-only CSR. -/
  | csrNumber
  /-- Another value that the instruction's description excludes. -/
  | fieldValue
  /-- A privileged word at user level (TCAUSE 2). -/
  | privileged
  deriving DecidableEq, Repr

namespace Machine

/-- The width in bits of an element; .b counts as 8 (spec/06 R118). -/
def tyWidth : Ty → Nat
  | .s8 | .n8 | .e4m3 | .e5m2 | .e8m0 | .b => 8
  | .s16 | .n16 | .bf16 | .f16 => 16
  | .s32 | .n32 | .f32 => 32
  | .s4 | .n4 | .e2m1 => 4

/-- The number of elements of a vector register (spec/08 R148). -/
def tyCount (t : Ty) : Nat := 4096 / tyWidth t

/-- The signed integer types. -/
def tySigned : Ty → Bool
  | .s8 | .s16 | .s32 | .s4 => true
  | _ => false

/-- The integer types. -/
def tyInt : Ty → Bool
  | .s8 | .n8 | .s16 | .n16 | .s32 | .n32 | .s4 | .n4 => true
  | _ => false

/-- The floating types. -/
def tyFloat : Ty → Bool
  | .bf16 | .f16 | .f32 | .e4m3 | .e5m2 | .e2m1 | .e8m0 => true
  | _ => false

/-- Codes 0 to 5: the 8-, 16- and 32-bit integers. -/
def tyInt05 : Ty → Bool
  | .s8 | .n8 | .s16 | .n16 | .s32 | .n32 => true
  | _ => false

/-- Codes 8 to 12: the floating types of the VFP arithmetic (spec/09 R166). -/
def tyVfp : Ty → Bool
  | .bf16 | .f16 | .f32 | .e4m3 | .e5m2 => true
  | _ => false

/-- Codes 8 to 10: the types of the special functions. -/
def tySpecial : Ty → Bool
  | .bf16 | .f16 | .f32 => true
  | _ => false

/-- The type code of the 4-bit field (spec/02 R32). -/
def tyOfCode (c : BitVec 4) : Ty :=
  match c.toNat with
  | 0 => .s8 | 1 => .n8 | 2 => .s16 | 3 => .n16 | 4 => .s32 | 5 => .n32 | 6 => .s4 | 7 => .n4
  | 8 => .bf16 | 9 => .f16 | 10 => .f32 | 11 => .e4m3 | 12 => .e5m2 | 13 => .e2m1 | 14 => .e8m0
  | _ => .b

/-- The 4-bit code of a type. -/
def tyCode : Ty → BitVec 4
  | .s8 => 0 | .n8 => 1 | .s16 => 2 | .n16 => 3 | .s32 => 4 | .n32 => 5 | .s4 => 6 | .n4 => 7
  | .bf16 => 8 | .f16 => 9 | .f32 => 10 | .e4m3 => 11 | .e5m2 => 12 | .e2m1 => 13 | .e8m0 => 14
  | .b => 15

/-- The vector operand that a 6-bit code names (spec/02 R29). -/
def vop (c : BitVec 6) : VOp :=
  if h : c.toNat < 48 then .v ⟨c.toNat, h⟩
  else if c.toNat < 52 then .qv (Fin.ofNat 4 (c.toNat - 48))
  else if c.toNat = 52 then .qa
  else if c.toNat = 53 then .qb
  else if c.toNat < 56 then .qs (Fin.ofNat 2 (c.toNat - 54))
  else .rsv (Fin.ofNat 8 (c.toNat - 56))

/-- The tile that a 3-bit code names (spec/02 R29). -/
def zop (c : BitVec 3) : ZOp :=
  match c.toNat with
  | 0 => .z 0 | 1 => .z 1 | 2 => .z 2 | 3 => .z 3
  | 4 => .zt 0 | 5 => .zt 1 | 6 => .rsv 0 | _ => .rsv 1

/-- The 3-bit code of a tile operand. -/
def zopCode : ZOp → BitVec 3
  | .z n => BitVec.ofNat 3 n.val
  | .zt n => BitVec.ofNat 3 (4 + n.val)
  | .rsv n => BitVec.ofNat 3 (6 + n.val)

/-- The scope that a 3-bit code names (spec/02 R29). -/
def scopeOf (c : BitVec 3) : Scope :=
  match c.toNat with
  | 0 => .context | 1 => .core | 2 => .cascade | 3 => .half | 4 => .device | 5 => .system
  | 6 => .rsv 0 | _ => .rsv 1

/-- The 3-bit code of a scope. -/
def scopeCode : Scope → BitVec 3
  | .context => 0 | .core => 1 | .cascade => 2 | .half => 3 | .device => 4 | .system => 5
  | .rsv n => BitVec.ofNat 3 (6 + n.val)

/-- The control and status registers (spec/12 R241). -/
inductive Csr
  | fpc | rvb | rpb | time | cycle | ctxinfo | opinfo
  | tvec | tcause | tpc | tval | tscr0 | tscr1 | tstat
  | heapb | heapl | heapo | gtol | gres | gfail | rplcnt | regmax | replaymax
  | lease | bkstall | qstall | fillc | psamp
  deriving DecidableEq, Repr

/-- What a level may do with a register (spec/12 R241). -/
inductive CsrAccess
  | none | ro | rw
  deriving DecidableEq, Repr

/-- The register of a CSR number (spec/12 R241). -/
def csrOf (n : Nat) : Option Csr :=
  match n with
  | 0x000 => some .fpc | 0x001 => some .rvb | 0x002 => some .rpb
  | 0x010 => some .time | 0x011 => some .cycle | 0x012 => some .ctxinfo | 0x013 => some .opinfo
  | 0x020 => some .tvec | 0x021 => some .tcause | 0x022 => some .tpc | 0x023 => some .tval
  | 0x024 => some .tscr0 | 0x025 => some .tscr1 | 0x026 => some .tstat
  | 0x030 => some .heapb | 0x031 => some .heapl | 0x032 => some .heapo
  | 0x040 => some .gtol | 0x041 => some .gres | 0x042 => some .gfail
  | 0x050 => some .rplcnt | 0x051 => some .regmax | 0x052 => some .replaymax
  | 0x060 => some .lease | 0x070 => some .bkstall | 0x071 => some .qstall
  | 0x072 => some .fillc | 0x080 => some .psamp
  | _ => Option.none

/-- The access of a register at a level (spec/12 R241); `sys` is the system level. -/
def csrAccess (r : Csr) (sys : Bool) : CsrAccess :=
  match r with
  | .fpc | .rvb | .rpb | .gtol | .lease | .bkstall | .qstall => .rw
  | .time | .cycle | .ctxinfo | .opinfo | .heapb | .heapl | .heapo | .gres | .gfail | .rplcnt => .ro
  | .tvec | .tcause | .tpc | .tval | .tscr0 | .tscr1 | .psamp => if sys then .rw else .none
  | .tstat => if sys then .ro else .none
  | .regmax | .replaymax | .fillc => if sys then .rw else .ro

/-- The CSR number field imm36[11:0] (spec/12 R240). -/
def csrNum (o : SI) : Nat := (o.imm.extractLsb' 0 12).toNat

/-- A source of a C-stream instruction: a vector register or qv0 to qv3 (spec/02 R30). -/
def srcC (c : BitVec 6) : Option Reject :=
  match vop c with
  | .v _ | .qv _ => none
  | .rsv _ => some .reservedOperand
  | _ => some .queueUse

/-- A destination of a C-stream instruction: a vector register or qs0, qs1 (spec/02 R30). -/
def dstC (c : BitVec 6) : Option Reject :=
  match vop c with
  | .v _ | .qs _ => none
  | .rsv _ => some .reservedOperand
  | _ => some .queueUse

/-- A destination of an L-stream load into registers: a vector register or qv0 to qv3. -/
def dstL (c : BitVec 6) : Option Reject :=
  match vop c with
  | .v _ | .qv _ => none
  | .rsv _ => some .reservedOperand
  | _ => some .queueUse

/-- A source of an S-stream store: a vector register or qs0, qs1. -/
def srcS (c : BitVec 6) : Option Reject :=
  match vop c with
  | .v _ | .qs _ => none
  | .rsv _ => some .reservedOperand
  | _ => some .queueUse

/-- A plain vector register v0 to v47. -/
def onlyV (c : BitVec 6) : Option Reject :=
  match vop c with
  | .v _ => none
  | .rsv _ => some .reservedOperand
  | _ => some .queueUse

/-- A group of k vector registers (spec/02 R31). -/
def groupV (k : Nat) (c : BitVec 6) : Option Reject :=
  match vop c with
  | .v n => if n.val % k = 0 then none else some .groupUse
  | .rsv _ => some .reservedOperand
  | _ => some .groupUse

/-- A predicate destination p1 to p15 in a 6-bit field (spec/08 R164). -/
def dstP (c : BitVec 6) : Option Reject :=
  if 1 ≤ c.toNat ∧ c.toNat ≤ 15 then none else some .reservedOperand

/-- A predicate source p0 to p15 in a 6-bit field. -/
def srcP (c : BitVec 6) : Option Reject :=
  if c.toNat ≤ 15 then none else some .reservedOperand

/-- A condition with the reject it gives when it fails. -/
def need (ok : Bool) (r : Reject) : Option Reject := if ok then none else some r

/-- A field that must be zero. -/
def mbz {n : Nat} (f : BitVec n) : Option Reject := need (f == 0) .mustBeZero

/-- The first reject of a list of checks. -/
def allOf : List (Option Reject) → Option Reject
  | [] => none
  | some r :: _ => some r
  | none :: rest => allOf rest

/-- A scope field in use: codes 0 to 5 (spec/02 R29). -/
def scopeUsed (c : Scope) : Option Reject :=
  match c with
  | .rsv _ => some .reservedOperand
  | _ => none

/-- A scope field not in use. -/
def scopeUnused (c : Scope) : Option Reject := need (scopeCode c == 0) .mustBeZero

/-- The factor k = 32 / w of a type. -/
def tyK (t : Ty) : Nat := 32 / tyWidth t

/-- An index group of `ld.vx` and `st.vx` (spec/06 R118, spec/02 R30, R31). -/
def indexGroup (t : Ty) (c : BitVec 6) : Option Reject :=
  match vop c with
  | .v n => if n.val % tyK t = 0 then none else some .groupUse
  | .rsv _ => some .reservedOperand
  | _ => some .queueUse

/-- The types that the latches take by rows: codes 0 to 3, 6 to 9, 11 to 13 (spec/06 R118). -/
def tyLatch : Ty → Bool
  | .s8 | .n8 | .s16 | .n16 | .s4 | .n4 | .bf16 | .f16 | .e4m3 | .e5m2 | .e2m1 => true
  | _ => false

/-- Not a 4-bit type. -/
def tyNot4 : Ty → Bool
  | .s4 | .n4 | .e2m1 => false
  | _ => true

/-- The types of `lds` and `sts`. -/
def tyScalar : Ty → Bool
  | .s8 | .n8 | .s16 | .n16 | .s32 | .n32 | .b => true
  | _ => false

/-- The K that a qb load's K code names (spec/06 R118). -/
def qbK (c : Nat) : Nat := 16 * 2 ^ c

/-- A three-register ALU word is legal as it stands (spec/12 R235). -/
def checkSR3 (_ : SR) : Option Reject := none

/-- A unary ALU word (spec/12 R248). -/
def checkSR2 (o : SR) : Option Reject := mbz o.sb

/-- A shift by an immediate: imm36[35:6] zero (spec/12 R236). -/
def checkShiftI (o : SI) : Option Reject := mbz (o.imm.extractLsb' 6 30)

/-- `loop` (spec/12 R234, R248). -/
def checkLoop (o : SL) : Option Reject :=
  allOf [mbz o.vrot, mbz o.prot, mbz o.lvl, need (o.imm != 0) .fieldValue]

/-- `loop.t` (spec/12 R234, R248). -/
def checkLoopT (o : SL) : Option Reject :=
  allOf [mbz o.sa, mbz o.vrot, mbz o.prot, need (decide (o.lvl.toNat < 6)) .fieldValue,
    need (o.imm != 0) .fieldValue]

/-- `endloop` (spec/12 R234, R248). -/
def checkEndloop (o : SL) : Option Reject :=
  allOf [mbz o.sa, mbz o.lvl, mbz o.imm, need (decide (o.vrot.toNat ≤ 32)) .fieldValue]

/-- `brkloop` (spec/12 R234). -/
def checkBrkloop (o : SL) : Option Reject := allOf [mbz o.vrot, mbz o.prot, mbz o.lvl, mbz o.imm]

/-- `lidx` (spec/12 R234, R248). -/
def checkLidx (o : SL) : Option Reject :=
  allOf [mbz o.vrot, mbz o.prot, mbz (o.imm.extractLsb' 1 28),
    need (decide (o.lvl.toNat < 6)) .fieldValue]

/-- The flag branches without a scalar operand (spec/12 R239). -/
def checkFB0 (o : FB) : Option Reject := allOf [mbz o.sd, mbz o.sa]

/-- The flag branches that compare the count (spec/12 R239). -/
def checkFB1 (o : FB) : Option Reject := mbz o.sd

/-- `fcnt` (spec/12 R239). -/
def checkFcnt (o : FB) : Option Reject := allOf [mbz o.sa, mbz o.off]

/-- The CSR number and the fields of R240 (spec/12). -/
def checkCsr (o : SI) (rd wr : Bool) : Option Reject :=
  allOf [mbz (o.imm.extractLsb' 12 24), need (csrOf (csrNum o)).isSome .csrNumber,
    if rd then none else mbz o.sd, if wr then none else mbz o.sa]

/-- A SYS word with no operand (spec/12 R247). -/
def checkSX0 (o : SX) : Option Reject := allOf [mbz o.v, mbz o.p, mbz o.imm]

/-- A guard (spec/12 R247, R248). -/
def checkGuard (o : SX) : Option Reject := allOf [onlyV o.v, mbz o.imm]

/-- `trapi` (spec/12 R247). -/
def checkTrapi (o : SX) : Option Reject := allOf [mbz o.v, mbz o.p]

/-- `fence` (spec/12 R247, R248). -/
def checkFence (o : SX) : Option Reject :=
  allOf [mbz o.v, mbz o.p, mbz (o.imm.extractLsb' 3 33),
    scopeUsed (scopeOf (o.imm.extractLsb' 0 3))]

/-- `kwait` and `ksig` (spec/06 R114). -/
def checkKtok (o : SY) : Option Reject :=
  allOf [mbz o.sd, mbz o.sa, mbz o.sb, scopeUnused o.scope, mbz o.subop,
    mbz (o.imm.extractLsb' 8 16), need (o.imm.extractLsb' 0 4 != 0) .fieldValue,
    need (o.imm.extractLsb' 4 4 != 0) .fieldValue]

/-- A synchronisation word, by the fields its row of spec/14 R282 uses; imm24 and subop unused. -/
def checkSync (o : SY) (sd sa sb scope : Bool) : Option Reject :=
  allOf [if sd then none else mbz o.sd, if sa then none else mbz o.sa,
    if sb then none else mbz o.sb, if scope then scopeUsed o.scope else scopeUnused o.scope,
    need (o.subop == 0) .subopValue, mbz o.imm]

/-- `waitw` (spec/14 R282, R295). -/
def checkWaitw (o : SY) : Option Reject :=
  allOf [mbz o.sd, scopeUsed o.scope, need (decide (o.subop.toNat ≤ 4)) .subopValue,
    mbz (o.imm.extractLsb' 16 7)]

/-- `setw` (spec/14 R282). -/
def checkSetw (o : SY) : Option Reject :=
  allOf [mbz o.sd, scopeUsed o.scope, need (o.subop == 0) .subopValue,
    mbz (o.imm.extractLsb' 0 23)]

/-- `tpost` (spec/14 R282, R295). -/
def checkTpost (o : SY) : Option Reject :=
  allOf [mbz o.sb, scopeUnused o.scope, need (o.subop == 0) .subopValue,
    mbz (o.imm.extractLsb' 2 22), need (o.imm.extractLsb' 0 2 != 3) .fieldValue]

/-- `amo` (spec/05 R97, R102; spec/02 R34). -/
def checkAmo (o : SY) : Option Reject :=
  allOf [scopeUnused o.scope, need (decide (o.subop.toNat ≤ 9)) .subopValue,
    need (decide ((o.imm.extractLsb' 22 2).toNat ≤ 1)) .fieldValue, mbz (o.imm.extractLsb' 11 11)]

/-- The subops of `red` and `vred` (spec/02 R34). -/
def redSubop (o : SY) : Option Reject :=
  need (decide (o.subop.toNat ≤ 7 ∨ o.subop.toNat = 10)) .subopValue

/-- `red` (spec/05 R97, R102). -/
def checkRed (o : SY) : Option Reject :=
  allOf [mbz o.sd, scopeUnused o.scope, redSubop o,
    need (decide ((o.imm.extractLsb' 22 2).toNat ≤ 1)) .fieldValue,
    need (o.subop.toNat != 10 || o.imm.extractLsb' 22 2 == 0) .fieldValue,
    mbz (o.imm.extractLsb' 11 10)]

/-- `vred` (spec/05 R97, R102). -/
def checkVred (o : SY) : Option Reject :=
  allOf [mbz o.sd, mbz o.sb, scopeUnused o.scope, redSubop o,
    need (o.imm.extractLsb' 22 2 == 0) .fieldValue, srcS (o.imm.extractLsb' 15 6)]

/-- The bits of imm14 outside a mask must be zero (spec/02 R25). -/
def immOnly (o : VX) (mask : Nat) : Option Reject :=
  need (o.imm &&& ~~~(BitVec.ofNat 14 mask) == 0) .mustBeZero

/-- A VX word of two sources and a destination. -/
def checkVX2 (ty : Ty → Bool) (mask : Nat) (o : VX) : Option Reject :=
  allOf [need (ty o.ty) .typeCode, dstC o.vd, srcC o.va, srcC o.vb, mbz o.vc, immOnly o mask]

/-- A VX word of one source and a destination. -/
def checkVX1 (ty : Ty → Bool) (mask : Nat) (o : VX) : Option Reject :=
  allOf [need (ty o.ty) .typeCode, dstC o.vd, srcC o.va, mbz o.vb, mbz o.vc, immOnly o mask]

/-- The signed 8-, 16- and 32-bit types: codes 0, 2, 4 (spec/08 R155). -/
def tySInt : Ty → Bool
  | .s8 | .s16 | .s32 => true
  | _ => false

/-- The 8- and 16-bit integers: codes 0 to 3 (spec/08 R157). -/
def tyInt03 : Ty → Bool
  | .s8 | .n8 | .s16 | .n16 => true
  | _ => false

/-- Any type code. -/
def tyAny : Ty → Bool := fun _ => true

/-- `vmla`: vd is a register (spec/08 R155). -/
def checkVmla (o : VX) : Option Reject :=
  allOf [need (tyInt05 o.ty) .typeCode, onlyV o.vd, srcC o.va, srcC o.vb, mbz o.vc, immOnly o 0x1000]

/-- A shift: register form or immediate form (spec/08 R156, R164). -/
def checkVshift (sat : Bool) (o : VX) : Option Reject :=
  if o.imm.getLsbD 13 then
    allOf [need (tyInt05 o.ty) .typeCode, dstC o.vd, srcC o.va, mbz o.vb, mbz o.vc,
      immOnly o (if sat then 0x303F else 0x203F)]
  else checkVX2 tyInt05 (if sat then 0x1000 else 0) o

/-- `vmul.w` and `vmla.w` (spec/08 R157). -/
def checkVmulW (mask : Nat) (o : VX) : Option Reject :=
  allOf [need (tyInt03 o.ty) .typeCode, groupV (tyK o.ty) o.vd, srcC o.va, srcC o.vb, mbz o.vc,
    immOnly o mask]

/-- `vdot4` (spec/08 R158, R164). -/
def checkVdot4 (o : VX) : Option Reject :=
  allOf [need (o.ty == .s8 || o.ty == .n8) .typeCode, onlyV o.vd, srcC o.va, srcC o.vb, mbz o.vc,
    need (decide ((o.imm.extractLsb' 0 4).toNat ≤ 1)) .typeCode, immOnly o 0x100F]

/-- `vcmp` (spec/08 R159, R164). -/
def checkVcmp (o : VX) : Option Reject :=
  allOf [need (tyInt05 o.ty) .typeCode, dstP o.vd, srcC o.va, srcC o.vb, mbz o.vc, immOnly o 7,
    need (decide ((o.imm.extractLsb' 0 3).toNat ≤ 5)) .fieldValue]

/-- A VPRED word of two sources (spec/08 R161). -/
def checkPred2 (o : VX) : Option Reject :=
  allOf [dstP o.vd, srcP o.va, srcP o.vb, mbz o.vc, mbz o.imm]

/-- A VPRED word of one source (spec/08 R161). -/
def checkPred1 (o : VX) : Option Reject :=
  allOf [dstP o.vd, srcP o.va, mbz o.vb, mbz o.vc, mbz o.imm]

/-- `ptest` (spec/08 R162, R164). -/
def checkPtest (o : VX) : Option Reject :=
  allOf [need (decide (o.vd.toNat ≤ 3)) .fieldValue, srcP o.va, mbz o.vb, mbz o.vc, mbz o.imm]

/-- `vli` and `viota` (spec/08 R163). -/
def checkVimm (ty : Ty → Bool) (o : VX) : Option Reject :=
  allOf [need (ty o.ty) .typeCode, dstC o.vd, mbz o.va, mbz o.vb, mbz o.vc]

/-- Codes 0 to 7 (spec/08 R163). -/
def tyInt07 (t : Ty) : Bool := tyInt t

/-- `vdup` (spec/08 R163). -/
def checkVdup (o : VX) : Option Reject :=
  allOf [dstC o.vd, mbz o.va, mbz o.vb, mbz o.vc, immOnly o 0x1F]

/-- `vclr` (spec/08 R163). -/
def checkVclr (o : VX) : Option Reject :=
  allOf [dstC o.vd, mbz o.va, mbz o.vb, mbz o.vc, mbz o.imm]

/-- `vfma` and `vfnma` (spec/09 R166). -/
def checkVfma (o : VX) : Option Reject :=
  allOf [need (tyVfp o.ty) .typeCode, dstC o.vd, srcC o.va, srcC o.vb, srcC o.vc, immOnly o 0x1000]

/-- `vfcmp` (spec/09 R173, R184). -/
def checkVfcmp (o : VX) : Option Reject :=
  allOf [need (tyVfp o.ty) .typeCode, dstP o.vd, srcC o.va, srcC o.vb, mbz o.vc, immOnly o 7]

/-- The source type of a conversion, imm14[3:0] (spec/09 R175). -/
def cvtSrc (o : VX) : Ty := tyOfCode (o.imm.extractLsb' 0 4)

/-- `vcvt` (spec/09 R175, R184). -/
def checkVcvt (o : VX) : Option Reject :=
  allOf [need (o.ty != .b && cvtSrc o != .b) .typeCode,
    need (o.ty != cvtSrc o && tyWidth o.ty == tyWidth (cvtSrc o)) .typeCode,
    dstC o.vd, srcC o.va, mbz o.vb, mbz o.vc, immOnly o 0x100F]

/-- The factor of two widths when it is 2 or 4. -/
def ratioOk (big small : Nat) : Bool := big == 2 * small || big == 4 * small

/-- `vnarrow` (spec/09 R176, R184). -/
def checkVnarrow (o : VX) : Option Reject :=
  allOf [need (o.ty != .b && cvtSrc o != .b) .typeCode,
    need (ratioOk (tyWidth (cvtSrc o)) (tyWidth o.ty)) .typeCode,
    dstC o.vd, groupV (tyWidth (cvtSrc o) / tyWidth o.ty) o.va, mbz o.vb, mbz o.vc, immOnly o 0x100F]

/-- `vwiden` (spec/09 R176, R184). -/
def checkVwiden (o : VX) : Option Reject :=
  allOf [need (o.ty != .b && cvtSrc o != .b) .typeCode,
    need (ratioOk (tyWidth o.ty) (tyWidth (cvtSrc o))) .typeCode,
    groupV (tyWidth o.ty / tyWidth (cvtSrc o)) o.vd, srcC o.va, mbz o.vb, mbz o.vc, immOnly o 0x100F]

/-- A source group of `vrqs`, which may be a queue when k = 1 (spec/09 R177). -/
def groupOrQueue (k : Nat) (c : BitVec 6) : Option Reject := if k = 1 then srcC c else groupV k c

/-- `vrqs` (spec/09 R177). -/
def checkVrqs (o : VX) : Option Reject :=
  allOf [need (tyInt05 o.ty) .typeCode, dstC o.vd, groupOrQueue (tyK o.ty) o.va,
    groupOrQueue (tyK o.ty) o.vb, groupOrQueue (tyK o.ty) o.vc, mbz o.imm]

/-- The types of `vperm`: codes 0 to 5, 8 to 12, 14, 15 (spec/09 R166). -/
def tyPerm : Ty → Bool := tyNot4

/-- `vslideup` and `vslidedn` (spec/09 R179, R184). -/
def checkSlide (o : VX) : Option Reject :=
  allOf [dstC o.vd, srcC o.va, srcC o.vb, mbz o.vc, immOnly o 0x7FF,
    need (decide ((o.imm.extractLsb' 0 11).toNat ≤ tyCount o.ty)) .fieldValue]

/-- `vzip` (spec/09 R180, R184). -/
def checkVzip (o : VX) : Option Reject :=
  allOf [mbz o.pred, groupV 2 o.vd, srcC o.va, srcC o.vb, mbz o.vc, mbz o.imm]

/-- `vunzip` (spec/09 R180, R184). -/
def checkVunzip (o : VX) : Option Reject :=
  allOf [mbz o.pred, groupV 2 o.vd, groupV 2 o.va, mbz o.vb, mbz o.vc, mbz o.imm]

/-- `vbcast` (spec/09 R181, R184). -/
def checkVbcast (o : VX) : Option Reject :=
  allOf [dstC o.vd, srcC o.va, mbz o.vb, mbz o.vc, immOnly o 0x3FF,
    need (decide ((o.imm.extractLsb' 0 10).toNat < tyCount o.ty)) .fieldValue]

/-- The types of the reductions: codes 0 to 5 and 8 to 12 (spec/09 R166). -/
def tyRed (t : Ty) : Bool := tyInt05 t || tyVfp t

/-- The types of `vscan`: codes 0 to 5 and 10 (spec/09 R166). -/
def tyScan (t : Ty) : Bool := tyInt05 t || t == .f32

/-- The operand class of a matrix type: the width of its element, or none (spec/10 R186). -/
def matClass : Ty → Option Nat
  | .s4 | .n4 | .e2m1 => some 4
  | .s8 | .n8 | .e4m3 | .e5m2 => some 8
  | .s16 | .n16 | .bf16 | .f16 => some 16
  | _ => none

/-- The first row of a MAT word, flags[12:7] (spec/02 R25). -/
def matFirst (o : MX) : Nat := (o.flags.extractLsb' 7 6).toNat

/-- The row count of a MAT word, shape[1:0] + 1 (spec/02 R25). -/
def matRows (o : MX) : Nat := (o.shape.extractLsb' 0 2).toNat + 1

/-- A tile operand that is not reserved. -/
def tileOk (z : ZOp) : Option Reject :=
  match z with
  | .rsv _ => some .reservedOperand
  | _ => none

/-- The bits of flags outside a mask must be zero (spec/02 R25). -/
def flagsOnly (o : MX) (mask : Nat) : Option Reject :=
  need (o.flags &&& ~~~(BitVec.ofNat 13 mask) == 0) .mustBeZero

/-- `mma` (spec/10 R186, R205). -/
def checkMma (o : MX) : Option Reject :=
  allOf [need ((matClass o.aty).isSome && matClass o.aty == matClass o.bty) .typeCode, tileOk o.z,
    mbz o.v, mbz o.v2, mbz o.sd, flagsOnly o 0x6F,
    need (!o.flags.getLsbD 3 || tyFloat o.aty || tyFloat o.bty) .fieldValue,
    need (!o.flags.getLsbD 0 || (tyInt o.aty && tyInt o.bty)) .fieldValue,
    need (!o.flags.getLsbD 1 || tyInt o.aty) .fieldValue]

/-- The type fields of a MAT word that uses none. -/
def tysZero (o : MX) : Option Reject := allOf [mbz (tyCode o.aty), mbz (tyCode o.bty)]

/-- `mzero` (spec/10 R197). -/
def checkMzero (o : MX) : Option Reject :=
  allOf [mbz o.shape, tysZero o, tileOk o.z, mbz o.v, mbz o.v2, mbz o.sd, mbz o.flags]

/-- first + rows at most 64, and shape[4:2] zero (spec/02 R25). -/
def matRowsOk (o : MX) : Option Reject :=
  allOf [mbz (o.shape.extractLsb' 2 3), need (decide (matFirst o + matRows o ≤ 64)) .rowRange]

/-- A register group of n registers, or for one register a queue that `q` allows (spec/10 R198). -/
def matGroup (n : Nat) (q : BitVec 6 → Option Reject) (c : BitVec 6) : Option Reject :=
  if n = 1 then q c else groupV (if n = 2 then 2 else 4) c

/-- `mwr` (spec/10 R197, R198). -/
def checkMwr (o : MX) : Option Reject :=
  allOf [matRowsOk o, tysZero o, tileOk o.z, matGroup (matRows o) srcC o.v, mbz o.v2, mbz o.sd,
    flagsOnly o 0x1F80]

/-- `mrd` (spec/10 R197, R202, R205). -/
def checkMrd (o : MX) : Option Reject :=
  allOf [matRowsOk o, tysZero o, tileOk o.z, matGroup (matRows o) dstC o.v,
    need (decide (o.v2.toNat ≤ 15)) .reservedOperand, flagsOnly o 0x1F82,
    need (!o.flags.getLsbD 1 || (matFirst o == 0 && matRows o == 1 && o.v2 == 0)) .mustBeZero]

/-- The number of destination registers of `mdrain` (spec/10 R198, R203). -/
def drainRegs (o : MX) : Nat :=
  if o.flags.getLsbD 4 then (matRows o * 128 * tyWidth o.aty + 4095) / 4096 else matRows o

/-- `mdrain` (spec/10 R197, R198, R203, R205). -/
def checkMdrain (o : MX) : Option Reject :=
  allOf [matRowsOk o, mbz (tyCode o.bty), tileOk o.z, mbz o.sd, flagsOnly o 0x1F90,
    if o.flags.getLsbD 4 then
      allOf [need (tyInt03 o.aty) .typeCode, groupV 2 o.v2]
    else allOf [mbz (tyCode o.aty), mbz o.v2],
    matGroup (drainRegs o) dstC o.v]

/-- `ld.v` to a register or qv (spec/06 R118). -/
def checkLdVReg (o : MM) : Option Reject := allOf [dstL o.v, mbz o.sb, mbz o.vi]

/-- `ld.v` to qa (spec/06 R118). -/
def checkLdVQa (o : MM) : Option Reject := need (tyLatch o.ty || o.ty == .b) .typeCode

/-- `ld.v` to qb: the row of B must fit the pitch (spec/06 R115, R118). -/
def checkLdVQb (o : MM) : Option Reject :=
  allOf [need (tyLatch o.ty) .typeCode, mbz (o.vi.extractLsb' 2 4),
    need (decide (128 * tyWidth o.ty / 8 ≤ 8192 / qbK (o.vi.extractLsb' 0 2).toNat)) .typeCode]

/-- `ld.v` (spec/06 R118). -/
def checkLdV (o : MM) : Option Reject :=
  match vop o.v with
  | .qa => checkLdVQa o
  | .qb => checkLdVQb o
  | _ => checkLdVReg o

/-- `ld.vs` (spec/06 R118). -/
def checkLdVs (o : MM) : Option Reject := allOf [need (tyNot4 o.ty) .typeCode, dstL o.v, mbz o.vi]

/-- `ld.vx` (spec/06 R118). -/
def checkLdVx (o : MM) : Option Reject :=
  allOf [need (tyNot4 o.ty) .typeCode, dstL o.v, mbz o.sb, indexGroup o.ty o.vi]

/-- `ld.bc` (spec/06 R118). -/
def checkLdBc (o : MM) : Option Reject :=
  allOf [need (tyNot4 o.ty) .typeCode, dstL o.v, mbz o.sb, mbz o.vi]

/-- `ld.qsc` (spec/06 R118). -/
def checkLdQsc (o : MM) : Option Reject :=
  allOf [need (o.ty == .e8m0) .typeCode, mbz o.pred, mbz o.sb, mbz o.vi,
    match vop o.v with
    | .qa | .qb => none
    | .rsv _ => some .reservedOperand
    | _ => some .queueUse]

/-- `lds` and `sts`: v names a scalar register (spec/06 R118, spec/11 R221). -/
def checkScalarMem (o : MM) : Option Reject :=
  allOf [need (tyScalar o.ty) .typeCode, mbz o.pred, mbz (o.v.extractLsb' 5 1), mbz o.sb, mbz o.vi]

/-- `gat.a` (spec/06 R118, R126). -/
def checkGatA (o : MM) : Option Reject :=
  allOf [need (tyLatch o.ty || o.ty == .b) .typeCode,
    match vop o.v with
    | .qa => none
    | .rsv _ => some .reservedOperand
    | _ => some .queueUse,
    onlyV o.vi]

/-- `st.v` (spec/11 R216). -/
def checkStV (o : MM) : Option Reject := allOf [srcS o.v, mbz o.sb, mbz o.vi]

/-- `st.vs` (spec/11 R216). -/
def checkStVs (o : MM) : Option Reject := allOf [need (tyNot4 o.ty) .typeCode, srcS o.v, mbz o.vi]

/-- `st.vx` (spec/11 R216). -/
def checkStVx (o : MM) : Option Reject :=
  allOf [need (tyNot4 o.ty) .typeCode, srcS o.v, mbz o.sb, indexGroup o.ty o.vi]

/-- act[4] zero and act[3:2] 0 or 1 (spec/02 R35). -/
def modeOk (o : E) : Option Reject := need (decide (o.mode.toNat ≤ 1)) .actValue

/-- `eset` (spec/04 R84). -/
def checkEset (o : E) : Option Reject := allOf [modeOk o, need (o.fsel != 63) .fieldValue]

/-- `efire` (spec/04 R84). -/
def checkEfire (o : E) : Option Reject :=
  allOf [modeOk o, if o.fsel = 63 then allOf [mbz o.sa, mbz o.val, mbz o.mode] else none]

/-- `eclr` (spec/04 R84). -/
def checkEclr (o : E) : Option Reject :=
  allOf [modeOk o, mbz o.fsel, mbz o.sa, mbz o.val, mbz o.mode]

/-- The first codebook of a `cbload` (spec/04 R78). -/
def cbFirst (o : E) : Nat := (o.fsel.extractLsb' 0 1).toNat * 64 + o.tmpl.toNat

/-- The number of codebooks of a `cbload` (spec/04 R78). -/
def cbCount (o : E) : Nat := (o.fsel.extractLsb' 1 5).toNat + 1

/-- `cbload` (spec/04 R84). -/
def checkCbload (o : E) : Option Reject :=
  allOf [modeOk o, mbz o.mode, need (decide (cbFirst o + cbCount o ≤ 128)) .fieldValue]

/-- Why an instruction is not well formed, if it is not (spec/02 R37 at either level). -/
def checkInstr : Instr → Option Reject
  | .add o | .sub o | .mul o | .mulhS o | .mulhN o | .divS o | .divN o | .remS o | .remN o
  | .minS o | .minN o | .maxS o | .maxN o | .and o | .or o | .xor o | .andn o | .shl o | .shrN o
  | .shrS o | .rot o | .sltS o | .sltN o | .seq o | .sne o => checkSR3 o
  | .clz o | .ctz o | .popc o | .sextB o | .sextH o | .sextW o | .zextB o | .zextH o
  | .zextW o => checkSR2 o
  | .addi _ | .andi _ | .ori _ | .xori _ | .sltiS _ | .sltiN _ => none
  | .shli o | .shriN o | .shriS o => checkShiftI o
  | .li o | .adr o => mbz o.sa
  | .lih o => mbz (o.imm.extractLsb' 28 8)
  | .beq _ | .bne _ | .bltS _ | .bgeS _ | .bltN _ | .bgeN _ => none
  | .j o => allOf [mbz o.sd, mbz o.sa]
  | .jal o => mbz o.sa
  | .jr o => allOf [mbz o.sd, mbz o.off]
  | .jalr o => mbz o.off
  | .loop o => checkLoop o
  | .loopT o => checkLoopT o
  | .endloop o => checkEndloop o
  | .brkloop o => checkBrkloop o
  | .lidx o => checkLidx o
  | .bfAny o | .bfNany o | .bfAll o | .bfNall o => checkFB0 o
  | .bfCeq o | .bfCne o | .bfCge o | .bfClt o => checkFB1 o
  | .fcnt o => checkFcnt o
  | .csrr o => checkCsr o true false
  | .csrw o => checkCsr o false true
  | .csrs o | .csrc o => checkCsr o true true
  | .nop o | .commit o | .ebreak o | .rett o | .done o => checkSX0 o
  | .guardMax o | .guardSsq o => checkGuard o
  | .trapi o => checkTrapi o
  | .fence o => checkFence o
  | .ldV o => checkLdV o
  | .ldVs o => checkLdVs o
  | .ldVx o => checkLdVx o
  | .ldBc o => checkLdBc o
  | .ldQsc o => checkLdQsc o
  | .lds o => checkScalarMem o
  | .gatA o => checkGatA o
  | .acq o => checkSync o false true false true
  | .waitw o => checkWaitw o
  | .ringwf o => checkSync o false true true true
  | .ringfree o => checkSync o false true false false
  | .tlwait o => checkSync o false true true true
  | .eset o | .esetS o => checkEset o
  | .efire o | .efireS o => checkEfire o
  | .eclr o | .eclrS o => checkEclr o
  | .cbload o | .cbloadS o => checkCbload o
  | .kwaitL o | .ksigL o | .kwaitC o | .ksigC o | .kwaitS o | .ksigS o => checkKtok o
  | .vadd o | .vsub o | .vaddSat o | .vsubSat o | .vmulh o | .vmin o | .vmax o | .vand o | .vor o
  | .vxor o | .vandn o | .vavg o => checkVX2 tyInt05 0 o
  | .vmul o => checkVX2 tyInt05 0x1000 o
  | .vmla o => checkVmla o
  | .vmlaW o => checkVmulW 0x1000 o
  | .vmulW o => checkVmulW 0 o
  | .vabs o => checkVX1 tySInt 0x1000 o
  | .vneg o => checkVX1 tyInt05 0x1000 o
  | .vshl o => checkVshift true o
  | .vshr o | .vrshr o => checkVshift false o
  | .vclz o | .vpopc o => checkVX1 tyInt05 0 o
  | .vcmp o => checkVcmp o
  | .vsel o => checkVX2 tyAny 0 o
  | .vdot4 o => checkVdot4 o
  | .vfadd o | .vfsub o | .vfmul o => checkVX2 tyVfp 0x1000 o
  | .vfma o | .vfnma o => checkVfma o
  | .vfmin o | .vfmax o => checkVX2 tyVfp 0 o
  | .vfabs o | .vfneg o => checkVX1 tyVfp 0 o
  | .vfcmp o => checkVfcmp o
  | .vfrcp o | .vfrsq o | .vfsqrt o | .vfexp2 o | .vflog2 o | .vftanh o | .vfsig o
  | .vfclass o => checkVX1 tySpecial 0 o
  | .vcvt o => checkVcvt o
  | .vnarrow o => checkVnarrow o
  | .vwiden o => checkVwiden o
  | .vrqs o => checkVrqs o
  | .vperm o => checkVX2 tyPerm 0x3FF o
  | .vslideup o | .vslidedn o => checkSlide o
  | .vzip o => checkVzip o
  | .vunzip o => checkVunzip o
  | .vbcast o => checkVbcast o
  | .vredsum o | .vredmax o | .vredmin o => checkVX2 tyRed 0x1000 o
  | .vscan o => checkVX2 tyScan 0x1000 o
  | .pand o | .por o | .pxor o | .pandn o => checkPred2 o
  | .pnot o | .pfirst o | .pmov o => checkPred1 o
  | .ptest o => checkPtest o
  | .vmov o => checkVX1 tyAny 0 o
  | .vli o => checkVimm tyInt07 o
  | .viota o => checkVimm tyInt05 o
  | .vdup o => checkVdup o
  | .vclr o => checkVclr o
  | .mma o => checkMma o
  | .mzero o => checkMzero o
  | .mwr o => checkMwr o
  | .mrd o => checkMrd o
  | .mdrain o => checkMdrain o
  | .stV o => checkStV o
  | .stVs o => checkStVs o
  | .stVx o => checkStVx o
  | .sts o => checkScalarMem o
  | .rel o => checkSync o false true false true
  | .ringwe o => checkSync o true true false false
  | .ringpub o => checkSync o false true false true
  | .setw o => checkSetw o
  | .tlsig o => checkSync o false true true true
  | .amo o => checkAmo o
  | .red o => checkRed o
  | .vred o => checkVred o
  | .tpost o => checkTpost o
  | .tjoin o => checkSync o false true false true
  | .grais o => checkSync o true false true false
  | .engineCommandStart _ | .engineCommandComplete _ _ | .arrivalWordWrite _ _ | .regionRetire _
  | .regionOverrun _ | .detectedError _ | .checksumCompare _ _ _ | .trapEntry _ | .pageWalk _ _ _
  | .pageFault _ | .pageRequestWrite _ | .preemptRequest _ | .evict _ | .restore _ | .bankSwitch _
  | .gangForm _ | .gangStart _ | .taskPop _ | .taskRefill _ | .weirDrain _ _ | .postedAck _ _
  | .reductionApply _ | .deferredEffectApply _ _ | .joinPostRetry _ | .waiterWake _ | .waitwPoll _
  | .waitwTimeout _ | .icacheRefill _ _ | .turnoutWrite _ | .turnoutRead _ | .bar2Access _
  | .outboundReadTimeout _ | .notifyWrite _ | .packetFetch _ | .packetPoll _ | .launch _
  | .graph _ | .signal _ | .waitTl _ | .waitMem _ | .waitMemReread _ | .waitMemTimeout _
  | .write _ | .fencePacket _ | .inval _ | .invalComplete _ | .pageResp _ | .patch _
  | .patchQuiesce _ | .attest _ | .queueCfgWrite _ | .queueCfgEnable _ | .queueCfgDisable _
  | .queueCfgReset _ | .opCard _ | .cond _ | .loopn _ | .signalCard _ | .waitCard _
  | .waitCardTimeout _ | .join _ | .endCard _ | .operatorComplete _ | .memcfgWrite _
  | .toctlWrite _ _ | .qctlWrite _ _ | .tqctlWrite _ _ | .registerWrite _ _ | .ownctlClaim _
  | .ownctlRelease _ | .ownctlHandover _ _ | .ownctlCandidate _ _ | .ownhbWrite _
  | .heartbeatExpiry | .handoverTimeout | .fullReset _ | .functionLevelReset _
  | .dramTrainingDone _ | .bootctlGo _ | .measextGo _ | .failoverTrigger _ | .foctlGo _
  | .adoption | .islandWatchdogExpiry _ | .cascopWrite _ _ | .operatingPointStep _ | .clockHop _
  | .clockHoldEnd _ | .balanceEval _ _ | .droopDetect _ _ | .droopRelease _ | .powerLimitEval _
  | .thermalLimit _ _ | .thermtrip _ | .pcSample _ | .resizableBarWrite _ | .islandHealthLoss _ _ => none

/-- The tile that a MAT word names. -/
def levelTile (sys : Bool) (z : ZOp) : Option Reject :=
  match z with
  | .z _ => if sys then some .reservedOperand else none
  | .zt _ => if sys then none else some .privileged
  | .rsv _ => some .reservedOperand

/-- The access of a CSR word at a level (spec/02 R37, spec/12 R240). -/
def levelCsr (sys : Bool) (wr : Bool) (o : SI) : Option Reject :=
  match csrOf (csrNum o) with
  | none => some .csrNumber
  | some r =>
    match csrAccess r sys with
    | .none => some .privileged
    | .ro => if wr then some .csrNumber else none
    | .rw => none

/-- What the privilege level adds to the checks of R37: the lower cause wins, so these come after
`checkInstr`. -/
def levelCheck (sys : Bool) : Instr → Option Reject
  | .csrr o => levelCsr sys false o
  | .csrw o | .csrs o | .csrc o => levelCsr sys true o
  | .rett _ => if sys then none else some .privileged
  | .mma o | .mzero o | .mwr o | .mrd o | .mdrain o => levelTile sys o.z
  | _ => none

end Machine

end Sys2Proof
end

