-- ==== Sys2Proof/WellFormed.lean ====
section
/-! DEFINITION. Which instructions are well formed: the checks of Machine/Legal, by name. -/

namespace Sys2Proof

/-- An instruction is well formed when no check of spec/02 R37 refuses it at either level. -/
def Instr.wellFormed (i : Instr) : Bool := (Machine.checkInstr i).isNone

end Sys2Proof
end

