-- ==== Sys2Proof/Decode.lean ====
section
/-! DEFINITION. From words to instructions and back (spec/02 R21 to R37): the decoder, total on any
word and any bytes, and after it the encoder, both from the format table of R24 and the opcode map
of R36. -/

namespace Sys2Proof

open Machine

/-- The token field tok[57:54]: wp, wn, sp, sn from bit 57 down (spec/02 R26). -/
def getTok (w : Word) : Tok := ⟨w.getLsbD 57, w.getLsbD 56, w.getLsbD 55, w.getLsbD 54⟩

/-- Format SR (spec/02 R24). -/
def getSR (w : Word) : SR := ⟨w.extractLsb' 41 5, w.extractLsb' 36 5, w.extractLsb' 31 5⟩

/-- Format SI (spec/02 R24). -/
def getSI (w : Word) : SI := ⟨w.extractLsb' 41 5, w.extractLsb' 36 5, w.extractLsb' 0 36⟩

/-- Format SB (spec/02 R24). -/
def getSB (w : Word) : SB := ⟨w.extractLsb' 41 5, w.extractLsb' 36 5, w.extractLsb' 0 36⟩

/-- Format SJ (spec/02 R24). -/
def getSJ (w : Word) : SJ := ⟨w.extractLsb' 41 5, w.extractLsb' 36 5, w.extractLsb' 0 36⟩

/-- Format SL (spec/02 R24). -/
def getSL (w : Word) : SL :=
  ⟨w.extractLsb' 41 5, w.extractLsb' 35 6, w.extractLsb' 32 3, w.extractLsb' 29 3,
    w.extractLsb' 0 29⟩

/-- Format FB (spec/02 R24). -/
def getFB (w : Word) : FB :=
  ⟨w.extractLsb' 41 5, w.extractLsb' 36 5, w.extractLsb' 34 2, w.extractLsb' 0 34⟩

/-- Format SX (spec/02 R24). -/
def getSX (w : Word) : SX := ⟨w.extractLsb' 40 6, w.extractLsb' 36 4, w.extractLsb' 0 36⟩

/-- Format SY (spec/02 R24). -/
def getSY (w : Word) : SY :=
  ⟨getTok w, w.extractLsb' 41 5, w.extractLsb' 36 5, w.extractLsb' 31 5,
    scopeOf (w.extractLsb' 28 3), w.extractLsb' 24 4, w.extractLsb' 0 24⟩

/-- Format VX (spec/02 R24). -/
def getVX (w : Word) : VX :=
  ⟨getTok w, tyOfCode (w.extractLsb' 42 4), w.extractLsb' 38 4, w.extractLsb' 32 6,
    w.extractLsb' 26 6, w.extractLsb' 20 6, w.extractLsb' 14 6, w.extractLsb' 0 14⟩

/-- Format MX (spec/02 R24). -/
def getMX (w : Word) : MX :=
  ⟨getTok w, w.extractLsb' 41 5, tyOfCode (w.extractLsb' 37 4), tyOfCode (w.extractLsb' 33 4),
    zop (w.extractLsb' 30 3), w.extractLsb' 24 6, w.extractLsb' 18 6, w.extractLsb' 13 5,
    w.extractLsb' 0 13⟩

/-- Format MM (spec/02 R24). -/
def getMM (w : Word) : MM :=
  ⟨getTok w, tyOfCode (w.extractLsb' 42 4), w.extractLsb' 38 4, w.extractLsb' 32 6,
    w.extractLsb' 27 5, w.extractLsb' 22 5, w.extractLsb' 16 6, w.extractLsb' 0 16⟩

/-- Format E (spec/02 R24); act[1:0] is read by the decoder of the major. -/
def getE (w : Word) : E :=
  ⟨getTok w, w.extractLsb' 48 6, w.extractLsb' 42 6, w.extractLsb' 37 5, w.extractLsb' 33 4,
    w.extractLsb' 29 4, w.extractLsb' 25 4, w.extractLsb' 21 4, w.extractLsb' 18 3,
    w.extractLsb' 0 16⟩

/-- An F major: tok must be zero (spec/02 R24, R37). -/
def front (w : Word) (r : Except Reject Instr) : Except Reject Instr :=
  if w.extractLsb' 54 4 != 0 then .error .tokNonzero else r

/-- Major 0x01 (spec/02 R36). -/
def decodeAlu (fn : Nat) (w : Word) : Except Reject Instr :=
  let o := getSR w
  if w.extractLsb' 0 31 != 0 then .error .mustBeZero else
  match fn with
  | 0 => .ok (.add o)
  | 1 => .ok (.sub o)
  | 2 => .ok (.mul o)
  | 3 => .ok (.mulhS o)
  | 4 => .ok (.mulhN o)
  | 5 => .ok (.divS o)
  | 6 => .ok (.divN o)
  | 7 => .ok (.remS o)
  | 8 => .ok (.remN o)
  | 9 => .ok (.minS o)
  | 10 => .ok (.minN o)
  | 11 => .ok (.maxS o)
  | 12 => .ok (.maxN o)
  | 13 => .ok (.and o)
  | 14 => .ok (.or o)
  | 15 => .ok (.xor o)
  | 16 => .ok (.andn o)
  | 17 => .ok (.shl o)
  | 18 => .ok (.shrN o)
  | 19 => .ok (.shrS o)
  | 20 => .ok (.rot o)
  | 21 => .ok (.sltS o)
  | 22 => .ok (.sltN o)
  | 23 => .ok (.seq o)
  | 24 => .ok (.sne o)
  | 25 => .ok (.clz o)
  | 26 => .ok (.ctz o)
  | 27 => .ok (.popc o)
  | 28 => .ok (.sextB o)
  | 29 => .ok (.sextH o)
  | 30 => .ok (.sextW o)
  | 31 => .ok (.zextB o)
  | 32 => .ok (.zextH o)
  | 33 => .ok (.zextW o)
  | _ => .error .reservedFn

/-- Major 0x02 (spec/02 R36). -/
def decodeAlui (fn : Nat) (w : Word) : Except Reject Instr :=
  let o := getSI w
  match fn with
  | 0 => .ok (.addi o)
  | 1 => .ok (.andi o)
  | 2 => .ok (.ori o)
  | 3 => .ok (.xori o)
  | 4 => .ok (.shli o)
  | 5 => .ok (.shriN o)
  | 6 => .ok (.shriS o)
  | 7 => .ok (.sltiS o)
  | 8 => .ok (.sltiN o)
  | 9 => .ok (.li o)
  | 10 => .ok (.lih o)
  | 11 => .ok (.adr o)
  | _ => .error .reservedFn

/-- Major 0x03 (spec/02 R36). -/
def decodeBr (fn : Nat) (w : Word) : Except Reject Instr :=
  let o := getSB w
  match fn with
  | 0 => .ok (.beq o)
  | 1 => .ok (.bne o)
  | 2 => .ok (.bltS o)
  | 3 => .ok (.bgeS o)
  | 4 => .ok (.bltN o)
  | 5 => .ok (.bgeN o)
  | _ => .error .reservedFn

/-- Major 0x04 (spec/02 R36). -/
def decodeJmp (fn : Nat) (w : Word) : Except Reject Instr :=
  let o := getSJ w
  match fn with
  | 0 => .ok (.j o)
  | 1 => .ok (.jal o)
  | 2 => .ok (.jr o)
  | 3 => .ok (.jalr o)
  | _ => .error .reservedFn

/-- Major 0x05 (spec/02 R36). -/
def decodeLoop (fn : Nat) (w : Word) : Except Reject Instr :=
  let o := getSL w
  match fn with
  | 0 => .ok (.loop o)
  | 1 => .ok (.loopT o)
  | 2 => .ok (.endloop o)
  | 3 => .ok (.brkloop o)
  | 4 => .ok (.lidx o)
  | _ => .error .reservedFn

/-- Major 0x06 (spec/02 R36). -/
def decodeFbr (fn : Nat) (w : Word) : Except Reject Instr :=
  let o := getFB w
  match fn with
  | 0 => .ok (.bfAny o)
  | 1 => .ok (.bfNany o)
  | 2 => .ok (.bfAll o)
  | 3 => .ok (.bfNall o)
  | 4 => .ok (.bfCeq o)
  | 5 => .ok (.bfCne o)
  | 6 => .ok (.bfCge o)
  | 7 => .ok (.bfClt o)
  | 8 => .ok (.fcnt o)
  | _ => .error .reservedFn

/-- Major 0x07 (spec/02 R36). -/
def decodeCsr (fn : Nat) (w : Word) : Except Reject Instr :=
  let o := getSI w
  match fn with
  | 0 => .ok (.csrr o)
  | 1 => .ok (.csrw o)
  | 2 => .ok (.csrs o)
  | 3 => .ok (.csrc o)
  | _ => .error .reservedFn

/-- Major 0x08 (spec/02 R36). -/
def decodeSys (fn : Nat) (w : Word) : Except Reject Instr :=
  let o := getSX w
  match fn with
  | 0 => .ok (.nop o)
  | 1 => .ok (.commit o)
  | 2 => .ok (.guardMax o)
  | 3 => .ok (.guardSsq o)
  | 4 => .ok (.trapi o)
  | 5 => .ok (.ebreak o)
  | 6 => .ok (.rett o)
  | 7 => .ok (.done o)
  | 8 => .ok (.fence o)
  | _ => .error .reservedFn

/-- Major 0x10 (spec/02 R36). -/
def decodeLdv (fn : Nat) (w : Word) : Except Reject Instr :=
  let o := getMM w
  match fn with
  | 0 => .ok (.ldV o)
  | 1 => .ok (.ldVs o)
  | 2 => .ok (.ldVx o)
  | 3 => .ok (.ldBc o)
  | 4 => .ok (.ldQsc o)
  | _ => .error .reservedFn

/-- Major 0x11 (spec/02 R36). -/
def decodeLds (fn : Nat) (w : Word) : Except Reject Instr :=
  let o := getMM w
  match fn with
  | 0 => .ok (.lds o)
  | _ => .error .reservedFn

/-- Major 0x12 (spec/02 R36). -/
def decodeGat (fn : Nat) (w : Word) : Except Reject Instr :=
  let o := getMM w
  match fn with
  | 0 => .ok (.gatA o)
  | _ => .error .reservedFn

/-- Major 0x13 (spec/02 R36). -/
def decodeLsync (fn : Nat) (w : Word) : Except Reject Instr :=
  let o := getSY w
  match fn with
  | 0 => .ok (.acq o)
  | 1 => .ok (.waitw o)
  | 2 => .ok (.ringwf o)
  | 3 => .ok (.ringfree o)
  | 4 => .ok (.tlwait o)
  | _ => .error .reservedFn

/-- Major 0x14 (spec/02 R36). -/
def decodeEngl (w : Word) : Except Reject Instr :=
  let o := getE w
  match (w.extractLsb' 16 2).toNat with
  | 0 => .ok (.eset o)
  | 1 => .ok (.efire o)
  | 2 => .ok (.eclr o)
  | _ => .ok (.cbload o)

/-- Major 0x15 (spec/02 R36). -/
def decodeKtokl (fn : Nat) (w : Word) : Except Reject Instr :=
  let o := getSY w
  match fn with
  | 0 => .ok (.kwaitL o)
  | 1 => .ok (.ksigL o)
  | _ => .error .reservedFn

/-- Major 0x20 (spec/02 R36). -/
def decodeVint (fn : Nat) (w : Word) : Except Reject Instr :=
  let o := getVX w
  match fn with
  | 0 => .ok (.vadd o)
  | 1 => .ok (.vsub o)
  | 2 => .ok (.vaddSat o)
  | 3 => .ok (.vsubSat o)
  | 4 => .ok (.vmul o)
  | 5 => .ok (.vmulh o)
  | 6 => .ok (.vmla o)
  | 7 => .ok (.vmlaW o)
  | 8 => .ok (.vmulW o)
  | 9 => .ok (.vabs o)
  | 10 => .ok (.vneg o)
  | 11 => .ok (.vmin o)
  | 12 => .ok (.vmax o)
  | 13 => .ok (.vand o)
  | 14 => .ok (.vor o)
  | 15 => .ok (.vxor o)
  | 16 => .ok (.vandn o)
  | 17 => .ok (.vshl o)
  | 18 => .ok (.vshr o)
  | 19 => .ok (.vrshr o)
  | 20 => .ok (.vclz o)
  | 21 => .ok (.vpopc o)
  | 22 => .ok (.vavg o)
  | 23 => .ok (.vcmp o)
  | 24 => .ok (.vsel o)
  | 25 => .ok (.vdot4 o)
  | _ => .error .reservedFn

/-- Major 0x21 (spec/02 R36). -/
def decodeVfp (fn : Nat) (w : Word) : Except Reject Instr :=
  let o := getVX w
  match fn with
  | 0 => .ok (.vfadd o)
  | 1 => .ok (.vfsub o)
  | 2 => .ok (.vfmul o)
  | 3 => .ok (.vfma o)
  | 4 => .ok (.vfnma o)
  | 5 => .ok (.vfmin o)
  | 6 => .ok (.vfmax o)
  | 7 => .ok (.vfabs o)
  | 8 => .ok (.vfneg o)
  | 9 => .ok (.vfcmp o)
  | 10 => .ok (.vfrcp o)
  | 11 => .ok (.vfrsq o)
  | 12 => .ok (.vfsqrt o)
  | 13 => .ok (.vfexp2 o)
  | 14 => .ok (.vflog2 o)
  | 15 => .ok (.vftanh o)
  | 16 => .ok (.vfsig o)
  | 17 => .ok (.vfclass o)
  | _ => .error .reservedFn

/-- Major 0x22 (spec/02 R36). -/
def decodeVcvt (fn : Nat) (w : Word) : Except Reject Instr :=
  let o := getVX w
  match fn with
  | 0 => .ok (.vcvt o)
  | 1 => .ok (.vnarrow o)
  | 2 => .ok (.vwiden o)
  | 3 => .ok (.vrqs o)
  | _ => .error .reservedFn

/-- Major 0x23 (spec/02 R36). -/
def decodeVperm (fn : Nat) (w : Word) : Except Reject Instr :=
  let o := getVX w
  match fn with
  | 0 => .ok (.vperm o)
  | 1 => .ok (.vslideup o)
  | 2 => .ok (.vslidedn o)
  | 3 => .ok (.vzip o)
  | 4 => .ok (.vunzip o)
  | 5 => .ok (.vbcast o)
  | 6 => .ok (.vredsum o)
  | 7 => .ok (.vredmax o)
  | 8 => .ok (.vredmin o)
  | 9 => .ok (.vscan o)
  | _ => .error .reservedFn

/-- Major 0x24 (spec/02 R36). -/
def decodeVpred (fn : Nat) (w : Word) : Except Reject Instr :=
  let o := getVX w
  match fn with
  | 0 => .ok (.pand o)
  | 1 => .ok (.por o)
  | 2 => .ok (.pxor o)
  | 3 => .ok (.pandn o)
  | 4 => .ok (.pnot o)
  | 5 => .ok (.pfirst o)
  | 6 => .ok (.ptest o)
  | 7 => .ok (.pmov o)
  | _ => .error .reservedFn

/-- Major 0x25 (spec/02 R36). -/
def decodeVmisc (fn : Nat) (w : Word) : Except Reject Instr :=
  let o := getVX w
  match fn with
  | 0 => .ok (.vmov o)
  | 1 => .ok (.vli o)
  | 2 => .ok (.viota o)
  | 3 => .ok (.vdup o)
  | 4 => .ok (.vclr o)
  | _ => .error .reservedFn

/-- Major 0x26 (spec/02 R36). -/
def decodeMat (fn : Nat) (w : Word) : Except Reject Instr :=
  let o := getMX w
  match fn with
  | 0 => .ok (.mma o)
  | 1 => .ok (.mzero o)
  | 2 => .ok (.mwr o)
  | 3 => .ok (.mrd o)
  | 4 => .ok (.mdrain o)
  | _ => .error .reservedFn

/-- Major 0x27 (spec/02 R36). -/
def decodeKtokc (fn : Nat) (w : Word) : Except Reject Instr :=
  let o := getSY w
  match fn with
  | 0 => .ok (.kwaitC o)
  | 1 => .ok (.ksigC o)
  | _ => .error .reservedFn

/-- Major 0x30 (spec/02 R36). -/
def decodeStv (fn : Nat) (w : Word) : Except Reject Instr :=
  let o := getMM w
  match fn with
  | 0 => .ok (.stV o)
  | 1 => .ok (.stVs o)
  | 2 => .ok (.stVx o)
  | _ => .error .reservedFn

/-- Major 0x31 (spec/02 R36). -/
def decodeSts (fn : Nat) (w : Word) : Except Reject Instr :=
  let o := getMM w
  match fn with
  | 0 => .ok (.sts o)
  | _ => .error .reservedFn

/-- Major 0x32 (spec/02 R36). -/
def decodeSsync (fn : Nat) (w : Word) : Except Reject Instr :=
  let o := getSY w
  match fn with
  | 0 => .ok (.rel o)
  | 1 => .ok (.ringwe o)
  | 2 => .ok (.ringpub o)
  | 3 => .ok (.setw o)
  | 4 => .ok (.tlsig o)
  | _ => .error .reservedFn

/-- Major 0x33 (spec/02 R36). -/
def decodeAmo (fn : Nat) (w : Word) : Except Reject Instr :=
  let o := getSY w
  match fn with
  | 0 => .ok (.amo o)
  | 1 => .ok (.red o)
  | 2 => .ok (.vred o)
  | _ => .error .reservedFn

/-- Major 0x34 (spec/02 R36). -/
def decodeTask (fn : Nat) (w : Word) : Except Reject Instr :=
  let o := getSY w
  match fn with
  | 0 => .ok (.tpost o)
  | 1 => .ok (.tjoin o)
  | 2 => .ok (.grais o)
  | _ => .error .reservedFn

/-- Major 0x35 (spec/02 R36). -/
def decodeEngs (w : Word) : Except Reject Instr :=
  let o := getE w
  match (w.extractLsb' 16 2).toNat with
  | 0 => .ok (.esetS o)
  | 1 => .ok (.efireS o)
  | 2 => .ok (.eclrS o)
  | _ => .ok (.cbloadS o)

/-- Major 0x36 (spec/02 R36). -/
def decodeKtoks (fn : Nat) (w : Word) : Except Reject Instr :=
  let o := getSY w
  match fn with
  | 0 => .ok (.kwaitS o)
  | 1 => .ok (.ksigS o)
  | _ => .error .reservedFn
/-- The instruction that a word's major and function code name (spec/02 R36), before the checks of the fields. -/
def decodeRaw (w : Word) : Except Reject Instr :=
  let fn := (w.extractLsb' 46 8).toNat
  match (w.extractLsb' 58 6).toNat with
  | 0x01 => front w (decodeAlu fn w)
  | 0x02 => front w (decodeAlui fn w)
  | 0x03 => front w (decodeBr fn w)
  | 0x04 => front w (decodeJmp fn w)
  | 0x05 => front w (decodeLoop fn w)
  | 0x06 => front w (decodeFbr fn w)
  | 0x07 => front w (decodeCsr fn w)
  | 0x08 => front w (decodeSys fn w)
  | 0x10 => decodeLdv fn w
  | 0x11 => decodeLds fn w
  | 0x12 => decodeGat fn w
  | 0x13 => decodeLsync fn w
  | 0x14 => decodeEngl w
  | 0x15 => decodeKtokl fn w
  | 0x20 => decodeVint fn w
  | 0x21 => decodeVfp fn w
  | 0x22 => decodeVcvt fn w
  | 0x23 => decodeVperm fn w
  | 0x24 => decodeVpred fn w
  | 0x25 => decodeVmisc fn w
  | 0x26 => decodeMat fn w
  | 0x27 => decodeKtokc fn w
  | 0x30 => decodeStv fn w
  | 0x31 => decodeSts fn w
  | 0x32 => decodeSsync fn w
  | 0x33 => decodeAmo fn w
  | 0x34 => decodeTask fn w
  | 0x35 => decodeEngs w
  | 0x36 => decodeKtoks fn w
  | _ => .error .reservedMajor

/-- The decoder (spec/02 R37): a legal word gives its instruction, every other word the name of a
check that it fails. What depends on the privilege level is `Machine.levelCheck`. -/
def decode (w : Word) : Except Reject Instr :=
  match decodeRaw w with
  | .error r => .error r
  | .ok i =>
    match checkInstr i with
    | some r => .error r
    | none => .ok i

/-- The word of 8 bytes, the lowest address first (spec/00 R3, spec/02 R21). -/
def wordOfBytes : List Byte → Option Word
  | [b0, b1, b2, b3, b4, b5, b6, b7] => some (b7 ++ b6 ++ b5 ++ b4 ++ b3 ++ b2 ++ b1 ++ b0)
  | _ => none

/-- Decoding from bytes: one instruction is 8 bytes, and the rest is given back. -/
def decodeBytes (bs : List Byte) : Except Reject (Instr × List Byte) :=
  match wordOfBytes (bs.take 8) with
  | none => .error .length
  | some w =>
    match decode w with
    | .error r => .error r
    | .ok i => .ok (i, bs.drop 8)

/-- The instruction of a row of the opcode table: w holds the bits, bit 0 the lowest. -/
def decodeTableWord (_nbits w : Nat) : Option Instr :=
  match decode (BitVec.ofNat 64 w) with
  | .ok i => some i
  | .error _ => none

/-- The token field as four bits. -/
def putTok (t : Tok) : BitVec 4 :=
  BitVec.ofBool t.wp ++ BitVec.ofBool t.wn ++ BitVec.ofBool t.sp ++ BitVec.ofBool t.sn

/-- A word from its major, token field, function code and the 46 bits of its format. -/
def putWord (major tok fn : Nat) (body : BitVec 46) : Word :=
  BitVec.ofNat 6 major ++ BitVec.ofNat 4 tok ++ BitVec.ofNat 8 fn ++ body

/-- Format SR. -/
def putSR (major fn : Nat) (o : SR) : Word :=
  putWord major 0 fn (o.sd ++ o.sa ++ o.sb ++ 0#31)

/-- Format SI. -/
def putSI (major fn : Nat) (o : SI) : Word := putWord major 0 fn (o.sd ++ o.sa ++ o.imm)

/-- Format SB. -/
def putSB (major fn : Nat) (o : SB) : Word := putWord major 0 fn (o.sa ++ o.sb ++ o.off)

/-- Format SJ. -/
def putSJ (major fn : Nat) (o : SJ) : Word := putWord major 0 fn (o.sd ++ o.sa ++ o.off)

/-- Format SL. -/
def putSL (major fn : Nat) (o : SL) : Word :=
  putWord major 0 fn (o.sa ++ o.vrot ++ o.prot ++ o.lvl ++ o.imm)

/-- Format FB. -/
def putFB (major fn : Nat) (o : FB) : Word := putWord major 0 fn (o.sd ++ o.sa ++ o.f ++ o.off)

/-- Format SX. -/
def putSX (major fn : Nat) (o : SX) : Word := putWord major 0 fn (o.v ++ o.p ++ o.imm)

/-- Format SY. -/
def putSY (major fn : Nat) (o : SY) : Word :=
  putWord major (putTok o.tok).toNat fn
    (o.sd ++ o.sa ++ o.sb ++ scopeCode o.scope ++ o.subop ++ o.imm)

/-- Format VX. -/
def putVX (major fn : Nat) (o : VX) : Word :=
  putWord major (putTok o.tok).toNat fn
    (tyCode o.ty ++ o.pred ++ o.vd ++ o.va ++ o.vb ++ o.vc ++ o.imm)

/-- Format MX. -/
def putMX (major fn : Nat) (o : MX) : Word :=
  putWord major (putTok o.tok).toNat fn
    (o.shape ++ tyCode o.aty ++ tyCode o.bty ++ zopCode o.z ++ o.v ++ o.v2 ++ o.sd ++ o.flags)

/-- Format MM. -/
def putMM (major fn : Nat) (o : MM) : Word :=
  putWord major (putTok o.tok).toNat fn
    (tyCode o.ty ++ o.pred ++ o.v ++ o.sa ++ o.sb ++ o.vi ++ o.off)

/-- Format E: the operation in act[1:0], the patch mode above it (spec/02 R35). -/
def putE (major act : Nat) (o : E) : Word :=
  BitVec.ofNat 6 major ++ putTok o.tok ++ o.tmpl ++ o.fsel ++ o.sa ++ o.kp ++ o.ka ++ o.kb ++ o.kc
    ++ o.mode ++ BitVec.ofNat 2 act ++ o.val

/-- The encoder: the word of an encoded instruction; the steps of the part have none. -/
def encode : Instr → Option Word
  | .add o => some (putSR 0x01 0 o)
  | .sub o => some (putSR 0x01 1 o)
  | .mul o => some (putSR 0x01 2 o)
  | .mulhS o => some (putSR 0x01 3 o)
  | .mulhN o => some (putSR 0x01 4 o)
  | .divS o => some (putSR 0x01 5 o)
  | .divN o => some (putSR 0x01 6 o)
  | .remS o => some (putSR 0x01 7 o)
  | .remN o => some (putSR 0x01 8 o)
  | .minS o => some (putSR 0x01 9 o)
  | .minN o => some (putSR 0x01 10 o)
  | .maxS o => some (putSR 0x01 11 o)
  | .maxN o => some (putSR 0x01 12 o)
  | .and o => some (putSR 0x01 13 o)
  | .or o => some (putSR 0x01 14 o)
  | .xor o => some (putSR 0x01 15 o)
  | .andn o => some (putSR 0x01 16 o)
  | .shl o => some (putSR 0x01 17 o)
  | .shrN o => some (putSR 0x01 18 o)
  | .shrS o => some (putSR 0x01 19 o)
  | .rot o => some (putSR 0x01 20 o)
  | .sltS o => some (putSR 0x01 21 o)
  | .sltN o => some (putSR 0x01 22 o)
  | .seq o => some (putSR 0x01 23 o)
  | .sne o => some (putSR 0x01 24 o)
  | .clz o => some (putSR 0x01 25 o)
  | .ctz o => some (putSR 0x01 26 o)
  | .popc o => some (putSR 0x01 27 o)
  | .sextB o => some (putSR 0x01 28 o)
  | .sextH o => some (putSR 0x01 29 o)
  | .sextW o => some (putSR 0x01 30 o)
  | .zextB o => some (putSR 0x01 31 o)
  | .zextH o => some (putSR 0x01 32 o)
  | .zextW o => some (putSR 0x01 33 o)
  | .addi o => some (putSI 0x02 0 o)
  | .andi o => some (putSI 0x02 1 o)
  | .ori o => some (putSI 0x02 2 o)
  | .xori o => some (putSI 0x02 3 o)
  | .shli o => some (putSI 0x02 4 o)
  | .shriN o => some (putSI 0x02 5 o)
  | .shriS o => some (putSI 0x02 6 o)
  | .sltiS o => some (putSI 0x02 7 o)
  | .sltiN o => some (putSI 0x02 8 o)
  | .li o => some (putSI 0x02 9 o)
  | .lih o => some (putSI 0x02 10 o)
  | .adr o => some (putSI 0x02 11 o)
  | .beq o => some (putSB 0x03 0 o)
  | .bne o => some (putSB 0x03 1 o)
  | .bltS o => some (putSB 0x03 2 o)
  | .bgeS o => some (putSB 0x03 3 o)
  | .bltN o => some (putSB 0x03 4 o)
  | .bgeN o => some (putSB 0x03 5 o)
  | .j o => some (putSJ 0x04 0 o)
  | .jal o => some (putSJ 0x04 1 o)
  | .jr o => some (putSJ 0x04 2 o)
  | .jalr o => some (putSJ 0x04 3 o)
  | .loop o => some (putSL 0x05 0 o)
  | .loopT o => some (putSL 0x05 1 o)
  | .endloop o => some (putSL 0x05 2 o)
  | .brkloop o => some (putSL 0x05 3 o)
  | .lidx o => some (putSL 0x05 4 o)
  | .bfAny o => some (putFB 0x06 0 o)
  | .bfNany o => some (putFB 0x06 1 o)
  | .bfAll o => some (putFB 0x06 2 o)
  | .bfNall o => some (putFB 0x06 3 o)
  | .bfCeq o => some (putFB 0x06 4 o)
  | .bfCne o => some (putFB 0x06 5 o)
  | .bfCge o => some (putFB 0x06 6 o)
  | .bfClt o => some (putFB 0x06 7 o)
  | .fcnt o => some (putFB 0x06 8 o)
  | .csrr o => some (putSI 0x07 0 o)
  | .csrw o => some (putSI 0x07 1 o)
  | .csrs o => some (putSI 0x07 2 o)
  | .csrc o => some (putSI 0x07 3 o)
  | .nop o => some (putSX 0x08 0 o)
  | .commit o => some (putSX 0x08 1 o)
  | .guardMax o => some (putSX 0x08 2 o)
  | .guardSsq o => some (putSX 0x08 3 o)
  | .trapi o => some (putSX 0x08 4 o)
  | .ebreak o => some (putSX 0x08 5 o)
  | .rett o => some (putSX 0x08 6 o)
  | .done o => some (putSX 0x08 7 o)
  | .fence o => some (putSX 0x08 8 o)
  | .ldV o => some (putMM 0x10 0 o)
  | .ldVs o => some (putMM 0x10 1 o)
  | .ldVx o => some (putMM 0x10 2 o)
  | .ldBc o => some (putMM 0x10 3 o)
  | .ldQsc o => some (putMM 0x10 4 o)
  | .lds o => some (putMM 0x11 0 o)
  | .gatA o => some (putMM 0x12 0 o)
  | .acq o => some (putSY 0x13 0 o)
  | .waitw o => some (putSY 0x13 1 o)
  | .ringwf o => some (putSY 0x13 2 o)
  | .ringfree o => some (putSY 0x13 3 o)
  | .tlwait o => some (putSY 0x13 4 o)
  | .eset o => some (putE 0x14 0 o)
  | .efire o => some (putE 0x14 1 o)
  | .eclr o => some (putE 0x14 2 o)
  | .cbload o => some (putE 0x14 3 o)
  | .kwaitL o => some (putSY 0x15 0 o)
  | .ksigL o => some (putSY 0x15 1 o)
  | .vadd o => some (putVX 0x20 0 o)
  | .vsub o => some (putVX 0x20 1 o)
  | .vaddSat o => some (putVX 0x20 2 o)
  | .vsubSat o => some (putVX 0x20 3 o)
  | .vmul o => some (putVX 0x20 4 o)
  | .vmulh o => some (putVX 0x20 5 o)
  | .vmla o => some (putVX 0x20 6 o)
  | .vmlaW o => some (putVX 0x20 7 o)
  | .vmulW o => some (putVX 0x20 8 o)
  | .vabs o => some (putVX 0x20 9 o)
  | .vneg o => some (putVX 0x20 10 o)
  | .vmin o => some (putVX 0x20 11 o)
  | .vmax o => some (putVX 0x20 12 o)
  | .vand o => some (putVX 0x20 13 o)
  | .vor o => some (putVX 0x20 14 o)
  | .vxor o => some (putVX 0x20 15 o)
  | .vandn o => some (putVX 0x20 16 o)
  | .vshl o => some (putVX 0x20 17 o)
  | .vshr o => some (putVX 0x20 18 o)
  | .vrshr o => some (putVX 0x20 19 o)
  | .vclz o => some (putVX 0x20 20 o)
  | .vpopc o => some (putVX 0x20 21 o)
  | .vavg o => some (putVX 0x20 22 o)
  | .vcmp o => some (putVX 0x20 23 o)
  | .vsel o => some (putVX 0x20 24 o)
  | .vdot4 o => some (putVX 0x20 25 o)
  | .vfadd o => some (putVX 0x21 0 o)
  | .vfsub o => some (putVX 0x21 1 o)
  | .vfmul o => some (putVX 0x21 2 o)
  | .vfma o => some (putVX 0x21 3 o)
  | .vfnma o => some (putVX 0x21 4 o)
  | .vfmin o => some (putVX 0x21 5 o)
  | .vfmax o => some (putVX 0x21 6 o)
  | .vfabs o => some (putVX 0x21 7 o)
  | .vfneg o => some (putVX 0x21 8 o)
  | .vfcmp o => some (putVX 0x21 9 o)
  | .vfrcp o => some (putVX 0x21 10 o)
  | .vfrsq o => some (putVX 0x21 11 o)
  | .vfsqrt o => some (putVX 0x21 12 o)
  | .vfexp2 o => some (putVX 0x21 13 o)
  | .vflog2 o => some (putVX 0x21 14 o)
  | .vftanh o => some (putVX 0x21 15 o)
  | .vfsig o => some (putVX 0x21 16 o)
  | .vfclass o => some (putVX 0x21 17 o)
  | .vcvt o => some (putVX 0x22 0 o)
  | .vnarrow o => some (putVX 0x22 1 o)
  | .vwiden o => some (putVX 0x22 2 o)
  | .vrqs o => some (putVX 0x22 3 o)
  | .vperm o => some (putVX 0x23 0 o)
  | .vslideup o => some (putVX 0x23 1 o)
  | .vslidedn o => some (putVX 0x23 2 o)
  | .vzip o => some (putVX 0x23 3 o)
  | .vunzip o => some (putVX 0x23 4 o)
  | .vbcast o => some (putVX 0x23 5 o)
  | .vredsum o => some (putVX 0x23 6 o)
  | .vredmax o => some (putVX 0x23 7 o)
  | .vredmin o => some (putVX 0x23 8 o)
  | .vscan o => some (putVX 0x23 9 o)
  | .pand o => some (putVX 0x24 0 o)
  | .por o => some (putVX 0x24 1 o)
  | .pxor o => some (putVX 0x24 2 o)
  | .pandn o => some (putVX 0x24 3 o)
  | .pnot o => some (putVX 0x24 4 o)
  | .pfirst o => some (putVX 0x24 5 o)
  | .ptest o => some (putVX 0x24 6 o)
  | .pmov o => some (putVX 0x24 7 o)
  | .vmov o => some (putVX 0x25 0 o)
  | .vli o => some (putVX 0x25 1 o)
  | .viota o => some (putVX 0x25 2 o)
  | .vdup o => some (putVX 0x25 3 o)
  | .vclr o => some (putVX 0x25 4 o)
  | .mma o => some (putMX 0x26 0 o)
  | .mzero o => some (putMX 0x26 1 o)
  | .mwr o => some (putMX 0x26 2 o)
  | .mrd o => some (putMX 0x26 3 o)
  | .mdrain o => some (putMX 0x26 4 o)
  | .kwaitC o => some (putSY 0x27 0 o)
  | .ksigC o => some (putSY 0x27 1 o)
  | .stV o => some (putMM 0x30 0 o)
  | .stVs o => some (putMM 0x30 1 o)
  | .stVx o => some (putMM 0x30 2 o)
  | .sts o => some (putMM 0x31 0 o)
  | .rel o => some (putSY 0x32 0 o)
  | .ringwe o => some (putSY 0x32 1 o)
  | .ringpub o => some (putSY 0x32 2 o)
  | .setw o => some (putSY 0x32 3 o)
  | .tlsig o => some (putSY 0x32 4 o)
  | .amo o => some (putSY 0x33 0 o)
  | .red o => some (putSY 0x33 1 o)
  | .vred o => some (putSY 0x33 2 o)
  | .tpost o => some (putSY 0x34 0 o)
  | .tjoin o => some (putSY 0x34 1 o)
  | .grais o => some (putSY 0x34 2 o)
  | .esetS o => some (putE 0x35 0 o)
  | .efireS o => some (putE 0x35 1 o)
  | .eclrS o => some (putE 0x35 2 o)
  | .cbloadS o => some (putE 0x35 3 o)
  | .kwaitS o => some (putSY 0x36 0 o)
  | .ksigS o => some (putSY 0x36 1 o)
  | .engineCommandStart _ | .engineCommandComplete _ _ | .arrivalWordWrite _ _ | .regionRetire _
  | .regionOverrun _ | .detectedError _ | .checksumCompare _ _ _ | .trapEntry _ | .pageWalk _ _ _
  | .pageFault _ | .pageRequestWrite _ | .preemptRequest _ | .evict _ | .restore _ | .bankSwitch _
  | .gangForm _ | .gangStart _ | .taskPop _ | .taskRefill _ | .weirDrain _ _ | .postedAck _ _
  | .reductionApply _ | .deferredEffectApply _ _ | .joinPostRetry _ | .waiterWake _ | .waitwPoll _
  | .waitwTimeout _ | .icacheRefill _ _ | .turnoutWrite _ | .turnoutRead _ | .bar2Access _
  | .outboundReadTimeout _ | .notifyWrite _ | .packetFetch _ | .packetPoll _ | .launch _
  | .graph _ | .signal _ | .waitTl _ | .waitMem _ | .waitMemReread _ | .waitMemTimeout _
  | .write _ | .fencePacket _ | .inval _ | .invalComplete _ | .pageResp _ | .patch _
  | .patchQuiesce _ | .attest _ | .queueCfgWrite _ | .queueCfgEnable _ | .queueCfgDisable _
  | .queueCfgReset _ | .opCard _ | .cond _ | .loopn _ | .signalCard _ | .waitCard _
  | .waitCardTimeout _ | .join _ | .endCard _ | .operatorComplete _ | .memcfgWrite _
  | .toctlWrite _ _ | .qctlWrite _ _ | .tqctlWrite _ _ | .registerWrite _ _ | .ownctlClaim _
  | .ownctlRelease _ | .ownctlHandover _ _ | .ownctlCandidate _ _ | .ownhbWrite _
  | .heartbeatExpiry | .handoverTimeout | .fullReset _ | .functionLevelReset _
  | .dramTrainingDone _ | .bootctlGo _ | .measextGo _ | .failoverTrigger _ | .foctlGo _
  | .adoption | .islandWatchdogExpiry _ | .cascopWrite _ _ | .operatingPointStep _ | .clockHop _
  | .clockHoldEnd _ | .balanceEval _ _ | .droopDetect _ _ | .droopRelease _ | .powerLimitEval _
  | .thermalLimit _ _ | .thermtrip _ | .pcSample _ | .resizableBarWrite _ | .islandHealthLoss _ _ => none

end Sys2Proof
end

