-- ==== Sys2Proof/Config.lean ====
section
/-! DEFINITION. What the spec leaves to the implementation: the free values (opaque constants that
no proof can evaluate). Each is named in a row of notes/assumptions; straps and fuses are fields of State. -/

namespace Sys2Proof.Config

/-- The f32 value that `vfrcp` delivers for an f32 operand, where the bound of spec/07 R142 leaves a
choice; the meaning takes it only when it lies within that bound. -/
opaque rcpValue : Word32 → Word32

/-- The same for `vfrsq`. -/
opaque rsqValue : Word32 → Word32

/-- The same for `vfexp2`. -/
opaque exp2Value : Word32 → Word32

/-- The same for `vflog2`. -/
opaque log2Value : Word32 → Word32

/-- The same for `vftanh`. -/
opaque tanhValue : Word32 → Word32

/-- The same for `vfsig`. -/
opaque sigValue : Word32 → Word32

/-- Which entry of a full TLB leaves it (spec/03 R55: replacement is not specified). -/
opaque tlbVictim : Nat → Nat

/-- Which line of a full instruction cache leaves it (spec/12 R224 does not say). -/
opaque icacheVictim : Nat → Nat

/-- A value that the spec leaves open after a step that goes on, drawn by a counter in the state. -/
opaque freeValue : Nat → Word

/-- Whether a request at a place meets one of a context, by its number, in a router and is merged with it (spec/05
R96), drawn by a counter in the state. -/
opaque meets : Nat → Nat → Nat → Nat → Bool

/-- The grouping of merged addends at a place, step by step (spec/05 R96: it is not specified). -/
opaque grouping : Nat → Nat → Nat → Bool

/-- Whether a 64-byte part of a vector register is read as it was when the instruction began (spec/06 R106), by the
number of the draw, the register and the part. -/
opaque tearV : Nat → Nat → Nat → Bool

/-- The same for a bit of a predicate (spec/06 R106). -/
opaque tearP : Nat → Nat → Nat → Bool

/-- The same for a word of memory (spec/15 R302, R304), by the number of the draw and the word. -/
opaque tearM : Nat → Nat → Bool

/-- The ROM of a command processor's sequencer, 4,096 microwords (spec/17 R329: their contents are not given). -/
opaque controlStore : BitVec 12 → BitVec 96

/-- Whether a fence also waits for what the open region has in the weir buffer, and so never completes: spec/15 R309 says
that it does, and R303 that it does not (notes/assumptions/79.md). -/
opaque fenceAwaitsOpen : Bool

/-- SHAKE256 with 512 bits of output (spec/17 R330, spec/21 R402, R403 name it and do not define it). -/
opaque shake256 : List Byte → BitVec 512

/-- ML-DSA-65 verification: public key, message, signature (spec/17 R330, spec/21 R402). -/
opaque mldsaVerify : List Byte → List Byte → List Byte → Bool

/-- The ML-DSA-65 signature of a message by the key pair of a seed (spec/21 R404). -/
opaque mldsaSign : BitVec 256 → List Byte → List Byte

/-- The ML-DSA-65 public key that KeyGen forms from a seed (spec/21 R404). -/
opaque mldsaPublic : BitVec 256 → List Byte

/-- The manufacturer's certificate in DER (spec/21 R404). -/
opaque certificate : List Byte

/-- What main memory and the slices hold after a full reset (spec/21 R400: DRAM contents are not
preserved), as addresses and bytes, drawn by a counter in the state. -/
opaque lostMemory : Nat → List (Nat × Byte)

end Sys2Proof.Config
end

