-- ==== Sys2Proof/Machine/Elements.lean ====
section
/-! DEFINITION. Elements of vector registers, and the exact-integer functions of spec/00 R10:
wrap(), sat(), rshr_up(), sext() and zext(). -/

namespace Sys2Proof.Machine

/-- A w-bit field taken as unsigned (zext, spec/00 R10). -/
def zextN (w x : Nat) : Nat := x % 2 ^ w

/-- A w-bit field taken as two's complement (sext, spec/00 R10). -/
def sextI (w x : Nat) : Int :=
  let y := x % 2 ^ w
  if 2 * y < 2 ^ w then (y : Int) else (y : Int) - (2 ^ w : Nat)

/-- The field of width w congruent to x (wrap, spec/00 R10). -/
def wrapN (w : Nat) (x : Int) : Nat := (x % (2 ^ w : Nat)).toNat

/-- The smallest value of an integer field. -/
def intMin (signed : Bool) (w : Nat) : Int := if signed then -((2 ^ (w - 1) : Nat) : Int) else 0

/-- The largest value of an integer field. -/
def intMax (signed : Bool) (w : Nat) : Int :=
  if signed then ((2 ^ (w - 1) : Nat) : Int) - 1 else ((2 ^ w : Nat) : Int) - 1

/-- x clamped to the range of an integer field (sat, spec/00 R10). -/
def clampI (signed : Bool) (w : Nat) (x : Int) : Int :=
  if x < intMin signed w then intMin signed w
  else if intMax signed w < x then intMax signed w else x

/-- The field of sat(x, T). -/
def satN (signed : Bool) (w : Nat) (x : Int) : Nat := wrapN w (clampI signed w x)

/-- wrap or sat by a flag. -/
def narrowN (sat signed : Bool) (w : Nat) (x : Int) : Nat :=
  if sat then satN signed w x else wrapN w x

/-- A field taken by its signedness. -/
def fieldI (signed : Bool) (w x : Nat) : Int := if signed then sextI w x else (zextN w x : Int)

/-- A field of an integer type as its value. -/
def tyVal (t : Ty) (x : Nat) : Int := fieldI (tySigned t) (tyWidth t) x

/-- rshr_up (spec/00 R10): a right shift with ties toward plus infinity. -/
def rshrUp (x : Int) (s : Nat) : Int :=
  if s = 0 then x else (x + (2 ^ (s - 1) : Nat)) / (2 ^ s : Nat)

/-- Element j of width w of a register (spec/08 R148). -/
def elem (w j : Nat) (r : VReg) : Nat := r.toNat / 2 ^ (w * j) % 2 ^ w

/-- The number whose w-bit fields are the list, the first lowest. -/
def packFields (w : Nat) : List Nat → Nat
  | [] => 0
  | x :: xs => x % 2 ^ w + 2 ^ w * packFields w xs

/-- A register whose element j is f j. -/
def buildV (w : Nat) (f : Nat → Nat) : VReg :=
  BitVec.ofNat 4096 (packFields w ((List.range (4096 / w)).map f))

/-- A predicate whose bit j is f j for j below n, and 0 above (spec/08 R159, R161). -/
def buildP (n : Nat) (f : Nat → Bool) : PReg :=
  BitVec.ofNat 1024 (packFields 1 ((List.range n).map fun j => if f j then 1 else 0))

/-- Bit j of a predicate. -/
def bitP (p : PReg) (j : Nat) : Bool := p.getLsbD j

/-- The elements that a predicate governs take f, the others keep the old value, which is 0 for a
pushed entry (spec/08 R148). -/
def underMask (w : Nat) (p : PReg) (old : VReg) (f : Nat → Nat) : VReg :=
  buildV w fun j => if bitP p j then f j else elem w j old

/-- Source element j of a widening or narrowing group lies in register j mod k, lane j / k
(spec/08 R149). -/
def groupElem (w k : Nat) (g : Nat → VReg) (j : Nat) : Nat := elem w (j / k) (g (j % k))

/-- Register r of a widening result: lane q holds source element k q + r where the predicate bit of
that element is set, and keeps its old value otherwise (spec/08 R149). -/
def widenReg (w k r : Nat) (p : PReg) (old : VReg) (f : Nat → Nat) : VReg :=
  buildV w fun q => if bitP p (k * q + r) then f (k * q + r) else elem w q old

/-- The number of leading zeros of a w-bit field. -/
def clzN (w x : Nat) : Nat := if x % 2 ^ w = 0 then w else w - 1 - Nat.log2 (x % 2 ^ w)

/-- The number of one bits of a w-bit field. -/
def popcN (w x : Nat) : Nat := ((List.range w).filter fun i => x.testBit i).length

/-- The number of trailing zeros of a w-bit field. -/
def ctzN (w x : Nat) : Nat := ((List.range w).takeWhile fun i => !x.testBit i).length

end Sys2Proof.Machine
end

