-- ==== Sys2Proof/Machine/Float.lean ====
section
/-! DEFINITION. Floating formats and rounding (spec/07 R130 to R138, R142), on exact dyadic values:
a finite value is a sign, a magnitude m and an exponent e, and stands for m x 2^e. -/

namespace Sys2Proof.Machine

/-- The rounding modes (spec/07 R133, R135). -/
inductive Rm
  | rne | rtz | rdn | rup
  deriving DecidableEq, Repr

/-- The mode of FPC[1:0]. -/
def rmOf (n : Nat) : Rm :=
  match n % 4 with
  | 0 => .rne | 1 => .rtz | 2 => .rdn | _ => .rup

/-- The sticky flags (spec/07 R133). -/
structure FFlags where
  nv : Bool := false
  dz : Bool := false
  ovf : Bool := false
  unf : Bool := false
  nx : Bool := false
  deriving DecidableEq, Repr

/-- No flag. -/
def FFlags.none : FFlags := {}

/-- The flags of either. -/
def FFlags.or (a b : FFlags) : FFlags :=
  ⟨a.nv || b.nv, a.dz || b.dz, a.ovf || b.ovf, a.unf || b.unf, a.nx || b.nx⟩

/-- The flags as FPC[6:2]. -/
def FFlags.bits (f : FFlags) : Nat :=
  (if f.nv then 64 else 0) + (if f.dz then 32 else 0) + (if f.ovf then 16 else 0)
    + (if f.unf then 8 else 0) + (if f.nx then 4 else 0)

/-- A floating format with a sign (spec/07 R130): fraction bits, bias, the largest finite code, and
whether it has infinities. -/
structure Fmt where
  width : Nat
  frac : Nat
  bias : Nat
  maxCode : Nat
  hasInf : Bool
  nanCode : Nat
  deriving DecidableEq, Repr

/-- The formats of spec/07 R130, R132; e8m0 and the integer types do not use this. -/
def fmtOf : Ty → Fmt
  | .f16 => ⟨16, 10, 15, 0x7BFF, true, 0x7E00⟩
  | .bf16 => ⟨16, 7, 127, 0x7F7F, true, 0x7FC0⟩
  | .e5m2 => ⟨8, 2, 15, 0x7B, true, 0x7E⟩
  | .e4m3 => ⟨8, 3, 7, 0x7E, false, 0x7F⟩
  | .e2m1 => ⟨4, 1, 1, 0x7, false, 0⟩
  | _ => ⟨32, 23, 127, 0x7F7FFFFF, true, 0x7FC00000⟩

/-- The formats that flush subnormals in vector arithmetic (spec/07 R137). -/
def tyFlush : Ty → Bool
  | .f16 | .bf16 | .e5m2 | .e4m3 => true
  | _ => false

/-- An exact operand or result. -/
inductive FVal
  | nan
  | inf (neg : Bool)
  | fin (neg : Bool) (m : Nat) (e : Int)
  deriving DecidableEq, Repr

/-- The value of a code (spec/07 R131); e2m1 has neither infinities nor NaN. -/
def fvalOf (t : Ty) (code : Nat) : FVal :=
  if t = .e8m0 then
    if code % 256 = 255 then .nan else .fin false 1 ((code % 256 : Nat) - 127)
  else if tyInt t then
    let x := tyVal t code
    .fin (decide (x < 0)) x.natAbs 0
  else
    let f := fmtOf t
    let neg := code.testBit (f.width - 1)
    let mag := code % 2 ^ (f.width - 1)
    if mag ≤ f.maxCode then
      let ex := mag / 2 ^ f.frac
      let fr := mag % 2 ^ f.frac
      if ex = 0 then .fin neg fr (1 - (f.bias : Int) - f.frac)
      else .fin neg (2 ^ f.frac + fr) ((ex : Int) - f.bias - f.frac)
    else if f.hasInf && mag == f.maxCode + 1 then .inf neg
    else .nan

/-- Whether a code is subnormal and not zero. -/
def isSubnormal (t : Ty) (code : Nat) : Bool :=
  let f := fmtOf t
  let mag := code % 2 ^ (f.width - 1)
  mag != 0 && mag / 2 ^ f.frac == 0

/-- An operand of vector arithmetic: subnormals of the narrow formats become zeros of their sign
(spec/07 R137, spec/09 R170). -/
def fvalIn (t : Ty) (code : Nat) : FVal :=
  match fvalOf t code with
  | .fin neg m e => if tyFlush t && isSubnormal t code then .fin neg 0 0 else .fin neg m e
  | v => v

/-- A sign bit set on a magnitude code. -/
def signCode (f : Fmt) (neg : Bool) (mag : Nat) : Nat :=
  if neg then 2 ^ (f.width - 1) + mag else mag

/-- How a magnitude a with a dropped part of rem out of 2^s rounds up (spec/07 R135). -/
def roundsUp (rm : Rm) (neg : Bool) (a rem s : Nat) : Bool :=
  match rm with
  | .rne => decide (2 ^ s < 2 * rem) || (decide (2 * rem = 2 ^ s) && a % 2 == 1)
  | .rtz => false
  | .rdn => neg && rem != 0
  | .rup => !neg && rem != 0

/-- m x 2^e rounded to an integer multiple of 2^q, and whether it changed. -/
def roundAt (rm : Rm) (neg : Bool) (m : Nat) (e q : Int) : Nat × Bool :=
  if q ≤ e then (m * 2 ^ (e - q).toNat, false)
  else
    let s := (q - e).toNat
    let a := m / 2 ^ s
    let rem := m % 2 ^ s
    (if roundsUp rm neg a rem s then a + 1 else a, rem != 0)

/-- The exponent of the quantum of a format at a nonzero magnitude: that of its leading bit less the
fraction, and no less than the subnormal spacing (spec/07 R135). -/
def quantum (f : Fmt) (m : Nat) (e : Int) : Int :=
  max ((Nat.log2 m : Int) + e - f.frac) (1 - (f.bias : Int) - f.frac)

/-- The magnitude code of k x 2^q, with the exponent unbounded above. -/
def magCode (f : Fmt) (k : Nat) (q : Int) : Nat :=
  if k < 2 ^ f.frac then k
  else
    let k' := if 2 ^ (f.frac + 1) ≤ k then k / 2 else k
    let q' := if 2 ^ (f.frac + 1) ≤ k then q + 1 else q
    (q' + f.frac + f.bias).toNat * 2 ^ f.frac + (k' - 2 ^ f.frac)

/-- The result on overflow (spec/07 R136). -/
def overflowCode (t : Ty) (rm : Rm) (sat neg : Bool) : Nat :=
  let f := fmtOf t
  if sat || t == .e2m1 then signCode f neg f.maxCode
  else if rm == .rtz || (rm == .rdn && !neg) || (rm == .rup && neg) then signCode f neg f.maxCode
  else if f.hasInf then signCode f neg (f.maxCode + 1)
  else f.nanCode

/-- A nonzero finite exact value delivered in a format: rounded by R135, overflow by R136, a
subnormal result flushed when `flush` (R137), and the flags. `lossy` says that m x 2^e itself stands
for an exact value that is not m x 2^e but rounds alike. -/
def deliverFin (t : Ty) (rm : Rm) (sat flush lossy neg : Bool) (m : Nat) (e : Int) :
    Nat × FFlags :=
  let f := fmtOf t
  let q := quantum f m e
  let (k, inexact) := roundAt rm neg m e q
  let c := magCode f k q
  let changed := inexact || lossy
  if f.maxCode < c then (overflowCode t rm sat neg, { ovf := true, nx := true })
  else if k < 2 ^ f.frac then
    if flush && k != 0 then (signCode f neg 0, { unf := true, nx := true })
    else (signCode f neg c, { unf := changed, nx := changed })
  else (signCode f neg c, { nx := changed })

/-- The canonical NaN of a type (spec/07 R132). -/
def nanOf (t : Ty) : Nat := if t = .e8m0 then 255 else (fmtOf t).nanCode

/-- The infinity of a format with infinities. -/
def infOf (t : Ty) (neg : Bool) : Nat := signCode (fmtOf t) neg ((fmtOf t).maxCode + 1)

/-- The zero of a sign. -/
def zeroOf (t : Ty) (neg : Bool) : Nat := signCode (fmtOf t) neg 0

/-- An arithmetic result delivered (spec/09 R170, R171): a NaN is canonical, an infinity exact. -/
def deliver (t : Ty) (rm : Rm) (sat : Bool) (v : FVal) (fl : FFlags) : Nat × FFlags :=
  match v with
  | .nan => (nanOf t, fl)
  | .inf neg => (infOf t neg, fl)
  | .fin neg m e =>
    if m = 0 then (zeroOf t neg, fl)
    else
      let (c, g) := deliverFin t rm sat (tyFlush t) false neg m e
      (c, fl.or g)

/-- The signed integer of a finite value at an exponent not above its own. -/
def alignI (neg : Bool) (m : Nat) (e base : Int) : Int :=
  let a : Int := (m * 2 ^ (e - base).toNat : Nat)
  if neg then -a else a

/-- The least exponent of the finite terms of a list. -/
def minExp : List FVal → Int
  | [] => 0
  | [.fin _ _ e] => e
  | .fin _ _ e :: rest => min e (minExp rest)
  | _ :: rest => minExp rest

/-- The exact sum of the finite terms at an exponent. -/
def sumAt (base : Int) : List FVal → Int
  | [] => 0
  | .fin neg m e :: rest => alignI neg m e base + sumAt base rest
  | _ :: rest => sumAt base rest

/-- A NaN. -/
def FVal.isNan : FVal → Bool
  | .nan => true
  | _ => false

/-- An infinity of a sign. -/
def FVal.isInf (neg : Bool) : FVal → Bool
  | .inf n => n == neg
  | _ => false

/-- A zero of a sign. -/
def FVal.isZero (neg : Bool) : FVal → Bool
  | .fin n m _ => n == neg && m == 0
  | _ => false

/-- The zero that an exact sum of zero gives (spec/09 R171). -/
def zeroSum (rm : Rm) (ts : List FVal) : FVal :=
  if ts.all (FVal.isZero false) then .fin false 0 0
  else if ts.all (FVal.isZero true) then .fin true 0 0
  else .fin (rm == .rdn) 0 0

/-- The exact sum of terms with the special operands of spec/09 R171, R182. -/
def sumVals (rm : Rm) (ts : List FVal) : FVal × FFlags :=
  if ts.any FVal.isNan then (.nan, .none)
  else if ts.any (FVal.isInf false) && ts.any (FVal.isInf true) then (.nan, { nv := true })
  else if ts.any (FVal.isInf false) then (.inf false, .none)
  else if ts.any (FVal.isInf true) then (.inf true, .none)
  else
    let base := minExp ts
    let s := sumAt base ts
    if s = 0 then (zeroSum rm ts, .none) else (.fin (decide (s < 0)) s.natAbs base, .none)

/-- The negative of a value. -/
def FVal.negate : FVal → FVal
  | .nan => .nan
  | .inf n => .inf (!n)
  | .fin n m e => .fin (!n) m e

/-- The exact product (spec/09 R171): 0 x infinity is a NaN with nv. -/
def mulVals (a b : FVal) : FVal × FFlags :=
  match a, b with
  | .nan, _ => (.nan, .none)
  | _, .nan => (.nan, .none)
  | .inf n, .inf k => (.inf (n != k), .none)
  | .inf n, .fin k m _ => if m = 0 then (.nan, { nv := true }) else (.inf (n != k), .none)
  | .fin n m _, .inf k => if m = 0 then (.nan, { nv := true }) else (.inf (n != k), .none)
  | .fin n m e, .fin k m' e' => (.fin (n != k) (m * m') (e + e'), .none)

/-- a x b + c exactly (spec/09 R171): 0 x infinity raises nv even when c is a NaN. -/
def fmaVals (rm : Rm) (a b c : FVal) : FVal × FFlags :=
  let (p, fp) := mulVals a b
  if p.isNan then (.nan, fp)
  else
    let (s, fs) := sumVals rm [p, c]
    (s, fp.or fs)

/-- The order of two values that are not NaN, with minus 0 equal to plus 0. -/
def cmpVals (a b : FVal) : Ordering :=
  match a, b with
  | .inf n, .inf k => if n == k then .eq else if n then .lt else .gt
  | .inf n, _ => if n then .lt else .gt
  | _, .inf k => if k then .gt else .lt
  | .fin n m e, .fin k m' e' =>
    let base := min e e'
    compare (alignI n m e base) (alignI k m' e' base)
  | _, _ => .eq

/-- A condition of `vfcmp` (spec/09 R173). -/
def fcond (c : Nat) (a b : FVal) : Bool :=
  if a.isNan || b.isNan then c == 1 || c == 6
  else
    let o := cmpVals a b
    match c with
    | 0 => o == .eq
    | 1 => o != .eq
    | 2 => o == .lt
    | 3 => o != .gt
    | 4 => o == .gt
    | 5 => o != .lt
    | 6 => false
    | _ => true

/-- Whether a is the smaller, with minus 0 below plus 0 (spec/09 R172). -/
def lessZ (a b : FVal) : Bool :=
  match cmpVals a b with
  | .lt => true
  | .gt => false
  | .eq =>
    match a, b with
    | .fin n _ _, .fin k _ _ => n && !k
    | _, _ => false

/-- A conversion of an exact value to an integer (spec/07 R138). -/
def convertInt (signed : Bool) (w : Nat) (rm : Rm) (v : FVal) : Nat × FFlags :=
  match v with
  | .nan => (0, { nv := true })
  | .inf neg => (wrapN w (if neg then intMin signed w else intMax signed w), { nv := true })
  | .fin neg m e =>
    let (k, changed) := roundAt rm neg m e 0
    let y : Int := if neg then -(k : Int) else k
    if y < intMin signed w ∨ intMax signed w < y then (satN signed w y, { nv := true })
    else (wrapN w y, { nx := changed })

/-- A conversion to e8m0 (spec/07 R138). -/
def convertE8 (v : FVal) : Nat × FFlags :=
  match v with
  | .nan => (255, { nv := true })
  | .inf _ => (255, { nv := true })
  | .fin _ m e =>
    if m = 0 then (0, .none)
    else
      let t := (Nat.log2 m : Int) + e
      let u := max (-127) (min 127 t)
      ((u + 127).toNat, { nx := decide (m ≠ 2 ^ Nat.log2 m) || decide (u ≠ t) })

/-- An infinity as the source of a conversion (spec/07 R136). -/
def convertInf (t : Ty) (sat neg : Bool) : Nat × FFlags :=
  let f := fmtOf t
  if f.hasInf && !sat then (infOf t neg, .none)
  else if t == .e4m3 && !sat then (f.nanCode, .none)
  else (signCode f neg f.maxCode, { nv := t == .e2m1 })

/-- convert() of spec/07 R138. -/
def convertTo (t : Ty) (rm : Rm) (sat : Bool) (v : FVal) : Nat × FFlags :=
  if tyInt t then convertInt (tySigned t) (tyWidth t) rm v
  else if t = .e8m0 then convertE8 v
  else
    match v with
    | .nan => if t = .e2m1 then (0, { nv := true }) else (nanOf t, .none)
    | .inf neg => convertInf t sat neg
    | .fin neg m e =>
      if m = 0 then (zeroOf t neg, .none) else deliverFin t rm sat (tyFlush t) false neg m e

/-- rne() to f32 of an exact value (spec/00 R10), as the matrix engine and the homes use it: no
flush, overflow without .sat, no flag. -/
def rneF32 (v : FVal) : Nat :=
  match v with
  | .nan => 0x7FC00000
  | .inf neg => infOf .f32 neg
  | .fin neg m e => if m = 0 then zeroOf .f32 neg else (deliverFin .f32 .rne false false false neg m e).1

/-- fadd at a home (spec/05 R96). -/
def faddHome (a b : Nat) : Nat := rneF32 (sumVals .rne [fvalOf .f32 a, fvalOf .f32 b]).1

/-- The floor of a square root, bit by bit from bit `n`. -/
def isqrtGo (x : Nat) : Nat → Nat → Nat
  | 0, r => r
  | n + 1, r => isqrtGo x n (if (r + 2 ^ n) * (r + 2 ^ n) ≤ x then r + 2 ^ n else r)

/-- The floor of a square root. -/
def isqrt (x : Nat) : Nat := isqrtGo x (Nat.log2 x / 2 + 1) 0

/-- The square root of m x 2^e, m > 0, as a value that rounds alike, and whether it is inexact. -/
def sqrtFin (m : Nat) (e : Int) : Nat × Int × Bool :=
  let odd := (e % 2).toNat
  let m' := m * 2 ^ odd * 2 ^ 128
  let r := isqrt m'
  let rem := r * r != m'
  (2 * r + (if rem then 1 else 0), (e - odd) / 2 - 65, rem)

/-- `vfsqrt` (spec/07 R142): correctly rounded in the mode of FPC.rm. -/
def sqrtCode (t : Ty) (rm : Rm) (code : Nat) : Nat × FFlags :=
  match fvalIn t code with
  | .nan => (nanOf t, .none)
  | .inf neg => if neg then (nanOf t, { nv := true }) else (infOf t false, .none)
  | .fin neg m e =>
    if m = 0 then (zeroOf t neg, .none)
    else if neg then (nanOf t, { nv := true })
    else
      let (r, q, lossy) := sqrtFin m e
      deliverFin t rm false (tyFlush t) lossy false r q

/-- A positive rational as num / den. -/
structure Ratio where
  num : Nat
  den : Nat
  deriving DecidableEq, Repr

/-- A magnitude that approximates an exact value: m x 2^e, and whether it is that value. -/
structure Approx where
  neg : Bool
  m : Nat
  e : Int
  exact : Bool
  deriving DecidableEq, Repr

/-- num / den scaled to at least 128 significant bits, with a sticky bit. -/
def quotApprox (neg : Bool) (num den : Nat) (e : Int) : Approx :=
  let s := 160 + Nat.log2 den
  let q := num * 2 ^ s / den
  let r := num * 2 ^ s % den
  ⟨neg, 2 * q + (if r = 0 then 0 else 1), e - s - 1, decide (r = 0)⟩

/-- The fixed point of the references of the special functions: 160 bits. -/
def fixBits : Nat := 160

/-- ln 2 in fixed point, by the series of 2 atanh(1/3), rounded down. -/
def ln2Fix : Nat :=
  ((List.range 60).map fun k => 2 * 2 ^ fixBits / ((2 * k + 1) * 3 ^ (2 * k + 1))).foldl (· + ·) 0

/-- The Taylor sum of e^t for t in fixed point below 1: term and sum, n more terms, the next of
index k. -/
def expGo (t : Nat) : Nat → Nat → Nat → Nat → Nat
  | 0, _, _, sum => sum
  | n + 1, k, term, sum =>
    let term' := term * t / 2 ^ fixBits / k
    expGo t n (k + 1) term' (sum + term')

/-- 2^f in fixed point for a fraction f in fixed point. -/
def exp2Fix (f : Nat) : Nat :=
  expGo (f * ln2Fix / 2 ^ fixBits) 50 1 (2 ^ fixBits) (2 ^ fixBits)

/-- The series of atanh(z) in fixed point for z in fixed point: n more terms, power z^(2k+1). -/
def atanhGo (z2 : Nat) : Nat → Nat → Nat → Nat → Nat
  | 0, _, _, sum => sum
  | n + 1, k, pw, sum =>
    atanhGo z2 n (k + 1) (pw * z2 / 2 ^ fixBits) (sum + pw / (2 * k + 1))

/-- log2 of m / 2^l for 2^l <= m < 2^(l+1), in fixed point. -/
def log2Fix (m l : Nat) : Nat :=
  let z := (m - 2 ^ l) * 2 ^ fixBits / (m + 2 ^ l)
  let ln := 2 * atanhGo (z * z / 2 ^ fixBits) 60 0 z 0
  ln * 2 ^ fixBits / ln2Fix

/-- The spacing exponent of f32 at a magnitude (spec/07 R142: an ulp). -/
def ulpExp (m : Nat) (e : Int) : Int := quantum (fmtOf .f32) m e

/-- Whether an f32 code lies within `k` ulp of an approximated value of the same sign. -/
def withinUlp (k : Nat) (a : Approx) (code : Nat) : Bool :=
  match fvalOf .f32 code with
  | .fin neg m e =>
    let u := ulpExp a.m a.e
    let base := min (min e a.e) u
    let d := alignI neg m e base - alignI a.neg a.m a.e base
    decide (d.natAbs ≤ k * 2 ^ (u - base).toNat)
  | _ => false

/-- The f32 result of a function whose exact value is approximated: the exact value where it is
representable; beyond the range by R136 in rne, whatever FPC.rm; else the free value of Config where
it lies within the bound, and the nearest value where it does not (spec/07 R142). -/
def boundedF32 (k : Nat) (free : Word32 → Word32) (x : Nat) (a : Approx) : Nat × FFlags :=
  let r := deliverFin .f32 .rne false false (!a.exact) a.neg a.m a.e
  if r.2.ovf || !r.2.nx then r
  else
    let c := (free (BitVec.ofNat 32 x)).toNat
    if withinUlp k a c then
      let f := fmtOf .f32
      (c, { nx := true, unf := decide (c % 2 ^ 31 < 2 ^ f.frac) })
    else r

/-- 2^x for a finite nonzero x (spec/07 R142). -/
def exp2Approx (neg : Bool) (m : Nat) (e : Int) : Approx :=
  -- beyond 2^9 in magnitude the result is far outside the range either way
  if 9 < (Nat.log2 m : Int) + e then ⟨false, 1, if neg then -1000 else 1000, false⟩
  else
    let a := alignI neg m e (min e 0)
    let d : Int := (2 ^ (0 - min e 0).toNat : Nat)
    let n := a / d
    let r := a % d
    if r = 0 then ⟨false, 1, n, true⟩
    else
      let f := (r.toNat * 2 ^ fixBits) / d.toNat
      ⟨false, 2 * exp2Fix f + 1, n - fixBits - 1, false⟩

/-- log2 of a positive x (spec/07 R142), or none where it is exactly zero. -/
def log2Approx (m : Nat) (e : Int) : Option Approx :=
  let l := Nat.log2 m
  let n := (l : Int) + e
  if m = 2 ^ l then
    if n = 0 then none else some ⟨decide (n < 0), n.natAbs, 0, true⟩
  else
    let v : Int := n * (2 ^ fixBits : Nat) + (log2Fix m l : Int)
    some ⟨decide (v < 0), 2 * v.natAbs + 1, -(fixBits : Int) - 1, false⟩

/-- e^(-x) for x = m x 2^e > 0, as g x 2^(-n) with g in fixed point: 2^(-x / ln 2). -/
def expNeg (m : Nat) (e : Int) : Nat × Nat :=
  -- y = x / ln 2 in fixed point, rounded down
  let y := if 0 ≤ e then m * 2 ^ e.toNat * 2 ^ fixBits * 2 ^ fixBits / ln2Fix
    else m * 2 ^ fixBits * 2 ^ fixBits / ln2Fix / 2 ^ (-e).toNat
  let n := y / 2 ^ fixBits
  let r := y % 2 ^ fixBits
  -- 2^(-y) = 2^(-n-1) 2^(1 - r)
  (exp2Fix (2 ^ fixBits - 1 - r), n + 1)

/-- tanh of m x 2^e, m > 0 (spec/07 R142). -/
def tanhApprox (neg : Bool) (m : Nat) (e : Int) : Approx :=
  let top := (Nat.log2 m : Int) + e
  if top < -20 then
    -- x - x^3 / 3, with the cube far below an ulp, and below x at any rate
    ⟨neg, m * 2 ^ 200 - (m * 2 ^ (200 + 2 * top + 1).toNat / 3 + 1), e - 200, false⟩
  else if 6 < top then ⟨neg, 2 ^ fixBits - 1, -(fixBits : Int), false⟩
  else
    let (g, n) := expNeg m (e + 1)
    let one := 2 ^ fixBits * 2 ^ n
    quotApprox neg (one - g) (one + g) 0

/-- 1 / (1 + e^(-x)) of a nonzero x (spec/07 R142). -/
def sigApprox (neg : Bool) (m : Nat) (e : Int) : Approx :=
  let top := (Nat.log2 m : Int) + e
  if 8 < top then
    if neg then ⟨false, 1, -1000, false⟩ else ⟨false, 2 ^ fixBits - 1, -(fixBits : Int), false⟩
  else
    let (g, n) := if top < -150 then (2 ^ fixBits, 0) else expNeg m e
    let one := 2 ^ fixBits * 2 ^ n
    let a := if neg then quotApprox false g (one + g) 0 else quotApprox false one (one + g) 0
    { a with exact := false, m := a.m ||| 1 }

/-- 1 / x (spec/07 R142). -/
def rcpApprox (neg : Bool) (m : Nat) (e : Int) : Approx := quotApprox neg 1 m (-e)

/-- 1 / sqrt x for x > 0 (spec/07 R142). -/
def rsqApprox (m : Nat) (e : Int) : Approx :=
  let odd := (e % 2).toNat
  let m' := m * 2 ^ odd
  -- 2^s / m' under the root, s even
  let s := 2 * (160 + Nat.log2 m')
  let q := 2 ^ s / m'
  let r := isqrt q
  let same := decide (r * r * m' = 2 ^ s)
  ⟨false, 2 * r + (if same then 0 else 1), -((e - odd) / 2) - s / 2 - 1, same⟩

/-- The six functions with a bound (spec/07 R142). -/
inductive Special
  | rcp | rsq | exp2 | log2 | tanh | sig
  deriving DecidableEq, Repr

/-- The f32 result of a function for an operand value, before any narrowing (spec/07 R142). `x` is
the operand as an f32 code. -/
def specialF32 (fn : Special) (x : Nat) (v : FVal) : Nat × FFlags :=
  match fn, v with
  | _, .nan => (nanOf .f32, .none)
  | .rcp, .inf neg => (zeroOf .f32 neg, .none)
  | .rcp, .fin neg m e =>
    if m = 0 then (infOf .f32 neg, { dz := true })
    else boundedF32 1 Config.rcpValue x (rcpApprox neg m e)
  | .rsq, .inf neg => if neg then (nanOf .f32, { nv := true }) else (zeroOf .f32 false, .none)
  | .rsq, .fin neg m e =>
    if m = 0 then (infOf .f32 neg, { dz := true })
    else if neg then (nanOf .f32, { nv := true })
    else boundedF32 1 Config.rsqValue x (rsqApprox m e)
  | .exp2, .inf neg => (if neg then zeroOf .f32 false else infOf .f32 false, .none)
  | .exp2, .fin neg m e =>
    if m = 0 then (0x3F800000, .none)
    else boundedF32 2 Config.exp2Value x (exp2Approx neg m e)
  | .log2, .inf neg => if neg then (nanOf .f32, { nv := true }) else (infOf .f32 false, .none)
  | .log2, .fin neg m e =>
    if m = 0 then (infOf .f32 true, { dz := true })
    else if neg then (nanOf .f32, { nv := true })
    else
      match log2Approx m e with
      | none => (zeroOf .f32 false, .none)
      | some a => boundedF32 2 Config.log2Value x a
  | .tanh, .inf neg => (signCode (fmtOf .f32) neg 0x3F800000, .none)
  | .tanh, .fin neg m e =>
    if m = 0 then (zeroOf .f32 neg, .none)
    else boundedF32 4 Config.tanhValue x (tanhApprox neg m e)
  | .sig, .inf neg => (if neg then zeroOf .f32 false else 0x3F800000, .none)
  | .sig, .fin neg m e =>
    if m = 0 then (0x3F000000, .none)
    else boundedF32 4 Config.sigValue x (sigApprox neg m e)

/-- A special function on an element (spec/07 R142, spec/09 R174): for f16 and bf16 the f32 result of
the flushed operand is rounded once to the type in the mode. -/
def specialCode (fn : Special) (t : Ty) (rm : Rm) (code : Nat) : Nat × FFlags :=
  let v := fvalIn t code
  let x := (convertTo .f32 .rne false v).1
  let (y, fl) := specialF32 fn x v
  if t = .f32 then (y, fl)
  else
    match fvalOf .f32 y with
    | .nan => (nanOf t, fl)
    | .inf neg => (infOf t neg, fl)
    | .fin neg m e =>
      if m = 0 then (zeroOf t neg, fl)
      else
        let (c, g) := deliverFin t rm false (tyFlush t) fl.nx neg m e
        (c, { nv := fl.nv, dz := fl.dz, ovf := fl.ovf || g.ovf, unf := g.unf, nx := g.nx || fl.nx })

/-- The class mask of `vfclass` (spec/09 R174): the input is not flushed. -/
def classCode (t : Ty) (code : Nat) : Nat :=
  match fvalOf t code with
  | .nan => 2 ^ 8
  | .inf neg => if neg then 2 ^ 0 else 2 ^ 7
  | .fin neg m _ =>
    if m = 0 then (if neg then 2 ^ 3 else 2 ^ 4)
    else if isSubnormal t code then (if neg then 2 ^ 2 else 2 ^ 5)
    else (if neg then 2 ^ 1 else 2 ^ 6)

end Sys2Proof.Machine
end

