-- ==== Sys2Proof/Machine/VecOps.lean ====
section
/-! DEFINITION. What the vector instructions compute, on elements and whole registers (spec/08 R155
to R163, spec/09 R170 to R183). Reading operands and writing results is Machine/Operands. -/

namespace Sys2Proof.Machine

/-- An exact integer function of two elements, wrapped to the type. -/
def intWrap2 (t : Ty) (f : Int → Int → Int) (a b : Nat) : Nat :=
  wrapN (tyWidth t) (f (tyVal t a) (tyVal t b))

/-- An exact integer function of two elements, saturated or wrapped. -/
def intNarrow2 (sat : Bool) (t : Ty) (f : Int → Int → Int) (a b : Nat) : Nat :=
  narrowN sat (tySigned t) (tyWidth t) (f (tyVal t a) (tyVal t b))

/-- The high half of the exact product (spec/08 R155). -/
def mulHigh (w : Nat) (a b : Int) : Int := a * b / (2 ^ w : Nat)

/-- The count of a shift (spec/08 R156): imm14[5:0] in the immediate form, else min(b, 63). -/
def shiftCount (imm : BitVec 14) (w b : Nat) : Nat :=
  if imm.getLsbD 13 then (imm.extractLsb' 0 6).toNat else min (zextN w b) 63

/-- `vshl` on an element (spec/08 R156). -/
def shlElem (sat : Bool) (t : Ty) (a c : Nat) : Nat :=
  narrowN sat (tySigned t) (tyWidth t) (tyVal t a * (2 ^ c : Nat))

/-- `vshr` on an element (spec/08 R156). -/
def shrElem (t : Ty) (a c : Nat) : Nat := wrapN (tyWidth t) (tyVal t a / (2 ^ c : Nat))

/-- `vrshr` on an element (spec/08 R156). -/
def rshrElem (t : Ty) (a c : Nat) : Nat := wrapN (tyWidth t) (rshrUp (tyVal t a) c)

/-- A condition of `vcmp` (spec/08 R159). -/
def icond (c : Nat) (a b : Int) : Bool :=
  match c with
  | 0 => a == b
  | 1 => a != b
  | 2 => decide (a < b)
  | 3 => decide (a ≤ b)
  | 4 => decide (b < a)
  | _ => decide (b ≤ a)

/-- The unsigned or signed accumulator type of a widening product (spec/08 R157). -/
def accSigned (t : Ty) : Bool := tySigned t

/-- Source element j of `vmul.w` and `vmla.w`: the exact product (spec/08 R157). -/
def wideProd (t : Ty) (a b : VReg) (j : Nat) : Int :=
  tyVal t (elem (tyWidth t) j a) * tyVal t (elem (tyWidth t) j b)

/-- Register r of the group that `vmul.w` writes (spec/08 R157). -/
def vmulWReg (t : Ty) (p : PReg) (a b old : VReg) (r : Nat) : VReg :=
  widenReg 32 (tyK t) r p old fun j => wrapN 32 (wideProd t a b j)

/-- Register r of the group that `vmla.w` writes (spec/08 R157). -/
def vmlaWReg (sat : Bool) (t : Ty) (p : PReg) (a b old : VReg) (r : Nat) : VReg :=
  widenReg 32 (tyK t) r p old fun j =>
    narrowN sat (accSigned t) 32
      (fieldI (accSigned t) 32 (elem 32 (j / tyK t) old) + wideProd t a b j)

/-- The sum of four products of `vdot4` (spec/08 R158). -/
def dotSum (ta tb : Ty) (a b : VReg) (j : Nat) : Int :=
  ((List.range 4).map fun q =>
    tyVal ta (elem 8 (4 * j + q) a) * tyVal tb (elem 8 (4 * j + q) b)).foldl (· + ·) 0

/-- `vdot4` (spec/08 R158): the accumulator is n32 when both types are n8. -/
def vdot4Reg (sat : Bool) (ta tb : Ty) (p : PReg) (a b old : VReg) : VReg :=
  let sg := tySigned ta || tySigned tb
  underMask 32 p old fun j =>
    narrowN sat sg 32 (fieldI sg 32 (elem 32 j old) + dotSum ta tb a b j)

/-- The element count of a VPRED instruction: 1,024 for .b (spec/08 R161). -/
def predCount (t : Ty) : Nat := if t = .b then 1024 else tyCount t

/-- The lowest active set bit below n (spec/08 R161). -/
def firstBit (n : Nat) (f : Nat → Bool) : Option Nat := (List.range n).find? f

/-- A flag register (spec/08 R150). -/
structure Flag where
  any : Bool
  all : Bool
  none : Bool
  count : Nat
  deriving DecidableEq, Repr

/-- The result of a `ptest` over no active element (spec/08 R150). -/
def Flag.start : Flag := ⟨false, true, true, 0⟩

/-- `ptest` (spec/08 R162). -/
def ptestFlag (n : Nat) (p pa : PReg) : Flag :=
  let act := (List.range n).filter fun j => bitP p j
  let cnt := (act.filter fun j => bitP pa j).length
  ⟨decide (0 < cnt), decide (cnt = act.length), decide (cnt = 0), cnt⟩

/-- The results of a list of elements with their flags joined. -/
def orFlags (l : List FFlags) : FFlags := l.foldl FFlags.or FFlags.none

/-- The flags that the active elements of an instruction raise. -/
def activeFlags (w : Nat) (p : PReg) (f : Nat → Nat × FFlags) : FFlags :=
  orFlags (((List.range (4096 / w)).filter fun j => bitP p j).map fun j => (f j).2)

/-- A floating result under a mask: the register and the flags of its active elements. -/
def floatMask (w : Nat) (p : PReg) (old : VReg) (f : Nat → Nat × FFlags) : VReg × FFlags :=
  (underMask w p old fun j => (f j).1, activeFlags w p f)

/-- `vfadd` on an element (spec/09 R170). -/
def faddElem (t : Ty) (rm : Rm) (sat : Bool) (a b : Nat) : Nat × FFlags :=
  let (v, fl) := sumVals rm [fvalIn t a, fvalIn t b]
  deliver t rm sat v fl

/-- `vfsub` on an element. -/
def fsubElem (t : Ty) (rm : Rm) (sat : Bool) (a b : Nat) : Nat × FFlags :=
  let (v, fl) := sumVals rm [fvalIn t a, (fvalIn t b).negate]
  deliver t rm sat v fl

/-- `vfmul` on an element. -/
def fmulElem (t : Ty) (rm : Rm) (sat : Bool) (a b : Nat) : Nat × FFlags :=
  let (v, fl) := mulVals (fvalIn t a) (fvalIn t b)
  deliver t rm sat v fl

/-- `vfma` on an element, one rounding. -/
def fmaElem (t : Ty) (rm : Rm) (sat : Bool) (a b c : Nat) : Nat × FFlags :=
  let (v, fl) := fmaVals rm (fvalIn t a) (fvalIn t b) (fvalIn t c)
  deliver t rm sat v fl

/-- `vfnma` on an element: c - a x b, one rounding. -/
def fnmaElem (t : Ty) (rm : Rm) (sat : Bool) (a b c : Nat) : Nat × FFlags :=
  let (v, fl) := fmaVals rm (fvalIn t a).negate (fvalIn t b) (fvalIn t c)
  deliver t rm sat v fl

/-- The code of a value that some operand of the type already holds: no rounding, no flag. -/
def exactCode (t : Ty) (v : FVal) : Nat := (deliver t .rne false v .none).1

/-- `vfmin` and `vfmax` on an element (spec/09 R172). -/
def fminmaxElem (t : Ty) (max : Bool) (a b : Nat) : Nat :=
  let x := fvalIn t a
  let y := fvalIn t b
  if x.isNan || y.isNan then nanOf t
  else if max then exactCode t (if lessZ x y then y else x)
  else exactCode t (if lessZ y x then y else x)

/-- `vfabs` on an element (spec/09 R171). -/
def fabsElem (t : Ty) (a : Nat) : Nat :=
  match fvalIn t a with
  | .nan => nanOf t
  | .inf _ => infOf t false
  | .fin _ m e => exactCode t (.fin false m e)

/-- `vfneg` on an element (spec/09 R171). -/
def fnegElem (t : Ty) (a : Nat) : Nat :=
  match fvalIn t a with
  | .nan => nanOf t
  | v => exactCode t v.negate

/-- One element conversion (spec/09 R175, R176). -/
def cvtElem (td ts : Ty) (rm : Rm) (sat : Bool) (a : Nat) : Nat × FFlags :=
  if tyInt td && tyInt ts then
    (narrowN sat (tySigned td) (tyWidth td) (tyVal ts a), .none)
  else convertTo td rm sat (fvalOf ts a)

/-- The packed shift and zero point applied to one s32 value (spec/09 R177, spec/07 R141). -/
def requant (t : Ty) (x m c : Nat) : Nat :=
  satN (tySigned t) (tyWidth t)
    (rshrUp (sextI 32 x * sextI 32 m) (31 + c % 32) + sextI 16 (c / 65536))

/-- `vperm` on an element (spec/09 R178). -/
def permElem (t : Ty) (off : Nat) (a b : VReg) (j : Nat) : Nat :=
  let i := elem (tyWidth t) j b + off
  if i < tyCount t then elem (tyWidth t) i a else 0

/-- `vslideup` on an element (spec/09 R179). -/
def slideUpElem (t : Ty) (c : Nat) (a b : VReg) (j : Nat) : Nat :=
  if c ≤ j then elem (tyWidth t) (j - c) a else elem (tyWidth t) (tyCount t - c + j) b

/-- `vslidedn` on an element (spec/09 R179). -/
def slideDnElem (t : Ty) (c : Nat) (a b : VReg) (j : Nat) : Nat :=
  if j + c < tyCount t then elem (tyWidth t) (j + c) a
  else elem (tyWidth t) (j + c - tyCount t) b

/-- Element i of the sequence that `vzip` forms (spec/09 R180). -/
def zipElem (t : Ty) (a b : VReg) (i : Nat) : Nat :=
  if i % 2 = 0 then elem (tyWidth t) (i / 2) a else elem (tyWidth t) (i / 2) b

/-- Element i of the sequence of a pair (spec/09 R180). -/
def pairElem (t : Ty) (a0 a1 : VReg) (i : Nat) : Nat :=
  if i < tyCount t then elem (tyWidth t) i a0 else elem (tyWidth t) (i - tyCount t) a1

/-- The active elements of a register, in ascending order. -/
def activeElems (t : Ty) (p : PReg) (a : VReg) : List Nat :=
  ((List.range (tyCount t)).filter fun j => bitP p j).map fun j => elem (tyWidth t) j a

/-- A register with one value in element 0 and zeros above (spec/09 R182). -/
def elem0 (w x : Nat) : VReg := BitVec.ofNat 4096 (x % 2 ^ w)

/-- `vredsum` (spec/09 R182): an s32 or n32 lane, or an f32 lane rounded once. -/
def redsumVal (t : Ty) (rm : Rm) (sat : Bool) (p : PReg) (a b : VReg) : Nat × FFlags :=
  if tyInt t then
    let sg := tySigned t
    let s := ((activeElems t p a).map (tyVal t)).foldl (· + ·) (fieldI sg 32 (elem 32 0 b))
    (narrowN sat sg 32 s, .none)
  else
    let ts := fvalOf .f32 (elem 32 0 b) :: (activeElems t p a).map (fvalIn t)
    let (v, fl) := sumVals rm ts
    deliver .f32 rm sat v fl

/-- The larger or smaller of two elements of a type (spec/08 R155, spec/09 R172). -/
def pickElem (t : Ty) (max : Bool) (a b : Nat) : Nat :=
  if tyInt t then
    if max then (if tyVal t a < tyVal t b then b else a)
    else (if tyVal t b < tyVal t a then b else a)
  else fminmaxElem t max a b

/-- An element taken as an operand: flushed where the type flushes. -/
def inElem (t : Ty) (a : Nat) : Nat := if tyInt t then a else exactCode t (fvalIn t a)

/-- `vredmax` and `vredmin` (spec/09 R182). -/
def redpickVal (t : Ty) (max : Bool) (p : PReg) (a b : VReg) : Nat :=
  (activeElems t p a).foldl (pickElem t max) (inElem t (elem (tyWidth t) 0 b))

/-- The prefix sums of `vscan` on integers: t, then each active element (spec/09 R183). -/
def scanInt (t : Ty) (sat : Bool) (p : PReg) (a old : VReg) : Nat → Nat → Int → List Nat
  | 0, _, _ => []
  | n + 1, j, acc =>
    if bitP p j then
      let acc' := acc + tyVal t (elem (tyWidth t) j a)
      narrowN sat (tySigned t) (tyWidth t) acc' :: scanInt t sat p a old n (j + 1) acc'
    else elem (tyWidth t) j old :: scanInt t sat p a old n (j + 1) acc

/-- The prefix sums of `vscan` on f32: the terms so far are kept as a list (spec/09 R183). nv is
raised once, where the opposing infinities first meet. -/
def scanF32 (rm : Rm) (sat : Bool) (p : PReg) (a old : VReg) :
    Nat → Nat → List FVal → List (Nat × FFlags)
  | 0, _, _ => []
  | n + 1, j, ts =>
    if bitP p j then
      let ts' := fvalOf .f32 (elem 32 j a) :: ts
      let (v, fl) := sumVals rm ts'
      -- the exact prefix stands for its terms; a NaN stays
      let keep := match v with
        | .fin _ 0 _ => ts'
        | v => [v]
      deliver .f32 rm sat v fl :: scanF32 rm sat p a old n (j + 1) keep
    else (elem 32 j old, .none) :: scanF32 rm sat p a old n (j + 1) ts

/-- `vscan` (spec/09 R183). -/
def scanReg (t : Ty) (rm : Rm) (sat : Bool) (p : PReg) (a b old : VReg) : VReg × FFlags :=
  if t = .f32 then
    let l := scanF32 rm sat p a old 128 0 [fvalOf .f32 (elem 32 0 b)]
    (BitVec.ofNat 4096 (packFields 32 (l.map (·.1))), orFlags (l.map (·.2)))
  else
    let l := scanInt t sat p a old (tyCount t) 0 (tyVal t (elem (tyWidth t) 0 b))
    (BitVec.ofNat 4096 (packFields (tyWidth t) l), .none)

/-- The f32 reduction of a guard over the 128 lanes under a predicate (spec/13 R268): the largest
magnitude, as an f32 code with the sign cleared. -/
def laneList (p : PReg) (a : VReg) : List Nat := activeElems .f32 p a

end Sys2Proof.Machine
end

