-- ==== Sys2Proof/Machine/MatOps.lean ====
section
/-! DEFINITION. Latch entries, accumulator tiles and what the matrix engine computes on them
(spec/06 R115 to R117, spec/07 R139 to R141, spec/10 R186 to R205). -/

namespace Sys2Proof.Machine

/-- A vector of n entries from a function of the index. -/
def tabulate {α : Type} (n : Nat) (f : Fin n → α) : Vector α n :=
  ⟨⟨(List.finRange n).map f⟩, by simp⟩

/-- The tile values of one slot (spec/10 R189): 64 rows of 128 lanes, a mark for each element, and
the row-sum sidecar of 64 lanes of 32 bits. -/
structure Tile where
  rows : Vector VReg 64
  marks : Vector (BitVec 128) 64
  rsum : BitVec 2048
  deriving DecidableEq, Repr

/-- The values of a tile that holds no slot (spec/10 R189). -/
def Tile.zero : Tile := ⟨Vector.replicate 64 0, Vector.replicate 64 0, 0⟩

/-- A qa entry (spec/06 R110, R115 to R117): 64 rows of 64 bytes, one mask bit per byte, 256 scale
bytes, and its region. -/
structure QaEntry where
  data : BitVec 32768
  mask : BitVec 4096
  scales : BitVec 2048
  epoch : Nat
  deriving DecidableEq, Repr

/-- A qb entry (spec/06 R115 to R117): K rows at a pitch of 8,192 / K bytes, its mask, 512 scale
bytes, the K and the element width it records, and its region. -/
structure QbEntry where
  data : BitVec 65536
  mask : BitVec 8192
  scales : BitVec 4096
  k : Nat
  width : Nat
  epoch : Nat
  deriving DecidableEq, Repr

/-- M of a shape (spec/02 R33). -/
def shapeM (o : MX) : Nat := 16 * ((o.shape.extractLsb' 3 2).toNat + 1)

/-- N of a shape (spec/02 R33). -/
def shapeN (o : MX) : Nat := 16 * 2 ^ (o.shape.extractLsb' 1 2).toNat

/-- K of a shape for the class of the operand types (spec/02 R33, spec/10 R186). -/
def shapeK (o : MX) : Nat :=
  let base := match matClass o.aty with
    | some 4 => 64
    | some 16 => 16
    | _ => 32
  if o.shape.getLsbD 0 then 2 * base else base

/-- The group size G (spec/10 R186). -/
def groupG (o : MX) : Nat := if matClass o.aty = some 16 then 16 else 32

/-- The number of groups of an `mma`. -/
def groupCount (o : MX) : Nat := shapeK o / groupG o

/-- A floating tile (spec/10 R186). -/
def tileFloat (o : MX) : Bool := tyFloat o.aty || tyFloat o.bty

/-- One operand element: its code and whether it is a structural zero. -/
structure MatElem where
  code : Nat
  zero : Bool
  deriving DecidableEq, Repr

/-- Element k of row i of A (spec/10 R188). -/
def elemA (a : QaEntry) (t : Ty) (i k : Nat) : MatElem :=
  let w := tyWidth t
  ⟨a.data.toNat / 2 ^ (512 * i + w * k) % 2 ^ w, a.mask.getLsbD (64 * i + w * k / 8)⟩

/-- Element n of row k of B, at the pitch of the entry's K (spec/10 R188, spec/06 R115). -/
def elemB (b : QbEntry) (t : Ty) (k n : Nat) : MatElem :=
  let w := tyWidth t
  let at8 := (8192 / b.k) * k
  ⟨b.data.toNat / 2 ^ (8 * at8 + w * n) % 2 ^ w, b.mask.getLsbD (at8 + w * n / 8)⟩

/-- The exact product of two elements (spec/10 R188, spec/07 R139): exactly 0 where either is a
structural zero, else a NaN where a scale is 0xFF. -/
def matProd (ta tb : Ty) (nanScale : Bool) (a b : MatElem) : FVal :=
  if a.zero || b.zero then .fin false 0 0
  else if nanScale then .nan
  else (mulVals (fvalOf ta a.code) (fvalOf tb b.code)).1

/-- The integer product of two elements; a structural zero gives 0. -/
def matProdI (ta tb : Ty) (a b : MatElem) : Int :=
  if a.zero || b.zero then 0 else tyVal ta a.code * tyVal tb b.code

/-- A value times 2^e. -/
def FVal.scale (v : FVal) (k : Int) : FVal :=
  match v with
  | .fin n m e => .fin n m (e + k)
  | v => v

/-- Scale byte of row or column i for block b (spec/06 R117). -/
def scaleByte {n : Nat} (s : BitVec n) (i b : Nat) : Nat := s.toNat / 2 ^ (8 * (4 * i + b)) % 256

/-- The products of group g for element [i][n]. -/
def groupProds (o : MX) (a : QaEntry) (b : QbEntry) (g i n : Nat) : List FVal :=
  let blk := g * groupG o / 32
  let sa := scaleByte a.scales i blk
  let sb := scaleByte b.scales n blk
  let nanScale := o.flags.getLsbD 3 && (sa == 255 || sb == 255)
  (List.range (groupG o)).map fun q =>
    matProd o.aty o.bty nanScale (elemA a o.aty i (g * groupG o + q))
      (elemB b o.bty (g * groupG o + q) n)

/-- The exponent that the block scales of group g add (spec/07 R140). -/
def groupScale (o : MX) (a : QaEntry) (b : QbEntry) (g i n : Nat) : Int :=
  if o.flags.getLsbD 3 then
    let blk := g * groupG o / 32
    (scaleByte a.scales i blk : Int) + (scaleByte b.scales n blk : Int) - 254
  else 0

/-- A group added to a floating element (spec/07 R140): both roundings to nearest even in f32. -/
def addGroupF (o : MX) (a : QaEntry) (b : QbEntry) (g i n c : Nat) : Nat :=
  let s := (sumVals .rne (groupProds o a b g i n)).1.scale (groupScale o a b g i n)
  let s32 := match s with
    | .fin _ 0 _ => 0
    | s => rneF32 s
  rneF32 (sumVals .rne [fvalOf .f32 c, fvalOf .f32 s32]).1

/-- The integer sum of a group (spec/07 R140). -/
def groupSumI (o : MX) (a : QaEntry) (b : QbEntry) (g i n : Nat) : Int :=
  ((List.range (groupG o)).map fun q =>
    matProdI o.aty o.bty (elemA a o.aty i (g * groupG o + q))
      (elemB b o.bty (g * groupG o + q) n)).foldl (· + ·) 0

/-- The new element of [i][n] after group g, from c. -/
def groupElemNew (o : MX) (a : QaEntry) (b : QbEntry) (g i n c : Nat) : Nat :=
  if tileFloat o then addGroupF o a b g i n c
  else narrowN (o.flags.getLsbD 0) true 32 (sextI 32 c + groupSumI o a b g i n)

/-- Whether group g clamps element [i][n] (spec/07 R140). -/
def groupClamps (o : MX) (a : QaEntry) (b : QbEntry) (g i n c : Nat) : Bool :=
  !tileFloat o && o.flags.getLsbD 0 &&
    decide (clampI true 32 (sextI 32 c + groupSumI o a b g i n)
      ≠ sextI 32 c + groupSumI o a b g i n)

/-- The row sum of A over group g (spec/10 R199). -/
def groupRowSum (o : MX) (a : QaEntry) (g i : Nat) : Int :=
  ((List.range (groupG o)).map fun q =>
    let x := elemA a o.aty i (g * groupG o + q)
    if x.zero then 0 else tyVal o.aty x.code).foldl (· + ·) 0

/-- Row i of a tile's elements. -/
def Tile.row (t : Tile) (i : Nat) : VReg := t.rows[i]?.getD 0

/-- The marks of row i. -/
def Tile.mark (t : Tile) (i : Nat) : BitVec 128 := t.marks[i]?.getD 0

/-- Sidecar entry i. -/
def Tile.side (t : Tile) (i : Nat) : Nat := t.rsum.toNat / 2 ^ (32 * i) % 2 ^ 32

/-- A row of marks whose bit n is f n. -/
def buildMarks (f : Nat → Bool) : BitVec 128 :=
  BitVec.ofNat 128 (packFields 1 ((List.range 128).map fun n => if f n then 1 else 0))

/-- A sidecar whose entry i is f i. -/
def buildSide (f : Nat → Nat) : BitVec 2048 :=
  BitVec.ofNat 2048 (packFields 32 ((List.range 64).map f))

/-- The clearing of acc = 0, which belongs to the first group (spec/10 R199). -/
def Tile.clearMN (t : Tile) (m n : Nat) : Tile :=
  { rows := tabulate 64 fun i =>
      if i.val < m then buildV 32 fun q => if q < n then 0 else elem 32 q (t.row i) else t.row i
    marks := tabulate 64 fun i =>
      if i.val < m then buildMarks fun q => decide (n ≤ q) && (t.mark i).getLsbD q else t.mark i
    rsum := buildSide fun i => if i < m then 0 else t.side i }

/-- One step of an `mma`: group g of R199, all its effects together. -/
def mmaStep (o : MX) (a : QaEntry) (b : QbEntry) (g : Nat) (t0 : Tile) : Tile :=
  let m := shapeM o
  let n := shapeN o
  let t := if g = 0 && !o.flags.getLsbD 2 then t0.clearMN m n else t0
  { rows := tabulate 64 fun i =>
      if i.val < m then
        buildV 32 fun q =>
          if q < n then groupElemNew o a b g i q (elem 32 q (t.row i)) else elem 32 q (t.row i)
      else t.row i
    marks := tabulate 64 fun i =>
      if i.val < m then
        buildMarks fun q => (t.mark i).getLsbD q ||
          (decide (q < n) && groupClamps o a b g i q (elem 32 q (t.row i)))
      else t.mark i
    rsum := if o.flags.getLsbD 1 then
        buildSide fun i =>
          if i < m then wrapN 32 (sextI 32 (t.side i) + groupRowSum o a g i) else t.side i
      else t.rsum }

/-- The tile after groups 0 to g - 1 of an `mma` (spec/10 R199). -/
def mmaGroups (o : MX) (a : QaEntry) (b : QbEntry) (t : Tile) : Nat → Tile
  | 0 => t
  | g + 1 => mmaStep o a b g (mmaGroups o a b t g)

/-- `mwr` (spec/10 R201): register r to row first + r, whose marks it clears. -/
def mwrTile (first rows : Nat) (src : Nat → VReg) (t : Tile) : Tile :=
  { t with
    rows := tabulate 64 fun i =>
      if first ≤ i.val ∧ i.val < first + rows then src (i.val - first) else t.row i
    marks := tabulate 64 fun i =>
      if first ≤ i.val ∧ i.val < first + rows then 0 else t.mark i }

/-- The marks predicate of `mrd` (spec/10 R202): bit r x 128 + n is the mark of [first + r][n]. -/
def mrdMarks (first rows : Nat) (t : Tile) : PReg :=
  buildP 1024 fun j => decide (j / 128 < rows) && (t.mark (first + j / 128)).getLsbD (j % 128)

/-- The sidecar as `mrd.rs` writes it: lanes 64 to 127 are 0 (spec/10 R202). -/
def mrdSide (t : Tile) : VReg := buildV 32 fun i => if i < 64 then t.side i else 0

/-- Element e of the requantised drain, in row order (spec/10 R203). -/
def drainElem (ty : Ty) (first rows : Nat) (t : Tile) (m c : VReg) (e : Nat) : Nat :=
  if e / 128 < rows then
    requant ty (elem 32 (e % 128) (t.row (first + e / 128))) (elem 32 (e % 128) m)
      (elem 32 (e % 128) c)
  else 0

/-- Register r of the requantised drain (spec/10 R203). -/
def drainReg (ty : Ty) (first rows : Nat) (t : Tile) (m c : VReg) (r : Nat) : VReg :=
  buildV (tyWidth ty) fun j => drainElem ty first rows t m c (r * tyCount ty + j)

/-- What a checksum comparison needs of its `mma` (spec/10 R193): the operands, the tile before and
the slot that holds the result. -/
structure ChecksumDue where
  op : MX
  a : QaEntry
  b : QbEntry
  old : Tile
  new : Tile
  slot : Nat
  deriving DecidableEq, Repr

/-- The value of an element of the tile before: 0 when acc = 0 (spec/10 R193). -/
def coldElem (d : ChecksumDue) (i n : Nat) : Nat :=
  if d.op.flags.getLsbD 2 then elem 32 n (d.old.row i) else 0

/-- All products of one element, over K, each with its scale (spec/10 R193). -/
def allProds (d : ChecksumDue) (i n : Nat) : List FVal :=
  (List.range (groupCount d.op)).flatMap fun g =>
    (groupProds d.op d.a d.b g i n).map fun v => v.scale (groupScale d.op d.a d.b g i n)

/-- Whether a value is finite. -/
def FVal.finite : FVal → Bool
  | .fin _ _ _ => true
  | _ => false

/-- The magnitude of a value. -/
def FVal.abs : FVal → FVal
  | .fin _ m e => .fin false m e
  | v => v

/-- The comparison of one row or column on an integer tile, modulo 2^32; a marked element takes it
out (spec/10 R193). -/
def passI (d : ChecksumDue) (cells : List (Nat × Nat)) : Bool :=
  if cells.any fun c => (d.new.mark c.1).getLsbD c.2 then true
  else
    let p := (cells.map fun c =>
      ((List.range (groupCount d.op)).map fun g => groupSumI d.op d.a d.b g c.1 c.2).foldl
        (· + ·) 0).foldl (· + ·) 0
    let o := (cells.map fun c =>
      sextI 32 (elem 32 c.2 (d.new.row c.1)) - sextI 32 (coldElem d c.1 c.2)).foldl (· + ·) 0
    wrapN 32 p == wrapN 32 o

/-- The elements of a row or column are what R140 gives (spec/10 R193). -/
def asGiven (d : ChecksumDue) (cells : List (Nat × Nat)) : Bool :=
  let t := mmaGroups d.op d.a d.b d.old (groupCount d.op)
  cells.all fun c => elem 32 c.2 (d.new.row c.1) == elem 32 c.2 (t.row c.1)

/-- The comparison of one row or column on a floating tile: |O - P| <= 2^-10 T; a NaN or infinity
takes it out, and a result that is as R140 gives passes (spec/10 R193). -/
def passF (d : ChecksumDue) (cells : List (Nat × Nat)) : Bool :=
  let prods := cells.flatMap fun c => allProds d c.1 c.2
  let olds := cells.map fun c => fvalOf .f32 (coldElem d c.1 c.2)
  let news := cells.map fun c => fvalOf .f32 (elem 32 c.2 (d.new.row c.1))
  let all := prods ++ olds ++ news
  if all.any fun v => !v.finite then true
  else
    let base := minExp all
    let diff := sumAt base news - sumAt base olds - sumAt base prods
    decide (1024 * (diff.natAbs : Int) ≤ sumAt base (all.map FVal.abs)) || asGiven d cells

/-- One row or column. -/
def passCells (d : ChecksumDue) (cells : List (Nat × Nat)) : Bool :=
  if tileFloat d.op then passF d cells else passI d cells

/-- The checksum comparison of an `mma` (spec/10 R193): every column n < N and every row i < M. -/
def checksumPass (d : ChecksumDue) : Bool :=
  ((List.range (shapeN d.op)).all fun n =>
    passCells d ((List.range (shapeM d.op)).map fun i => (i, n))) &&
  ((List.range (shapeM d.op)).all fun i =>
    passCells d ((List.range (shapeN d.op)).map fun n => (i, n)))

/-- A tile with one bit of one element inverted. -/
def flipBit (t : Tile) (u : Upset) : Tile :=
  { t with rows := tabulate 64 fun i =>
      if i = u.row then t.row i ^^^ (1#4096 <<< (32 * u.col.val + u.bit.val)) else t.row i }

end Sys2Proof.Machine
end

