-- ==== Sys2Proof/Machine/State.lean ====
section
/-! DEFINITION. The state of the part as plain data, and the state after reset. Reset values that
the spec does not give are named in notes/assumptions/3.md. -/

namespace Sys2Proof.Machine

/-- A position of the loop stack (spec/12 R229). -/
structure LoopEntry where
  valid : Bool
  fixed : Bool
  count : Word32
  index : Word32
  body : Word
  exit : Word
  deriving DecidableEq, Repr

/-- An invalid position. -/
def LoopEntry.empty : LoopEntry := ⟨false, false, 0, 0, 0, 0⟩

/-- The front's own part of the checkpoint (spec/13 R256). -/
structure FrontCk where
  loops : Vector LoopEntry 6
  rvb : BitVec 5
  rpb : BitVec 3
  gtol : Word32
  deriving DecidableEq, Repr

/-- Token counters k1 to k15 with their reservations (index 0 unused), and the six neighbour
channels: L to C, C to S, S to L, C to L, S to C, L to S (spec/02 R26, spec/06 R113). -/
structure Tokens where
  k : Vector Nat 16
  res : Vector Nat 16
  ch : Vector Nat 6
  deriving DecidableEq, Repr

/-- The scale staging buffers (spec/06 R117). -/
structure Staging where
  a : BitVec 2048
  b : BitVec 4096
  deriving DecidableEq, Repr

/-- The checkpoint of R256, which is also the trap frame of spec/18 R357. -/
structure Checkpoint where
  front : FrontCk
  fpc : BitVec 7
  tok : Tokens
  flags : Vector Flag 4
  stage : Staging
  deriving DecidableEq, Repr

/-- The registers of a bank: the program counter, the scalar, vector and predicate files, by
physical number (spec/12 R227, spec/08 R144, R146). -/
structure Regs where
  pc : Word
  s : Vector Word 32
  v : Vector VReg 48
  p : Vector PReg 16
  deriving DecidableEq, Repr

/-- The trap registers and the frame (spec/12 R243, spec/18 R357); `fatal` while the trap under way
has a fatal cause, whatever the handler writes to TCAUSE (spec/18 R354, R359), and `unc` while that is uncorrectable
data (spec/13 R266); `resume` is the epoch
that the interrupted region would have had, by which its claims are kept (spec/14 R281). -/
structure TrapRegs where
  tvec : Word
  tcause : Word
  tpc : Word
  tval : Word
  tscr0 : Word
  tscr1 : Word
  kind : Bool
  inh : Bool
  fatal : Bool
  unc : Bool
  resume : Nat
  frame : Option Checkpoint
  deriving DecidableEq, Repr

/-- CTXINFO and OPINFO, but for core and bank (spec/12 R242). -/
structure Ident where
  gen : Word32
  sys : Bool
  task : Bool
  cls : BitVec 2
  queue : QueueId
  rx : Bool
  fb : Bool
  gd : Bool
  card : BitVec 16
  tag : Word32
  deriving DecidableEq, Repr

/-- The counters and guard registers of a context (spec/12 R245, spec/05 R90, spec/06 R111, spec/10
R195, spec/15 R308). -/
structure Counters where
  gres : Word32
  rplTotal : Word32
  att : Nat
  lwait : Word32
  bkstall : Word
  qstall : Word
  clamp : Word
  deriving DecidableEq, Repr

/-- The heap triple (spec/12 R244). -/
structure Heap where
  base : Word
  len : Word
  off : Word
  deriving DecidableEq, Repr

/-- The three streams. -/
inductive Stream
  | l | c | s
  deriving DecidableEq, Repr

/-- What an instruction that has begun found: the vector and predicate files and memory, by parts of which it may
still read what they held then (spec/06 R106, spec/15 R302); `draw` numbers the free values that choose. The files are
`fixed` once a later instruction of the stream has gone past it that writes a register it reads: then it reads the sample
alone. -/
structure Sample where
  v : Vector VReg 48
  p : Vector PReg 16
  mem : List Host.Cell
  draw : Nat
  fixed : Bool
  deriving DecidableEq, Repr

/-- An instruction in a stream queue with what the front captured for it (spec/06 R105): its stream, its scalar
sources, the rotation bases, its region, its place in program order, its address, the staged scales of a load
that waits for a latch slot (R117), whether it has begun (spec/02 R27), and what it found as it began; `aside` while it
is a store whose lines for slices are to go out later (spec/11 R208). -/
structure QEntry where
  instr : Instr
  st : Stream
  a : Word
  b : Word
  d : Word
  rvb : BitVec 5
  rpb : BitVec 3
  epoch : Nat
  pos : Nat
  pc : Word
  stage : Option Staging
  begun : Bool
  aside : Bool
  sample : Option Sample
  deriving DecidableEq, Repr

/-- A line that a load has read while an earlier one of its stream is still aside (spec/15 R302). -/
structure ReadRec where
  pos : Nat
  line : Nat
  data : BitVec 512
  deriving DecidableEq, Repr

/-- An entry of qv or qs (spec/06 R108). -/
structure VEntry where
  data : VReg
  epoch : Nat
  deriving DecidableEq, Repr

/-- The stream queues and the operand queues of a context (spec/06 R104, R108); `parked` holds the
instructions that wait aside while their stream goes on: loads without a latch slot (R109), and what completes
later than what follows it (R104). -/
structure Queues where
  l : List QEntry
  c : List QEntry
  s : List QEntry
  parked : List QEntry
  qv : Vector (List VEntry) 4
  qs : Vector (List VEntry) 2
  qa : List QaEntry
  qb : List QbEntry
  deriving DecidableEq, Repr

/-- A fault that a region has found (spec/18 R354, R356): its cause and value, and its place in
program order. -/
structure FaultRec where
  cause : Nat
  tval : Word
  pos : Nat
  fetch : Bool
  pe : Bool
  deriving DecidableEq, Repr

/-- How a region has been closed (spec/13 R250). -/
inductive Closing
  | commit
  | guard (max : Bool)
  | trapi (imm : BitVec 36)
  | ebreak
  | done
  deriving DecidableEq, Repr

/-- What the C stream finds when it enters a region: FPC and the step counts of the tiles. -/
structure CEntry where
  fpc : BitVec 7
  steps : Vector Nat 6
  deriving DecidableEq, Repr

/-- A leaf translation in a TLB (spec/03 R55). -/
structure TlbEntry where
  asid : BitVec 8
  gl : Bool
  big : Bool
  vpage : Nat
  pa : Nat
  ex : Bool
  wr : Bool
  rd : Bool
  deriving DecidableEq, Repr

/-- Up to 64 bytes of one line under a nibble mask (spec/05 R88, spec/11 R210). -/
structure LineWrite where
  line : Nat
  data : BitVec 512
  mask : BitVec 128
  deriving DecidableEq, Repr

/-- An outstanding region (spec/13 R250 to R257): what a discard needs to restore the state at its
start. `lIn` and `cIn` are saved when the L or the C stream enters the region; the token counts are
restored by the changes the region made; `used` are the translations its accesses used (spec/03 R60), `sent` what it
has written to slices, and `bad` says that a value of it was wrong and is not yet reported (spec/13 R259). -/
structure Region where
  epoch : Nat
  start : Word
  front : FrontCk
  lIn : Option Staging
  cIn : Option CEntry
  dk : Vector Int 16
  dch : Vector Int 6
  undo : List (Nat × BitVec 1024)
  tiles : List (Fin 4 × Option Nat)
  count : Nat
  closed : Option Closing
  next : Word
  fault : Option FaultRec
  len : Nat
  began : Word
  claims : Nat
  used : List TlbEntry
  sent : List LineWrite
  bad : Bool
  deriving DecidableEq, Repr

/-- A result of `ptest` that the front may not yet see (spec/08 R151). -/
structure PtestRec where
  pos : Nat
  epoch : Nat
  f : Fin 4
  val : Flag
  deriving DecidableEq, Repr

/-- A posted request to another slice (spec/11 R209): `va` is the address it was formed from, `op` the
operator whose write it is (spec/15 R307), `epoch` its region. -/
structure Posted where
  w : LineWrite
  va : Word
  seq : Nat
  epoch : Nat
  op : Option Nat
  deriving DecidableEq, Repr

/-- A line for a slice of a store that its S stream has gone past (spec/11 R208, spec/15 R300): the place of the store in
program order, and the write. -/
structure Unsent where
  pos : Nat
  p : Posted
  deriving DecidableEq, Repr

/-- A request of the reduction buffer (spec/05 R97, R100, R101): the operation, the size, `.det` and the elements
as place and operand; `by_` is the operator whose write it is. -/
structure RedReq where
  by_ : Option Nat
  op : Nat
  wide : Bool
  det : Bool
  items : List (Nat × Nat)
  epoch : Nat
  committed : Bool
  seq : Nat
  deriving DecidableEq, Repr

/-- An effect that takes place at retirement or after (spec/14 R278). -/
inductive Deferred
  | rel (key : Nat) (gen : Word32)
  | ringpub (key : Nat) (claim : Nat)
  | ringfree (key : Nat) (claim : Nat)
  | setw (key : Nat)  (val : Word)
  | tlsig (key : Nat) (val : Word)
  | tjoin (key : Nat) (op : Nat) (asid : BitVec 8) (fb : Bool)
  | tpost
  | grais (op : Nat) (fb : Bool) (n : Nat) (first : Nat)
  deriving DecidableEq, Repr

/-- A deferred effect with its region, its stream, the range its release covers, its scope code, its place,
the operator whose effect it is (spec/15 R307), and, once its context has left the bank, the clamp of TIME that it had
(R308). -/
structure DeferredRec where
  eff : Deferred
  epoch : Nat
  stream : Stream
  base : Word
  len : Nat
  all : Bool
  scope : Nat
  retired : Bool
  seq : Nat
  op : Option Nat
  clamp : Option Word
  deriving DecidableEq, Repr

/-- The claiming instructions (spec/14 R281). -/
inductive ClaimKind
  | lock | produce | consume
  deriving DecidableEq, Repr

/-- A claim (spec/14 R281): the record, its value, the region that took it, whether the current run
has received it, whether an effect that ends it is on its way, and the generation that took it. -/
structure Claim where
  kind : ClaimKind
  key : Nat
  val : Nat
  epoch : Nat
  received : Bool
  ending : Bool
  gen : Word32
  deriving DecidableEq, Repr

/-- The writes, effects and claims of a context that are under way. -/
structure SyncSt where
  unsent : List Unsent
  posted : List Posted
  red : List RedReq
  deferred : List DeferredRec
  claims : List Claim
  seq : Nat
  deriving DecidableEq, Repr

/-- A command in an engine queue (spec/04 R75): its instruction, its patch value or address, and the
staged scales at its place in L order (spec/06 R117). -/
structure EngCmd where
  instr : Instr
  val : Word
  epoch : Nat
  pos : Nat
  stage : Staging
  deriving DecidableEq, Repr

/-- The rename maps (spec/10 R190, R196) and the step count of the youngest completed `mma` of each
tile (R202); tiles 4 and 5 are zt0 and zt1. -/
structure MatSt where
  map : Vector (Option Nat) 4
  trapMap : Vector (Option Nat) 2
  steps : Vector Nat 6
  deriving DecidableEq, Repr

/-- An outstanding page fault (spec/18 R358, spec/03 R61): `written` once its record is in the ring,
`answer` once a PAGE_RESP has come while the bank was halted. -/
structure PageReq where
  va : Word
  cause : Nat
  fetch : Bool
  pe : Bool
  time : Word
  written : Bool
  answer : Option Bool
  deriving DecidableEq, Repr

/-- What a start needs (spec/17 R349). -/
structure Dispatch where
  op : Nat
  entry : Word
  args : Word
  heap : Heap
  gtol : Word32
  timg : Word
  tcnt : Nat
  trips : List Nat
  temporal : List Bool
  cls : BitVec 2
  asid : BitVec 8
  queue : QueueId
  rx : Bool
  gd : Bool
  met : Bool
  card : BitVec 16
  tag : Word32
  mixok : Bool
  cur : BitVec 2
  fbud : BitVec 8
  thr : Bool
  deriving DecidableEq, Repr

/-- A work item (spec/16 R312): its spatial indices and counts, its linear index, the cascade on
which it escalated, whether it comes from a fallback list, whether a fallback entry is reserved for it (spec/13
R270), and its place among the entries of the restart and fallback lists of its operator (spec/16 R314). -/
structure Item where
  idx : List Nat
  lin : Nat
  avoid : Option CascId
  fb : Bool
  res : Bool
  ord : Nat
  deriving DecidableEq, Repr

/-- What a bank runs: the dispatch set, the work item or task, its current class, the number of its gang
(0 for a task) and the TIME of its start. -/
structure Work where
  disp : Dispatch
  item : Item
  task : Bool
  cur : BitVec 2
  gang : Nat
  since : Word
  deriving DecidableEq, Repr

/-- The states of a bank that are stored (spec/16 R319); Waiting, Trap and Ending follow from the
rest. -/
inductive Bank
  | empty | filler | running | faulted | halted
  deriving DecidableEq, Repr

/-- A context bank: `waited` counts the consecutive aclk in Waiting, `switched` says that the context was
resumed by the bank-switch rule (spec/16 R322), `acting` is the region for which the access under way is
made; `reads` are the lines that loads have read past one that waits aside. -/
structure Ctx where
  bank : Bank
  regs : Regs
  front : FrontCk
  fpc : BitVec 7
  tok : Tokens
  flags : Vector Flag 4
  ptests : List PtestRec
  pos : Nat
  stage : Staging
  trap : TrapRegs
  id : Ident
  cnt : Counters
  heap : Heap
  q : Queues
  older : Option Region
  reg : Region
  epochs : Nat
  acting : Nat
  sync : SyncSt
  engL : List EngCmd
  engS : List EngCmd
  mat : MatSt
  preq : Option PageReq
  work : Option Work
  sluice : Vector (BitVec 8) 5
  sinceDeq : Vector Nat 5
  waited : Nat
  switched : Bool
  reads : List ReadRec
  deriving DecidableEq, Repr

/-- A part of a span with its offset, its length and its key. -/
structure Part where
  off : Nat
  len : Nat
  key : Nat
  deriving DecidableEq, Repr

/-- A contiguous row of a COPY as it was checked at its start (spec/04 R70, R77): its index in dimension
1, the first and the end element with a source, and where its bytes come from and go to. -/
structure CopyRow where
  i1 : Nat
  lo : Nat
  hi : Nat
  odd : Bool
  src : List Part
  dva : Word
  dst : List Part
  deriving DecidableEq, Repr

/-- An engine command that has started (spec/04 R75 to R77): the template as it was read and patched,
the codebook as it was latched, its rows, and how many entries or lines it has placed; `dead` when
its region has been discarded, `late` when its region has retired; `op` is its operator, `heap` the heap of its context
(spec/12 R244); `used` are the translations it uses (spec/03 R60); `sample` is memory as it
stood at an earlier moment of its run, which it may have read (spec/15 R304). -/
structure ActiveCmd where
  ctx : CtxId
  gen : Word32
  op : Option Nat
  cmd : EngCmd
  tmpl : BitVec 1024
  codebook : BitVec 128
  rows : List CopyRow
  pushed : Nat
  dead : Bool
  late : Bool
  heap : Heap
  used : List TlbEntry
  sample : Option (List Host.Cell)
  deriving DecidableEq, Repr

/-- An arrival word that waits for the drain of its payload (spec/04 R74): the lines of the payload; `gen` and `op` tell
which run of the context and which operator it belongs to. -/
structure ArrivalDue where
  ctx : CtxId
  gen : Word32
  op : Option Nat
  epoch : Nat
  lines : List Nat
  addr : Nat
  val : Word
  deriving DecidableEq, Repr

/-- An `mma` in its K steps (spec/10 R187, R199, R202). -/
structure MmaRun where
  ctx : CtxId
  op : MX
  tile : Nat
  slot : Nat
  a : QaEntry
  b : QbEntry
  base : Tile
  step : Nat
  epoch : Nat
  pos : Nat
  deriving DecidableEq, Repr

/-- A checksum comparison that is due (spec/10 R193). -/
structure CheckRec where
  ctx : CtxId
  epoch : Nat
  due : ChecksumDue
  deriving DecidableEq, Repr

/-- A line of the instruction cache (spec/12 R224). -/
structure ICacheLine where
  line : Nat
  data : BitVec 512
  deriving DecidableEq, Repr

/-- A saved context (spec/18 R362): the bank it left, its state, its tiles, and its templates and
codebooks; `under` is what the memory of its slot held as it was saved (R363), and `bad` says that an uncorrectable
error has been found in what was saved. -/
structure SavedCtx where
  bank : Fin 2
  ctx : Ctx
  tiles : List (Nat × Tile)
  area : List Host.Cell
  under : List Host.Cell
  bad : Bool
  deriving DecidableEq, Repr

/-- PSAMP (spec/12 R246). -/
structure Psamp where
  lgper : BitVec 4
  pw : Bool
  en : Bool
  deriving DecidableEq, Repr

/-- What a line access does to its bank (spec/05 R88, R89); `rest` is the second aclk of an atomic
read-modify-write. -/
inductive BankAcc
  | read | write | rmw | rest
  deriving DecidableEq, Repr

/-- A line access that a port presents to its bank (spec/05 R89): the context on whose behalf, none when it has ended;
the number of its request, none when nothing waits for its grant, and the region of that. -/
structure BankUse where
  line : Nat
  port : Fin 8
  by_ : Option CtxId
  acc : BankAcc
  req : Option Nat
  epoch : Nat
  deriving DecidableEq, Repr

/-- A core; `now` are the line accesses that its banks have still to grant, in the order in which they were presented,
`taken` those that they grant in the aclk under way, `served` those granted of requests that are not complete, and
`bankPtr` the round-robin pointers (spec/05 R89); `fbud` is the filler budget of the
operator whose context last issued on it (spec/20 R381), `lastBank` the bank of that context and `lastPc` where the front
of each bank last decoded (R390). -/
structure Core where
  bankPtr : Vector (Fin 8) 32
  slots : Vector (Option Tile) 16
  lease : Option (Fin 2)
  used : Nat
  mmaRun : Option MmaRun
  checks : List CheckRec
  engPtr : Fin 4
  active : List ActiveCmd
  arrivals : List ArrivalDue
  tlb : List TlbEntry
  icache : List ICacheLine
  cycle : Word
  regmax : Word32
  replaymax : BitVec 3
  fillc : Word
  psamp : Psamp
  sinceSample : Nat
  errTimes : List Word
  shadow : Option Dispatch
  csaveBase : BitVec 23
  csaveEn : Bool
  saved : Vector (Option SavedCtx) 8
  lastBank : Fin 2
  lastPc : Vector Word 2
  droop : Nat
  now : List BankUse
  taken : List BankUse
  served : List BankUse
  fbud : BitVec 8
  deriving DecidableEq, Repr

/-- A task-queue entry (spec/14 R291 to R293): reserved by a `tpost` of a context, with its place among
the effects of that context, until `ready`; `fb` when a fallback item has posted it (spec/13 R271). -/
structure TaskEntry where
  op : Nat
  fb : Bool
  code : Word
  frame : Word
  join : Word
  cur : BitVec 2
  owner : CtxId
  epoch : Nat
  seq : Nat
  ready : Bool
  deriving DecidableEq, Repr

/-- A join post that is held (spec/14 R290): its operator, the VA and the ASID of its record and the
context whose `tjoin` made it. -/
structure HeldPost where
  op : Nat
  fb : Bool
  va : Word
  asid : BitVec 8
  by_ : CtxId
  deriving DecidableEq, Repr

/-- A gang formed on a cascade (spec/16 R315, R316): its number and the item of each live tier, none for
filler. -/
structure Gang where
  op : Nat
  num : Nat
  disp : Dispatch
  items : List (Fin 4 × Option Item)
  deriving DecidableEq, Repr

/-- An event that a hold has latched (spec/18 R364): a pre-emption request; a detected error with the region that it
concerned; an answer to a page request; a wake-up of the waiters of a key; the loss of what a context has sent (spec/11 R214,
spec/19 R369); a discard for a request to a half that is being fenced (spec/19 R371). -/
inductive Latched
  | preempt (c : CtxId)
  | error (e : ErrorReport) (epoch : Nat)
  | answer (c : CtxId) (gen : Word32) (ok : Bool)
  | wake (key : Nat)
  | lost (c : CtxId) (va : Word)
  | recall (c : CtxId) (epoch : Nat)
  deriving DecidableEq, Repr

/-- A cascade; `phase` is the part of an aclk that has passed, in percent of 2.5 ns, and `gangs` holds the gangs that it is reserved for, oldest first (spec/16 R316), and `fillers` the
filler banks, each with the gang that it runs filler for (R318, R319). `droop` is the droop stretch in percent,
100 for a hold (spec/20 R383); `over_` and `safe` are the TIMEs since which a tier's deviation has been above 15 mV, and every one at most 8 mV (R380); `powerMax` is
the fastest point that the power manager allows (R386). -/
structure Casc where
  tasks : List TaskEntry
  spill : List TaskEntry
  tqbase : Word
  tqEn : Bool
  tqHead : BitVec 16
  tqTail : BitVec 16
  tqLgsz : BitVec 4
  held : List HeldPost
  gangs : List Gang
  fillers : List (CtxId × Nat)
  opCur : BitVec 2
  opMax : BitVec 2
  imb : Vector (BitVec 16) 4
  thrCount : Word
  droopCount : Word32
  step : Nat
  droop : Nat
  hop : Bool
  latched : List Latched
  phase : Nat
  ramp : Option (BitVec 2)
  over_ : Vector (Option Word) 4
  safe : Option Word
  spent : Vector Nat 4
  powerMax : BitVec 2
  deriving DecidableEq, Repr

/-- The clock of a cascade is held: a hop is under way, or a droop has reached the hold threshold (spec/18
R364, spec/20 R383). -/
def Casc.hold (g : Casc) : Bool := g.hop || decide (100 ≤ g.droop)

/-- A ring described by a BASE and a CTL register (spec/03 R56). -/
structure RingReg where
  base : Word
  head : BitVec 16
  tail : BitVec 16
  berr : Bool
  lgsz : BitVec 4
  deriving DecidableEq, Repr

/-- The ring registers at reset. -/
def RingReg.zero : RingReg := ⟨0, 0, 0, false, 0⟩

/-- An entry of a weir buffer (spec/11 R210): `gen` and `op` tell which run of the context and which
operator it belongs to (R214, spec/15 R306), `used` from which translations it was formed (spec/03 R60), `also` the
addresses of the writes that it has taken in beside `va`; `cont` is a later part of the entry of its line, which a reduction between
them keeps apart (R208): it is no entry of its own. -/
structure WeirEntry where
  w : LineWrite
  va : Word
  ctx : CtxId
  gen : Word32
  op : Option Nat
  epoch : Nat
  committed : Bool
  seq : Nat
  pool : Bool
  late : Bool
  cont : Bool
  also : List Word
  used : List TlbEntry
  deriving DecidableEq, Repr

/-- A match register (spec/17 R329). -/
structure MatchReg where
  rom : BitVec 12
  pra : BitVec 8
  deriving DecidableEq, Repr

/-- A half; `due` is a failover trigger, and `dueGo` an FOCTL.go, that waits for the end of a quiescent point (spec/19
R370, R377). -/
structure Half where
  pool : RingReg
  prq : RingReg
  spare : Option Nat
  tlb : List TlbEntry
  weir : List WeirEntry
  unc : Bool
  derr : Word32
  fo : Bool
  dlmiss : Word32
  gangs : Word32
  lastStd : QueueId
  stdLeft : Nat
  lastBg : QueueId
  cpLast : Vector QueueId 3
  cpVer : Word32
  matches_ : List MatchReg
  patchRam : List (BitVec 96)
  cpFatal : Bool
  cpQuiet : Bool
  cpLatched : List Instr
  trip : Bool
  hot : Bool
  temp : BitVec 12
  samp : RingReg
  sampDrop : BitVec 12
  islandOk : Bool
  struck : Bool
  due : Bool
  dueGo : Bool
  deriving DecidableEq, Repr

/-- The states of a queue (spec/17 R336). -/
inductive QState
  | disabled | idle | active | waiting | error | draining
  deriving DecidableEq, Repr

/-- A graph in progress (spec/17 R351, R352): the next card, or the one being served. -/
structure GraphSt where
  first : Word
  card : Word
  words : Option (Vector Word 16)
  budget : Nat
  loops : List (Word × Nat)
  asyncOps : List Nat
  waitOp : Option Nat
  deriving DecidableEq, Repr

/-- A packet that has been taken and is not complete (spec/17 R333, R335). A wait has begun
at the TIME `waitFrom`; it last read its word at `readAt` and reads it again after `delay` ns; `tlq` is
the queue timeline that it waits on. -/
structure Pkt where
  index : Word32
  words : Vector Word 8
  begun : Bool
  tlq : Option QueueId
  waitFrom : Word
  readAt : Word
  delay : Nat
  op : Option Nat
  graph : Option GraphSt
  deriving DecidableEq, Repr

/-- A user queue (spec/17 R331, R332; spec/16 R323): `adopted` by the surviving half in a failover
(spec/19 R370). -/
structure Queue where
  base : Word
  en : Bool
  priv : Bool
  ie : Bool
  home : Fin 2
  cls : BitVec 2
  fn : Fin 2
  asid : BitVec 8
  lgsz : BitVec 5
  wi : Word32
  rd : Word32
  tl : Word
  epkt : Word32
  ecode : BitVec 8
  st : QState
  pkts : List Pkt
  wt : BitVec 8
  adopted : Bool
  deriving DecidableEq, Repr

/-- A turnout (spec/04 R63 to R65). -/
structure Turnout where
  en : Bool
  feo : BitVec 24
  slsz : BitVec 16
  lgn : BitVec 4
  wbase : BitVec 17
  pbase : BitVec 28
  ws : Bool
  recAddr : BitVec 38
  ovf : BitVec 16
  pub : BitVec 16
  cfg : Bool
  perr : Bool
  rerr : Bool
  pending : List Nat
  deriving DecidableEq, Repr

/-- Where an operator stands. -/
inductive OpState
  | running | aborted | complete
  deriving DecidableEq, Repr

/-- An operator (spec/17 R345 to R350, spec/16 R312 to R315); `entered` counts the items that have entered its restart and
fallback lists. -/
structure Operator where
  id : Nat
  queue : QueueId
  pkt : Word32
  card : Word
  inGraph : Bool
  words : Vector Word 16
  recVa : Word
  disp : Dispatch
  fbDisp : Option Dispatch
  half : Fin 2
  deadline : Word
  halves : Bool
  cores : Bool
  pending : List Item
  restart : List Item
  fallback : List Item
  entered : Nat
  gfail : Word32
  lastCasc : Vector (Option CascId) 2
  state : OpState
  partner : Option Nat
  fbUsed : Vector Nat 2
  deriving DecidableEq, Repr

/-- What a waiter waits for (spec/14 R279): a grant of a lock, of a ring slot to produce into or of
one to consume, the value of a record, or a plain word. -/
inductive WaitRole
  | lock | produce | consume | value | word
  deriving DecidableEq, Repr

/-- An acquire that waits at a home since a TIME (spec/14 R279): `polled` when the watch table was
full. -/
structure Waiter where
  ctx : CtxId
  stream : Stream
  key : Nat
  role : WaitRole
  polled : Bool
  since : Word
  deriving DecidableEq, Repr

/-- Who has released (spec/15 R298): a context, or the command processor or a turnout of a half. -/
inductive Releaser
  | ctx (c : CtxId)
  | half (h : Fin 2)
  deriving DecidableEq, Repr

/-- The TIME that a release has recorded at the home of a record, with who released and its scope
code (spec/15 R308). -/
structure Stamp where
  key : Nat
  by_ : Releaser
  scope : Nat
  time : Word
  deriving DecidableEq, Repr

/-- A turn of the schedule (notes/assumptions/1.md): which agent acts next. -/
inductive Turn
  /-- A step of the part. -/
  | event (i : Instr)
  /-- The front of a context; `lag` leaves what it appends in the stream queue. -/
  | front (c : CtxId) (lag : Bool)
  /-- A stream of a context: first what it has put aside, then its head. -/
  | stream (c : CtxId) (st : Stream)
  /-- The head of a stream, past what waits aside (spec/06 R104). -/
  | head (c : CtxId) (st : Stream)
  /-- The head of a stream begins, and has not read all of its sources (spec/02 R27, spec/06 R106). -/
  | begin (c : CtxId) (st : Stream)
  /-- The head of a stream goes on aside while its stream goes on (spec/06 R104). -/
  | aside (c : CtxId) (st : Stream)
  /-- A line of a store that its S stream has gone past reaches its slice, or leaves for it (spec/11 R208). -/
  | land (c : CtxId) (n : Nat)
  /-- A command of a copy engine reads what its source holds now (spec/15 R304). -/
  | sample (core : CoreId) (n : Nat)
  /-- One K step of the matrix engine of a core. -/
  | kstep (core : CoreId)
  /-- Nanoseconds on the reference clock. -/
  | ns (n : Nat)
  /-- Clock periods of a cascade. -/
  | aclk (casc : CascId) (n : Nat)
  deriving DecidableEq, Repr

/-- Ownership of BAR0 (spec/21 R398, R399): the timers count milliseconds in ns; `claimAt` is the TIME at which a
claim took it while nobody owned it, for a claim of higher priority that arrives together with that one. -/
structure Owner where
  ndrop : BitVec 16
  cand : BitVec 4
  target : BitVec 2
  ho : Bool
  hbto : BitVec 4
  v : Bool
  own : BitVec 2
  beat : Word
  hoFrom : Word
  claimAt : Option Word
  deriving DecidableEq, Repr

/-- Measured start (spec/21 R401 to R403); `bad` when main memory has returned uncorrectable data of the package. -/
structure Boot where
  phase : BitVec 3
  err : BitVec 8
  pver : Word32
  len4k : BitVec 20
  pa : BitVec 32
  measIdx : BitVec 2
  measd : BitVec 512
  meas : Vector (BitVec 512) 8
  outbase : BitVec 52
  idkey : BitVec 65536
  bad : Bool
  deriving DecidableEq, Repr

/-- Failover (spec/19 R376) and the reliability configuration (spec/13 R266): the half that is fenced, the
half whose window is folded, and the operators that had something on the failed half at the fence
(R375). -/
structure Failover where
  dur : Word32
  nq : BitVec 8
  nab : BitVec 8
  src : Fin 2
  phase : BitVec 3
  fenced : Option (Fin 2)
  fold : Option (Fin 2)
  started : Word
  thr : BitVec 16
  win : BitVec 16
  foen : Bool
  coreret : Word
  lost : List Nat
  deriving DecidableEq, Repr

/-- A PCIe function (spec/21 R396, R400): its MSI-X table and its pending bits. -/
structure PcieFn where
  msix : Vector (BitVec 128) 66
  pba : BitVec 66
  deriving DecidableEq, Repr

/-- An interrupt that has been sent (an output, spec/21 R396). -/
structure Interrupt where
  fn : Fin 2
  vec : Nat
  deriving DecidableEq, Repr

/-- Straps and fuses (spec/03 R49, spec/21 R393, R402, R403): no reset changes them. -/
structure Straps where
  chsz : BitVec 4
  dualh : Bool
  keyHash : BitVec 512
  serial : BitVec 128
  seed : BitVec 256
  romVersion : Word
  deriving DecidableEq, Repr

/-- Device-wide registers: `skew` is by how many ns the raw counter of each half is ahead of `time` (spec/15 R308),
`lowSince` the TIME since which the mean power has stayed below 95 % of its limit (spec/20 R386). -/
structure Device where
  straps : Straps
  time : Word
  skew : Vector (Fin 9) 2
  lock : Bool
  gsz : BitVec 13
  asidtab : BitVec 32
  bswt : BitVec 16
  lim : BitVec 8
  hits : Word32
  mw : Word32
  lowSince : Option Word
  stopped : Bool
  barLg : Nat
  owner : Owner
  boot : Boot
  fo : Failover
  fns : Vector PcieFn 2
  deriving DecidableEq, Repr

/-- The whole part. `agenda`, `cur`, `lag`, `lostRead`, `freeCtr`, `msixLog` and `reads` are the model's own
(notes/assumptions/1.md, 2.md): the schedule, the context whose front acts when the agenda is empty, whether
what a turn starts stays under way (an appended instruction in its queue, a first touch), whether the outbound
reads of the turn end in a completion timeout (spec/21 R395), the counter of free values, the interrupts sent
and the data of PCIe reads answered. -/
structure State where
  mem : List Host.Cell
  ctxs : Vector Ctx 128
  cores : Vector Core 64
  cascs : Vector Casc 16
  halves : Vector Half 2
  queues : Vector Queue 64
  turnouts : Vector Turnout 64
  ops : List Operator
  opCount : Nat
  waiters : List Waiter
  grants : List (Nat × CtxId)
  stamps : List Stamp
  dev : Device
  agenda : List Turn
  cur : CtxId
  lag : Bool
  lostRead : Bool
  freeCtr : Nat
  msixLog : List Interrupt
  reads : List (List Byte)
  deriving DecidableEq, Repr

/-- Why the machine stops with a fault. -/
inductive Fault
  /-- The agenda names an instruction word where a step of the part has to stand. Raised by `step` only;
  safe: the agenda is the model's own, and the part does nothing of the kind (notes/assumptions/1.md). -/
  | notAStep
  deriving DecidableEq, Repr

/-- Why an instruction has no meaning. -/
inductive Refusal
  /-- The instruction is not modelled. Raised by Dispatch only; safe. -/
  | notModelled (mnemonic : String)
  deriving DecidableEq, Repr

/-- The loop stack with no valid position. -/
def noLoops : Vector LoopEntry 6 := Vector.replicate 6 LoopEntry.empty

/-- The front part of a checkpoint at a start (spec/12 R229, spec/08 R145). -/
def FrontCk.start : FrontCk := ⟨noLoops, 0, 0, 0⟩

/-- Every token count zero (spec/06 R113). -/
def Tokens.zero : Tokens := ⟨Vector.replicate 16 0, Vector.replicate 16 0, Vector.replicate 6 0⟩

/-- The staging buffers at a start: 127 in every byte (spec/06 R117). -/
def Staging.start : Staging :=
  ⟨BitVec.ofNat 2048 (packFields 8 (List.replicate 256 127)),
   BitVec.ofNat 4096 (packFields 8 (List.replicate 512 127))⟩

/-- The flags at a start (spec/08 R150). -/
def flagsStart : Vector Flag 4 := Vector.replicate 4 Flag.start

/-- The checkpoint at a start. -/
def Checkpoint.start : Checkpoint := ⟨FrontCk.start, 0, Tokens.zero, flagsStart, Staging.start⟩

/-- Every register zero (spec/12 R227, spec/08 R147). -/
def Regs.zero : Regs := ⟨0, Vector.replicate 32 0, Vector.replicate 48 0, Vector.replicate 16 0⟩

/-- The trap registers at reset (spec/12 R243). -/
def TrapRegs.zero : TrapRegs := ⟨0, 0, 0, 0, 0, 0, false, false, false, false, 0, none⟩

/-- The identity fields before any start. -/
def Ident.zero : Ident := ⟨0, false, false, 0, 0, false, false, false, 0, 0⟩

/-- The counters at reset. -/
def Counters.zero : Counters := ⟨0, 0, 0, 0, 0, 0, 0⟩

/-- The heap registers at reset: no heap (spec/12 R244). -/
def Heap.none : Heap := ⟨0, 0, 0⟩

/-- Empty queues. -/
def Queues.empty : Queues :=
  ⟨[], [], [], [], Vector.replicate 4 [], Vector.replicate 2 [], [], []⟩

/-- A region that begins at an address with a front state and a TIME. -/
def Region.fresh (epoch : Nat) (pc : Word) (f : FrontCk) (time : Word) : Region :=
  { epoch := epoch, start := pc, front := f, lIn := none, cIn := none
    dk := Vector.replicate 16 0, dch := Vector.replicate 6 0, undo := [], tiles := [], count := 0
    closed := none, next := 0, fault := none, len := 0, began := time, claims := 0
    used := [], sent := [], bad := false }

/-- No write, effect or claim under way. -/
def SyncSt.empty : SyncSt := ⟨[], [], [], [], [], 0⟩

/-- No tile holds a slot (spec/10 R189). -/
def MatSt.empty : MatSt := ⟨Vector.replicate 4 none, Vector.replicate 2 none, Vector.replicate 6 0⟩

/-- A bank with no context (spec/16 R319, spec/21 R400). -/
def Ctx.empty : Ctx :=
  { bank := .empty, regs := Regs.zero, front := FrontCk.start, fpc := 0, tok := Tokens.zero
    flags := flagsStart, ptests := [], pos := 0, stage := Staging.start, trap := TrapRegs.zero
    id := Ident.zero, cnt := Counters.zero, heap := Heap.none, q := Queues.empty, older := none
    reg := Region.fresh 0 0 FrontCk.start 0, epochs := 0, acting := 0, sync := SyncSt.empty, engL := []
    engS := [], mat := MatSt.empty, preq := none, work := none, sluice := Vector.replicate 5 0
    sinceDeq := Vector.replicate 5 255, waited := 0, switched := false, reads := [] }

/-- A core at reset. -/
def Core.reset : Core :=
  { bankPtr := Vector.replicate 32 0, slots := Vector.replicate 16 none, lease := none, used := 0
    mmaRun := none, checks := [], engPtr := 0, active := [], arrivals := [], tlb := []
    icache := [], cycle := 0, regmax := 65536, replaymax := 3, fillc := 0
    psamp := ⟨0, false, false⟩, sinceSample := 0, errTimes := [], shadow := none, csaveBase := 0
    csaveEn := false, saved := Vector.replicate 8 none, lastBank := 0, lastPc := Vector.replicate 2 0, droop := 0, now := []
    taken := [], served := []
    fbud := 0 }

/-- A cascade at reset (spec/14 R292, spec/20 R389). -/
def Casc.reset : Casc :=
  { tasks := [], spill := [], tqbase := 0, tqEn := false, tqHead := 0, tqTail := 0, tqLgsz := 0
    held := [], gangs := [], fillers := [], opCur := 0, opMax := 0
    imb := Vector.replicate 4 0, thrCount := 0, droopCount := 0, step := 0, droop := 0
    hop := false, latched := [], phase := 0, ramp := none
    over_ := Vector.replicate 4 none, safe := none, spent := Vector.replicate 4 0, powerMax := 0 }

/-- A half at reset. -/
def Half.reset : Half :=
  { pool := RingReg.zero, prq := RingReg.zero, spare := none, tlb := [], weir := [], unc := false
    derr := 0, fo := false, dlmiss := 0, gangs := 0, lastStd := 0, stdLeft := 0, lastBg := 0
    cpLast := Vector.replicate 3 0, cpVer := 0, matches_ := [], patchRam := List.replicate 256 0, cpFatal := false
    cpQuiet := false, cpLatched := [], trip := false, hot := false, temp := 0
    samp := RingReg.zero, sampDrop := 0, islandOk := true, struck := false
    due := false, dueGo := false }

/-- A queue at reset: cls 1, wt 1, all else 0 (spec/17 R331, spec/16 R323). -/
def Queue.reset : Queue :=
  { base := 0, en := false, priv := false, ie := false, home := 0, cls := 1, fn := 0, asid := 0
    lgsz := 0, wi := 0, rd := 0, tl := 0, epkt := 0, ecode := 0, st := .disabled, pkts := []
    wt := 1, adopted := false }

/-- A turnout at reset (spec/04 R63). -/
def Turnout.reset : Turnout :=
  { en := false, feo := 0, slsz := 0, lgn := 0, wbase := 0, pbase := 0, ws := false, recAddr := 0
    ovf := 0, pub := 0, cfg := false, perr := false, rerr := false, pending := [] }

/-- No owner (spec/21 R398). -/
def Owner.reset : Owner := ⟨0, 0, 0, false, 6, false, 0, 0, 0, none⟩

/-- Phase 0 of measured start, before MEAS0 is extended (spec/21 R401, R403). -/
def Boot.reset : Boot :=
  { phase := 0, err := 0, pver := 0, len4k := 0, pa := 0, measIdx := 0, measd := 0
    meas := Vector.replicate 8 0, outbase := 0, idkey := 0, bad := false }

/-- The failover and reliability registers at reset (spec/13 R266, spec/19 R376). -/
def Failover.reset : Failover :=
  { dur := 0, nq := 0, nab := 0, src := 0, phase := 0, fenced := none
    fold := none, started := 0, thr := 16, win := 1000, foen := true, coreret := 0, lost := [] }

/-- A PCIe function at reset. -/
def PcieFn.reset : PcieFn := ⟨Vector.replicate 66 0, 0⟩

/-- The straps and fuses of the part that State.reset describes: a module of 128 GiB with function
1, and fuses of zeros (notes/assumptions/5.md). -/
def Straps.reset : Straps := ⟨3, true, 0, 0, 0, 0⟩

/-- The device registers at reset. -/
def Device.reset : Device :=
  { straps := Straps.reset, time := 0, skew := Vector.replicate 2 0, lock := false, gsz := 0, asidtab := 0, bswt := 4096, lim := 150
    hits := 0, mw := 0, lowSince := none, stopped := false, barLg := 0, owner := Owner.reset, boot := Boot.reset
    fo := Failover.reset, fns := Vector.replicate 2 PcieFn.reset }

/-- The part right after a full reset (spec/21 R400): every register at its reset value, every
context, queue and timeline lost, memory with nothing listed. -/
def State.reset : State :=
  { mem := [], ctxs := Vector.replicate 128 Ctx.empty, cores := Vector.replicate 64 Core.reset
    cascs := Vector.replicate 16 Casc.reset, halves := Vector.replicate 2 Half.reset
    queues := Vector.replicate 64 Queue.reset, turnouts := Vector.replicate 64 Turnout.reset
    ops := [], opCount := 0, waiters := [], grants := [], stamps := [], dev := Device.reset
    agenda := [], cur := 0, lag := false, lostRead := false, freeCtr := 0, msixLog := [], reads := [] }

end Sys2Proof.Machine
end

