-- ==== Sys2Proof/Machine/Mem.lean ====
section
/-! DEFINITION. Memory: one list of listed bytes in canonical form, and the words and lines made of
them (spec/00 R3, spec/05 R88). Main memory, the slices and the host memory share the list, each with
keys of its own. -/

namespace Sys2Proof.Machine

/-- What an unlisted address reads as (notes/assumptions/4.md). -/
def memDefault : Byte := 0

/-- One byte. -/
def memRead (m : List Host.Cell) (a : Nat) : Byte :=
  match m with
  | [] => memDefault
  | (k, b) :: rest => if k = a then b else memRead rest a

/-- A byte put into the list, which stays strictly rising. -/
def memPut (m : List Host.Cell) (a : Nat) (v : Byte) : List Host.Cell :=
  match m with
  | [] => [(a, v)]
  | (k, b) :: rest =>
    if k < a then (k, b) :: memPut rest a v
    else if k = a then (a, v) :: rest
    else (a, v) :: (k, b) :: rest

/-- A byte taken out of the list. -/
def memDrop (m : List Host.Cell) (a : Nat) : List Host.Cell :=
  match m with
  | [] => []
  | (k, b) :: rest => if k = a then rest else (k, b) :: memDrop rest a

/-- A byte written: writing what an unlisted address reads as removes the entry. -/
def memWrite (m : List Host.Cell) (a : Nat) (v : Byte) : List Host.Cell :=
  if v = memDefault then memDrop m a else memPut m a v

/-- The canonical form: addresses strictly rising, no entry with the default value. -/
def memWf : List Host.Cell → Bool
  | [] => true
  | [(_, b)] => b != memDefault
  | (k, b) :: (k', b') :: rest => decide (k < k') && b != memDefault && memWf ((k', b') :: rest)

/-- The little-endian number in n bytes (spec/00 R3). -/
def memNat (m : List Host.Cell) (a : Nat) : Nat → Nat
  | 0 => 0
  | n + 1 => (memRead m a).toNat + 256 * memNat m (a + 1) n

/-- A number written in n bytes, little-endian. -/
def memPutNat (m : List Host.Cell) (a : Nat) : Nat → Nat → List Host.Cell
  | 0, _ => m
  | n + 1, v => memPutNat (memWrite m a (BitVec.ofNat 8 v)) (a + 1) n (v / 256)

/-- A dword. -/
def memWord (m : List Host.Cell) (a : Nat) : Word := BitVec.ofNat 64 (memNat m a 8)

/-- A byte with the halves that a nibble mask names replaced (spec/05 R88). -/
def nibbleMerge (old new : Byte) (lo hi : Bool) : Byte :=
  (if hi then new.extractLsb' 4 4 else old.extractLsb' 4 4) ++
    (if lo then new.extractLsb' 0 4 else old.extractLsb' 0 4)

/-- A byte of a line. -/
def lineByte (d : BitVec 512) (i : Nat) : Byte := d.extractLsb' (8 * i) 8

/-- Bytes i to 63 of a line written under its mask. -/
def lineApply (m : List Host.Cell) (w : LineWrite) : Nat → List Host.Cell
  | 0 => m
  | n + 1 =>
    let i := 63 - n
    let lo := w.mask.getLsbD (2 * i)
    let hi := w.mask.getLsbD (2 * i + 1)
    let m' := if lo || hi then
        memWrite m (w.line + i) (nibbleMerge (memRead m (w.line + i)) (lineByte w.data i) lo hi)
      else m
    lineApply m' w n

/-- A line write applied to memory under its nibble mask (spec/11 R210, R215). -/
def memLine (m : List Host.Cell) (w : LineWrite) : List Host.Cell := lineApply m w 64

/-- The 64 bytes of a line. -/
def memLineRead (m : List Host.Cell) (a : Nat) : BitVec 512 := BitVec.ofNat 512 (memNat m a 64)

/-- A range of bytes cleared. -/
def memZero (m : List Host.Cell) (a n : Nat) : List Host.Cell :=
  m.filter fun c => !(decide (a ≤ c.1) && decide (c.1 < a + n))

/-- The listed bytes of a range of n addresses replaced by others of it. -/
def memSplice (m : List Host.Cell) (a n : Nat) (l : List Host.Cell) : List Host.Cell :=
  m.filter (fun c => decide (c.1 < a)) ++ l ++ m.filter fun c => decide (a + n ≤ c.1)

/-- n bytes given by their place, from an address on, those that read as unlisted ones left out. -/
def memList (a : Nat) (f : Nat → Byte) (n : Nat) : List Host.Cell :=
  ((List.range n).map fun i => (a + i, f i)).filter fun c => c.2 != memDefault

/-- Bytes written from an address. -/
def memPutBytes (m : List Host.Cell) (a : Nat) : List Byte → List Host.Cell
  | [] => m
  | b :: bs => memPutBytes (memWrite m a b) (a + 1) bs

/-- n bytes read from an address. -/
def memBytes (m : List Host.Cell) (a : Nat) : Nat → List Byte
  | 0 => []
  | n + 1 => memRead m a :: memBytes m (a + 1) n

/-- Two line writes of one line, the second over the first (spec/11 R210). -/
def lineMerge (old new : LineWrite) : LineWrite :=
  let bits := BitVec.ofNat 512
    (packFields 4 ((List.range 128).map fun i => if new.mask.getLsbD i then 15 else 0))
  { line := old.line, data := (old.data &&& ~~~bits) ||| (new.data &&& bits)
    mask := old.mask ||| new.mask }

/-- Some bytes of a line that a write of n bytes at an offset covers. -/
def lineOf (a n : Nat) (v : Nat) : LineWrite :=
  let off := a % 64
  { line := a - off
    data := BitVec.ofNat 512 (v % 2 ^ (8 * n) * 2 ^ (8 * off))
    mask := BitVec.ofNat 128 ((2 ^ (2 * n) - 1) * 2 ^ (2 * off)) }

/-- One half of a byte as a line write: the high half when `hi` (spec/11 R218). -/
def lineOfNibble (a : Nat) (hi : Bool) (v : Nat) : LineWrite :=
  let off := 2 * (a % 64) + (if hi then 1 else 0)
  { line := a - a % 64, data := BitVec.ofNat 512 (v % 16 * 2 ^ (4 * off))
    mask := BitVec.ofNat 128 (2 ^ off) }

end Sys2Proof.Machine
end

