-- ==== Sys2Proof/Machine/Context.lean ====
section
/-! DEFINITION. Reading and updating the parts of the state: contexts, cores, cascades, halves,
queues; the register files with their rotation; the token channels; who belongs to which core. -/

namespace Sys2Proof.Machine

/-- The core of a context (spec/01 R13). -/
def coreOf (c : CtxId) : CoreId := ⟨c.val / 2, by omega⟩

/-- The bank of a context. -/
def bankOf (c : CtxId) : Fin 2 := ⟨c.val % 2, by omega⟩

/-- The context of a core and a bank. -/
def ctxIn (k : CoreId) (b : Fin 2) : CtxId := ⟨2 * k.val + b.val, by omega⟩

/-- The other bank of the core of a context. -/
def otherBank (c : CtxId) : CtxId := ctxIn (coreOf c) (1 - bankOf c)

/-- The half of a core. -/
def halfOfCore (k : CoreId) : HalfId := ⟨k.val / 32, by omega⟩

/-- The half of a context. -/
def halfOf (c : CtxId) : HalfId := halfOfCore (coreOf c)

/-- The cascade of a core. -/
def cascOfCore (k : CoreId) : CascId := ⟨k.val / 4, by omega⟩

/-- The cascade of a context. -/
def cascOf (c : CtxId) : CascId := cascOfCore (coreOf c)

/-- The tier of a core in its cascade. -/
def tierOfCore (k : CoreId) : Fin 4 := ⟨k.val % 4, by omega⟩

/-- The core of a cascade and a tier. -/
def coreAt (g : CascId) (t : Fin 4) : CoreId := ⟨4 * g.val + t.val, by omega⟩

/-- The half of a cascade. -/
def halfOfCasc (g : CascId) : HalfId := ⟨g.val / 8, by omega⟩

/-- A context. -/
def State.ctx (s : State) (c : CtxId) : Ctx := s.ctxs[c.val]

/-- The state with a context replaced. -/
def State.setCtx (s : State) (c : CtxId) (x : Ctx) : State := { s with ctxs := s.ctxs.set c.val x }

/-- The state with a context changed. -/
def State.modCtx (s : State) (c : CtxId) (f : Ctx → Ctx) : State := s.setCtx c (f (s.ctx c))

/-- A core. -/
def State.core (s : State) (k : CoreId) : Core := s.cores[k.val]

/-- The state with a core changed. -/
def State.modCore (s : State) (k : CoreId) (f : Core → Core) : State :=
  { s with cores := s.cores.set k.val (f (s.core k)) }

/-- The state with the evicted context in a save slot of a core changed. -/
def State.modSaved (s : State) (k : CoreId) (i : Nat) (f : SavedCtx → SavedCtx) : State :=
  s.modCore k fun x =>
    { x with saved := Vector.ofFn fun j => if j.val = i then x.saved[j.val].map f else x.saved[j.val] }

/-- A cascade. -/
def State.casc (s : State) (g : CascId) : Casc := s.cascs[g.val]

/-- The state with a cascade changed. -/
def State.modCasc (s : State) (g : CascId) (f : Casc → Casc) : State :=
  { s with cascs := s.cascs.set g.val (f (s.casc g)) }

/-- A half. -/
def State.half (s : State) (h : HalfId) : Half := s.halves[h.val]

/-- The state with a half changed. -/
def State.modHalf (s : State) (h : HalfId) (f : Half → Half) : State :=
  { s with halves := s.halves.set h.val (f (s.half h)) }

/-- A queue. -/
def State.queue (s : State) (q : QueueId) : Queue := s.queues[q.val]

/-- The state with a queue changed. -/
def State.modQueue (s : State) (q : QueueId) (f : Queue → Queue) : State :=
  { s with queues := s.queues.set q.val (f (s.queue q)) }

/-- The state with the device registers changed. -/
def State.modDev (s : State) (f : Device → Device) : State := { s with dev := f s.dev }

/-- The context whose front acts. -/
def State.me (s : State) : Ctx := s.ctx s.cur

/-- The operator of the context in a bank. -/
def ctxOp (x : Ctx) : Option Nat := x.work.map fun w => w.disp.op

/-- A fresh number for a free value. -/
def State.bumpFree (s : State) : State := { s with freeCtr := s.freeCtr + 1 }

/-- A scalar register; s0 reads as zero (spec/12 R227). -/
def readS (x : Ctx) (r : BitVec 5) : Word := if r = 0 then 0 else x.regs.s[r.toNat]

/-- A scalar register written; a write to s0 is discarded (spec/12 R227). -/
def writeS (r : BitVec 5) (v : Word) (x : Ctx) : Ctx :=
  if r = 0 then x else { x with regs := { x.regs with s := x.regs.s.set r.toNat v } }

/-- The physical number of an architectural vector register (spec/08 R144). -/
def physV (rvb : BitVec 5) (n : Fin 48) : Fin 48 :=
  if n.val < 16 then n else ⟨16 + (n.val - 16 + rvb.toNat) % 32, by omega⟩

/-- The physical number of an architectural predicate (spec/08 R146). -/
def physP (rpb : BitVec 3) (n : BitVec 4) : Fin 16 :=
  if n.toNat < 8 then ⟨n.toNat, by omega⟩ else ⟨8 + (n.toNat - 8 + rpb.toNat) % 8, by omega⟩

/-- A vector register under a rotation base. -/
def readV (x : Ctx) (rvb : BitVec 5) (n : Fin 48) : VReg := x.regs.v[(physV rvb n).val]

/-- A vector register written under a rotation base. -/
def writeV (rvb : BitVec 5) (n : Fin 48) (v : VReg) (x : Ctx) : Ctx :=
  { x with regs := { x.regs with v := x.regs.v.set (physV rvb n).val v } }

/-- A predicate under a rotation base; p0 reads as all ones (spec/08 R146). -/
def readP (x : Ctx) (rpb : BitVec 3) (n : BitVec 4) : PReg :=
  if n = 0 then BitVec.allOnes 1024 else x.regs.p[(physP rpb n).val]

/-- A predicate written; p0 is never a destination (spec/08 R146). -/
def writeP (rpb : BitVec 3) (n : BitVec 4) (v : PReg) (x : Ctx) : Ctx :=
  if n = 0 then x else { x with regs := { x.regs with p := x.regs.p.set (physP rpb n).val v } }

/-- The channels that a stream's wp, wn, sp and sn name, by their place in `Tokens.ch` (spec/02
R26): L to C, C to S, S to L, C to L, S to C, L to S. -/
def chWp : Stream → Fin 6
  | .l => 2 | .c => 0 | .s => 1

/-- The channel from the next stream. -/
def chWn : Stream → Fin 6
  | .l => 3 | .c => 4 | .s => 5

/-- The channel to the previous stream. -/
def chSp : Stream → Fin 6
  | .l => 5 | .c => 3 | .s => 4

/-- The channel to the next stream. -/
def chSn : Stream → Fin 6
  | .l => 0 | .c => 1 | .s => 2

/-- A change of the outstanding region with an epoch; a retired region has none. -/
def modRegion (e : Nat) (f : Region → Region) (x : Ctx) : Ctx :=
  match x.older with
  | some r =>
    if r.epoch = e then { x with older := some (f r) }
    else if x.reg.epoch = e then { x with reg := f x.reg } else x
  | none => if x.reg.epoch = e then { x with reg := f x.reg } else x

/-- The outstanding region with an epoch. -/
def regionOf (x : Ctx) (e : Nat) : Option Region :=
  if x.reg.epoch = e then some x.reg else x.older.filter fun r => r.epoch == e

/-- The accesses that follow are made for the region with an epoch (spec/03 R60). -/
def actFor (c : CtxId) (e : Nat) (s : State) : State := s.modCtx c fun x => { x with acting := e }

/-- The oldest outstanding region (spec/13 R250). -/
def oldest (x : Ctx) : Region := x.older.getD x.reg

/-- A change of one neighbour channel by an instruction of a region, which the discard of the region
takes back (spec/13 R256). -/
def bumpCh (e : Nat) (i : Fin 6) (d : Int) (x : Ctx) : Ctx :=
  let t := x.tok
  modRegion e (fun r => { r with dch := r.dch.set i.val (r.dch[i.val] + d) })
    { x with tok := { t with ch := t.ch.set i.val ((t.ch[i.val] : Int) + d).toNat } }

/-- A change of one token counter by an instruction or command of a region. -/
def bumpK (e : Nat) (k : BitVec 4) (d : Int) (x : Ctx) : Ctx :=
  let t := x.tok
  modRegion e (fun r => { r with dk := r.dk.set k.toNat (r.dk[k.toNat] + d) })
    { x with tok := { t with k := t.k.set k.toNat ((t.k[k.toNat] : Int) + d).toNat } }

/-- A change of the reservations of a counter (spec/04 R76). -/
def bumpRes (k : BitVec 4) (d : Int) (x : Ctx) : Ctx :=
  let t := x.tok
  { x with tok := { t with res := t.res.set k.toNat ((t.res[k.toNat] : Int) + d).toNat } }

/-- The tokens that an instruction waits on are present (spec/02 R27). -/
def tokReady (x : Ctx) (st : Stream) (t : Tok) : Bool :=
  (!t.wp || decide (0 < x.tok.ch[(chWp st).val])) && (!t.wn || decide (0 < x.tok.ch[(chWn st).val]))

/-- The channels that an instruction signals have room (spec/02 R28). -/
def tokRoom (x : Ctx) (st : Stream) (t : Tok) : Bool :=
  (!t.sp || decide (x.tok.ch[(chSp st).val] < 15)) && (!t.sn || decide (x.tok.ch[(chSn st).val] < 15))

/-- The tokens taken when an instruction begins. -/
def tokTake (e : Nat) (st : Stream) (t : Tok) (x : Ctx) : Ctx :=
  let x := if t.wp then bumpCh e (chWp st) (-1) x else x
  if t.wn then bumpCh e (chWn st) (-1) x else x

/-- The tokens given when it completes. -/
def tokGive (e : Nat) (st : Stream) (t : Tok) (x : Ctx) : Ctx :=
  let x := if t.sp then bumpCh e (chSp st) 1 x else x
  if t.sn then bumpCh e (chSn st) 1 x else x

/-- The queue of a stream. -/
def Queues.get (q : Queues) : Stream → List QEntry
  | .l => q.l | .c => q.c | .s => q.s

/-- The queue of a stream replaced. -/
def Queues.set (q : Queues) (st : Stream) (l : List QEntry) : Queues :=
  match st with
  | .l => { q with l := l }
  | .c => { q with c := l }
  | .s => { q with s := l }

/-- A context's stream queue replaced. -/
def setQ (st : Stream) (l : List QEntry) (x : Ctx) : Ctx := { x with q := x.q.set st l }

/-- The ASID of a context is that of its queue (spec/03 R51). -/
def asidOf (s : State) (x : Ctx) : BitVec 8 := (s.queue x.id.queue).asid

/-- TIME of a half: its raw counter, and those of the two halves differ by at most 8 ns (spec/15 R308). -/
def halfTime (s : State) (h : HalfId) : Word := s.dev.time + BitVec.ofNat 64 s.dev.skew[h.val].val

/-- TIME as a context reads it: the counter of its half or its clamp (spec/12 R242, spec/15 R308). -/
def timeOf (s : State) (c : CtxId) : Word :=
  let t := halfTime s (halfOf c)
  let k := (s.ctx c).cnt.clamp
  if t.toNat < k.toNat then k else t

/-- The PCIe function that sends vector q of a queue (spec/17 R331, spec/21 R396). -/
def queueFn (s : State) (q : QueueId) : Fin 2 := if s.dev.straps.dualh then (s.queue q).fn else 0

/-- The PCIe function that sends vectors 64 and 65: the owner when it is a function (spec/21
R396). -/
def ownerFn (s : State) : Fin 2 :=
  if s.dev.straps.dualh && s.dev.owner.v && s.dev.owner.own == 1 then 1 else 0

/-- An interrupt sent through the MSI-X table of a function: a masked entry leaves it pending
(spec/21 R396, notes/assumptions/6.md). -/
def raiseIrq (fn : Fin 2) (vec : Fin 66) (s : State) : State :=
  if (s.dev.fns[fn.val].msix[vec.val]).getLsbD 96 then
    let f := s.dev.fns[fn.val]
    s.modDev fun d => { d with
      fns := d.fns.set fn.val { f with pba := f.pba ||| (1#66 <<< vec.val) } }
  else { s with msixLog := s.msixLog ++ [⟨fn, vec.val⟩] }

/-- The interrupt of a queue, when its ie is set (spec/17 R337, R340). -/
def queueIrq (q : QueueId) (s : State) : State :=
  if (s.queue q).ie then raiseIrq (queueFn s q) ⟨q.val, by omega⟩ s else s

end Sys2Proof.Machine
end

