-- ==== Sys2Proof/Machine/Translate.lean ====
section
/-! DEFINITION. Addresses: the classes of the virtual map, the physical map, the heap, the page walk
with first touch, and the TLBs (spec/03). A key names a byte of the one memory list: the physical
address of a byte of main memory, a key above `sliceBase` for a byte of a slice, the bus address
above `hostBase` for a byte of host memory. -/

namespace Sys2Proof.Machine

/-- The first key of the slices: the base of the scratchpad window. -/
def sliceBase : Nat := 0x7F00_0000_0000

/-- The first key of host memory. -/
def hostBase : Nat := 2 ^ 64

/-- The first physical address of the outbound PCIe window (spec/03 R47). -/
def outBase : Nat := 2 ^ 43

/-- The size of a slice (spec/05 R87). -/
def sliceSize : Nat := 0x18_0000

/-- The key of an offset of a core's slice. -/
def sliceKey (k off : Nat) : Nat := sliceBase + k * 2 ^ 21 + off

/-- The class of one byte of a virtual address (spec/03 R45, R46). -/
inductive VClass
  | translated
  | slice (own : Bool) (core : Fin 64) (off : Nat)
  | bad
  deriving DecidableEq, Repr

/-- The class of a byte (spec/03 R45): `core` is the core that issues the access. -/
def classOf (core : CoreId) (va : Nat) : VClass :=
  if va < 0x7F00_0000_0000 then .translated
  else if va < 0x7F00_0800_0000 then
    if va % 2 ^ 21 < sliceSize then .slice false (Fin.ofNat 64 (va / 2 ^ 21)) (va % 2 ^ 21) else .bad
  else if va < 0x7F10_0000_0000 then .bad
  else if va < 0x7F10_0020_0000 then
    if va % 2 ^ 21 < sliceSize then .slice true core (va % 2 ^ 21) else .bad
  else .bad

/-- The first and the last byte of an access lie in one class and one slice (spec/03 R45). -/
def spanOk (core : CoreId) (va n : Nat) : Bool :=
  match classOf core va, classOf core (va + n - 1) with
  | .translated, .translated => true
  | .slice o k _, .slice o' k' _ => o == o' && k == k'
  | _, _ => false

/-- The bytes of installed main memory, C (spec/03 R47, R49). -/
def dramC (s : State) : Nat :=
  match s.dev.straps.chsz.toNat with
  | 1 => 16 * 2 ^ 31
  | 2 => 16 * 2 ^ 32
  | 3 => 16 * 2 ^ 33
  | _ => 0

/-- The global interleave size, G (spec/03 R47, R49). -/
def dramG (s : State) : Nat := min (s.dev.gsz.toNat * 2 ^ 25) (dramC s)

/-- The channel of a byte of main memory (spec/03 R47). -/
def channelOf (s : State) (pa : Nat) : Nat :=
  let g := dramG s
  let half := (dramC s - g) / 2
  if pa < g then pa / 4096 % 16
  else if pa < g + half then (pa - g) / 4096 % 8
  else 8 + (pa - g - half) / 4096 % 8

/-- A key in main memory. -/
def isDram (k : Nat) : Bool := decide (k < outBase)

/-- The offset of a byte of main memory within its channel (spec/03 R48). -/
def channelOffset (s : State) (pa : Nat) : Nat :=
  let g := dramG s
  let half := (dramC s - g) / 2
  if pa < g then pa / 4096 / 16 * 4096 + pa % 4096
  else if pa < g + half then g / 16 + (pa - g) / 4096 / 8 * 4096 + pa % 4096
  else g / 16 + (pa - g - half) / 4096 / 8 * 4096 + pa % 4096

/-- The byte of main memory at an offset of a channel. -/
def channelPa (s : State) (ch off : Nat) : Nat :=
  let g := dramG s
  let half := (dramC s - g) / 2
  if off < g / 16 then (off / 4096 * 16 + ch) * 4096 + off % 4096
  else (if ch < 8 then g else g + half) + ((off - g / 16) / 4096 * 8 + ch % 8) * 4096 + off % 4096

/-- Memory under another partition: every byte of main memory stays in its place of its channel, and has another physical
address (spec/03 R47 to R49). -/
def repartition (s t : State) : List Host.Cell :=
  (s.mem.filter fun b => isDram b.1).foldl
    (fun m (b : Host.Cell) => memWrite m (channelPa t (channelOf s b.1) (channelOffset s b.1)) b.2)
    (s.mem.filter fun b => !isDram b.1)

/-- The home half of a byte of main memory (spec/03 R48). -/
def homeHalf (s : State) (pa : Nat) : HalfId := if channelOf s pa < 8 then 0 else 1

/-- The region [lo, hi) local to a half (spec/03 R47). -/
def localRegion (s : State) (h : HalfId) : Nat × Nat :=
  let g := dramG s
  let half := (dramC s - g) / 2
  if h = 0 then (g, g + half) else (g + half, dramC s)

/-- The bytes [a, a + n) lie wholly in main memory, or wholly in the outbound window (spec/03
R416). -/
def ringPlaceOk (s : State) (a n : Nat) : Bool :=
  decide (a + n ≤ dramC s) || (decide (outBase ≤ a) && decide (a + n ≤ 2 ^ 44))

/-- The host bus address of an address of the outbound window (spec/21 R395). -/
def hostKey (s : State) (pa : Nat) : Nat :=
  hostBase + (s.dev.boot.outbase.toNat * 4096 + (pa - outBase)) % 2 ^ 64

/-- The key of a physical address, if the map has one there (spec/03 R47). -/
def paKey (s : State) (pa : Nat) : Option Nat :=
  if pa < dramC s then some pa
  else if outBase ≤ pa ∧ pa < 2 ^ 44 then some (hostKey s pa)
  else none

/-- A key in a slice. -/
def isSlice (k : Nat) : Bool := decide (sliceBase ≤ k) && decide (k < hostBase)

/-- A key in host memory. -/
def isHost (k : Nat) : Bool := decide (hostBase ≤ k)

/-- Memory as reads of parts find it: a read of the outbound window that ends in a completion timeout gives
all ones (spec/21 R395). -/
def lostView (s : State) (ps : List Part) : List Host.Cell :=
  if s.lostRead then
    (ps.filter fun p => isHost p.key).foldl
      (fun m (p : Part) => memPutBytes m p.key (List.replicate p.len 255)) s.mem
  else s.mem

/-- n bytes at a key as a read finds them. -/
def readView (s : State) (key n : Nat) : List Host.Cell := lostView s [⟨0, n, key⟩]

/-- The core whose slice holds a key. -/
def sliceCore (k : Nat) : Nat := (k - sliceBase) / 2 ^ 21

/-- What an address comes to: a key; a fault with its cause, its value and whether the free pool was
empty; or a wait, while the half it names is fenced (spec/19 R371). -/
inductive Xlat
  | ok (key : Nat)
  | fault (cause : Nat) (tval : Word) (pe : Bool)
  | hold
  deriving DecidableEq, Repr

/-- The cause of a page fault (spec/03 R54). -/
def pfCause : Access → Nat
  | .fetch | .load => 4
  | .store | .atomic => 5
  | .engineRead | .engineWrite => 6

/-- The permission that an access needs (spec/03 R54). -/
def permOk (a : Access) (ex wr rd : Bool) : Bool :=
  match a with
  | .fetch => ex
  | .load | .engineRead => rd
  | .store | .engineWrite => wr
  | .atomic => rd && wr

/-- Whether a TLB entry matches an address of an ASID (spec/03 R55). -/
def TlbEntry.hit (t : TlbEntry) (asid : BitVec 8) (va : Nat) : Bool :=
  (t.gl || t.asid == asid) && t.vpage == (if t.big then va / 2 ^ 21 else va / 2 ^ 16)

/-- The physical address that an entry gives. -/
def TlbEntry.paOf (t : TlbEntry) (va : Nat) : Nat :=
  t.pa + (if t.big then va % 2 ^ 21 else va % 2 ^ 16)

/-- A TLB with an entry added. When it is full the entry that leaves is a free value, since the spec
does not give the replacement (spec/03 R55). -/
def tlbFill (cap : Nat) (free : Nat) (e : TlbEntry) (l : List TlbEntry) : List TlbEntry :=
  if l.length < cap then e :: l else e :: l.eraseIdx (Config.tlbVictim free % cap)

/-- A byte whose home half has been struck cannot be reached (spec/19 R369). -/
def struckAt (s : State) (k : Nat) : Bool :=
  if isDram k then (s.half (homeHalf s k)).struck
  else if isSlice k then (s.half (Fin.ofNat 2 (sliceCore k / 32))).struck
  else false

/-- What a walk finds (spec/03 R54); `lost` at a table whose channel has been struck (spec/19 R369). -/
inductive Walk
  | leaf (e : TlbEntry)
  | missing
  | malformed
  | lost
  | touch (entry : Nat)
  deriving DecidableEq, Repr

/-- The address field [43:8] of a table entry (spec/03 R53). -/
def pteAddr (e : Word) : Nat := (e.extractLsb' 8 36).toNat * 256

/-- The leaf of a valid entry, if it is well formed (spec/03 R54). -/
def leafOf (s : State) (asid : BitVec 8) (va : Nat) (big : Bool) (e : Word) : Walk :=
  let size := if big then 2 ^ 21 else 2 ^ 16
  let pa := pteAddr e
  if pa % size ≠ 0 ∨ (pa < outBase ∧ dramC s < pa + size) then .malformed
  else .leaf { asid := asid, gl := e.getLsbD 4, big := big
               vpage := va / size, pa := pa, ex := e.getLsbD 3, wr := e.getLsbD 2
               rd := e.getLsbD 1 }

/-- A walk from a table of a level on; `lvl` counts down from 4 (level 1) to 1 (level 4)
(spec/03 R51, R54). -/
def walkFrom (s : State) (asid : BitVec 8) (va : Nat) (table : Nat) : Nat → Walk
  | 0 => .malformed
  | n + 1 =>
    let size := if n = 0 then 256 else 4096
    if dramC s < table + size then .malformed
    else
      let idx := if n = 0 then va / 2 ^ 16 % 32 else va / 2 ^ (12 + 9 * n) % 512
      let at8 := table + 8 * idx
      let e := memWord s.mem at8
      if struckAt s at8 then .lost
      else if !e.getLsbD 0 then
        if n = 0 && e.getLsbD 5 then .touch at8 else .missing
      else if e.extractLsb' 45 19 ≠ 0 ∨ (e.getLsbD 6 ∧ n ≠ 1) then .malformed
      else if n = 0 then leafOf s asid va false e
      else if e.getLsbD 6 then leafOf s asid va true e
      else if 2 ≤ n ∧ pteAddr e % 4096 ≠ 0 then .malformed
      else walkFrom s asid va (pteAddr e) n

/-- The page walk (spec/03 R51, R52, R54). -/
def walk (s : State) (asid : BitVec 8) (va : Nat) : Walk :=
  let root := s.dev.asidtab.toNat * 4096
  if dramC s < root + 4096 then .malformed
  else
    let e := memWord s.mem (root + 8 * asid.toNat)
    if struckAt s (root + 8 * asid.toNat) then .lost
    else if !e.getLsbD 0 then .missing
    else if e.extractLsb' 44 20 ≠ 0 ∨ e.extractLsb' 1 11 ≠ 0 then .malformed
    else walkFrom s asid va ((e.extractLsb' 12 32).toNat * 4096) 4

/-- The number of entries of a ring (spec/03 R56). -/
def ringEntries (r : RingReg) : Nat := 2 ^ (min r.lgsz.toNat 12 + 4)

/-- The ring with its base and entries of a size lies where R416 allows it. -/
def ringOk (s : State) (r : RingReg) (size : Nat) : Bool :=
  ringPlaceOk s r.base.toNat (size * ringEntries r)

/-- The memory key of a byte of a ring. -/
def ringKey (s : State) (pa : Nat) : Nat := (paKey s pa).getD pa

/-- The page that an entry of a free pool names; bits [63:44] are ignored (spec/03 R56, spec/00 R9). -/
def poolPage (e : Word) : Nat := (e.extractLsb' 0 44).toNat

/-- The next usable page of a free pool: entries whose page is misaligned or does not lie in the local region of the half
are discarded (spec/03 R57). -/
def poolTake (s : State) (h : HalfId) : Nat → RingReg → RingReg × Option Nat
  | 0, r => (r, none)
  | n + 1, r =>
    if r.head = r.tail then (r, none)
    else
      let at8 := r.base.toNat + 8 * (r.head.toNat % ringEntries r)
      let e := memWord (readView s (ringKey s at8) 8) (ringKey s at8)
      let r' := { r with head := r.head + 1 }
      let page := poolPage e
      let (lo, hi) := localRegion s h
      if page % 2 ^ 16 = 0 ∧ lo ≤ page ∧ page + 2 ^ 16 ≤ hi then (r', some page)
      else poolTake s h n r'

/-- A zero-filled page for a first touch: the spare, or the next page of the pool (spec/03 R57,
R58, R416). -/
def takePage (s : State) (h : HalfId) : State × Option Nat :=
  match (s.half h).spare with
  | some p => (s.modHalf h fun x => { x with spare := none }, some p)
  | none =>
    if !ringOk s (s.half h).pool 8 then
      (s.modHalf h fun x => { x with pool := { x.pool with berr := true } }, none)
    else
      let (r, p) := poolTake s h (2 ^ 16) (s.half h).pool
      let s := s.modHalf h fun x => { x with pool := r }
      match p with
      | some p => ({ s with mem := memZero s.mem p (2 ^ 16) }, some p)
      | none => (s, none)

/-- The entry that a first touch installs (spec/03 R57). -/
def touchEntry (h : HalfId) (page : Nat) : Word :=
  BitVec.ofNat 64 (page + 2 ^ 44 + 128 * h.val + 0x27)

/-- A first touch of the level-4 entry at a key (spec/03 R57): the page, or none when the pool is
empty. -/
def firstTouch (s : State) (h : HalfId) (entry : Nat) : State × Bool :=
  match takePage s h with
  | (s, none) => (s, false)
  | (s, some p) => ({ s with mem := memPutNat s.mem entry 8 (touchEntry h p).toNat }, true)

/-- A home that takes no request: its half has been struck, or it is a slice of a half that is fenced (spec/19
R369, R371). -/
def homeShut (s : State) (k : Nat) : Bool :=
  struckAt s k ||
    (isSlice k && s.dev.fo.fenced == some (Fin.ofNat 2 (sliceCore k / 32)))

/-- An adoption is under way, and its queues have not resumed (spec/19 R370). -/
def adopting (s : State) : Bool := decide (1 ≤ s.dev.fo.phase.toNat) && decide (s.dev.fo.phase.toNat ≤ 4)

/-- A command processor is at its quiescent point (spec/17 R330, spec/19 R377). -/
def anyQuiet (s : State) : Bool := s.halves.toList.any fun h => h.cpQuiet

/-- A queue takes no notify write and no advance of its timeline: they are latched until the command processors, or the
adopted queues, resume (spec/17 R330, spec/19 R375). -/
def queueShut (s : State) (q : QueueId) : Bool := anyQuiet s || (adopting s && (s.queue q).adopted)

/-- A physical address as a translated access meets it. -/
def landPa (s : State) (va : Word) (pa : Nat) : Xlat :=
  match paKey s pa with
  | none => .fault 7 va false
  | some k => if struckAt s k then .fault 11 va false else .ok k

/-- An access through a TLB entry: its permissions, then its physical address. -/
def landTlb (s : State) (acc : Access) (va : Word) (t : TlbEntry) : Xlat :=
  if permOk acc t.ex t.wr t.rd then landPa s va (t.paOf va.toNat) else .fault 7 va false

/-- The TLBs after a walk or a hit of the shared TLB. -/
def fillTlbs (c : CtxId) (t : TlbEntry) (s : State) : State :=
  let s := if (s.half (halfOf c)).tlb.contains t then s
    else (s.modHalf (halfOf c) fun h => { h with tlb := tlbFill 4096 s.freeCtr t h.tlb }).bumpFree
  (s.modCore (coreOf c) fun k => { k with tlb := tlbFill 32 s.freeCtr t k.tlb }).bumpFree

/-- A translation that the region under way has used (spec/03 R60). -/
def noteUse (c : CtxId) (t : TlbEntry) (s : State) : State :=
  s.modCtx c fun x => modRegion x.acting
    (fun r => { r with used := if r.used.contains t then r.used else t :: r.used }) x

/-- A walk with its first touch (spec/03 R54, R57). -/
def walkTouch (s : State) (c : CtxId) (acc : Access) (va : Word) : State × Xlat :=
  let asid := asidOf s (s.ctx c)
  match walk s asid va.toNat with
  | .leaf t => (noteUse c t (fillTlbs c t s), landTlb s acc va t)
  | .missing => (s, .fault (pfCause acc) va false)
  | .malformed => (s, .fault 7 va false)
  | .lost => (s, .fault 11 va false)
  | .touch e =>
    match firstTouch s (halfOf c) e with
    | (s, false) => (s, .fault (pfCause acc) va true)
    | (s, true) =>
      match walk s asid va.toNat with
      | .leaf t => (noteUse c t (fillTlbs c t s), landTlb s acc va t)
      | _ => (s, .fault 7 va false)

/-- The heap holds an address (spec/03 R50). -/
def inHeap (h : Heap) (va : Word) : Bool :=
  decide (h.base.toNat ≤ va.toNat) && decide (va.toNat < h.base.toNat + h.len.toNat)

/-- A translated address (spec/03 R50 to R57). -/
def xlatePage (s : State) (c : CtxId) (acc : Access) (va : Word) : State × Xlat :=
  let x := s.ctx c
  if inHeap x.heap va then (s, landPa s va (va + x.heap.off).toNat)
  else
    let asid := asidOf s x
    match (s.core (coreOf c)).tlb.find? fun t => t.hit asid va.toNat with
    | some t => (noteUse c t s, landTlb s acc va t)
    | none =>
      match (s.half (halfOf c)).tlb.find? fun t => t.hit asid va.toNat with
      | some t => (noteUse c t (fillTlbs c t s), landTlb s acc va t)
      | none => walkTouch s c acc va

/-- A byte of a slice, after the window folds (spec/19 R371, R372): own-slice aliases never fold. -/
def xlateSlice (s : State) (own : Bool) (core : CoreId) (off : Nat) (va : Word) : Xlat :=
  let h := halfOfCore core
  let core' := if !own ∧ s.dev.fo.fold = some h then (core.val + 32) % 64 else core.val
  if !own ∧ s.dev.fo.fenced = some h then .hold
  else
    let k := sliceKey core' off
    if struckAt s k then .fault 11 va false else .ok k

/-- The half whose slice holds a byte of a VA, if one does. -/
def sliceHalf (c : CtxId) (va : Word) : Option HalfId :=
  match classOf (coreOf c) va.toNat with
  | .slice _ k _ => some (halfOfCore k)
  | _ => none

/-- One byte's address, and with it every byte of its page that follows (spec/03 R45). -/
def xlate (s : State) (c : CtxId) (acc : Access) (va : Word) : State × Xlat :=
  match classOf (coreOf c) va.toNat with
  | .bad => (s, .fault 7 va false)
  | .slice own k off =>
    if acc = .fetch then (s, .fault 7 va false) else (s, xlateSlice s own k off va)
  | .translated => xlatePage s c acc va

end Sys2Proof.Machine
end

