-- ==== Sys2Proof/Machine/Region.lean ====
section
/-! DEFINITION. Regions: what is in flight for a region, the discard that restores its start
(spec/13 R256, R257), the lease and the accumulator slots (spec/10 R190, R194), and the end of a
context (spec/14 R281, spec/16 R314, spec/17 R350). -/

namespace Sys2Proof.Machine

/-- An empty slot of the accumulator memory (spec/10 R190). -/
def freeSlot (k : CoreId) (i : Nat) (s : State) : State :=
  s.modCore k fun x => { x with slots := x.slots.setIfInBounds i none }

/-- Several slots freed. -/
def freeSlots (k : CoreId) (l : List Nat) (s : State) : State := l.foldl (fun s i => freeSlot k i s) s

/-- The MAT instructions (spec/10 R197). -/
def isMat : Instr → Bool
  | .mma _ | .mzero _ | .mwr _ | .mrd _ | .mdrain _ => true
  | _ => false

/-- A MAT instruction waits at the head of a context's C stream. -/
def matWaits (x : Ctx) : Bool := x.bank == .running && (x.q.c.head?.any fun t => isMat t.instr)

/-- Who holds the lease after its holder's lease has ended: the other bank when it waits for it
(spec/10 R194). -/
def nextHolder (s : State) (c : CtxId) : Option (Fin 2) :=
  let b : Fin 2 := 1 - bankOf c
  if matWaits (s.ctx (ctxIn (coreOf c) b)) then some b else none

/-- The lease ends when its holder halts or commits (spec/10 R194). -/
def endLease (c : CtxId) (s : State) : State :=
  let next := nextHolder s c
  s.modCore (coreOf c) fun k =>
    if k.lease = some (bankOf c) then { k with lease := next, used := 0 } else k

/-- The queue entries that a discard from an epoch on keeps (spec/06 R110, spec/13 R257). -/
def keepQueues (e : Nat) (q : Queues) : Queues :=
  { l := q.l.filter fun t => decide (t.epoch < e)
    c := q.c.filter fun t => decide (t.epoch < e)
    s := q.s.filter fun t => decide (t.epoch < e)
    parked := q.parked.filter fun t => decide (t.epoch < e)
    qv := q.qv.map fun l => l.filter fun t => decide (t.epoch < e)
    qs := q.qs.map fun l => l.filter fun t => decide (t.epoch < e)
    qa := q.qa.filter fun t => decide (t.epoch < e)
    qb := q.qb.filter fun t => decide (t.epoch < e) }

/-- The counter that an engine instruction produces (spec/04 R76). -/
def engKp : Instr → BitVec 4
  | .eset o | .efire o | .eclr o | .cbload o => o.kp
  | .esetS o | .efireS o | .eclrS o | .cbloadS o => o.kp
  | _ => 0

/-- The reservation of a command taken back (spec/04 R77). -/
def dropRes (i : Instr) (x : Ctx) : Ctx := if engKp i = 0 then x else bumpRes (engKp i) (-1) x

/-- The reservations of the commands of a context from an epoch on, queued or active, taken back. -/
def dropReserved (e : Nat) (active : List ActiveCmd) (x : Ctx) : Ctx :=
  let cmds := (x.engL ++ x.engS ++ active.map (·.cmd)).filter fun q => decide (e ≤ q.epoch)
  cmds.foldl (fun x q => dropRes q.instr x) x

/-- The entries that a template pushes (spec/04 R71, R73). -/
def tmplPushes (t : BitVec 1024) : Nat :=
  if t.extractLsb' 0 4 = 2 then (t.extractLsb' 456 8).toNat * (t.extractLsb' 464 8).toNat
  else if t.extractLsb' 0 4 = 1 ∧ t.getLsbD 13 then 1 else 0

/-- The latch queue that a started command pushes to and has not placed all its entries in (spec/04
R71, R73): decided by its template. -/
def fillsTo (a : ActiveCmd) : Option Bool :=
  if a.dead || decide (tmplPushes a.tmpl ≤ a.pushed) then none
  else some (a.tmpl.extractLsb' 0 4 == 1 && a.tmpl.getLsbD 128)

/-- The token counts as they stood before a region (spec/13 R256). -/
def undoTokens (r : Region) (t : Tokens) : Tokens :=
  { t with
    k := Vector.zipWith (fun (n : Nat) (d : Int) => ((n : Int) - d).toNat) t.k r.dk
    ch := Vector.zipWith (fun (n : Nat) (d : Int) => ((n : Int) - d).toNat) t.ch r.dch }

/-- The rename map, the staging buffers, FPC and the step counts as they stood before a region. -/
def undoRegion (r : Region) (x : Ctx) : Ctx :=
  { x with
    tok := undoTokens r x.tok
    mat := { x.mat with
      map := r.tiles.foldl (fun m t => m.set t.1.val t.2) x.mat.map
      steps := (r.cIn.map (·.steps)).getD x.mat.steps }
    stage := r.lIn.getD x.stage
    fpc := (r.cIn.map (·.fpc)).getD x.fpc }

/-- The slots that a region took (spec/10 R190). -/
def regionSlots (r : Region) (x : Ctx) : List Nat := r.tiles.filterMap fun t => x.mat.map[t.1.val]

/-- The templates as they stood before a region wrote them (spec/04 R80). -/
def undoTemplates (r : Region) (m : List Host.Cell) : List Host.Cell :=
  r.undo.foldl (fun m u => memPutNat m u.1 128 u.2.toNat) m

/-- The outstanding regions from an epoch on, youngest first. -/
def discarded (e : Nat) (x : Ctx) : List Region :=
  match x.older with
  | some r => if e ≤ r.epoch then [x.reg, r] else [x.reg]
  | none => [x.reg]

/-- The effect that ends a claim of a context that has not ended it itself (spec/14 R281). -/
def claimEffect (k : Claim) : Deferred :=
  match k.kind with
  | .lock => .rel k.key k.gen
  | .produce => .ringpub k.key k.val
  | .consume => .ringfree k.key k.val

/-- What a discard from an epoch on leaves of a claim list (spec/14 R281): the claims are kept, not
yet received, under the epochs that their regions will have when they are replayed, and a claim whose
end was dropped is outstanding again. -/
def reclaim (e new : Nat) (kept : List DeferredRec) (l : List Claim) : List Claim :=
  l.map fun k =>
    let k := { k with ending := k.ending && kept.any fun d => d.eff == claimEffect k }
    if e ≤ k.epoch then
      { k with epoch := if k.epoch = e then new else new + 1, received := false }
    else k

/-- The effects in flight that a discard from an epoch on leaves (spec/05 R100, spec/14 R278). -/
def keepSync (e new : Nat) (y : SyncSt) : SyncSt :=
  let kept := y.deferred.filter fun t => decide (t.epoch < e) || t.retired
  { y with
    unsent := y.unsent.filter fun t => decide (t.p.epoch < e)
    red := y.red.filter fun t => decide (t.epoch < e)
    deferred := kept
    claims := reclaim e new kept y.claims }

/-- One region's own traces in the core taken back: its slots and its templates. -/
def undoCore (c : CtxId) (r : Region) (s : State) : State :=
  let s := freeSlots (coreOf c) (regionSlots r (s.ctx c)) s
  let s := { s with mem := undoTemplates r s.mem }
  s.modCtx c (undoRegion r)

/-- A line access of an instruction of a context from an epoch on: the copy engine and the window unit (ports 4 and 6)
run on. -/
def useOf (c : CtxId) (e : Nat) (u : BankUse) : Bool :=
  u.by_ == some c && u.req.isSome && decide (e ≤ u.epoch) && u.port != 4 && u.port != 6

/-- The core's own traces of a context from an epoch on: a stopped `mma`, comparisons that are due, line accesses
that are not granted, and the started commands, which run on without their tokens (spec/10 R190, spec/04 R77). -/
def discardCore (c : CtxId) (e : Nat) (k : Core) : Core :=
  { k with
    now := k.now.filter fun u => !useOf c e u
    served := k.served.filter fun u => !useOf c e u
    mmaRun := k.mmaRun.filter fun m => !(m.ctx == c && decide (e ≤ m.epoch))
    checks := k.checks.filter fun t => !(t.ctx == c && decide (e ≤ t.epoch))
    arrivals := k.arrivals.filter fun t => !(t.ctx == c && decide (e ≤ t.epoch))
    active := k.active.map fun a =>
      if a.ctx = c ∧ e ≤ a.cmd.epoch ∧ !a.late then { a with dead := true } else a }

/-- A task entry that an unretired `tpost` of a discarded region has reserved (spec/14 R293). -/
def reservedBy (c : CtxId) (e : Nat) (t : TaskEntry) : Bool :=
  !t.ready && t.owner == c && decide (e ≤ t.epoch)

/-- The front's state and the open region after a discard: the region that replays begins where the
oldest discarded one began (spec/13 R257). -/
def reopen (oldestR : Region) (time : Word) (x : Ctx) : Ctx :=
  let e := x.epochs + 1
  { x with
    regs := { x.regs with pc := oldestR.start }
    front := oldestR.front
    older := if x.reg.epoch = oldestR.epoch then x.older else none
    reg := Region.fresh e oldestR.start oldestR.front time
    epochs := e
    waited := 0 }

/-- The waiters bit of a core in a record (spec/14 R274, R279). -/
def waitBit (key : Nat) (core : CoreId) (on : Bool) (m : List Host.Cell) : List Host.Cell :=
  let w := memWord m (key + 0x38)
  let b := 1#64 <<< core.val
  memPutNat m (key + 0x38) 8 (if on then w ||| b else w &&& ~~~b).toNat

/-- The waiter waits on a record, whose home keeps a waiters dword. -/
def onRecord (w : Waiter) : Bool := w.role != .word

/-- A waiter that has left its home: its core's bit goes when no other context of the core waits on the
record, and the grant position when nobody does (spec/14 R279). -/
def leaveHome (w : Waiter) (s : State) : State :=
  let rest := s.waiters.filter fun t => t.key == w.key && onRecord t
  let s := if onRecord w && !(rest.any fun t => coreOf t.ctx == coreOf w.ctx) then
      { s with mem := waitBit w.key (coreOf w.ctx) false s.mem }
    else s
  if rest.isEmpty then { s with grants := s.grants.filter fun g => g.1 != w.key } else s

/-- The waiters that satisfy a test leave their homes. -/
def dropWaiters (f : Waiter → Bool) (s : State) : State :=
  let gone := s.waiters.filter f
  let s := { s with waiters := s.waiters.filter fun w => !f w }
  gone.foldl (fun s w => leaveHome w s) s

/-- The discard of the region with an epoch and of every younger region of its context (spec/13 R256,
R257). -/
def discard (c : CtxId) (e : Nat) (s : State) : State :=
  let x := s.ctx c
  let rs := discarded e x
  let old := rs.getLast?.getD x.reg
  let e := old.epoch
  let s := rs.foldl (fun s r => undoCore c r s) s
  let s := s.modCtx c fun x =>
    let x := dropReserved e ((s.core (coreOf c)).active.filter fun a => a.ctx == c && !a.dead) x
    let x := { x with
      q := keepQueues e x.q
      ptests := x.ptests.filter fun t => decide (t.epoch < e)
      engL := x.engL.filter fun t => decide (t.epoch < e)
      engS := x.engS.filter fun t => decide (t.epoch < e)
      sync := keepSync e (x.epochs + 1) x.sync
      cnt := { x.cnt with rplTotal := x.cnt.rplTotal + 1 } }
    reopen old (timeOf s c) x
  let s := s.modCore (coreOf c) (discardCore c e)
  let s := s.modHalf (halfOf c) fun h =>
    { h with weir := h.weir.filter fun w => !(w.ctx == c && !w.committed && decide (e ≤ w.epoch)) }
  let s := { s with
    cascs := s.cascs.map fun (g : Casc) =>
      { g with tasks := g.tasks.filter fun t => !reservedBy c e t
               spill := g.spill.filter fun t => !reservedBy c e t } }
  dropWaiters (fun w => w.ctx == c && ((s.ctx c).q.get w.stream).isEmpty) s

/-- The clock of a context's cascade is held: nothing executes, retires, is discarded or enters a trap (spec/18
R364). -/
def heldClock (s : State) (c : CtxId) : Bool := (s.casc (cascOf c)).hold

/-- An event that a hold latches: it is delivered after the hold (spec/18 R364). -/
def orLatch (g : CascId) (i : Latched) (f : State → State) (s : State) : State :=
  if (s.casc g).hold then s.modCasc g fun k => { k with latched := k.latched ++ [i] } else f s

/-- Both outstanding regions of a context discarded. -/
def discardAll (c : CtxId) (s : State) : State := discard c (oldest (s.ctx c)).epoch s

/-- A claim of an operator ended at a retirement or at the end of a context. -/
def endClaim (op : Option Nat) (seq : Nat) (k : Claim) : DeferredRec :=
  { eff := claimEffect k, epoch := 0, stream := .s, base := 0, len := 0, all := false
    scope := 4, retired := true, seq := seq, op := op, clamp := none }

/-- The claims that satisfy a test are ended; what a retired effect already ends needs no second one. -/
def endClaims (op : Option Nat) (f : Claim → Bool) (y : SyncSt) : SyncSt :=
  let gone := y.claims.filter fun k => f k && !(y.deferred.any fun d => d.retired && d.eff == claimEffect k)
  { y with
    claims := y.claims.filter fun k => !f k
    deferred := y.deferred ++ gone.map (endClaim op y.seq)
    seq := y.seq + 1 }

/-- The slots that a context holds. -/
def ctxSlots (x : Ctx) : List Nat :=
  x.mat.map.toList.filterMap id ++ x.mat.trapMap.toList.filterMap id

/-- The line accesses of a context that has left its bank count nowhere any more (spec/05 R90). -/
def disownUses (c : CtxId) (k : Core) : Core :=
  let off := fun (u : BankUse) => if u.by_ = some c then { u with by_ := none } else u
  { k with now := k.now.map off, served := k.served.filter fun u => u.by_ != some c }

/-- An effect of a context that leaves its bank keeps the clamp of TIME that the context had (spec/15 R308). -/
def keepClamp (k : Word) (d : DeferredRec) : DeferredRec := { d with clamp := some (d.clamp.getD k) }

/-- A bank whose context has ended: what has retired and is still on its way stays with the bank,
as do its generation and its trap vector (spec/10 R190, spec/14 R281, spec/17 R350). -/
def emptyBank (bank : Bank) (x : Ctx) : Ctx :=
  { Ctx.empty with
    bank := bank
    id := { Ident.zero with gen := x.id.gen }
    trap := { TrapRegs.zero with
      tvec := x.trap.tvec, tcause := x.trap.tcause, tpc := x.trap.tpc, tval := x.trap.tval
      tscr0 := x.trap.tscr0, tscr1 := x.trap.tscr1, kind := x.trap.kind }
    sync :=
      let y := endClaims (ctxOp x) (fun _ => true) { x.sync with red := x.sync.red.filter (·.committed) }
      { y with deferred := y.deferred.map (keepClamp x.cnt.clamp) }
    pos := x.pos, epochs := x.epochs, sluice := x.sluice, sinceDeq := x.sinceDeq }

/-- The context in the other bank of a core is no longer the one that the bank-switch rule resumed past the context of
this bank, which is gone (spec/16 R322). -/
def endSwitch (c : CtxId) (s : State) : State := s.modCtx (otherBank c) fun x => { x with switched := false }

/-- The end of the context of a bank, which discards what has not retired (spec/10 R190, spec/14
R281). The generation does not change here (spec/16 R314). -/
def endCtx (c : CtxId) (s : State) : State :=
  let s := endLease c (discardAll c s)
  let s := freeSlots (coreOf c) (ctxSlots (s.ctx c)) s
  endSwitch c ((s.modCtx c (emptyBank .empty)).modCore (coreOf c) (disownUses c))

/-- A context killed: its generation rises (spec/03 R62, spec/16 R314). -/
def killCtx (c : CtxId) (s : State) : State :=
  (endCtx c s).modCtx c fun x => { x with id := { x.id with gen := x.id.gen + 1 } }

end Sys2Proof.Machine
end

