-- ==== Sys2Proof/Machine/Operator.lean ====
section
/-! DEFINITION. What becomes of operators and their items: the end of an item, the abort of an
operator and the error state of a queue (spec/16 R314, R315, spec/17 R337, R350). -/

namespace Sys2Proof.Machine

/-- A running operator by its number. -/
def State.op (s : State) (id : Nat) : Option Operator := s.ops.find? fun o => o.id == id

/-- The state with an operator changed. -/
def State.modOp (s : State) (id : Nat) (f : Operator → Operator) : State :=
  { s with ops := s.ops.map fun o => if o.id = id then f o else o }

/-- The contexts that satisfy a test. -/
def ctxsWhere (f : Ctx → Bool) (s : State) : List CtxId :=
  (List.finRange 128).filter fun c => f (s.ctx c)

/-- The contexts of an operator. -/
def opCtxs (s : State) (id : Nat) : List CtxId := ctxsWhere (fun x => ctxOp x == some id) s

/-- The contexts of a cascade. -/
def cascCtxs (g : CascId) : List CtxId := (List.finRange 8).map fun i => ⟨8 * g.val + i.val, by omega⟩

/-- An item of a gang has not ended: its context is in a bank of its cascade, or evicted. -/
def gangLives (s : State) (g : CascId) (n : Nat) : Bool :=
  let isIn := fun (x : Ctx) => (x.work.map (·.gang)) == some n
  (cascCtxs g).any fun c =>
    isIn (s.ctx c) || (s.core (coreOf c)).saved.toList.any fun t => t.any fun v => isIn v.ctx

/-- A filler bank made empty (spec/16 R319). -/
def unfill (x : Ctx) : Ctx := if x.bank = .filler then { x with bank := .empty } else x

/-- The filler of a gang ends when the gang's last item has ended (spec/16 R318, R319). -/
def settleFiller (g : CascId) (s : State) : State :=
  let ended := (s.casc g).fillers.filter fun t => !gangLives s g t.2
  let s := ended.foldl (fun s t => s.modCtx t.1 unfill) s
  s.modCasc g fun k => { k with fillers := k.fillers.filter fun t => !ended.contains t }

/-- A tier whose item has ended runs filler until the gang's last item ends (spec/16 R318). -/
def fillBank (c : CtxId) (n : Nat) (s : State) : State :=
  if n ≠ 0 ∧ gangLives s (cascOf c) n then
    (s.modCtx c fun x => { x with bank := .filler }).modCasc (cascOf c) fun k =>
      { k with fillers := (c, n) :: k.fillers }
  else s

/-- How an item ends (spec/16 R314). -/
inductive ItemEnd
  | done | guardFailed | restarted
  deriving DecidableEq, Repr

/-- An item put in its place in a list that is in an order. -/
def insertItem (before : Item → Item → Bool) (it : Item) : List Item → List Item
  | [] => [it]
  | t :: ts => if before it t then it :: t :: ts else t :: insertItem before it ts

/-- The order of fresh items: ascending L (spec/16 R314); where a half has been folded, those of the survivor first (spec/19
R373). -/
def freshBefore (fold : Option (Fin 2)) (o : Operator) (it t : Item) : Bool :=
  let late := fun (i : Item) => o.halves && fold.any fun f => i.idx.head? == some f.val
  (!late it && late t) || (late it == late t && decide (it.lin < t.lin))

/-- The order of restart and fallback items: restart items first, in the order of escalation (spec/16 R314), then fallback
items in the order of their entries (spec/13 R271). -/
def entryBefore (it t : Item) : Bool :=
  (it.avoid.isSome && t.avoid.isNone) || (it.avoid.isSome == t.avoid.isSome && decide (it.ord < t.ord))

/-- An item on the fallback list of its operator. -/
def addFallback (it : Item) (o : Operator) : Operator := { o with fallback := insertItem entryBefore it o.fallback }

/-- An item on the restart list of its operator. -/
def addRestart (it : Item) (o : Operator) : Operator := { o with restart := insertItem entryBefore it o.restart }

/-- The fallback entry of an item that needs none any more is free (spec/13 R270, spec/17 R348; DESIGN CHOICE,
notes/assumptions/70.md). -/
def freeEntry (it : Item) (h : HalfId) (o : Operator) : Operator :=
  if it.res then { o with fbUsed := o.fbUsed.set h.val (o.fbUsed[h.val] - 1) } else o

/-- What the end of an item leaves with its operator (spec/13 R263, R270): a fallback item that escalates stands before
those that have not (DEDUCED, notes/assumptions/24.md). -/
def opAfter (how : ItemEnd) (it : Item) (g : CascId) (o : Operator) : Operator :=
  let n := o.entered + 1
  match how with
  | .done => freeEntry it (halfOfCasc g) o
  | .guardFailed =>
    addFallback { it with fb := true, avoid := none, ord := n } { o with entered := n, gfail := o.gfail + 1 }
  | .restarted =>
    let it := { it with avoid := some g, ord := n }
    if it.fb then addFallback it { o with entered := n } else addRestart it { o with entered := n }

/-- An item or task ends otherwise than by an abort (spec/16 R314). -/
def endItem (c : CtxId) (how : ItemEnd) (s : State) : State :=
  let w := (s.ctx c).work
  let s := endCtx c s
  match w with
  | none => s
  | some w =>
    let s := s.modOp w.disp.op (opAfter how w.item (cascOf c))
    settleFiller (cascOf c) (fillBank c w.gang s)

/-- A saved context of an operator dropped, and its dispatch set in the shadow bank (spec/17 R350). -/
def dropSaved (id : Nat) (k : Core) : Core :=
  { k with
    saved := k.saved.map fun t => if (t.bind fun v => ctxOp v.ctx) = some id then none else t
    shadow := if (k.shadow.map (·.op)) = some id then none else k.shadow }

/-- What an abort takes out of a cascade. -/
def dropCasc (id : Nat) (g : Casc) : Casc :=
  { g with
    tasks := g.tasks.filter fun t => t.op != id
    spill := g.spill.filter fun t => t.op != id
    held := g.held.filter fun t => t.op != id
    gangs := g.gangs.filter fun k => k.op != id }

/-- The end of an evicted context in the bank that it left: its claims are ended (spec/14 R281), and the generation of the
bank rises if the bank still has its own (spec/03 R62). -/
def endSaved (v : Ctx) (x : Ctx) : Ctx :=
  let y := endClaims (ctxOp v) (fun _ => true) { x.sync with claims := v.sync.claims }
  { x with
    sync := { y with claims := x.sync.claims
                     deferred := x.sync.deferred ++
                       (y.deferred.drop x.sync.deferred.length).map (keepClamp v.cnt.clamp) }
    id := if x.id.gen = v.id.gen then { x.id with gen := x.id.gen + 1 } else x.id }

/-- The evicted contexts of a core that satisfy a test end. -/
def endSavedOf (f : Ctx → Bool) (k : CoreId) (s : State) : State :=
  (s.core k).saved.toList.foldl (fun s t =>
    match t with
    | none => s
    | some v => if f v.ctx then s.modCtx (ctxIn k v.bank) (endSaved v.ctx) else s) s

/-- The evicted contexts of an operator end. -/
def bumpSaved (id : Nat) (s : State) : State :=
  (List.finRange 64).foldl (fun s k => endSavedOf (fun x => ctxOp x == some id) k s) s

/-- Everything of an operator killed or dropped (spec/17 R350). -/
def dropOp (id : Nat) (s : State) : State :=
  let s := (opCtxs s id).foldl (fun s c => killCtx c s) s
  let s := bumpSaved id s
  let s := { s with cores := s.cores.map (dropSaved id), cascs := s.cascs.map (dropCasc id) }
  let s := s.modOp id fun o =>
    { o with state := .aborted, pending := [], restart := [], fallback := [] }
  (List.finRange 16).foldl (fun s g => settleFiller g s) s

/-- The operators of a queue that still run. -/
def queueOps (s : State) (q : QueueId) : List Nat :=
  (s.ops.filter fun o => o.queue == q && o.state == .running).map (·.id)

/-- A queue in its error state (spec/17 R337). A queue that is being disabled becomes Disabled, with
its rd at its wi. -/
def errorQueue (code : Nat) (epkt : Word32) (q : Queue) : Queue :=
  { q with
    st := if q.st = .draining then .disabled else .error
    ecode := BitVec.ofNat 8 code
    epkt := epkt
    pkts := []
    rd := if q.st = .draining then q.wi else q.rd }

/-- A queue enters the error state: fetching stops and its operators are aborted (spec/17 R337). -/
def enterError (q : QueueId) (code : Nat) (epkt : Word32) (s : State) : State :=
  let s := (queueOps s q).foldl (fun s id => dropOp id s) s
  let s := { s with ops := s.ops.filter fun o => o.queue != q }
  queueIrq q (s.modQueue q (errorQueue code epkt))

/-- The threshold of a wait on a timeline, in a packet or in a card (spec/17 R338, R351). -/
def waitThreshold (p : Pkt) : Word :=
  match p.graph.bind (·.words) with
  | some w => w[3]
  | none => p.words[2]

/-- A timeline has reached a threshold (spec/17 R342). -/
def reached (value threshold : Word) : Bool := decide (0 ≤ (value - threshold).toInt)

/-- The packet of a queue that waits on the timeline of another and is not satisfied (spec/17 R337). -/
def tlWaiter (s : State) (q r : QueueId) : Option Pkt :=
  (s.queue r).pkts.find? fun p =>
    p.begun && p.tlq == some q && !reached (s.queue q).tl (waitThreshold p)

/-- The queues that an error reaches: n bounds the chain of waits, which no queue enters twice. -/
def errorWave : Nat → QueueId → Nat → Word32 → State → State
  | 0, _, _, _, s => s
  | n + 1, q, code, epkt, s =>
    if (s.queue q).st = .error then s
    else
      (List.finRange 64).foldl (fun s r =>
        match tlWaiter s q r with
        | some p => errorWave n r (if (s.half (s.queue r).home).struck then 5 else 7) p.index s
        | none => s) (enterError q code epkt s)

/-- A queue enters the error state, and with it the queues that wait on its timeline (spec/17 R337). -/
def queueError (q : QueueId) (code : Nat) (epkt : Word32) (s : State) : State :=
  errorWave 64 q code epkt s

/-- The packet that a queue is serving: the oldest that is not complete, else the next. -/
def servedPkt (q : Queue) : Word32 := (q.pkts.head?.map (·.index)).getD q.rd

/-- An operator aborted, which puts its queue into the error state (spec/17 R337, R350). -/
def abortOp (id : Nat) (code : Nat) (s : State) : State :=
  match s.op id with
  | none => s
  | some o => queueError o.queue code o.pkt s

/-- The operator of a context aborted (spec/18 R355, R359). A context that no launch has placed has
no operator; it is killed and its queue enters the error state. -/
def abortCtx (c : CtxId) (code : Nat) (s : State) : State :=
  let x := s.ctx c
  match ctxOp x with
  | some id =>
    match s.op id with
    | some o => queueError o.queue code o.pkt s
    | none => killCtx c s
  | none => queueError x.id.queue code (servedPkt (s.queue x.id.queue)) (killCtx c s)

end Sys2Proof.Machine
end

