-- ==== Sys2Proof/Machine/Reliability.lean ====
section
/-! DEFINITION. Detected errors counted, cores retired, and the reservations that a retired core breaks (spec/13 R264,
R266, spec/16 R324, R328). -/

namespace Sys2Proof.Machine

/-- An item back among those that wait to be dealt, in its place (spec/16 R314, R328). -/
def returnItem (fold : Option (Fin 2)) (it : Item) (o : Operator) : Operator :=
  if it.fb then addFallback it o
  else if it.avoid.isSome then addRestart it o
  else { o with pending := insertItem (freshBefore fold o) it o.pending }

/-- The items of a gang back among those that wait to be dealt. -/
def returnGang (k : Gang) (s : State) : State :=
  s.modOp k.op fun o => (k.items.filterMap (·.2)).foldl (fun o it => returnItem s.dev.fo.fold it o) o

/-- The shadow dispatch bank of a core after a gang of its cascade has started or is dropped: free, unless another gang
with the same set is still to start there (spec/17 R349). -/
def swapShadow (s : State) (g : CascId) (t : Fin 4) : Option Dispatch :=
  if (s.casc g).gangs.any fun k => k.items.any fun i => i.1 == t then (s.core (coreAt g t)).shadow else none

/-- The reservation of a gang on a cascade ends. -/
def endReservation (g : CascId) (k : Gang) (s : State) : State :=
  let s := s.modCasc g fun x => { x with gangs := x.gangs.filter fun j => j.num != k.num }
  k.items.foldl (fun s t => s.modCore (coreAt g t.1) fun c => { c with shadow := swapShadow s g t.1 }) s

/-- A reservation dropped, with its items dealt again (spec/16 R328). -/
def dropGang (g : CascId) (k : Gang) (s : State) : State := endReservation g k (returnGang k s)

/-- A gang of fallback items: they take nothing of the partner of their operator (spec/17 R346). -/
def Gang.fb (k : Gang) : Bool := k.items.any fun t => t.2.any (·.fb)

/-- The reserved gangs that were formed in one step with a gang of an operator with a partner (spec/16 R324). -/
def formedWith (s : State) (k : Gang) : List (CascId × Gang) :=
  (List.finRange 16).flatMap fun g =>
    ((s.casc g).gangs.filter fun j => !k.fb && !j.fb &&
      ((s.op k.op).bind (·.partner)) == some j.op && (j.num == k.num + 1 || k.num == j.num + 1)).map fun j => (g, j)

/-- The reservations of a cascade are dropped, the latest first, and the items of its gangs are dealt again in their
order; the gang that was formed with one of them for the partner of its operator goes with it (spec/16 R324, R328). -/
def dropGangs (g : CascId) (s : State) : State :=
  (s.casc g).gangs.reverse.foldl (fun s k =>
    (formedWith s k).foldl (fun s j => dropGang j.1 j.2 s) (dropGang g k s)) s

/-- The window of RELCFG in ns (spec/13 R266). -/
def relWindow (s : State) : Nat := max s.dev.fo.win.toNat 1 * 1000000

/-- The core is retired (spec/13 R264). -/
def coreRetired (s : State) (k : CoreId) : Bool := s.dev.fo.coreret.getLsbD k.val

/-- A core retired into ballast mode (spec/13 R264, spec/16 R328). -/
def retireCore (k : CoreId) (s : State) : State :=
  dropGangs (cascOfCore k) (s.modDev fun d =>
    { d with fo := { d.fo with coreret := d.fo.coreret ||| (1#64 <<< k.val) } })

/-- A detected error counted on a core and its half (spec/13 R264, R266). -/
def countError (k : CoreId) (s : State) : State :=
  let now := s.dev.time
  let s := s.modHalf (halfOfCore k) fun h => { h with derr := h.derr + 1 }
  let times := ((s.core k).errTimes.filter fun t =>
    decide ((now - t).toNat < relWindow s)) ++ [now]
  let s := s.modCore k fun x => { x with errTimes := times }
  if s.dev.fo.thr ≠ 0 ∧ s.dev.fo.thr.toNat < times.length ∧ !coreRetired s k then retireCore k s else s

/-- An uncorrectable error that has aborted an operator on a half (spec/13 R266). -/
def markUnc (h : HalfId) (s : State) : State := s.modHalf h fun x => { x with unc := true }

/-- An operator aborted by uncorrectable data that it has consumed on a half (spec/13 R262, R266, spec/04 R68, R77). -/
def abortUnc (id : Nat) (h : HalfId) (s : State) : State :=
  if (s.op id).isSome then abortOp id 5 (markUnc h s) else s

end Sys2Proof.Machine
end

