-- ==== Sys2Proof/Machine/Ops.lean ====
section
/-! DEFINITION. The named operations: taking an exception and returning from it (spec/18 R354 to
R359), replay and escalation (spec/13 R263), and the accesses of loads, stores and atomics to memory
(spec/05, spec/06, spec/11). -/

namespace Sys2Proof.Machine

/-! ## Exceptions -/

/-- The page-fault causes (spec/18 R354). -/
def isPageFault (cause : Nat) : Bool := cause == 4 || cause == 5 || cause == 6

/-- The fatal causes (spec/18 R354). -/
def isFatal (cause : Nat) : Bool := isPageFault cause || cause == 11

/-- The address field [47:3] of TVEC and TPC (spec/12 R243). -/
def addrField (a : Word) : Word := a &&& 0x0000_FFFF_FFFF_FFF8#64

/-- What a trap frame saves (spec/18 R357). -/
def frameOf (x : Ctx) : Checkpoint := ⟨x.front, x.fpc, x.tok, x.flags, x.stage⟩

/-- A trap of this context is nested: at system level, or with no handler (spec/18 R355). -/
def trapNested (x : Ctx) : Bool := x.id.sys || x.trap.tvec == 0

/-- Trap entry for a context whose region at the resume address has its checkpoint in place (spec/18
R357): which registers save what, the level, and where the pc goes. The epochs between belong
to the claims of the interrupted regions. -/
def enterHandler (cause : Nat) (tpc tval : Word) (kind : Bool) (time : Word) (x : Ctx) : Ctx :=
  let e := x.epochs + 3
  { x with
    trap := { x.trap with
      tcause := BitVec.ofNat 64 cause, tpc := addrField tpc, tval := tval
      kind := kind, inh := true, fatal := isFatal cause, unc := decide (cause = 11)
      resume := x.reg.epoch, frame := some (frameOf x) }
    id := { x.id with sys := true }
    cnt := { x.cnt with att := 0 }
    regs := { x.regs with pc := x.trap.tvec }
    reg := Region.fresh e x.trap.tvec x.front time
    older := none
    epochs := e
    bank := .running
    preq := none }

/-- A context's operator aborted, by uncorrectable data or otherwise (spec/13 R262, R266, spec/18 R355, R359). -/
def abortFatal (c : CtxId) (unc : Bool) (s : State) : State :=
  abortCtx c 5 (if unc then markUnc (halfOf c) s else s)

/-- Taking a trap (spec/18 R355, R357): a nested one ends the item and aborts the operator. -/
def takeTrap (c : CtxId) (cause : Nat) (tpc tval : Word) (kind : Bool) (s : State) : State :=
  if trapNested (s.ctx c) then abortFatal c (decide (cause = 11) || (s.ctx c).trap.unc) s
  else (endLease c s).modCtx c (enterHandler cause tpc tval kind (timeOf s c))

/-- A fault taken: the region and every younger one are discarded, then the trap is taken with the
region's start in TPC (spec/18 R354, R357). -/
def takeFaultTrap (c : CtxId) (cause : Nat) (tval : Word) (s : State) : State :=
  let s := discardAll c s
  takeTrap c cause (s.ctx c).regs.pc tval false s

/-- The parking of a context at a page fault (spec/18 R358, spec/03 R61); inside a handler it is a
nested trap (spec/18 R355). -/
def parkPage (c : CtxId) (f : FaultRec) (s : State) : State :=
  if (s.ctx c).id.sys then abortFatal c (s.ctx c).trap.unc (discardAll c s)
  else
    let time := timeOf s c
    (endLease c (discardAll c s)).modCtx c fun x =>
      { x with bank := .faulted
               preq := some { va := f.tval, cause := f.cause, fetch := f.fetch, pe := f.pe
                              time := time, written := false, answer := none } }

/-- The earlier of two faults in program order (spec/18 R356). -/
def earlierFault (g : Option FaultRec) (f : FaultRec) : FaultRec :=
  match g with
  | some g => if g.pos ≤ f.pos then g else f
  | none => f

/-- A fault found in a region (spec/18 R356). -/
def recordFault (e : Nat) (f : FaultRec) (x : Ctx) : Ctx :=
  modRegion e (fun r => { r with fault := some (earlierFault r.fault f) }) x

/-- The instructions that wait in the stream queues of a context. -/
def queued (x : Ctx) : List QEntry := x.q.l ++ x.q.c ++ x.q.s ++ x.q.parked

/-- The fault of the oldest region is taken at once when no earlier instruction is left that might
find one (spec/18 R356). -/
def faultDue (x : Ctx) : Bool :=
  match (oldest x).fault with
  | none => false
  | some f => !(queued x).any fun t => decide (t.pos < f.pos)

/-- A fault of an instruction at a place in program order. -/
def faultRec (cause : Nat) (tval : Word) (pos : Nat) (pe : Bool) : FaultRec :=
  ⟨cause, tval, pos, false, pe⟩

/-- The claims of the interrupted regions go on with the regions that run after the handler (spec/14
R281). -/
def resumeClaims (old new : Nat) (y : SyncSt) : SyncSt :=
  { y with claims := y.claims.map fun k =>
      if k.epoch = old then { k with epoch := new }
      else if k.epoch = old + 1 then { k with epoch := new + 1 } else k }

/-- Leaving a handler (spec/18 R359): the frame comes back, and the region at TPC starts with it. -/
def leaveHandler (time : Word) (x : Ctx) : Ctx :=
  let f := x.trap.frame.getD Checkpoint.start
  let e := x.epochs + 1
  { x with
    regs := { x.regs with pc := x.trap.tpc }
    front := f.front, fpc := f.fpc, tok := f.tok, flags := f.flags, stage := f.stage
    ptests := []
    trap := { x.trap with inh := false, fatal := false, unc := false, frame := none }
    id := { x.id with sys := false }
    cnt := { x.cnt with att := 0 }
    mat := { x.mat with trapMap := Vector.replicate 2 none }
    sync := resumeClaims x.trap.resume e x.sync
    older := none
    reg := Region.fresh e x.trap.tpc f.front time
    epochs := e }

/-- The return from an exception: the trap tiles are freed, then the frame is restored (spec/18
R359). -/
def returnTrap (c : CtxId) (s : State) : State :=
  let s := freeSlots (coreOf c) ((s.ctx c).mat.trapMap.toList.filterMap id) s
  (endLease c s).modCtx c (leaveHandler (timeOf s c))

/-! ## Replay and escalation -/

/-- REPLAYMAX as it acts: 0 acts as 1 (spec/12 R245). -/
def replayMax (k : Core) : Nat := if k.replaymax = 0 then 1 else k.replaymax.toNat

/-- Uncorrectable data in the region with an epoch: a fault of that region, before any other that it has found; in
the younger of two regions it is taken once the older one has retired (spec/13 R262, spec/18 R356). -/
def raiseUnc (c : CtxId) (e : Nat) (va : Word) (s : State) : State :=
  if e = (oldest (s.ctx c)).epoch then takeFaultTrap c 11 va s
  else
    (discard c e s).modCtx c fun x => recordFault x.reg.epoch (faultRec 11 va 0 false) x

/-- A region that has been replayed as often as it may (spec/13 R263, spec/18 R355). -/
def escalate (c : CtxId) (e : Nat) (s : State) : State :=
  let x := s.ctx c
  if x.id.sys then abortFatal c true s
  else if x.id.rx && !x.id.task then endItem c .restarted s
  else raiseUnc c e 0 s

/-- A counted discard: replay, or escalation (spec/13 R258, R263). RPLCNT.att is one count for the context
(DESIGN CHOICE, notes/assumptions/61.md). -/
def countedDiscard (c : CtxId) (e : Nat) (s : State) : State :=
  if (s.ctx c).cnt.att < replayMax (s.core (coreOf c)) then
    (discard c e s).modCtx c fun x => { x with cnt := { x.cnt with att := x.cnt.att + 1 } }
  else escalate c e s

/-- A detected error in a region: it is counted, and the region is replayed (spec/13 R258, R261, R264). -/
def replayError (c : CtxId) (e : Nat) (s : State) : State := countedDiscard c e (countError (coreOf c) s)

/-- The fault of a context's oldest region taken (spec/18 R356 to R358); a detected error of the region that is not yet
reported goes before it. -/
def takeFault (c : CtxId) (s : State) : State :=
  let r := oldest (s.ctx c)
  match r.fault with
  | none => s
  | some f =>
    if r.bad then replayError c r.epoch s
    else if isPageFault f.cause then parkPage c f s else takeFaultTrap c f.cause f.tval s

/-- A fault raised in a region of a context (spec/18 R356). -/
def raiseFault (c : CtxId) (e : Nat) (f : FaultRec) (s : State) : State :=
  let s := s.modCtx c (recordFault e f)
  if faultDue (s.ctx c) then takeFault c s else s

/-! ## Translation of an instruction's accesses -/

/-- What an access gives: a value, a fault with cause, value and whether the pool was empty, or a
wait while a half is fenced. -/
inductive Got (α : Type)
  | ok (v : α)
  | fault (cause : Nat) (tval : Word) (pe : Bool)
  | hold
  deriving Repr

/-- The keys of a list of numbered accesses of n bytes each, in order: alignment, class, then
translation; the first that fails ends it (spec/03 R45, R54). -/
def xlateList (c : CtxId) (acc : Access) (n : Nat) :
    List (Nat × Word) → State → State × Got (List (Nat × Nat))
  | [], s => (s, .ok [])
  | (j, va) :: rest, s =>
    if va.toNat % n ≠ 0 then (s, .fault 3 va false)
    else if !spanOk (coreOf c) va.toNat n then (s, .fault 7 va false)
    else
      match xlate s c acc va with
      | (s, .fault a t p) => (s, .fault a t p)
      | (s, .hold) => (s, .hold)
      | (s, .ok k) =>
        match xlateList c acc n rest s with
        | (s, .ok l) => (s, .ok ((j, k) :: l))
        | r => r

/-- A span of n bytes cut at the page boundary: offsets and lengths (spec/03 R45). -/
def pageCut (va n : Nat) : List (Nat × Nat) :=
  let r := 65536 - va % 65536
  if n ≤ r then [(0, n)] else [(0, r), (r, n - r)]

/-- The key at the start of a part whose first used byte has the offset o. -/
def partAt (p : Nat × Nat) (o k : Nat) : Part := ⟨p.1, p.2, k - (o - p.1)⟩

/-- The parts of a span whose whole range is checked by its class and of which only the parts that
are used are translated, each at the first byte used (spec/03 R45, spec/06 R121). -/
def spanParts (c : CtxId) (acc : Access) (va : Word) (n : Nat) (used : Nat → Nat → Option Nat)
    (s : State) : State × Got (List Part) :=
  if !spanOk (coreOf c) va.toNat n then (s, .fault 7 va false)
  else
    let cut := (pageCut va.toNat n).filterMap fun p => (used p.1 p.2).map fun o => (p, o)
    match xlateList c acc 1 (cut.map fun p => (p.2, va + BitVec.ofNat 64 p.2)) s with
    | (s, .ok l) => (s, .ok ((cut.zip l).map fun q => partAt q.1.1 q.1.2 q.2.2))
    | (s, .fault a t p) => (s, .fault a t p)
    | (s, .hold) => (s, .hold)

/-- Every byte of a span is used. -/
def allUsed (off _ : Nat) : Option Nat := some off

/-- The lines that parts of a span touch. -/
def partLines (ps : List Part) : List Nat :=
  ps.flatMap fun p => (List.range ((p.key % 64 + p.len + 63) / 64)).map fun i =>
    p.key - p.key % 64 + 64 * i

/-- The earliest in program order of the later reads of a line (spec/15 R302). -/
def readBack (x : Ctx) (pos line : Nat) : Option ReadRec :=
  (x.reads.filter fun r => r.line == line && decide (pos < r.pos)).foldl (fun (b : Option ReadRec) r =>
    match b with
    | none => some r
    | some u => if r.pos < u.pos then some r else b) none

/-- Memory with the lines that later instructions of the stream have already read as these read them: of two reads of
one stream the second is never the older one (spec/15 R302). -/
def readOver (x : Ctx) (pos : Nat) (lines : List Nat) (m : List Host.Cell) : List Host.Cell :=
  lines.foldl (fun m l =>
    match readBack x pos l with
    | some r => memPutNat m l 64 r.data.toNat
    | none => m) m

/-- Lines of which each aligned word of `unit` bytes is read as it was or as it is (spec/05 R88, spec/15 R302, R304). -/
def tearLines (draw unit : Nat) (old : List Host.Cell) (lines : List Nat) (m : List Host.Cell) : List Host.Cell :=
  lines.foldl (fun m l => (List.range (64 / unit)).foldl (fun m i =>
    if Config.tearM draw (l / unit + i) then memPutNat m (l + unit * i) unit (memNat old (l + unit * i) unit)
    else m) m) m

/-- Memory as an instruction of the L stream finds it: word by word what it held when the instruction began, or what
it holds now, and nothing newer than what a later instruction has read (spec/15 R302). -/
def seenMem (c : CtxId) (e : QEntry) (unit : Nat) (lines : List Nat) (ps : List Part) (s : State) :
    List Host.Cell :=
  let m := readOver (s.ctx c) e.pos lines (lostView s ps)
  match e.sample with
  | none => m
  | some k => tearLines k.draw unit k.mem lines m

/-- What a load has read is kept while an earlier instruction of its stream waits aside (spec/15 R302). -/
def noteRead (c : CtxId) (e : QEntry) (lines : List Nat) (m : List Host.Cell) (s : State) : State :=
  if (s.ctx c).q.parked.any fun t => t.st == e.st && decide (t.pos < e.pos) then
    s.modCtx c fun x => { x with reads := x.reads ++ lines.map fun l => ⟨e.pos, l, memLineRead m l⟩ }
  else s

/-- The elements of a gather as parts. -/
def elemParts (n : Nat) (l : List (Nat × Nat)) : List Part := l.map fun t => ⟨0, n, t.2⟩

/-- The bytes of the parts of a span as one number; parts that are not used read as 0. -/
def readParts (m : List Host.Cell) : List Part → Nat
  | [] => 0
  | p :: ps => memNat m p.key p.len * 2 ^ (8 * p.off) + readParts m ps

/-! ## Banks of a slice -/

/-- The bank of a key in its slice (spec/05 R87). -/
def bankOfKey (k : Nat) : Nat := k / 64 % 32

/-- A list without its repeats. -/
def dedup : List Nat → List Nat
  | [] => []
  | x :: xs => if xs.contains x then dedup xs else x :: dedup xs

/-- The line accesses of a request that nothing waits for: one for each line. -/
def looseUses (port : Fin 8) (by_ : Option CtxId) (acc : BankAcc) (lines : List Nat) : List BankUse :=
  lines.map fun l => { line := l, port := port, by_ := by_, acc := acc, req := none, epoch := 0 }

/-- Line accesses presented to the banks of a core's slice (spec/05 R88, R89). -/
def presentUses (k : CoreId) (us : List BankUse) (s : State) : State :=
  if us.isEmpty then s else s.modCore k fun x => { x with now := x.now ++ us }

/-- The mesh ports of other slices (spec/05 R89): what is refused there counts nowhere (R90). -/
def presentFar (acc : BankAcc) : List Nat → State → State
  | [], s => s
  | l :: ls, s => presentFar acc ls (presentUses (Fin.ofNat 64 (sliceCore l)) (looseUses 7 none acc [l]) s)

/-- The lines of slices that some keys touch, each once (spec/05 R88). -/
def sliceLines (keys : List Nat) : List Nat := dedup ((keys.filter isSlice).map fun k => k - k % 64)

/-- The lines in the slice of a core, or those that are not. -/
def linesAt (k : CoreId) (own : Bool) (lines : List Nat) : List Nat :=
  lines.filter fun l => (sliceCore l == k.val) == own

/-- The line accesses of a request of a core for which nothing waits: at its own slice through a port of its own, at
another slice through the mesh (spec/05 R88 to R90). -/
def presentKeys (k : CoreId) (by_ : Option CtxId) (port : Fin 8) (acc : BankAcc) (keys : List Nat) (s : State) :
    State :=
  let lines := sliceLines keys
  presentFar acc (linesAt k false lines) (presentUses k (looseUses port by_ acc (linesAt k true lines)) s)

/-- The line accesses of a request of a context for which nothing waits. -/
def touchBanks (c : CtxId) (port : Fin 8) (acc : BankAcc) (keys : List Nat) (s : State) : State :=
  presentKeys (coreOf c) (some c) port acc keys s

/-- Two line accesses concern one bank. -/
def sameBank (u v : BankUse) : Bool := bankOfKey u.line == bankOfKey v.line

/-- A bank can serve a line access in the aclk under way: no other waits for the bank, and it grants none in this aclk,
or reads of the same row only (spec/05 R88, R89). -/
def bankOpenTo (k : Core) (u : BankUse) : Bool :=
  !(k.now.any (sameBank u)) &&
    (k.taken.filter (sameBank u)).all fun t => t.acc == .read && u.acc == .read && t.line == u.line

/-- No two of some line accesses concern one bank. -/
def banksApart : List BankUse → Bool
  | [] => true
  | u :: us => !(us.any (sameBank u)) && banksApart us

/-- The banks can serve some line accesses together in the aclk under way. -/
def banksOpen (k : Core) (us : List BankUse) : Bool := banksApart us && us.all (bankOpenTo k)

/-- Line accesses granted in the aclk under way: the pointers move on (spec/05 R89). -/
def takeNow (us : List BankUse) (k : Core) : Core :=
  { k with
    taken := k.taken ++ us
    bankPtr := us.foldl (fun p u =>
      if k.taken.any (sameBank u) then p else p.set! (bankOfKey u.line) (u.port + 1)) k.bankPtr }

/-- A line access belongs to a request of a context at a port. -/
def ofRequest (c : CtxId) (port : Fin 8) (req : Nat) (u : BankUse) : Bool :=
  u.by_ == some c && u.port == port && u.req == some req

/-- A request of a stream of a context for line accesses: whether the last of them has been granted (spec/05 R89), and
the state. Those at its own slice are presented until they are granted; when nothing stands against them they are
granted at once, unless what a turn starts stays under way. Those at other slices leave when it goes on. -/
def bankGate (c : CtxId) (port : Fin 8) (acc : BankAcc) (pos epoch : Nat) (keys : List Nat) (s : State) :
    Bool × State :=
  let k := coreOf c
  let x := s.core k
  let mine := ofRequest c port pos
  let lines := sliceLines keys
  let miss := (linesAt k true lines).filter fun l => !(x.served.any fun u => mine u && u.line == l)
  let us : List BankUse :=
    miss.map fun l => { line := l, port := port, by_ := some c, acc := acc, req := some pos, epoch := epoch }
  let go := fun (f : Core → Core) (s : State) => presentFar acc (linesAt k false lines)
    (s.modCore k fun x => f { x with served := x.served.filter fun u => !mine u })
  if (linesAt k true lines).isEmpty then (true, presentFar acc (linesAt k false lines) s)
  else if x.now.any mine then (false, s)
  else if miss.isEmpty then (true, go id s)
  else if !s.lag && banksOpen x us then (true, go (takeNow us) s)
  else (false, presentUses k us s)

/-- The access that a bank grants: of the first port, at or after its pointer, that presents one (spec/05 R89). -/
def nextGrant (ptr : Fin 8) (us : List BankUse) : Option BankUse :=
  (List.finRange 8).findSome? fun i => us.find? fun u => u.port == ptr + i

/-- The grant of a bank, and what it leaves: with a read the reads of the same row that come next at their ports are
served as well (spec/05 R88); `stop` are the ports of which an earlier access is left, or has been granted alone. -/
def grantWith (u : BankUse) (stop : List (Fin 8)) : List BankUse → List BankUse × List BankUse
  | [] => ([], [])
  | v :: vs =>
    let same := if u.acc = .read then v.acc == .read && v.line == u.line else v.port == u.port
    let hit := same && !stop.contains v.port
    let r := grantWith u (if hit && u.acc == .read then stop else v.port :: stop) vs
    if hit then (v :: r.1, r.2) else (r.1, v :: r.2)

/-- The accesses of a bank that are presented in an aclk, and those that are not: the copy engine presents one at a time
to a bank (spec/23 R412). -/
def presented : List BankUse → List BankUse × List BankUse
  | [] => ([], [])
  | u :: us =>
    if u.port = 4 then (u :: us.filter (fun v => v.port != 4), us.filter fun v => v.port == 4)
    else
      let r := presented us
      (u :: r.1, r.2)

/-- The banks of a slice after one aclk of them: what they have granted, what is left, and what was refused. -/
structure BankStep where
  ptr : Vector (Fin 8) 32
  granted : List BankUse
  left : List BankUse
  refused : List BankUse
  deriving Repr

/-- One bank in one aclk (spec/05 R88, R89): an atomic read-modify-write of the aclk before holds it. -/
def stepBank (k : Core) (rest : List BankUse) (r : BankStep) (b : Nat) : BankStep :=
  let us := presented (k.now.filter fun u => bankOfKey u.line == b)
  match (if rest.any fun u => bankOfKey u.line == b then none else nextGrant (k.bankPtr[b]?.getD 0) us.1) with
  | none => { r with left := r.left ++ us.1 ++ us.2, refused := r.refused ++ us.1 }
  | some u =>
    let t := grantWith u [] us.1
    { ptr := r.ptr.set! b (u.port + 1), granted := r.granted ++ t.1
      left := r.left ++ t.2 ++ us.2, refused := r.refused ++ t.2 }

/-- One aclk of the banks of a slice (spec/05 R89), and the contexts that had an access refused in it (R90). -/
def bankAclk (k : Core) : Core × List CtxId :=
  let rest := (k.taken.filter fun u => u.acc == .rmw).map fun u => { u with acc := .rest }
  let r := (dedup (k.now.map fun u => bankOfKey u.line)).foldl (stepBank k rest) ⟨k.bankPtr, [], [], []⟩
  ({ k with bankPtr := r.ptr, now := r.left, taken := rest ++ r.granted
            served := k.served ++ r.granted.filter fun u => u.req.isSome },
    r.refused.filterMap (·.by_))

/-- n aclk of the banks of a slice, and the aclk in which each bank's context had an access refused (spec/05 R90): one
counts once. -/
def bankRun : Nat → Core → Nat × Nat → Core × (Nat × Nat)
  | 0, k, r => (k, r)
  | n + 1, k, r =>
    if k.now.isEmpty && k.taken.isEmpty then (k, r)
    else
      let t := bankAclk k
      let hit := fun (b : Fin 2) => if t.2.any fun c => bankOf c == b then 1 else 0
      bankRun n t.1 (r.1 + hit 0, r.2 + hit 1)

/-- The aclk among n in which a context has an access refused (spec/05 R90). -/
def refusals (n : Nat) (k : Core) (c : CtxId) : Nat :=
  let r := (bankRun n k (0, 0)).2
  if bankOf c = 0 then r.1 else r.2

/-- The port of a context's L stream. -/
def portL (c : CtxId) : Fin 8 := if bankOf c = 0 then 0 else 1

/-- The port of a context's S stream. -/
def portS (c : CtxId) : Fin 8 := if bankOf c = 0 then 2 else 3

/-! ## Writes on their way -/

/-- Every posted write of a context applied at its slice (spec/11 R209). -/
def flushPosted (c : CtxId) (s : State) : State :=
  let ps := (s.ctx c).sync.posted
  let s := presentFar .write (ps.map fun p => p.w.line)
    { s with mem := ps.foldl (fun m (p : Posted) => memLine m p.w) s.mem }
  s.modCtx c fun x => { x with sync := { x.sync with posted := [] } }

/-- A read orders after the context's own posted writes to the lines it touches (spec/15 R301,
R302). -/
def settleReads (c : CtxId) (keys : List Nat) (s : State) : State :=
  let lines := keys.map fun k => k - k % 64
  if (s.ctx c).sync.posted.any fun p => lines.contains p.w.line then flushPosted c s else s

/-- The bytes of an item of a reduction overlap a line write. -/
def itemHits (wide : Bool) (w : LineWrite) (i : Nat × Nat) : Bool :=
  let n := if wide then 8 else 4
  decide (i.1 - i.1 % 64 = w.line) &&
    (w.mask.toNat / 2 ^ (2 * (i.1 % 64)) % 2 ^ (2 * n) != 0)

/-- Some reduction that the context still holds concerns bytes of a line write (spec/05 R100). -/
def redHits (x : Ctx) (w : LineWrite) : Bool :=
  x.sync.red.any fun r => r.items.any fun i => itemHits r.wide w i

/-- A store that its stream has gone past has still to write bytes of a line write (spec/11 R208). -/
def unsentHits (x : Ctx) (w : LineWrite) : Bool :=
  x.sync.unsent.any fun u => u.p.w.line == w.line && u.p.w.mask &&& w.mask != 0

/-- The context's own earlier writes and reductions to n bytes are on their way (spec/05 R100, spec/14 R293). -/
def bytesBehind (s : State) (c : CtxId) (k n : Nat) : Bool :=
  let l := lineOf k n 0
  redHits (s.ctx c) l || unsentHits (s.ctx c) l ||
    (s.half (halfOf c)).weir.any fun t => t.ctx == c && t.w.line == l.line && t.w.mask &&& l.mask != 0

/-- What room a weir buffer gives to a write (spec/11 R212, R213). -/
inductive Room
  | ok
  | wait
  | overrun
  | steal (c : CtxId) (e : Nat)
  deriving DecidableEq, Repr

/-- The contexts of a half. -/
def halfCtxs (h : HalfId) : List CtxId :=
  (List.finRange 128).filter fun c => decide (halfOf c = h)

/-- The regions of a half that hold entries of the pool: the context, the region and whether it is
the younger one (spec/11 R213). -/
def poolRegions (s : State) (h : HalfId) : List (CtxId × Region × Bool) :=
  (halfCtxs h).flatMap fun c =>
    let x := s.ctx c
    let holds := fun (r : Region) =>
      (s.half h).weir.any fun w => w.ctx == c && !w.committed && w.pool && w.epoch == r.epoch
    let old := match x.older with
      | some r => if holds r then [(c, r, false)] else []
      | none => []
    let reg := if holds x.reg then [(c, x.reg, x.older.isSome)] else []
    old ++ reg

/-- The region that began latest; of those that began at one TIME the first listed (DESIGN CHOICE,
notes/assumptions/68.md). -/
def latest : List (CtxId × Region × Bool) → Option (CtxId × Region × Bool)
  | [] => none
  | t :: ts =>
    match latest ts with
    | none => some t
    | some u => if u.2.1.began.toNat ≤ t.2.1.began.toNat then some t else some u

/-- The region whose entries of the pool are taken; none is discarded while its clock is held (spec/18 R364). -/
def stealFrom (s : State) (t : CtxId × Region × Bool) : Room :=
  if heldClock s t.1 then .wait else .steal t.1 t.2.1.epoch

/-- What an oldest region does when the pool is empty (spec/11 R213): regions that began at one TIME all count as the
earliest (DESIGN CHOICE, notes/assumptions/68.md). -/
def poolSteal (s : State) (c : CtxId) (r : Region) : Room :=
  let rs := poolRegions s (halfOf c)
  let olds := rs.filter fun t => !t.2.2 && t.1 != c
  if olds.all fun t => decide (r.began.toNat ≤ t.2.1.began.toNat) then
    match latest (rs.filter fun t => t.2.2) with
    | some t => stealFrom s t
    | none =>
      match latest olds with
      | some t => stealFrom s t
      | none => .wait
  else .wait

/-- The entries that a context's write of n new lines would take from the pool (spec/11 R213). -/
def poolNeed (h : Half) (c : CtxId) (n : Nat) : Nat :=
  n - (512 - (h.weir.filter fun w => w.ctx == c && !w.pool && !w.cont).length)

/-- The entries of the pool in use. -/
def poolUsed (h : Half) : Nat := (h.weir.filter fun w => w.pool).length

/-- The uncommitted lines of a context (spec/11 R212). -/
def uncommitted (h : Half) (c : CtxId) : Nat :=
  (h.weir.filter fun w => w.ctx == c && !w.committed && !w.cont).length

/-- The room for n new lines of a region (spec/11 R212, R213). -/
def weirRoom (s : State) (c : CtxId) (e n : Nat) : Room :=
  let x := s.ctx c
  let h := s.half (halfOf c)
  let r := oldest x
  if n = 0 then .ok
  else if 4096 < uncommitted h c + n then (if e = r.epoch then .overrun else .wait)
  else if poolUsed h + poolNeed h c n ≤ 32768 then .ok
  else if e = r.epoch then poolSteal s c r
  else .wait

/-- What has left a context cannot reach its home, or is lost on the way (spec/11 R214, spec/19 R369): uncorrectable data
of the context, if it is its own that is lost, or the abort of the operator when the context has moved on. A context that is halted or faulted counts as
one that has moved on (DESIGN CHOICE, notes/assumptions/69.md). -/
def lostWrite (c : CtxId) (own : Bool) (op : Option Nat) (va : Word) (s : State) : State :=
  let x := s.ctx c
  if own ∧ x.bank = .running then orLatch (cascOf c) (.lost c va) (raiseUnc c (oldest x).epoch va) s
  else (op.map fun id => abortUnc id (halfOf c) s).getD s

/-- What an operator's context has sent is lost on the way (spec/19 R369): its own while a context of the operator is in the
bank (DESIGN CHOICE, notes/assumptions/69.md). -/
def lostSent (c : CtxId) (op : Option Nat) (va : Word) (s : State) : State :=
  lostWrite c (op.isSome && decide (ctxOp (s.ctx c) = op)) op va s

/-- The region already holds the line: a write to it takes no entry of its own (spec/11 R210). -/
def sharesLine (c : CtxId) (e : Nat) (w : LineWrite) (t : WeirEntry) : Bool :=
  t.ctx == c && !t.committed && t.epoch == e && t.w.line == w.line

/-- A part of the entry of a line takes a later write of its region in (spec/11 R210): after a reduction of bytes that it
writes they are kept apart, so that each takes place in its order (R208). -/
def mergesWith (x : Ctx) (w : LineWrite) (t : WeirEntry) : Bool :=
  !(x.sync.red.any fun r => decide (t.seq < r.seq) && r.items.any fun i => itemHits r.wide w i)

/-- Whose lines are placed: the generation, the operator, its heap, and the translations that were used. -/
structure LineRun where
  gen : Word32
  op : Option Nat
  heap : Heap
  used : List TlbEntry
  deriving DecidableEq, Repr

/-- The lines of a region of a context. -/
def runOf (x : Ctx) (e : Nat) : LineRun :=
  { gen := x.id.gen, op := ctxOp x, heap := x.heap, used := ((regionOf x e).map (·.used)).getD [] }

/-- The translations of a run that an address was formed from (spec/03 R60): none for an address of the heap. -/
def LineRun.at_ (run : LineRun) (va : Word) : List TlbEntry :=
  if inHeap run.heap va then [] else run.used.filter fun t => t.hit t.asid va.toNat

/-- A line write without the nibbles that a later one replaces (spec/11 R210). -/
def lineWithout (w : LineWrite) (mask : BitVec 128) : LineWrite := { w with mask := w.mask &&& ~~~mask }

/-- A part of an entry with a later write taken in. -/
def mergeEntry (run : LineRun) (va : Word) (w : LineWrite) (t : WeirEntry) : WeirEntry :=
  { t with
    w := lineMerge t.w w
    also := if t.va = va ∨ t.also.contains va then t.also else t.also ++ [va]
    used := t.used ++ (run.at_ va).filter fun u => !t.used.contains u }

/-- The first of the parts of an entry is the entry (spec/11 R210), which the pool has given or not. -/
def headPart (f : WeirEntry → Bool) (pool : Bool) : List WeirEntry → List WeirEntry
  | [] => []
  | t :: ts => if f t then { t with cont := false, pool := pool } :: ts else t :: headPart f pool ts

/-- A write to a line that its region already holds: a later nibble replaces an earlier one, and a part that is left with
none is gone (spec/11 R210). -/
def weirMerge (x : Ctx) (f : WeirEntry → Bool) (run : LineRun) (va : Word) (w : LineWrite) (new : WeirEntry)
    (l : List WeirEntry) : List WeirEntry :=
  let last := (l.filter f).getLast?
  let l := l.map fun t => if f t then { t with w := lineWithout t.w w.mask } else t
  let into := last.any (mergesWith x w)
  let l := if into then
      l.map fun t => if f t && (last.any fun u => u.seq == t.seq) then mergeEntry run va w t else t
    else l ++ [{ new with cont := true, pool := false }]
  l.filter fun t => !(f t && t.w.mask == 0)

/-- One line placed in a weir buffer. -/
def weirPut (x : Ctx) (c : CtxId) (e : Nat) (late : Bool) (run : LineRun) (va : Word)
    (w : LineWrite) (h : Half) : Half :=
  let f := sharesLine c e w
  let new : WeirEntry :=
    { w := w, va := va, ctx := c, gen := run.gen, op := run.op, epoch := e, committed := late, seq := x.sync.seq
      pool := decide (poolNeed h c 1 = 1), late := late, cont := false, also := [], used := run.at_ va }
  if late || !(h.weir.any f) then { h with weir := h.weir ++ [new] }
  else
    { h with weir := headPart f (h.weir.any fun t => f t && t.pool) (weirMerge x f run va w new h.weir) }

/-- Entry n of a weir buffer gone: what is left of the entry of its line is its first part. -/
def weirErase (n : Nat) (h : Half) : Half :=
  match h.weir[n]? with
  | none => h
  | some t =>
    let rest := h.weir.eraseIdx n
    let f := fun (u : WeirEntry) => u.ctx == t.ctx && u.epoch == t.epoch && u.w.line == t.w.line && u.cont
    { h with weir := if t.cont then rest else headPart f t.pool rest }

/-- Entry n of a weir buffer dropped, with every part of it (spec/11 R214). -/
def weirDrop (n : Nat) (h : Half) : Half :=
  match h.weir[n]? with
  | none => h
  | some t =>
    if t.late then { h with weir := h.weir.eraseIdx n }
    else { h with weir := h.weir.filter fun u =>
      u.late || !(u.ctx == t.ctx && u.epoch == t.epoch && u.w.line == t.w.line) }

/-- The lines of a write that need a new entry. -/
def newLines (s : State) (c : CtxId) (e : Nat) (ls : List (Word × LineWrite)) : Nat :=
  (ls.filter fun l => !(s.half (halfOf c)).weir.any (sharesLine c e l.2)).length

/-- A number stamped on a write or effect of a context, in program order. -/
def bumpSeq (c : CtxId) (s : State) : State :=
  s.modCtx c fun x => { x with sync := { x.sync with seq := x.sync.seq + 1 } }

/-- Lines entered into the weir buffer of the issuing half (spec/11 R207, R210). -/
def weirPlace (c : CtxId) (e : Nat) (late : Bool) (run : LineRun) (ls : List (Word × LineWrite))
    (s : State) : State :=
  let x := s.ctx c
  ls.foldl (fun s l => s.modHalf (halfOf c) (weirPut x c e late run l.1 l.2)) s

/-- The lines that go to the own slice. -/
def ownLines (c : CtxId) (ls : List (Word × LineWrite)) : List (Word × LineWrite) :=
  ls.filter fun l => isSlice l.2.line && sliceCore l.2.line == (coreOf c).val

/-- The lines that go to other slices. -/
def farLines (c : CtxId) (ls : List (Word × LineWrite)) : List (Word × LineWrite) :=
  ls.filter fun l => isSlice l.2.line && sliceCore l.2.line != (coreOf c).val

/-- The lines that go to main memory or to the host. -/
def weirLines (ls : List (Word × LineWrite)) : List (Word × LineWrite) :=
  ls.filter fun l => !isSlice l.2.line

/-- Own-slice lines written at once (spec/11 R207). -/
def ownPlace (ls : List (Word × LineWrite)) (s : State) : State :=
  { s with mem := ls.foldl (fun m (l : Word × LineWrite) => memLine m l.2) s.mem }

/-- Lines for other slices posted, one packet for each 64-byte line (DESIGN CHOICE, notes/assumptions/67.md); a request
of more than 64 packets sends its first ones on (spec/11 R209). -/
def farPlace (c : CtxId) (e : Nat) (ls : List (Word × LineWrite)) (s : State) : State :=
  let now := ls.take (ls.length - 64)
  let later := ls.drop (ls.length - 64)
  let s := presentFar .write (now.map fun l => l.2.line) (ownPlace now s)
  s.modCtx c fun x => { x with sync := { x.sync with
    posted := x.sync.posted ++ later.map fun l => ⟨l.2, l.1, x.sync.seq, e, ctxOp x⟩ } }

/-- Whether the posted table has room for n packets (spec/11 R209). -/
def postRoom (x : Ctx) (n : Nat) : Bool :=
  decide (n = 0) || decide (x.sync.posted.length + min n 64 ≤ 64)

/-- What a region has sent to slices (spec/13 R259). -/
def noteSent (e : Nat) (ls : List LineWrite) (x : Ctx) : Ctx :=
  modRegion e (fun r => { r with sent := r.sent ++ ls }) x

/-- Lines for slices that are to go out later (spec/11 R208). -/
def holdLines (c : CtxId) (q : QEntry) (ls : List (Word × LineWrite)) (s : State) : State :=
  s.modCtx c fun x => { x with sync := { x.sync with
    unsent := x.sync.unsent ++ ls.map fun l => ⟨q.pos, ⟨l.2, l.1, x.sync.seq, q.epoch, ctxOp x⟩⟩ } }

/-- Line n of the stores that their stream has gone past written at its own slice, or on its way to another; a later line
of one place waits for the earlier one (spec/11 R207 to R209). One for a slice that has been struck is lost (spec/19
R369). -/
def landLine (c : CtxId) (n : Nat) (s : State) : State :=
  let x := s.ctx c
  match x.sync.unsent[n]? with
  | none => s
  | some u =>
    let l := u.p.w.line
    let gone := fun (x : Ctx) => noteSent u.p.epoch [u.p.w] { x with sync := { x.sync with
      unsent := x.sync.unsent.eraseIdx n } }
    if struckAt s l then raiseUnc c u.p.epoch u.p.va s
    else if homeShut s l || (x.sync.unsent.take n).any fun v => v.p.w.line == l then s
    else if sliceCore l = (coreOf c).val then
      match bankGate c (portS c) .write u.pos u.p.epoch [l] s with
      | (false, s) => s
      | (true, s) => { s with mem := memLine s.mem u.p.w }.modCtx c gone
    else if postRoom x 1 then
      s.modCtx c fun x => gone { x with sync := { x.sync with posted := x.sync.posted ++ [u.p] } }
    else s

/-- The lines of the store at a place in program order landed, as far as they can. -/
def landStore (c : CtxId) (pos : Nat) (s : State) : State :=
  (List.range (s.ctx c).sync.unsent.length).foldl (fun s _ =>
    match (s.ctx c).sync.unsent.findIdx? fun u => u.pos == pos with
    | some n => landLine c n s
    | none => s) s

/-- How a store fares. -/
inductive Stored
  | done (s : State)
  | wait (s : State)
  | overrun
  deriving Repr

/-- A store of lines whose addresses have been checked (spec/11 R207 to R213). -/
def storeLines (c : CtxId) (q : QEntry) (ls : List (Word × LineWrite)) (s : State) : Stored :=
  let x := s.ctx c
  let e := q.epoch
  let own := ownLines c ls
  let far := farLines c ls
  let weir := fun (s : State) => weirPlace c e false (runOf x e) (weirLines ls) s
  if (own ++ far).any fun l => redHits x l.2 || unsentHits x l.2 then .wait s
  else if !q.aside && !postRoom x far.length then .wait s
  else
    match weirRoom s c e (newLines s c e (weirLines ls)) with
    | .wait => .wait s
    | .overrun => .overrun
    | .steal c' e' => .wait (discard c' e' s)
    | .ok =>
      if q.aside then .done (weir (holdLines c q (own ++ far) (bumpSeq c s)))
      else
        match bankGate c (portS c) .write q.pos q.epoch (own.map fun l => l.2.line) s with
        | (false, s) => .wait s
        | (true, s) =>
          let s := (bumpSeq c s).modCtx c (noteSent e ((own ++ far).map (·.2)))
          .done (weir (farPlace c e far (ownPlace own s)))

/-- The commonest case of placing bits by element: element writes gathered into lines, a later one
over an earlier one (spec/11 R218). -/
def gatherLine (l : Word × LineWrite) (ls : List (Word × LineWrite)) : List (Word × LineWrite) :=
  match ls with
  | [] => [l]
  | t :: ts => if t.2.line = l.2.line then (t.1, lineMerge t.2 l.2) :: ts else t :: gatherLine l ts

/-- The lines of a list of writes of n bytes: address, key and value, in order. -/
def linesOf (n : Nat) (ws : List (Word × Nat × Nat)) : List (Word × LineWrite) :=
  ws.foldl (fun ls w =>
    gatherLine (w.1 &&& 0xFFFF_FFFF_FFFF_FFC0#64, lineOf w.2.1 n w.2.2) ls) []

end Sys2Proof.Machine
end

