-- ==== Sys2Proof/Machine/Flags.lean ====
section
/-! DEFINITION. The flags: FPC and its sticky flags (spec/07 R133, R134), and what the front sees of
the flag registers f0 to f3 (spec/08 R150, R151). -/

namespace Sys2Proof.Machine

/-- The rounding mode FPC.rm. -/
def fpcRm (x : Ctx) : Rm := rmOf (x.fpc.extractLsb' 0 2).toNat

/-- What the C stream found at its entry into a region with an epoch: what the younger region found, when that has entered
already, since the older one has changed nothing before (spec/07 R134). -/
def entryC (e : Nat) (x : Ctx) : CEntry :=
  match (if e < x.reg.epoch then x.reg.cIn else none) with
  | some k => k
  | none => ⟨x.fpc, x.mat.steps⟩

/-- What the C stream finds at its entry into a region is kept for a discard (spec/13 R256). -/
def keepC (e : Nat) (x : Ctx) : Ctx :=
  modRegion e (fun r =>
    match r.cIn with
    | some _ => r
    | none => { r with cIn := some (entryC e x) }) x

/-- FPC written at its place in the C stream. -/
def setFpc (e : Nat) (v : BitVec 7) (x : Ctx) : Ctx := { keepC e x with fpc := v }

/-- Flags that an older region raises after the younger one has entered: they were raised before it (spec/07 R134,
spec/13 R256). -/
def flagsBefore (e : Nat) (b : BitVec 7) (x : Ctx) : Ctx :=
  if e < x.reg.epoch then
    modRegion x.reg.epoch (fun r => { r with cIn := r.cIn.map fun k => { k with fpc := k.fpc ||| b } }) x
  else x

/-- Flags raised, which stay until they are written (spec/07 R133). -/
def raiseFlags (e : Nat) (f : FFlags) (x : Ctx) : Ctx :=
  if f = .none then x
  else flagsBefore e (BitVec.ofNat 7 f.bits) (setFpc e (x.fpc ||| BitVec.ofNat 7 f.bits) x)

/-- The result of a `ptest`, which the front sees by its place (spec/08 R151, R162). -/
def setFlag (pos e : Nat) (f : Fin 4) (v : Flag) (x : Ctx) : Ctx :=
  { x with ptests := x.ptests ++ [⟨pos, e, f, v⟩] }

/-- A `ptest` that a flag read at position n of an open region uses: four or more instructions
before, or in an earlier region (spec/08 R151). -/
def ptestSeen (x : Ctx) (n pos e : Nat) : Bool := decide (pos + 4 ≤ n) || decide (e < x.reg.epoch)

/-- The value of a flag register that a read at the front's place uses (spec/08 R151). -/
def flagAt (x : Ctx) (f : Fin 4) : Flag :=
  match (x.ptests.filter fun t => t.f == f && ptestSeen x x.pos t.pos t.epoch).getLast? with
  | some t => t.val
  | none => x.flags[f.val]

/-- The flag register that a `ptest` names. -/
def ptestDest : Instr → Option (BitVec 6)
  | .ptest o => some o.vd
  | _ => none

/-- A `ptest` that the read uses has not completed (spec/08 R151). -/
def flagWaits (x : Ctx) (f : Fin 4) : Bool :=
  x.q.c.any fun t =>
    ptestDest t.instr == some (BitVec.ofNat 6 f.val) && ptestSeen x x.pos t.pos t.epoch

/-- The flags of a region enter the flag registers when it retires (spec/08 R150). -/
def foldFlags (e : Nat) (x : Ctx) : Ctx :=
  { x with
    flags := (x.ptests.filter fun t => decide (t.epoch ≤ e)).foldl
      (fun fl t => fl.set t.f.val t.val) x.flags
    ptests := x.ptests.filter fun t => decide (e < t.epoch) }

end Sys2Proof.Machine
end

