-- ==== Sys2Proof/Machine/Footprint.lean ====
section
/-! DEFINITION. What an instruction of a stream reads and writes: its sources as it finds them (spec/06 R106), and the
places by which a later one may complete before an earlier one (R104). -/

namespace Sys2Proof.Machine

/-- Parts of w bits of which each is what it was or what it is (spec/06 R106). -/
def tearBits (w n : Nat) (free : Nat → Bool) {m : Nat} (old new : BitVec m) : BitVec m :=
  let mask := BitVec.ofNat m (packFields w ((List.range n).map fun i => if free i then 2 ^ w - 1 else 0))
  (old &&& mask) ||| (new &&& ~~~mask)

/-- Physical vector register i as an instruction with a sample finds it: each 64-byte part as it stands, or as it stood
when the instruction began (spec/06 R106); the sample alone once that is fixed (R104). -/
def sampledV (k : Sample) (i : Fin 48) (x : Ctx) : VReg :=
  if k.fixed then k.v[i.val] else tearBits 512 8 (Config.tearV k.draw i.val) k.v[i.val] x.regs.v[i.val]

/-- Physical predicate i as an instruction with a sample finds it, bit by bit (spec/06 R106). -/
def sampledP (k : Sample) (i : Fin 16) (x : Ctx) : PReg :=
  if k.fixed then k.p[i.val] else tearBits 1 1024 (Config.tearP k.draw i.val) k.p[i.val] x.regs.p[i.val]

/-- A vector register as an instruction reads it (spec/06 R106). -/
def sourceV (e : QEntry) (n : Fin 48) (x : Ctx) : VReg :=
  match e.sample with
  | none => readV x e.rvb n
  | some k => sampledV k (physV e.rvb n) x

/-- A predicate as an instruction reads it (spec/06 R106). -/
def sourceP (e : QEntry) (n : BitVec 4) (x : Ctx) : PReg :=
  match e.sample with
  | none => readP x e.rpb n
  | some k => if n = 0 then readP x e.rpb n else sampledP k (physP e.rpb n) x

/-- Places by number: 0 to 47 the vector registers and 48 to 63 the predicates, by physical number; 64 to 71 the
operand queues; 74 FPC; 80 on the scalar registers. -/
structure Footprint where
  reads : List Nat
  writes : List Nat
  deriving DecidableEq, Repr

/-- The place of a predicate. -/
def predPlace (e : QEntry) (p : BitVec 4) : Nat := 48 + (physP e.rpb p).val

/-- The places of a vector operand of k registers (spec/02 R29, R31). -/
def vecPlaces (e : QEntry) (k : Nat) (code : BitVec 6) : List Nat :=
  match vop code with
  | .v n => (List.range k).map fun i => (physV e.rvb (Fin.ofNat 48 (n.val + i))).val
  | .qv n => [64 + n.val]
  | .qa => [68]
  | .qb => [69]
  | .qs n => [70 + n.val]
  | .rsv _ => []

/-- The operands of a vector instruction that writes one register or queue entry, or a group; a field that it
leaves 0 counts as v0. -/
def vecFoot (e : QEntry) (dst src : Nat) (o : VX) : Footprint :=
  ⟨[predPlace e o.pred, 74] ++ vecPlaces e src o.va ++ vecPlaces e src o.vb ++ vecPlaces e src o.vc,
    vecPlaces e dst o.vd⟩

/-- The operands of a comparison, which writes a predicate. -/
def cmpFoot (e : QEntry) (o : VX) : Footprint :=
  ⟨(vecFoot e 1 1 o).reads, [predPlace e (o.vd.extractLsb' 0 4)]⟩

/-- The operands of a predicate instruction. -/
def maskFoot (e : QEntry) (o : VX) : Footprint :=
  ⟨[predPlace e o.pred, predPlace e (o.va.extractLsb' 0 4), predPlace e (o.vb.extractLsb' 0 4)],
    [predPlace e (o.vd.extractLsb' 0 4)]⟩

/-- The operands of a load: its destination, its predicate and its group of k index registers, if it has one. -/
def loadFoot (e : QEntry) (k : Nat) (o : MM) : Footprint :=
  ⟨predPlace e o.pred :: (if k = 0 then [] else vecPlaces e k o.vi), vecPlaces e 1 o.v⟩

/-- The operands of a MAT instruction that uses vector registers, in groups of up to four. -/
def matFoot (e : QEntry) (o : MX) : Footprint :=
  ⟨[], [predPlace e (o.v2.extractLsb' 0 4)] ++ vecPlaces e 4 o.v ++ vecPlaces e 4 o.v2⟩

/-- A vector instruction of the C stream whose results wait for nothing but its operands: it may be set aside. `ptest`
is not among them: its result belongs to its place in program order (spec/08 R151). -/
def vecOperands : Instr → Option VX
  | .vadd o | .vsub o | .vaddSat o | .vsubSat o | .vmul o | .vmulh o | .vmla o | .vmlaW o | .vmulW o | .vabs o
  | .vneg o | .vmin o | .vmax o | .vand o | .vor o | .vxor o | .vandn o | .vshl o | .vshr o | .vrshr o | .vclz o
  | .vpopc o | .vavg o | .vcmp o | .vsel o | .vdot4 o | .vfadd o | .vfsub o | .vfmul o | .vfma o | .vfnma o
  | .vfmin o | .vfmax o | .vfabs o | .vfneg o | .vfcmp o | .vfrcp o | .vfrsq o | .vfsqrt o | .vfexp2 o | .vflog2 o
  | .vftanh o | .vfsig o | .vfclass o | .vcvt o | .vnarrow o | .vwiden o | .vrqs o | .vperm o | .vslideup o
  | .vslidedn o | .vzip o | .vunzip o | .vbcast o | .vredsum o | .vredmax o | .vredmin o | .vscan o | .pand o
  | .por o | .pxor o | .pandn o | .pnot o | .pfirst o | .pmov o | .vmov o | .vli o | .viota o | .vdup o | .vclr o =>
    some o
  | _ => none

/-- A load of the L stream, which may be set aside. -/
def loadOperands : Instr → Option MM
  | .ldV o | .ldVs o | .ldVx o | .ldBc o | .lds o | .gatA o => some o
  | _ => none

/-- The places of an instruction in its stream. -/
def footprint (e : QEntry) : Footprint :=
  match e.instr with
  | .vcmp o | .vfcmp o => cmpFoot e o
  | .pand o | .por o | .pxor o | .pandn o | .pnot o | .pfirst o | .pmov o => maskFoot e o
  | .ptest o => ⟨(maskFoot e o).reads, []⟩
  | .vmlaW o | .vmulW o => vecFoot e (tyK o.ty) 1 o
  | .vwiden o => vecFoot e (tyWidth o.ty / tyWidth (cvtSrc o)) 1 o
  | .vnarrow o => vecFoot e 1 (tyWidth (cvtSrc o) / tyWidth o.ty) o
  | .vrqs o => vecFoot e 1 (tyK o.ty) o
  | .vzip o => vecFoot e 2 1 o
  | .vunzip o => vecFoot e 2 2 o
  | .lds o => ⟨[], [80 + (o.v.extractLsb' 0 5).toNat]⟩
  | .ldVx o => loadFoot e (tyK o.ty) o
  | .gatA o => ⟨(loadFoot e 1 o).reads, [68]⟩
  | .ldV o | .ldVs o | .ldBc o => loadFoot e 0 o
  | .mma _ => ⟨[], [68, 69]⟩
  | .mwr o => ⟨vecPlaces e 4 o.v, []⟩
  | .mrd o | .mdrain o => matFoot e o
  | .guardMax o | .guardSsq o => ⟨predPlace e o.p :: vecPlaces e 1 o.v, []⟩
  | .csrw _ | .csrs _ | .csrc _ => ⟨[], [74]⟩
  | i =>
    match vecOperands i with
    | some o => vecFoot e 1 1 o
    | none => ⟨[], []⟩

/-- An instruction has to complete before a later one of its stream begins (spec/06 R104): it writes what that reads or
writes; or both take entries from one operand queue, which they do in program order (R108); or it reads FPC, which that
writes. -/
def Footprint.meets (a b : Footprint) : Bool :=
  a.writes.any (fun n => b.reads.contains n || b.writes.contains n) ||
    a.reads.any fun n => decide (64 ≤ n) && (b.writes.contains n || (decide (n < 74) && b.reads.contains n))

/-- A later instruction writes a register or predicate that an earlier one reads. -/
def Footprint.overwrites (b a : Footprint) : Bool := a.reads.any fun n => decide (n < 64) && b.writes.contains n

/-- An earlier instruction of the stream waits aside that has to complete before an instruction begins (spec/06
R104). -/
def asideBefore (x : Ctx) (e : QEntry) : Bool :=
  x.q.parked.any fun t => t.st == e.st && decide (t.pos < e.pos) && (footprint t).meets (footprint e)

/-- Nothing of a stream waits aside. -/
def noneAside (x : Ctx) (st : Stream) : Bool := !(x.q.parked.any fun t => t.st == st)

/-- An instruction that may be set aside while its stream goes on (spec/06 R104). -/
def mayAside (i : Instr) : Bool := (vecOperands i).isSome || (loadOperands i).isSome

/-- A store of the S stream, whose lines for slices may go out after what follows it (spec/11 R208, spec/15 R300). -/
def isStore : Instr → Bool
  | .stV _ | .stVs _ | .stVx _ | .sts _ => true
  | _ => false

end Sys2Proof.Machine
end

