-- ==== Sys2Proof/Machine/Streams.lean ====
section
/-! DEFINITION. The front and the streams: how the front steps over an instruction, how it appends
one to a stream, and how the head of a stream is tried (spec/02 R23, R26 to R28, spec/06 R104 to
R107). -/

namespace Sys2Proof.Machine

/-- What comes of trying an instruction at the head of its stream: it completes; it cannot begin; it has begun, with
its tokens taken, and waits (spec/02 R27); it waits for a latch slot while its stream goes on (spec/06 R109); it has
begun and will complete later while its stream goes on (spec/10 R187); or it finds a fault. -/
inductive Perform
  | done (s : State)
  | wait (s : State)
  | held (s : State)
  | park (s : State)
  | begun (s : State)
  | fault (s : State) (cause : Nat) (tval : Word) (pe : Bool)
  deriving Repr

/-- The scalar register that a stream instruction in flight will write (spec/12 R223). -/
def scalarDest : Instr → BitVec 5
  | .lds o => o.v.extractLsb' 0 5
  | .mrd o => o.sd
  | .ringwe o | .tpost o | .grais o | .amo o => o.sd
  | _ => 0

/-- A register that an instruction in flight will write (spec/06 R107, spec/14 R284). -/
def busyS (x : Ctx) (r : BitVec 5) : Bool :=
  r != 0 && (queued x).any fun t => scalarDest t.instr == r

/-- The front's count moves past an instruction that stays on its region. -/
def countOne (x : Ctx) : Ctx :=
  { x with pos := x.pos + 1, reg := { x.reg with count := x.reg.count + 1 } }

/-- The front goes on at an address. -/
def goTo (a : Word) (x : Ctx) : Ctx := { countOne x with regs := { x.regs with pc := a } }

/-- The front goes on at the next instruction (spec/02 R22). -/
def stepPc (x : Ctx) : Ctx := goTo (x.regs.pc + 8) x

/-- An F instruction: it waits while a register it names is in flight, then takes effect (spec/12
R223). -/
def frontOp (rs : List (BitVec 5)) (f : Ctx → Ctx) (s : State) : Host.Outcome State Fault Refusal :=
  if rs.any (busyS s.me) then .next s else .next (s.modCtx s.cur f)

/-- A fault that the front finds in its open region (spec/02 R38, spec/12 R248). -/
def frontFault (cause : Nat) (tval : Word) (s : State) : Host.Outcome State Fault Refusal :=
  .next (raiseFault s.cur s.me.reg.epoch (faultRec cause tval s.me.pos false) s)

/-- The checks that depend on the privilege level (spec/02 R37): an illegal or a privileged word is a
fault with the address of the word in TVAL (spec/02 R38). -/
def withLevel (i : Instr) (s : State) (k : Host.Outcome State Fault Refusal) :
    Host.Outcome State Fault Refusal :=
  match levelCheck s.me.id.sys i with
  | none => k
  | some .privileged => frontFault 2 s.me.regs.pc s
  | some _ => frontFault 1 s.me.regs.pc s

/-- The open region is closed and the next one begins at the front's place (spec/13 R250, R252). -/
def openRegion (how : Closing) (time : Word) (x : Ctx) : Ctx :=
  let e := x.epochs + 1
  { x with
    older := some { x.reg with closed := some how, next := x.regs.pc }
    reg := Region.fresh e x.regs.pc x.front time
    epochs := e }

/-- The open region is closed and the front issues nothing more until it has retired (spec/13
R252). -/
def closeHeld (how : Closing) (x : Ctx) : Ctx :=
  { x with reg := { x.reg with closed := some how, next := x.regs.pc } }

/-- A commit point: the front waits at it while an older region is outstanding (spec/13 R252). -/
def commitPoint (s : State) (k : Host.Outcome State Fault Refusal) :
    Host.Outcome State Fault Refusal :=
  if s.me.older.isSome then .next s else k

/-- What the front captures for a stream instruction when it appends it (spec/06 R105). -/
def capture (st : Stream) (i : Instr) (a b d : BitVec 5) (x : Ctx) : QEntry :=
  { instr := i, st := st, a := readS x a, b := readS x b, d := readS x d, rvb := x.front.rvb
    rpb := x.front.rpb, epoch := x.reg.epoch, pos := x.pos, pc := x.regs.pc, stage := none, begun := false
    aside := false, sample := none }

/-- A fault has been found in the region of an instruction, or before it, at or before its place. -/
def behindFault (x : Ctx) (e : QEntry) : Bool :=
  let hit := fun (r : Region) =>
    match r.fault with
    | some f => decide (r.epoch ≤ e.epoch) && decide (f.pos ≤ e.pos)
    | none => false
  hit x.reg || (match x.older with | some r => hit r | none => false)

/-- The gap of a sluice register has passed since the last dequeue (spec/01 R18, spec/20 R385). -/
def sluiceOpen (x : Ctx) (k : Fin 5) : Bool := decide (x.sluice[k.val].toNat ≤ x.sinceDeq[k.val])

/-- A dequeue from a queue. -/
def dequeued (k : Fin 5) (x : Ctx) : Ctx := { x with sinceDeq := x.sinceDeq.set k.val 0 }

/-- The sluice register of a stream queue (spec/20 R385). -/
def streamSluice : Stream → Fin 5
  | .l => 0 | .c => 1 | .s => 2

/-- The tokens taken by an instruction that leaves its queue. -/
def tokTaken (e : Nat) (st : Stream) (t : Tok) (x : Ctx) : Ctx :=
  dequeued (streamSluice st) (tokTake e st t x)

/-- The lease for a MAT instruction at the head of its C stream: whether its bank holds it, and the
state with the lease as it then stands (spec/10 R194). -/
def takeLease (c : CtxId) (s : State) : Bool × State :=
  let k := s.core (coreOf c)
  match k.lease with
  | none => (true, s.modCore (coreOf c) fun k => { k with lease := some (bankOf c), used := 0 })
  | some b => (b == bankOf c, s)

/-- A MAT instruction that has reached the head of its C stream takes a free lease, whatever else it waits for
(spec/10 R194). -/
def leaseFor (c : CtxId) (i : Instr) (s : State) : State := if isMat i then (takeLease c s).2 else s

/-- An instruction may begin: its tokens are there, the gap of its queue has passed, and nothing before it in its
stream waits aside that has to complete first (spec/01 R18, spec/02 R27, spec/06 R104). -/
def mayBegin (x : Ctx) (st : Stream) (t : Tok) (e : QEntry) : Bool :=
  sluiceOpen x (streamSluice st) && tokReady x st t && !asideBefore x e

/-- What an instruction that waits aside has read once a later one of its stream writes its sources: what they hold before
that (spec/06 R104). -/
def fixSample (s : State) (x : Ctx) (t : QEntry) : Sample :=
  match t.sample with
  | none => { v := x.regs.v, p := x.regs.p, mem := s.mem, draw := s.freeCtr, fixed := true }
  | some k => { k with v := Vector.ofFn fun i => sampledV k i x, p := Vector.ofFn fun i => sampledP k i x, fixed := true }

/-- An instruction of a stream writes what an earlier one reads that waits aside. -/
def goesPast (e t : QEntry) : Bool :=
  t.st == e.st && decide (t.pos < e.pos) && (footprint e).overwrites (footprint t)

/-- The instructions that wait aside have read what a later one of their stream is about to write. -/
def settleAside (c : CtxId) (e : QEntry) (s : State) : State :=
  if (s.ctx c).q.parked.any (goesPast e) then
    s.bumpFree.modCtx c fun x =>
      let fix := fun (t : QEntry) => if goesPast e t then { t with sample := some (fixSample s x t) } else t
      { x with q := { x.q with parked := x.q.parked.map fix } }
  else s

/-- What an instruction takes as it begins. -/
def beginTake (st : Stream) (t : Tok) (c : CtxId) (e : QEntry) (s : State) : State :=
  if e.begun then s else s.modCtx c (tokTaken e.epoch st t)

/-- The instruction at the head of a stream tried: it begins when it may, and completes when the channels that it
signals have room (spec/02 R27, R28). Until they have, its whole effect is held back (DESIGN CHOICE,
notes/assumptions/62.md). -/
def attempt (st : Stream) (t : Tok) (perf : CtxId → QEntry → State → Perform) (c : CtxId) (e : QEntry)
    (s : State) : Perform :=
  if behindFault (s.ctx c) e then .wait s
  else
    let s := leaseFor c e.instr s
    if !e.begun && !mayBegin (s.ctx c) st t e then .wait s
    else
      match perf c e (actFor c e.epoch (settleAside c e s)) with
      | .done s' =>
        if tokRoom (s'.ctx c) st t then
          .done ((beginTake st t c e s').modCtx c (tokGive e.epoch st t))
        else .held (beginTake st t c e s)
      | .held s' => .held (beginTake st t c e s')
      | .park s' => .park (beginTake st t c e s')
      | .begun s' => .begun (beginTake st t c e s')
      | r => r

/-- An instruction appended to its stream. -/
def appendQ (st : Stream) (c : CtxId) (e : QEntry) (s : State) : State :=
  s.modCtx c fun x => setQ st (x.q.get st ++ [e]) x

/-- An instruction put aside, with the scales that are staged at its place (spec/06 R104, R109, R117). -/
def parkQ (c : CtxId) (e : QEntry) (s : State) : State :=
  s.modCtx c fun x =>
    { x with q := { x.q with parked := x.q.parked ++ [{ e with begun := true, stage := some x.stage }] } }

/-- What follows the first try of an instruction that found its stream empty. -/
def afterIssue (st : Stream) (c : CtxId) (e : QEntry) (p : Perform) : State :=
  match p with
  | .done s | .begun s => s
  | .wait s => appendQ st c e s
  | .held s => appendQ st c { e with begun := true } s
  | .park s => parkQ c e s
  | .fault s cause tval pe =>
    raiseFault c e.epoch { faultRec cause tval e.pos pe with fetch := false } s

/-- Nothing of a stream is before an instruction that the front appends: its queue is empty, nothing waits aside and
no `mma` of it is in its K steps. -/
def streamClear (s : State) (c : CtxId) (st : Stream) : Bool :=
  let x := s.ctx c
  (x.q.get st).isEmpty && noneAside x st &&
    !(st == .c && (s.core (coreOf c)).mmaRun.any fun m => m.ctx == c)

/-- An instruction handed to its stream: when the stream has nothing before it, it is tried at once, unless the
schedule lets the stream lag. -/
def handOver (st : Stream) (t : Tok) (perf : CtxId → QEntry → State → Perform) (c : CtxId) (e : QEntry)
    (s : State) : State :=
  if s.lag || !streamClear s c st then appendQ st c e s
  else afterIssue st c e (attempt st t perf c e s)

/-- An instruction that the front hands to a stream (spec/02 R23, spec/06 R104, R105): it waits for
the scalar sources it names and for room, and then enters the queue. An instruction that has begun and waits at the head
counts among the 32 (DESIGN CHOICE, notes/assumptions/80.md). -/
def issue (st : Stream) (i : Instr) (t : Tok) (a b d : BitVec 5)
    (perf : CtxId → QEntry → State → Perform) (s : State) : Host.Outcome State Fault Refusal :=
  let c := s.cur
  let x := s.me
  if busyS x a || busyS x b || busyS x d then .next s
  else if 32 ≤ (x.q.get st).length then .next s
  else
    .next (handOver st t perf c (capture st i a b d x) (s.modCtx c stepPc))

/-- The head of a stream leaves its queue. -/
def dropHead (st : Stream) (c : CtxId) (s : State) : State :=
  s.modCtx c fun x => setQ st (x.q.get st).tail x

/-- The head of a stream replaced. -/
def setHead (st : Stream) (c : CtxId) (e : QEntry) (s : State) : State :=
  s.modCtx c fun x => setQ st (e :: (x.q.get st).tail) x

/-- The head of a stream tried where it stands. -/
def tryHead (st : Stream) (c : CtxId) (e : QEntry) (p : Perform) : State :=
  match p with
  | .done s | .begun s => dropHead st c s
  | .wait s => s
  | .held s => setHead st c { e with begun := true } s
  | .park s => parkQ c e (dropHead st c s)
  | .fault s cause tval pe => raiseFault c e.epoch (faultRec cause tval e.pos pe) s

end Sys2Proof.Machine
end

