-- ==== Sys2Proof/Machine/Scalar.lean ====
section
/-! DEFINITION. Scalar arithmetic of the front, majors 0x01 and 0x02 (spec/12 R235, R236). -/

namespace Sys2Proof.Machine

/-- A three-register ALU instruction: sd takes f of sa and sb (spec/12 R235). -/
def alu3 (f : Word → Word → Word) (o : SR) : State → Host.Outcome State Fault Refusal :=
  frontOp [o.sa, o.sb, o.sd] fun x => stepPc (writeS o.sd (f (readS x o.sa) (readS x o.sb)) x)

/-- A two-register ALU instruction (spec/12 R235). -/
def alu2 (f : Word → Word) (o : SR) : State → Host.Outcome State Fault Refusal :=
  frontOp [o.sa, o.sd] fun x => stepPc (writeS o.sd (f (readS x o.sa)) x)

/-- The immediate of the SI format, sign-extended (spec/12 R236). -/
def immSI (o : SI) : Word := o.imm.signExtend 64

/-- An ALU instruction with an immediate: sd takes f of sa (spec/12 R236). -/
def aluI (f : Word → Word) (o : SI) : State → Host.Outcome State Fault Refusal :=
  frontOp [o.sa, o.sd] fun x => stepPc (writeS o.sd (f (readS x o.sa)) x)

/-- The result 1 or 0 of a comparison. -/
def boolWord (b : Bool) : Word := if b then 1 else 0

/-- c = b[5:0] (spec/12 R235). -/
def shamt (b : Word) : Nat := (b.extractLsb' 0 6).toNat

/-- The high half of the exact signed product: floor (a x b / 2^64). -/
def mulHiS (a b : Word) : Word := BitVec.ofInt 64 (a.toInt * b.toInt / 2 ^ 64)

/-- The high half of the exact unsigned product. -/
def mulHiN (a b : Word) : Word := BitVec.ofNat 64 (a.toNat * b.toNat / 2 ^ 64)

/-- Signed division, truncated toward zero, with its corners (spec/12 R235). -/
def divSigned (a b : Word) : Word :=
  if b = 0 then BitVec.allOnes 64 else BitVec.ofInt 64 (a.toInt.tdiv b.toInt)

/-- Unsigned division with its corner. -/
def divUnsigned (a b : Word) : Word :=
  if b = 0 then BitVec.allOnes 64 else BitVec.ofNat 64 (a.toNat / b.toNat)

/-- The remainder of the signed division. -/
def remSigned (a b : Word) : Word :=
  if b = 0 then a else BitVec.ofInt 64 (a.toInt - b.toInt * a.toInt.tdiv b.toInt)

/-- The remainder of the unsigned division. -/
def remUnsigned (a b : Word) : Word :=
  if b = 0 then a else BitVec.ofNat 64 (a.toNat % b.toNat)

/-- A field of n low bits sign-extended. -/
def sextLow (n : Nat) (a : Word) : Word := (a.extractLsb' 0 n).signExtend 64

/-- A field of n low bits zero-extended. -/
def zextLow (n : Nat) (a : Word) : Word := (a.extractLsb' 0 n).setWidth 64

/-- `add`: wrap(a + b) (spec/12 R235). -/
def execAdd (o : SR) (s : State) : Host.Outcome State Fault Refusal :=
  alu3 (fun a b => a + b) o s

/-- `sub`: wrap(a - b) (spec/12 R235). -/
def execSub (o : SR) (s : State) : Host.Outcome State Fault Refusal :=
  alu3 (fun a b => a - b) o s

/-- `mul`: the low 64 bits of the product (spec/12 R235). -/
def execMul (o : SR) (s : State) : Host.Outcome State Fault Refusal :=
  alu3 (fun a b => a * b) o s

/-- `mulh.s`: the high half of the signed product (spec/12 R235). -/
def execMulhS (o : SR) (s : State) : Host.Outcome State Fault Refusal :=
  alu3 (fun a b => mulHiS a b) o s

/-- `mulh.n`: the high half of the unsigned product (spec/12 R235). -/
def execMulhN (o : SR) (s : State) : Host.Outcome State Fault Refusal :=
  alu3 (fun a b => mulHiN a b) o s

/-- `div.s`: the signed quotient (spec/12 R235). -/
def execDivS (o : SR) (s : State) : Host.Outcome State Fault Refusal :=
  alu3 (fun a b => divSigned a b) o s

/-- `div.n`: the unsigned quotient (spec/12 R235). -/
def execDivN (o : SR) (s : State) : Host.Outcome State Fault Refusal :=
  alu3 (fun a b => divUnsigned a b) o s

/-- `rem.s`: the signed remainder (spec/12 R235). -/
def execRemS (o : SR) (s : State) : Host.Outcome State Fault Refusal :=
  alu3 (fun a b => remSigned a b) o s

/-- `rem.n`: the unsigned remainder (spec/12 R235). -/
def execRemN (o : SR) (s : State) : Host.Outcome State Fault Refusal :=
  alu3 (fun a b => remUnsigned a b) o s

/-- `min.s`: the smaller, signed (spec/12 R235). -/
def execMinS (o : SR) (s : State) : Host.Outcome State Fault Refusal :=
  alu3 (fun a b => if b.slt a then b else a) o s

/-- `min.n`: the smaller, unsigned (spec/12 R235). -/
def execMinN (o : SR) (s : State) : Host.Outcome State Fault Refusal :=
  alu3 (fun a b => if b.ult a then b else a) o s

/-- `max.s`: the larger, signed (spec/12 R235). -/
def execMaxS (o : SR) (s : State) : Host.Outcome State Fault Refusal :=
  alu3 (fun a b => if a.slt b then b else a) o s

/-- `max.n`: the larger, unsigned (spec/12 R235). -/
def execMaxN (o : SR) (s : State) : Host.Outcome State Fault Refusal :=
  alu3 (fun a b => if a.ult b then b else a) o s

/-- `and`: bitwise and (spec/12 R235). -/
def execAnd (o : SR) (s : State) : Host.Outcome State Fault Refusal :=
  alu3 (fun a b => a &&& b) o s

/-- `or`: bitwise or (spec/12 R235). -/
def execOr (o : SR) (s : State) : Host.Outcome State Fault Refusal :=
  alu3 (fun a b => a ||| b) o s

/-- `xor`: bitwise exclusive or (spec/12 R235). -/
def execXor (o : SR) (s : State) : Host.Outcome State Fault Refusal :=
  alu3 (fun a b => a ^^^ b) o s

/-- `andn`: a and not b (spec/12 R235). -/
def execAndn (o : SR) (s : State) : Host.Outcome State Fault Refusal :=
  alu3 (fun a b => a &&& ~~~b) o s

/-- `shl`: a shifted left by c (spec/12 R235). -/
def execShl (o : SR) (s : State) : Host.Outcome State Fault Refusal :=
  alu3 (fun a b => a <<< shamt b) o s

/-- `shr.n`: a shifted right by c, unsigned (spec/12 R235). -/
def execShrN (o : SR) (s : State) : Host.Outcome State Fault Refusal :=
  alu3 (fun a b => a >>> shamt b) o s

/-- `shr.s`: a shifted right by c, signed (spec/12 R235). -/
def execShrS (o : SR) (s : State) : Host.Outcome State Fault Refusal :=
  alu3 (fun a b => a.sshiftRight (shamt b)) o s

/-- `rot`: a rotated right by c (spec/12 R235). -/
def execRot (o : SR) (s : State) : Host.Outcome State Fault Refusal :=
  alu3 (fun a b => a.rotateRight (shamt b)) o s

/-- `slt.s`: 1 if a < b, signed (spec/12 R235). -/
def execSltS (o : SR) (s : State) : Host.Outcome State Fault Refusal :=
  alu3 (fun a b => boolWord (a.slt b)) o s

/-- `slt.n`: 1 if a < b, unsigned (spec/12 R235). -/
def execSltN (o : SR) (s : State) : Host.Outcome State Fault Refusal :=
  alu3 (fun a b => boolWord (a.ult b)) o s

/-- `seq`: 1 if a = b (spec/12 R235). -/
def execSeq (o : SR) (s : State) : Host.Outcome State Fault Refusal :=
  alu3 (fun a b => boolWord (a == b)) o s

/-- `sne`: 1 if a differs from b (spec/12 R235). -/
def execSne (o : SR) (s : State) : Host.Outcome State Fault Refusal :=
  alu3 (fun a b => boolWord (a != b)) o s

/-- `clz`: leading zero bits, 0 to 64 (spec/12 R235). -/
def execClz (o : SR) (s : State) : Host.Outcome State Fault Refusal :=
  alu2 (fun a => BitVec.ofNat 64 (clzN 64 a.toNat)) o s

/-- `ctz`: trailing zero bits, 0 to 64 (spec/12 R235). -/
def execCtz (o : SR) (s : State) : Host.Outcome State Fault Refusal :=
  alu2 (fun a => BitVec.ofNat 64 (ctzN 64 a.toNat)) o s

/-- `popc`: one bits (spec/12 R235). -/
def execPopc (o : SR) (s : State) : Host.Outcome State Fault Refusal :=
  alu2 (fun a => BitVec.ofNat 64 (popcN 64 a.toNat)) o s

/-- `sext.b`: a[7:0] sign-extended (spec/12 R235). -/
def execSextB (o : SR) (s : State) : Host.Outcome State Fault Refusal :=
  alu2 (fun a => sextLow 8 a) o s

/-- `sext.h`: a[15:0] sign-extended (spec/12 R235). -/
def execSextH (o : SR) (s : State) : Host.Outcome State Fault Refusal :=
  alu2 (fun a => sextLow 16 a) o s

/-- `sext.w`: a[31:0] sign-extended (spec/12 R235). -/
def execSextW (o : SR) (s : State) : Host.Outcome State Fault Refusal :=
  alu2 (fun a => sextLow 32 a) o s

/-- `zext.b`: a[7:0] zero-extended (spec/12 R235). -/
def execZextB (o : SR) (s : State) : Host.Outcome State Fault Refusal :=
  alu2 (fun a => zextLow 8 a) o s

/-- `zext.h`: a[15:0] zero-extended (spec/12 R235). -/
def execZextH (o : SR) (s : State) : Host.Outcome State Fault Refusal :=
  alu2 (fun a => zextLow 16 a) o s

/-- `zext.w`: a[31:0] zero-extended (spec/12 R235). -/
def execZextW (o : SR) (s : State) : Host.Outcome State Fault Refusal :=
  alu2 (fun a => zextLow 32 a) o s

/-- c = imm36[5:0] (spec/12 R236). -/
def shamtI (o : SI) : Nat := (o.imm.extractLsb' 0 6).toNat

/-- `addi`: wrap(a + imm) (spec/12 R236). -/
def execAddi (o : SI) (s : State) : Host.Outcome State Fault Refusal :=
  aluI (fun a => a + immSI o) o s

/-- `andi`: a and imm (spec/12 R236). -/
def execAndi (o : SI) (s : State) : Host.Outcome State Fault Refusal :=
  aluI (fun a => a &&& immSI o) o s

/-- `ori`: a or imm (spec/12 R236). -/
def execOri (o : SI) (s : State) : Host.Outcome State Fault Refusal :=
  aluI (fun a => a ||| immSI o) o s

/-- `xori`: a exclusive or imm (spec/12 R236). -/
def execXori (o : SI) (s : State) : Host.Outcome State Fault Refusal :=
  aluI (fun a => a ^^^ immSI o) o s

/-- `shli`: a shifted left by c (spec/12 R236). -/
def execShli (o : SI) (s : State) : Host.Outcome State Fault Refusal :=
  aluI (fun a => a <<< shamtI o) o s

/-- `shri.n`: a shifted right by c, unsigned (spec/12 R236). -/
def execShriN (o : SI) (s : State) : Host.Outcome State Fault Refusal :=
  aluI (fun a => a >>> shamtI o) o s

/-- `shri.s`: a shifted right by c, signed (spec/12 R236). -/
def execShriS (o : SI) (s : State) : Host.Outcome State Fault Refusal :=
  aluI (fun a => a.sshiftRight (shamtI o)) o s

/-- `slti.s`: 1 if a < imm, signed (spec/12 R236). -/
def execSltiS (o : SI) (s : State) : Host.Outcome State Fault Refusal :=
  aluI (fun a => boolWord (a.slt (immSI o))) o s

/-- `slti.n`: 1 if a < imm, both taken as n64 (spec/12 R236). -/
def execSltiN (o : SI) (s : State) : Host.Outcome State Fault Refusal :=
  aluI (fun a => boolWord (a.ult (immSI o))) o s

/-- `li`: the immediate (spec/12 R236). -/
def execLi (o : SI) (s : State) : Host.Outcome State Fault Refusal :=
  frontOp [o.sd] (fun x => stepPc (writeS o.sd (immSI o) x)) s

/-- `lih`: imm36[27:0] over a[35:0] (spec/12 R236). -/
def execLih (o : SI) (s : State) : Host.Outcome State Fault Refusal :=
  aluI (fun a => o.imm.extractLsb' 0 28 ++ a.extractLsb' 0 36) o s

/-- `adr`: wrap(PC + imm) (spec/12 R236). -/
def execAdr (o : SI) (s : State) : Host.Outcome State Fault Refusal :=
  frontOp [o.sd] (fun x => stepPc (writeS o.sd (x.regs.pc + immSI o) x)) s

end Sys2Proof.Machine
end

