-- ==== Sys2Proof/Machine/Control.lean ====
section
/-! DEFINITION. Branches, jumps, the loop stack and the flag branches, majors 0x03 to 0x06 (spec/12
R229 to R239). -/

namespace Sys2Proof.Machine

/-- A target counted in slots from the instruction (spec/02 R22). -/
def slotTarget {w : Nat} (pc : Word) (off : BitVec w) : Word := pc + off.signExtend 64 * 8

/-- A branch that compares two registers (spec/12 R237). -/
def branch (f : Word → Word → Bool) (o : SB) : State → Host.Outcome State Fault Refusal :=
  frontOp [o.sa, o.sb] fun x =>
    if f (readS x o.sa) (readS x o.sb) then goTo (slotTarget x.regs.pc o.off) x else stepPc x

/-- `beq` (spec/12 R237). -/
def execBeq (o : SB) (s : State) : Host.Outcome State Fault Refusal := branch (fun a b => a == b) o s

/-- `bne` (spec/12 R237). -/
def execBne (o : SB) (s : State) : Host.Outcome State Fault Refusal := branch (fun a b => a != b) o s

/-- `blt.s` (spec/12 R237). -/
def execBltS (o : SB) (s : State) : Host.Outcome State Fault Refusal := branch (fun a b => a.slt b) o s

/-- `bge.s` (spec/12 R237). -/
def execBgeS (o : SB) (s : State) : Host.Outcome State Fault Refusal :=
  branch (fun a b => !a.slt b) o s

/-- `blt.n` (spec/12 R237). -/
def execBltN (o : SB) (s : State) : Host.Outcome State Fault Refusal := branch (fun a b => a.ult b) o s

/-- `bge.n` (spec/12 R237). -/
def execBgeN (o : SB) (s : State) : Host.Outcome State Fault Refusal :=
  branch (fun a b => !a.ult b) o s

/-- `j` (spec/12 R238). -/
def execJ (o : SJ) (s : State) : Host.Outcome State Fault Refusal :=
  frontOp [] (fun x => goTo (slotTarget x.regs.pc o.off) x) s

/-- `jal`: the link is PC + 8 (spec/12 R238). -/
def execJal (o : SJ) (s : State) : Host.Outcome State Fault Refusal :=
  frontOp [o.sd]
    (fun x => goTo (slotTarget x.regs.pc o.off) (writeS o.sd (x.regs.pc + 8) x)) s

/-- A jump to a register's address: bits [2:0] must be zero (spec/02 R22, spec/12 R238). -/
def jumpReg (sa : BitVec 5) (rs : List (BitVec 5)) (f : Ctx → Ctx) (s : State) :
    Host.Outcome State Fault Refusal :=
  let t := readS s.me sa
  if rs.any (busyS s.me) then .next s
  else if t.extractLsb' 0 3 ≠ 0 then frontFault 3 t s
  else .next (s.modCtx s.cur fun x => goTo t (f x))

/-- `jr` (spec/12 R238). -/
def execJr (o : SJ) (s : State) : Host.Outcome State Fault Refusal := jumpReg o.sa [o.sa] id s

/-- `jalr`: the target is read before the link is written (spec/12 R238). -/
def execJalr (o : SJ) (s : State) : Host.Outcome State Fault Refusal :=
  jumpReg o.sa [o.sa, o.sd] (fun x => writeS o.sd (x.regs.pc + 8) x) s

/-- The place of the highest valid position of the loop stack (spec/12 R229). -/
def loopTop (f : FrontCk) : Option (Fin 6) :=
  ((List.finRange 6).filter fun i => f.loops[i.val].valid).getLast?

/-- A position of the loop stack replaced. -/
def setLoop (i : Fin 6) (l : LoopEntry) (x : Ctx) : Ctx :=
  { x with front := { x.front with loops := x.front.loops.set i.val l } }

/-- The position above the top, if there is one. -/
def loopFree (f : FrontCk) : Option (Fin 6) :=
  match loopTop f with
  | none => some 0
  | some i => if h : i.val + 1 < 6 then some ⟨i.val + 1, h⟩ else none

/-- Entering a loop with a count (spec/12 R230). -/
def enterLoop (o : SL) (count : Word32) (s : State) : Host.Outcome State Fault Refusal :=
  let pc := s.me.regs.pc
  let exit := pc + (o.imm.setWidth 64 + 1) * 8
  if count = 0 then .next (s.modCtx s.cur (goTo exit))
  else
    match loopFree s.me.front with
    | none => frontFault 1 pc s
    | some i => .next (s.modCtx s.cur fun x =>
        stepPc (setLoop i ⟨true, false, count, 0, pc + 8, exit⟩ x))

/-- `loop` (spec/12 R230). -/
def execLoop (o : SL) (s : State) : Host.Outcome State Fault Refusal :=
  if busyS s.me o.sa then .next s else enterLoop o ((readS s.me o.sa).extractLsb' 0 32) s

/-- The trip count of a temporal level of the loop table; none when the level is absent or spatial
(spec/12 R230). -/
def tripCount (x : Ctx) (lvl : Nat) : Option Word32 :=
  match x.work with
  | none => none
  | some w =>
    match w.disp.trips[lvl]?, w.disp.temporal[lvl]? with
    | some n, some true => some (BitVec.ofNat 32 n)
    | _, _ => none

/-- `loop.t` (spec/12 R230). -/
def execLoopT (o : SL) (s : State) : Host.Outcome State Fault Refusal :=
  match tripCount s.me o.lvl.toNat with
  | none => frontFault 10 (o.lvl.setWidth 64) s
  | some n => enterLoop o n s

/-- The top of the stack, when a loop instruction may act on it (spec/12 R229). -/
def openLoop (x : Ctx) : Option (Fin 6 × LoopEntry) :=
  match loopTop x.front with
  | none => none
  | some i => if x.front.loops[i.val].fixed then none else some (i, x.front.loops[i.val])

/-- The rotation bases after an `endloop` (spec/12 R231). -/
def rotate (o : SL) (x : Ctx) : Ctx :=
  { x with front := { x.front with
      rvb := x.front.rvb - o.vrot.setWidth 5
      rpb := x.front.rpb - o.prot } }

/-- `endloop` (spec/12 R231). -/
def execEndloop (o : SL) (s : State) : Host.Outcome State Fault Refusal :=
  match openLoop s.me with
  | none => frontFault 1 s.me.regs.pc s
  | some (i, l) => .next (s.modCtx s.cur fun x =>
      let n := l.index + 1
      if n.ult l.count then goTo l.body (setLoop i { l with index := n } (rotate o x))
      else stepPc (setLoop i LoopEntry.empty (rotate o x)))

/-- `brkloop` (spec/12 R232). -/
def execBrkloop (o : SL) (s : State) : Host.Outcome State Fault Refusal :=
  if busyS s.me o.sa then .next s
  else if o.sa = 0 ∨ readS s.me o.sa ≠ 0 then
    match openLoop s.me with
    | none => frontFault 1 s.me.regs.pc s
    | some (i, l) => .next (s.modCtx s.cur fun x => goTo l.exit (setLoop i LoopEntry.empty x))
  else .next (s.modCtx s.cur stepPc)

/-- The index or count of a position, 0 when it is invalid (spec/12 R233). -/
def loopValue (x : Ctx) (lvl : BitVec 3) (count : Bool) : Word :=
  match x.front.loops[lvl.toNat]? with
  | none => 0
  | some l => if !l.valid then 0 else if count then l.count.setWidth 64 else l.index.setWidth 64

/-- `lidx`: the sa field names the destination (spec/12 R233, R234). -/
def execLidx (o : SL) (s : State) : Host.Outcome State Fault Refusal :=
  frontOp [o.sa] (fun x => stepPc (writeS o.sa (loopValue x o.lvl (o.imm.getLsbD 0)) x)) s

/-- The flag register that a flag branch names. -/
def flagOf (o : FB) : Fin 4 := ⟨o.f.toNat, o.f.isLt⟩

/-- A flag branch: it waits for the `ptest` it depends on (spec/12 R239, spec/08 R151). -/
def flagBranch (rs : List (BitVec 5)) (f : Flag → Word → Bool) (o : FB) (s : State) :
    Host.Outcome State Fault Refusal :=
  if flagWaits s.me (flagOf o) then .next s
  else frontOp rs (fun x =>
    if f (flagAt x (flagOf o)) (readS x o.sa) then goTo (slotTarget x.regs.pc o.off) x
    else stepPc x) s

/-- `bf.any` (spec/12 R239). -/
def execBfAny (o : FB) (s : State) : Host.Outcome State Fault Refusal :=
  flagBranch [] (fun f _ => f.any) o s

/-- `bf.nany` (spec/12 R239). -/
def execBfNany (o : FB) (s : State) : Host.Outcome State Fault Refusal :=
  flagBranch [] (fun f _ => !f.any) o s

/-- `bf.all` (spec/12 R239). -/
def execBfAll (o : FB) (s : State) : Host.Outcome State Fault Refusal :=
  flagBranch [] (fun f _ => f.all) o s

/-- `bf.nall` (spec/12 R239). -/
def execBfNall (o : FB) (s : State) : Host.Outcome State Fault Refusal :=
  flagBranch [] (fun f _ => !f.all) o s

/-- `bf.ceq` (spec/12 R239). -/
def execBfCeq (o : FB) (s : State) : Host.Outcome State Fault Refusal :=
  flagBranch [o.sa] (fun f a => f.count == a.toNat) o s

/-- `bf.cne` (spec/12 R239). -/
def execBfCne (o : FB) (s : State) : Host.Outcome State Fault Refusal :=
  flagBranch [o.sa] (fun f a => f.count != a.toNat) o s

/-- `bf.cge` (spec/12 R239). -/
def execBfCge (o : FB) (s : State) : Host.Outcome State Fault Refusal :=
  flagBranch [o.sa] (fun f a => decide (a.toNat ≤ f.count)) o s

/-- `bf.clt` (spec/12 R239). -/
def execBfClt (o : FB) (s : State) : Host.Outcome State Fault Refusal :=
  flagBranch [o.sa] (fun f a => decide (f.count < a.toNat)) o s

/-- `fcnt`: sd takes the count (spec/12 R239). -/
def execFcnt (o : FB) (s : State) : Host.Outcome State Fault Refusal :=
  if flagWaits s.me (flagOf o) then .next s
  else frontOp [o.sd] (fun x =>
    stepPc (writeS o.sd (BitVec.ofNat 64 (flagAt x (flagOf o)).count) x)) s

end Sys2Proof.Machine
end

