-- ==== Sys2Proof/Machine/System.lean ====
section
/-! DEFINITION. Control and status registers and the system instructions, majors 0x07 and 0x08
(spec/12 R240 to R248, spec/13 R250 to R272, spec/15 R303, spec/18 R359). -/

namespace Sys2Proof.Machine

/-! ## Control and status registers -/

/-- A flag as a bit of a register. -/
def bitWord (b : Bool) (i : Nat) : Word := if b then 1#64 <<< i else 0

/-- A field placed at a bit of a register. -/
def fieldAt {w : Nat} (v : BitVec w) (i : Nat) : Word := v.setWidth 64 <<< i

/-- CTXINFO (spec/12 R242). -/
def ctxinfo (c : CtxId) (x : Ctx) : Word :=
  fieldAt x.id.gen 32 ||| bitWord x.id.sys 19 ||| bitWord x.id.task 18 ||| fieldAt x.id.cls 16
    ||| BitVec.ofNat 64 (x.id.queue.val * 256) ||| BitVec.ofNat 64 ((bankOf c).val * 64)
    ||| BitVec.ofNat 64 (coreOf c).val

/-- OPINFO (spec/12 R242). -/
def opinfo (x : Ctx) : Word :=
  bitWord x.id.rx 50 ||| bitWord x.id.fb 49 ||| bitWord x.id.gd 48 ||| fieldAt x.id.card 32
    ||| x.id.tag.setWidth 64

/-- The guard failures of the operator of a context (spec/12 R245). -/
def gfailOf (s : State) (x : Ctx) : Word32 :=
  match (ctxOp x).bind s.op with
  | some o => o.gfail
  | none => 0

/-- LEASE (spec/10 R195). -/
def leaseWord (s : State) (c : CtxId) : Word :=
  let k := s.core (coreOf c)
  let held := k.lease == some (bankOf c)
  fieldAt (s.ctx c).cnt.lwait 32 ||| bitWord held 15
    ||| (if held then BitVec.ofNat 64 k.used else 0)

/-- REGMAX as it acts and reads (spec/12 R245). -/
def regMax (k : Core) : Nat := max k.regmax.toNat 1024

/-- PSAMP (spec/12 R246). -/
def psampWord (p : Psamp) : Word := fieldAt p.lgper 4 ||| bitWord p.pw 1 ||| bitWord p.en 0

/-- The value of a register (spec/12 R240 to R246). -/
def csrRead (s : State) (c : CtxId) (r : Csr) : Word :=
  let x := s.ctx c
  let k := s.core (coreOf c)
  match r with
  | .fpc => x.fpc.setWidth 64
  | .rvb => x.front.rvb.setWidth 64
  | .rpb => x.front.rpb.setWidth 64
  | .time => timeOf s c
  | .cycle => k.cycle
  | .ctxinfo => ctxinfo c x
  | .opinfo => opinfo x
  | .tvec => x.trap.tvec
  | .tcause => x.trap.tcause
  | .tpc => x.trap.tpc
  | .tval => x.trap.tval
  | .tscr0 => x.trap.tscr0
  | .tscr1 => x.trap.tscr1
  | .tstat => bitWord x.trap.kind 1 ||| bitWord x.trap.inh 0
  | .heapb => x.heap.base
  | .heapl => x.heap.len
  | .heapo => x.heap.off
  | .gtol => x.front.gtol.setWidth 64
  | .gres => x.cnt.gres.setWidth 64
  | .gfail => (gfailOf s x).setWidth 64
  | .rplcnt => fieldAt x.cnt.rplTotal 32 ||| BitVec.ofNat 64 x.cnt.att
  | .regmax => BitVec.ofNat 64 (regMax k)
  | .replaymax => BitVec.ofNat 64 (replayMax k)
  | .lease => leaseWord s c
  | .bkstall => x.cnt.bkstall
  | .qstall => x.cnt.qstall
  | .fillc => k.fillc
  | .psamp => psampWord k.psamp

/-- The trap registers with one written; bits on RSV fields are ignored (spec/12 R243). -/
def writeTrap (r : Csr) (v : Word) (t : TrapRegs) : TrapRegs :=
  match r with
  | .tvec => { t with tvec := addrField v }
  | .tcause => { t with tcause := v &&& 15 }
  | .tpc => { t with tpc := addrField v }
  | .tval => { t with tval := v }
  | .tscr0 => { t with tscr0 := v }
  | .tscr1 => { t with tscr1 := v }
  | _ => t

/-- The counters of a context with one written (spec/05 R90, spec/06 R111, spec/10 R195). -/
def writeCnt (r : Csr) (v : Word) (t : Counters) : Counters :=
  match r with
  | .lease => { t with lwait := v.extractLsb' 32 32 }
  | .bkstall => { t with bkstall := v }
  | .qstall => { t with qstall := v }
  | _ => t

/-- The front's registers with one written (spec/08 R145, spec/12 R245). -/
def writeFront (r : Csr) (v : Word) (f : FrontCk) : FrontCk :=
  match r with
  | .rvb => { f with rvb := v.extractLsb' 0 5 }
  | .rpb => { f with rpb := v.extractLsb' 0 3 }
  | .gtol => { f with gtol := v.extractLsb' 0 32 }
  | _ => f

/-- The core's registers with one written (spec/12 R245, R246). -/
def writeCore (r : Csr) (v : Word) (k : Core) : Core :=
  match r with
  | .regmax => { k with regmax := v.extractLsb' 0 32 }
  | .replaymax => { k with replaymax := v.extractLsb' 0 3 }
  | .fillc => { k with fillc := v }
  | .psamp => { k with psamp := ⟨v.extractLsb' 4 4, v.getLsbD 1, v.getLsbD 0⟩ }
  | _ => k

/-- A register written by the front (spec/12 R240); FPC is written at its place in the C stream. -/
def csrWrite (c : CtxId) (r : Csr) (v : Word) (s : State) : State :=
  (s.modCore (coreOf c) (writeCore r v)).modCtx c fun x =>
    { x with trap := writeTrap r v x.trap, cnt := writeCnt r v x.cnt
             front := writeFront r v x.front }

/-- Every C instruction of a context has completed (spec/07 R134). -/
def cIdle (s : State) (c : CtxId) : Bool :=
  (s.ctx c).q.c.isEmpty && noneAside (s.ctx c) .c && !((s.core (coreOf c)).mmaRun.any fun m => m.ctx == c)

/-- The register that a CSR word names; the words that name none are illegal. -/
def csrNamed (o : SI) : Csr := (csrOf (csrNum o)).getD .fpc

/-- `csrr` (spec/12 R240). -/
def execCsrr (o : SI) (s : State) : Host.Outcome State Fault Refusal :=
  withLevel (.csrr o) s <|
    let r := csrNamed o
    if r = .fpc ∧ !cIdle s s.cur then .next s
    else frontOp [o.sd] (fun x => stepPc (writeS o.sd (csrRead s s.cur r) x)) s

/-- What the marker of an FPC write does in the C stream (spec/07 R134). -/
def fpcMarked (i : Instr) (old : BitVec 7) (v : Word) : BitVec 7 :=
  match i with
  | .csrs _ => old ||| v.extractLsb' 0 7
  | .csrc _ => old &&& ~~~(v.extractLsb' 0 7)
  | _ => v.extractLsb' 0 7

/-- The marker of an FPC write at the head of the C stream (spec/07 R134). -/
def performFpc (c : CtxId) (e : QEntry) (s : State) : Perform :=
  .done (s.modCtx c fun x => setFpc e.epoch (fpcMarked e.instr x.fpc e.a) x)

/-- The open region closed by the commit point that has just been issued (spec/13 R250). -/
def commitOpen (s : State) : State := s.modCtx s.cur (openRegion .commit (timeOf s s.cur))

/-- A CSR write: a commit point (spec/12 R240). Its region is closed behind it. -/
def csrWriteOp (i : Instr) (o : SI) (f : Word → Word → Word) (s : State) :
    Host.Outcome State Fault Refusal :=
  withLevel i s <| commitPoint s <|
    let r := csrNamed o
    let old := csrRead s s.cur r
    if busyS s.me o.sa || busyS s.me o.sd then .next s
    else if r = .fpc then
      if o.sd ≠ 0 ∧ !cIdle s s.cur then .next s
      else
        match issue .c i Tok.none o.sa 0 0 performFpc s with
        | .next t =>
          if t.me.pos = s.me.pos then .next t
          else .next (commitOpen (t.modCtx t.cur (writeS o.sd old)))
        | r => r
    else
      let v := f old (readS s.me o.sa)
      .next (commitOpen ((csrWrite s.cur r v s).modCtx s.cur fun x => stepPc (writeS o.sd old x)))

/-- `csrw` (spec/12 R240). -/
def execCsrw (o : SI) (s : State) : Host.Outcome State Fault Refusal :=
  csrWriteOp (.csrw o) o (fun _ v => v) s

/-- `csrs` (spec/12 R240). -/
def execCsrs (o : SI) (s : State) : Host.Outcome State Fault Refusal :=
  csrWriteOp (.csrs o) o (fun old v => old ||| v) s

/-- `csrc` (spec/12 R240). -/
def execCsrc (o : SI) (s : State) : Host.Outcome State Fault Refusal :=
  csrWriteOp (.csrc o) o (fun old v => old &&& ~~~v) s

/-! ## System instructions -/

/-- `nop` (spec/12 R247). -/
def execNop (_ : SX) (s : State) : Host.Outcome State Fault Refusal := frontOp [] stepPc s

/-- `commit` (spec/13 R252). -/
def execCommit (_ : SX) (s : State) : Host.Outcome State Fault Refusal :=
  commitPoint s (.next (commitOpen (s.modCtx s.cur stepPc)))

/-- The value of a guard over the lanes it takes (spec/13 R268). -/
def guardVal (max : Bool) (lanes : List FVal) : Nat :=
  if lanes.any FVal.isNan then nanOf .f32
  else if max then lanes.foldl (fun m v => fminmaxElem .f32 true m (exactCode .f32 v.abs)) 0
  else
    match lanes with
    | [] => 0
    | _ => rneF32 (sumVals .rne (lanes.map fun v => (mulVals v v).1)).1

/-- The lanes of a guard: those of vA whose predicate bit is set (spec/13 R268). -/
def guardLanes (v : VReg) (p : PReg) : List FVal :=
  ((List.range 128).filter fun j => bitP p j).map fun j => fvalOf .f32 (elem 32 j v)

/-- The operand fields of a guard. -/
def guardFields : Instr → Bool × BitVec 6 × BitVec 4
  | .guardMax o => (true, o.v, o.p)
  | .guardSsq o => (false, o.v, o.p)
  | _ => (true, 0, 0)

/-- A vector register that an operand code names; codes above 47 are not plain registers. -/
def codeReg (n : BitVec 6) : Fin 48 := if h : n.toNat < 48 then ⟨n.toNat, h⟩ else 0

/-- A guard at its place in the C stream: GRES is written (spec/13 R268). -/
def performGuard (c : CtxId) (e : QEntry) (s : State) : Perform :=
  let (max, v, p) := guardFields e.instr
  .done (s.modCtx c fun x =>
    let g := guardVal max (guardLanes (sourceV e (codeReg v) x) (sourceP e p x))
    { x with cnt := { x.cnt with gres := BitVec.ofNat 32 g } })

/-- A guard: a commit point behind which the front issues nothing until the verdict (spec/13 R252,
R268). -/
def guardOp (i : Instr) (max : Bool) (s : State) : Host.Outcome State Fault Refusal :=
  commitPoint s <|
    match issue .c i Tok.none 0 0 0 performGuard s with
    | .next t =>
      if t.me.pos = s.me.pos then .next t
      else .next (t.modCtx t.cur (closeHeld (.guard max)))
    | r => r

/-- `guard.max` (spec/13 R268). -/
def execGuardMax (o : SX) (s : State) : Host.Outcome State Fault Refusal :=
  guardOp (.guardMax o) true s

/-- `guard.ssq` (spec/13 R268). -/
def execGuardSsq (o : SX) (s : State) : Host.Outcome State Fault Refusal :=
  guardOp (.guardSsq o) false s

/-- A commit point after which nothing issues until its region has retired (spec/12 R247). -/
def closingPoint (how : Closing) (s : State) : Host.Outcome State Fault Refusal :=
  commitPoint s (.next (s.modCtx s.cur fun x => closeHeld how (stepPc x)))

/-- `trapi`: after retirement, a trap with cause 12 (spec/12 R247). -/
def execTrapi (o : SX) (s : State) : Host.Outcome State Fault Refusal := closingPoint (.trapi o.imm) s

/-- `ebreak`: after retirement, a trap with cause 13 (spec/12 R247). -/
def execEbreak (_ : SX) (s : State) : Host.Outcome State Fault Refusal := closingPoint .ebreak s

/-- `done`: nothing after it is fetched (spec/12 R247). -/
def execDone (_ : SX) (s : State) : Host.Outcome State Fault Refusal := closingPoint .done s

/-- Nothing of the open region has been issued. -/
def regionEmpty (x : Ctx) : Bool := decide (x.reg.count = 0)

/-- What a commit point that begins only after every older region has retired does before it: the
open region is closed without moving on (spec/05 R99, spec/18 R359). -/
def afterRetired (s : State) (k : Host.Outcome State Fault Refusal) :
    Host.Outcome State Fault Refusal :=
  commitPoint s (if regionEmpty s.me then k else .next (commitOpen s))

/-- `rett`: the return from a trap; for a fatal cause it acts as `done` (spec/18 R359, R360). -/
def execRett (o : SX) (s : State) : Host.Outcome State Fault Refusal :=
  withLevel (.rett o) s <|
    if s.me.trap.fatal then closingPoint .done s
    else afterRetired s (.next (returnTrap s.cur s))

/-- Every instruction of a context's streams has completed (spec/15 R303). -/
def streamsIdle (s : State) (c : CtxId) : Bool := (queued (s.ctx c)).isEmpty && cIdle s c

/-- What a fence of core scope or above waits for: an older region, whose writes lie before a commit point, has retired,
posted writes are acknowledged, committed entries drained, the reductions of retired regions applied (spec/15 R301,
R303), and perhaps the open region's entries (R309, notes/assumptions/79.md). -/
def writesSettled (s : State) (c : CtxId) : Bool :=
  let x := s.ctx c
  let weir := (s.half (halfOf c)).weir.filter fun w => w.ctx == c
  x.older.isNone && x.sync.posted.isEmpty && !(x.sync.red.any fun r => r.committed) &&
    !(weir.any fun w => w.committed) && (weir.isEmpty || !Config.fenceAwaitsOpen)

/-- The conditions of a fence (spec/15 R303). A drained write has reached the host link when it
leaves the weir buffer, so scope sys waits for nothing more. -/
def fenceReady (s : State) (c : CtxId) (scope : Scope) : Bool :=
  streamsIdle s c &&
    match scope with
    | .context => true
    | _ => writesSettled s c

/-- `fence` (spec/15 R303). -/
def execFence (o : SX) (s : State) : Host.Outcome State Fault Refusal :=
  if fenceReady s s.cur (scopeOf (o.imm.extractLsb' 0 3)) then .next (s.modCtx s.cur stepPc)
  else .next s

end Sys2Proof.Machine
end

