-- ==== Sys2Proof/Machine/Retire.lean ====
section
/-! DEFINITION. The retirement of a region and what follows it (spec/13 R251, R269, R270, spec/14
R278, R281, spec/18 R357, R359). -/

namespace Sys2Proof.Machine

/-- A command of a context is still filling an entry of a latch queue for a region (spec/06 R110). -/
def fillsFor (s : State) (c : CtxId) (e : Nat) (b : Bool) : Bool :=
  (s.core (coreOf c)).active.any fun a => a.ctx == c && decide (a.cmd.epoch ≤ e) && fillsTo a == some b

/-- An entry of an operand queue that the closing region leaves behind, by the operand code of its
queue: its consumer stream has reached the marker (spec/06 R110). Of several queues the lowest code counts, those of
the C stream before those of the S stream (DESIGN CHOICE, notes/assumptions/65.md). -/
def leftover (s : State) (c : CtxId) (e : Nat) : Option Nat :=
  let x := s.ctx c
  let past := fun (st : Stream) => !((x.q.get st).any fun t => decide (t.epoch ≤ e)) &&
    !(x.q.parked.any fun t => t.st == st && decide (t.epoch ≤ e))
  let cQueue := past .c
  let cPast := cQueue &&
    !((s.core (coreOf c)).mmaRun.any fun m => m.ctx == c && decide (m.epoch ≤ e))
  let sPast := past .s
  let inV := fun (l : List VEntry) => l.any fun t => decide (t.epoch ≤ e)
  if cQueue && inV x.q.qv[0] then some 48
  else if cQueue && inV x.q.qv[1] then some 49
  else if cQueue && inV x.q.qv[2] then some 50
  else if cQueue && inV x.q.qv[3] then some 51
  else if cPast && (x.q.qa.any (fun t => decide (t.epoch ≤ e)) || fillsFor s c e false) then some 52
  else if cPast && (x.q.qb.any (fun t => decide (t.epoch ≤ e)) || fillsFor s c e true) then some 53
  else if sPast && inV x.q.qs[0] then some 54
  else if sPast && inV x.q.qs[1] then some 55
  else none

/-- The conditions of R251 that the instructions and commands of a region meet: all completed, all
engine commands started, every comparison passed (spec/13 R251). -/
def regionDone (s : State) (c : CtxId) (e : Nat) : Bool :=
  let x := s.ctx c
  let k := s.core (coreOf c)
  !(queued x).any (fun t => decide (t.epoch ≤ e)) &&
    !(x.engL ++ x.engS).any (fun t => decide (t.epoch ≤ e)) &&
    !(k.mmaRun.any fun m => m.ctx == c && decide (m.epoch ≤ e)) &&
    !(k.checks.any fun t => t.ctx == c && decide (t.epoch ≤ e))

/-- The entries of a region become committed, at the end of what their context has to drain (spec/11
R211). -/
def commitWeir (c : CtxId) (e : Nat) (h : Half) : Half :=
  let mine := fun (w : WeirEntry) => w.ctx == c && !w.committed && w.epoch == e
  { h with weir := h.weir.filter (fun w => !mine w) ++
      (h.weir.filter mine).map fun w => { w with committed := true } }

/-- The reductions and deferred effects of a region are released, and the claims that its retired run
did not receive end (spec/13 R260, spec/14 R278, R281). -/
def commitSync (op : Option Nat) (e : Nat) (y : SyncSt) : SyncSt :=
  endClaims op (fun k => k.epoch == e && !k.received)
    { y with
      red := y.red.map fun t => if t.epoch = e then { t with committed := true } else t
      deferred := y.deferred.map fun t => if t.epoch = e then { t with retired := true } else t }

/-- The started commands of a retired region that still move payload (spec/04 R77). -/
def lateCmds (c : CtxId) (e : Nat) (k : Core) : Core :=
  { k with active := k.active.map fun a =>
      if a.ctx = c ∧ a.cmd.epoch = e ∧ !a.dead then { a with late := true } else a }

/-- The effects of the retirement of a region on its context, its core and its half (spec/13 R251,
table). -/
def retireEffects (c : CtxId) (r : Region) (s : State) : State :=
  let s := freeSlots (coreOf c) (r.tiles.filterMap (·.2)) s
  let s := s.modHalf (halfOf c) (commitWeir c r.epoch)
  let s := s.modCore (coreOf c) (lateCmds c r.epoch)
  let s := endLease c s
  s.modCtx c fun x =>
    let x := foldFlags r.epoch x
    { x with sync := commitSync (ctxOp x) r.epoch x.sync, cnt := { x.cnt with att := 0 } }

/-- The next region begins at an address. -/
def freshRegion (pc : Word) (time : Word) (x : Ctx) : Ctx :=
  let e := x.epochs + 1
  { x with older := none, reg := Region.fresh e pc x.front time, epochs := e }

/-- The verdict of a guard (spec/13 R269). -/
inductive Verdict
  | pass | fail | mismatch
  deriving DecidableEq, Repr

/-- GRES against GTOL, by the comparison of `vfcmp.le` (spec/13 R269). -/
def guardPasses (x : Ctx) : Bool :=
  fcond 3 (fvalOf .f32 x.cnt.gres.toNat) (fvalOf .f32 x.front.gtol.toNat)

/-- The verdict on a guard's region (spec/13 R269, R272). -/
def verdict (x : Ctx) (max : Bool) : Verdict :=
  if x.id.sys || !x.id.gd then .pass
  else if (x.work.any fun w => w.disp.met == max) then .mismatch
  else if x.id.task || x.id.fb || guardPasses x then .pass
  else .fail

/-- A fault found at the end of a region. -/
def markerFault (c : CtxId) (e cause : Nat) (tval : Word) (s : State) : State :=
  raiseFault c e (faultRec cause tval (s.ctx c).pos false) s

/-- The end of a context at its `done`: in a handler, the code that TCAUSE then holds decides
(spec/18 R359). -/
def retireDone (c : CtxId) (s : State) : State :=
  let x := s.ctx c
  if x.id.sys ∧ (x.trap.fatal ∨ (x.trap.tcause ≠ 12 ∧ x.trap.tcause ≠ 13)) then
    abortFatal c x.trap.unc s
  else endItem c .done s

/-- What a held commit point does once its region may retire (spec/12 R247, spec/13 R269, R270). -/
def retireHeld (c : CtxId) (r : Region) (how : Closing) (s : State) : State :=
  let s' := (retireEffects c r s).modCtx c (freshRegion r.next (timeOf s c))
  match how with
  | .commit => s'
  | .trapi imm => takeTrap c 12 r.next (imm.setWidth 64) true s'
  | .ebreak => takeTrap c 13 r.next 0 true s'
  | .done => retireDone c s'
  | .guard max =>
    match verdict (s.ctx c) max with
    | .pass => s'
    | .fail => endItem c .guardFailed s
    | .mismatch => markerFault c r.epoch 10 (if max then 2 else 3) s

/-- The oldest region of a context has run too long (spec/13 R255). -/
def overlong (s : State) (c : CtxId) : Bool :=
  decide (regMax (s.core (coreOf c)) < (oldest (s.ctx c)).len)

/-- A region that has run too long takes its fault at once, since what blocks it may never end (spec/13 R255). -/
def overrun (c : CtxId) (s : State) : State :=
  let r := oldest (s.ctx c)
  takeFault c (s.modCtx c
    (recordFault r.epoch (faultRec 8 (BitVec.ofNat 64 r.len) (s.ctx c).pos false)))

/-- The oldest region retires if every condition of R251 holds; an entry left in an operand queue is
a region overrun (spec/06 R110, spec/13 R251), and so is a region that is too long (R254, R255). One with an error that
is not yet reported replays (R261). -/
def tryRetire (c : CtxId) (s : State) : State :=
  let x := s.ctx c
  let r := oldest x
  match r.closed with
  | none => s
  | some how =>
    if r.fault.isSome then s
    else if r.bad then replayError c r.epoch s
    else if overlong s c then overrun c s
    else
      match leftover s c r.epoch with
      | some code => markerFault c r.epoch 8 (BitVec.ofNat 64 code) s
      | none =>
        if !regionDone s c r.epoch then s
        else if x.older.isSome then
          (retireEffects c r s).modCtx c fun x =>
            { x with older := none, reg := { x.reg with len := 0 } }
        else retireHeld c r how s

/-- Whether the oldest region of a context can do something at its end. -/
def retireDue (s : State) (c : CtxId) : Bool :=
  let r := oldest (s.ctx c)
  r.closed.isSome && r.fault.isNone &&
    (r.bad || overlong s c || (leftover s c r.epoch).isSome || regionDone s c r.epoch)

end Sys2Proof.Machine
end

