-- ==== Sys2Proof/Machine/Operands.lean ====
section
/-! DEFINITION. The operands of the C, L and S streams: vector registers under rotation, operand
queues, register groups and predicates (spec/02 R29 to R31, spec/06 R108, R110, spec/08 R144 to
R149). -/

namespace Sys2Proof.Machine

/-- What taking operands comes to: the context after the pops, a wait at an empty queue, or an entry
of a later region at the head of a queue (spec/06 R108, R110); an entry of an earlier region is no instruction's of
this one, which waits as at an empty queue. -/
inductive Taken (α : Type)
  | ok (v : α) (x : Ctx)
  | empty
  | later (code : Nat)
  deriving Repr

/-- The head of a qv queue popped. -/
def popQv (e : QEntry) (n : Fin 4) (x : Ctx) : Taken VReg :=
  match x.q.qv[n.val] with
  | [] => .empty
  | t :: ts =>
    if e.epoch < t.epoch then .later (48 + n.val)
    else if t.epoch < e.epoch then .empty
    else .ok t.data { x with q := { x.q with qv := x.q.qv.set n.val ts } }

/-- The head of a qs queue popped. -/
def popQs (e : QEntry) (n : Fin 2) (x : Ctx) : Taken VReg :=
  match x.q.qs[n.val] with
  | [] => .empty
  | t :: ts =>
    if e.epoch < t.epoch then .later (54 + n.val)
    else if t.epoch < e.epoch then .empty
    else .ok t.data { x with q := { x.q with qs := x.q.qs.set n.val ts } }

/-- A vector source: a register, or an entry popped (spec/02 R30). -/
def takeSrc (e : QEntry) (code : BitVec 6) (x : Ctx) : Taken VReg :=
  match vop code with
  | .v n => .ok (sourceV e n x) x
  | .qv n => popQv e n x
  | .qs n => popQs e n x
  | _ => .empty

/-- Sources taken in the order of their fields (spec/02 R30). -/
def takeSrcs (e : QEntry) : List (BitVec 6) → Ctx → Taken (List VReg)
  | [], x => .ok [] x
  | k :: ks, x =>
    match takeSrc e k x with
    | .empty => .empty
    | .later c => .later c
    | .ok v x =>
      match takeSrcs e ks x with
      | .ok vs x => .ok (v :: vs) x
      | .empty => .empty
      | .later c => .later c

/-- Room in the queue that a destination names (spec/06 R108). -/
def dstRoom (code : BitVec 6) (x : Ctx) : Bool :=
  match vop code with
  | .qv n => decide ((x.q.qv[n.val]).length < 4)
  | .qs n => decide ((x.q.qs[n.val]).length < 4)
  | _ => true

/-- The old value of a destination: the register, or 0 for a pushed entry (spec/08 R148). -/
def dstOld (e : QEntry) (code : BitVec 6) (x : Ctx) : VReg :=
  match vop code with
  | .v n => readV x e.rvb n
  | _ => 0

/-- A result written to a register or pushed as one entry (spec/02 R30, spec/06 R108). -/
def putDst (e : QEntry) (code : BitVec 6) (v : VReg) (x : Ctx) : Ctx :=
  match vop code with
  | .v n => writeV e.rvb n v x
  | .qv n => { x with q := { x.q with qv := x.q.qv.set n.val (x.q.qv[n.val] ++ [⟨v, e.epoch⟩]) } }
  | .qs n => { x with q := { x.q with qs := x.q.qs.set n.val (x.q.qs[n.val] ++ [⟨v, e.epoch⟩]) } }
  | _ => x

/-- Register r of a group, converted register by register (spec/02 R31, spec/08 R144). -/
def groupReg (n : BitVec 6) (r : Nat) : Fin 48 := Fin.ofNat 48 (n.toNat + r)

/-- A register of a group read. -/
def readGroup (e : QEntry) (n : BitVec 6) (x : Ctx) (r : Nat) : VReg := sourceV e (groupReg n r) x

/-- The old value of a register of a destination group (spec/08 R148). -/
def oldGroup (e : QEntry) (n : BitVec 6) (x : Ctx) (r : Nat) : VReg := readV x e.rvb (groupReg n r)

/-- The first k registers of a group written. -/
def writeGroup (e : QEntry) (n : BitVec 6) (f : Nat → VReg) (k : Nat) (x : Ctx) : Ctx :=
  (List.range k).foldl (fun x r => writeV e.rvb (groupReg n r) (f r) x) x

/-- The governing predicate of an instruction (spec/08 R146). -/
def govern (e : QEntry) (p : BitVec 4) (x : Ctx) : PReg := sourceP e p x

/-- A predicate named by a 6-bit field. -/
def predOf (e : QEntry) (p : BitVec 6) (x : Ctx) : PReg := sourceP e (p.extractLsb' 0 4) x

/-- A predicate destination written. -/
def putPred (e : QEntry) (p : BitVec 6) (v : PReg) (x : Ctx) : Ctx :=
  writeP e.rpb (p.extractLsb' 0 4) v x

/-- A C-stream instruction: its sources are taken, it computes, its effect on the context follows; it
waits for an empty source queue or a full destination queue (spec/06 R108, R110, spec/08 R148). -/
def computeOp (srcs : List (BitVec 6)) (dst : Option (BitVec 6)) (f : List VReg → Ctx → Ctx) (c : CtxId)
    (e : QEntry) (s : State) : Perform :=
  match takeSrcs e srcs (s.ctx c) with
  | .empty => .wait s
  | .later q => .fault s 8 (BitVec.ofNat 64 q) false
  | .ok vs x =>
    if dst.all fun d => dstRoom d x then .done (s.setCtx c (f vs x)) else .wait s

/-- Source i of a list of sources. -/
def src (vs : List VReg) (i : Nat) : VReg := vs[i]?.getD 0

/-- An instruction whose one result goes to vd, from its sources, the old destination and the
governing predicate (spec/08 R148). -/
def vecOp (srcs : List (BitVec 6)) (vd : BitVec 6) (pred : BitVec 4)
    (f : List VReg → PReg → VReg → VReg) : CtxId → QEntry → State → Perform :=
  fun c e s => computeOp srcs (some vd)
    (fun vs x => putDst e vd (f vs (govern e pred x) (dstOld e vd x)) x) c e s

/-- The same for a floating instruction, which rounds by FPC.rm and raises flags (spec/07 R133). -/
def floatOp (srcs : List (BitVec 6)) (vd : BitVec 6) (pred : BitVec 4)
    (f : Rm → List VReg → PReg → VReg → VReg × FFlags) : CtxId → QEntry → State → Perform :=
  fun c e s => computeOp srcs (some vd)
    (fun vs x =>
      let r := f (fpcRm x) vs (govern e pred x) (dstOld e vd x)
      raiseFlags e.epoch r.2 (putDst e vd r.1 x)) c e s

/-- An instruction that writes a predicate. -/
def predOp (srcs : List (BitVec 6)) (f : List VReg → Ctx → Ctx) : CtxId → QEntry → State → Perform :=
  fun c e s => computeOp srcs none f c e s

end Sys2Proof.Machine
end

