-- ==== Sys2Proof/Machine/Loads.lean ====
section
/-! DEFINITION. The loads of the L stream, majors 0x10 to 0x12 (spec/06 R115 to R126). -/

namespace Sys2Proof.Machine

/-- s[sa] + sext(off16) (spec/06 R120, spec/11 R218). -/
def memAddr (o : MM) (e : QEntry) : Word := e.a + o.off.signExtend 64

/-- The bytes of one element; a 4-bit element lies in one byte. -/
def elemBytes (t : Ty) : Nat := max 1 (tyWidth t / 8)

/-- The active elements of an instruction (spec/06 R120). -/
def activeIdx (t : Ty) (p : PReg) : List Nat := (List.range (tyCount t)).filter fun j => bitP p j

/-- What follows an access that has been checked. -/
def withGot {α : Type} (r : State × Got α) (k : State → α → Perform) : Perform :=
  match r with
  | (s, .ok v) => k s v
  | (s, .fault cause tval pe) => .fault s cause tval pe
  | (s, .hold) => .held s

/-- What follows the grant of the line accesses of an instruction (spec/05 R89): until then it waits. -/
def withBanks (c : CtxId) (port : Fin 8) (e : QEntry) (keys : List Nat) (s : State) (k : State → Perform) : Perform :=
  match bankGate c port .read e.pos e.epoch keys s with
  | (true, s) => k s
  | (false, s) => .held s

/-- The lines of keys. -/
def keyLines (keys : List Nat) : List Nat := dedup (keys.map fun k => k - k % 64)

/-- A read of the lines of some keys, in parts, once the banks have granted it (spec/05 R89): the context's own posted
writes to these lines have landed (spec/15 R301); what follows has the state after it and memory as the load finds it,
word by word (spec/05 R88, spec/15 R302). -/
def readLines (c : CtxId) (port : Fin 8) (e : QEntry) (unit : Nat) (keys : List Nat) (ps : List Part) (s : State)
    (k : State → List Host.Cell → Perform) : Perform :=
  withBanks c port e keys s fun s =>
    let s := settleReads c keys s
    let m := seenMem c e unit (keyLines keys) ps s
    k (noteRead c e (keyLines keys) m s) m

/-- The first active element that begins in a part of a contiguous span, as a byte offset. -/
def firstUsed (t : Ty) (act : List Nat) (off n : Nat) : Option Nat :=
  (act.map fun j => j * tyWidth t / 8).find? fun b => decide (off ≤ b) && decide (b < off + n)

/-- The 512-byte span of `ld.v` and `st.v`: the alignment of the active elements, the class of the
whole span, and the translation of what is active (spec/06 R121, spec/11 R219). -/
def vectorSpan (c : CtxId) (acc : Access) (t : Ty) (a : Word) (act : List Nat) (s : State) :
    State × Got (List Part) :=
  match act.head? with
  | some j =>
    if a.toNat % elemBytes t ≠ 0 then
      (s, .fault 3 (a + BitVec.ofNat 64 (j * tyWidth t / 8)) false)
    else spanParts c acc a 512 (firstUsed t act) s
  | none => spanParts c acc a 512 (firstUsed t act) s

/-- Element j of the bytes of a span. -/
def spanElem (w n j : Nat) : Nat := n / 2 ^ (w * j) % 2 ^ w

/-- The key of a byte offset in the parts of a span. -/
def partKey (ps : List Part) (o : Nat) : Nat :=
  match ps.find? fun p => decide (p.off ≤ o) && decide (o < p.off + p.len) with
  | some p => p.key + (o - p.off)
  | none => 0

/-- The keys of the active elements of a span. -/
def activeKeys (t : Ty) (act : List Nat) (ps : List Part) : List Nat :=
  act.map fun j => partKey ps (j * tyWidth t / 8)

/-- `ld.v` to a register or a qv queue (spec/06 R120, R121): a line without an active lane is not accessed (spec/05
R88). -/
def loadVReg (o : MM) (c : CtxId) (e : QEntry) (s : State) : Perform :=
  let x := s.ctx c
  if !dstRoom o.v x then .wait s
  else
    let p := govern e o.pred x
    let act := activeIdx o.ty p
    withGot (vectorSpan c .load o.ty (memAddr o e) act s) fun s ps =>
      readLines c (portL c) e 4 (activeKeys o.ty act ps) ps s fun s m =>
        let n := readParts m ps
        .done (s.modCtx c fun x =>
          putDst e o.v
            (underMask (tyWidth o.ty) p (dstOld e o.v x) (spanElem (tyWidth o.ty) n)) x)

/-- The value of element j among the elements that were read. -/
def keyElem (m : List Host.Cell) (n : Nat) (l : List (Nat × Nat)) (j : Nat) : Nat :=
  match l.lookup j with
  | some k => memNat m k n
  | none => 0

/-- A load whose active elements have addresses of their own (spec/06 R120, R121). -/
def loadElems (o : MM) (c : CtxId) (e : QEntry) (adr : Ctx → Nat → Word) (s : State) : Perform :=
  let x := s.ctx c
  let p := govern e o.pred x
  let n := elemBytes o.ty
  withGot (xlateList c .load n ((activeIdx o.ty p).map fun j => (j, adr x j)) s) fun s l =>
    readLines c (portL c) e 4 (l.map (·.2)) (elemParts n l) s fun s m =>
      .done (s.modCtx c fun x =>
        putDst e o.v (underMask (tyWidth o.ty) p (dstOld e o.v x) (keyElem m n l)) x)

/-- The address of element j under a stride (spec/06 R120, spec/11 R218). -/
def strideAddr (o : MM) (e : QEntry) (j : Nat) : Word := memAddr o e + BitVec.ofNat 64 j * e.b

/-- The address of element j by an index group (spec/06 R120, spec/11 R218). -/
def indexAddr (o : MM) (e : QEntry) (x : Ctx) (j : Nat) : Word :=
  memAddr o e +
    BitVec.ofInt 64 (sextI 32 (groupElem 32 (tyK o.ty) (readGroup e o.vi x) j))

/-- The base and the stride of `ld.vs` and `st.vs` are multiples of the element size (spec/06 R121,
spec/11 R219). -/
def strideAligned (o : MM) (e : QEntry) : Bool :=
  (memAddr o e).toNat % elemBytes o.ty == 0 && e.b.toNat % elemBytes o.ty == 0

/-- `ld.vs` (spec/06 R120, R121). -/
def performLdVs (o : MM) (c : CtxId) (e : QEntry) (s : State) : Perform :=
  if !dstRoom o.v (s.ctx c) then .wait s
  else if !strideAligned o e then .fault s 3 (memAddr o e) false
  else loadElems o c e (fun _ => strideAddr o e) s

/-- `ld.vx` (spec/06 R120, R121). -/
def performLdVx (o : MM) (c : CtxId) (e : QEntry) (s : State) : Perform :=
  if !dstRoom o.v (s.ctx c) then .wait s else loadElems o c e (indexAddr o e) s

/-- `ld.bc` (spec/06 R120, R121). -/
def performLdBc (o : MM) (c : CtxId) (e : QEntry) (s : State) : Perform :=
  if !dstRoom o.v (s.ctx c) then .wait s else loadElems o c e (fun _ _ => memAddr o e) s

/-! ## Pushing a latch entry -/

/-- An `efire`: a possible pusher of both latch queues until its command starts (spec/06 R109). -/
def isFire : Instr → Bool
  | .efire _ | .efireS _ => true
  | _ => false

/-- The latch queue that a load pushes to: qa (false) or qb (true). -/
def pushesTo : Instr → Option Bool
  | .gatA _ => some false
  | .ldV o =>
    match vop o.v with
    | .qa => some false
    | .qb => some true
    | _ => none
  | _ => none

/-- An earlier pusher of the same latch queue has not taken all of its slots (spec/06 R109). -/
def pusherBefore (s : State) (c : CtxId) (b : Bool) (pos : Nat) : Bool :=
  let x := s.ctx c
  (x.q.parked.any fun t => pushesTo t.instr == some b && decide (t.pos < pos)) ||
    (x.engL.any fun t => isFire t.instr && decide (t.pos < pos)) ||
    ((s.core (coreOf c)).active.any fun a =>
      a.ctx == c && fillsTo a == some b && decide (a.cmd.pos < pos))

/-- A slot of the latch queue is free for the context (spec/06 R108, R109). -/
def latchRoom (x : Ctx) (b : Bool) : Bool :=
  if b then decide (x.q.qb.length < 4) else decide (x.q.qa.length < 4)

/-- Another load waits aside for a slot of the same queue, so a later pusher stalls its stream
(spec/06 R109). -/
def parkedSame (x : Ctx) (b : Bool) (pos : Nat) : Bool :=
  x.q.parked.any fun t => pushesTo t.instr == some b && decide (t.pos < pos)

/-- A pusher of a latch queue: it takes its slot in L program order, and while it waits the L stream
goes on (spec/06 R109). -/
def withSlot (c : CtxId) (e : QEntry) (b : Bool) (s : State) (k : Perform) : Perform :=
  if parkedSame (s.ctx c) b e.pos then .wait s
  else if pusherBefore s c b e.pos || !latchRoom (s.ctx c) b then .park s
  else k

/-- The scales that a load pushes with its entry (spec/06 R117). -/
def stageOf (e : QEntry) (x : Ctx) : Staging := e.stage.getD x.stage

/-- The parts of a list of numbered rows of n bytes, each checked as one access (spec/06 R122). -/
def rowParts (c : CtxId) (n : Nat) :
    List (Nat × Word) → State → State × Got (List (Nat × List Part))
  | [], s => (s, .ok [])
  | (i, va) :: rest, s =>
    match spanParts c .load va n allUsed s with
    | (s, .fault a t p) => (s, .fault a t p)
    | (s, .hold) => (s, .hold)
    | (s, .ok ps) =>
      match rowParts c n rest s with
      | (s, .ok l) => (s, .ok ((i, ps) :: l))
      | r => r

/-- The bytes of rows at a pitch in bytes as one number. -/
def rowsData (m : List Host.Cell) (pitch : Nat) (l : List (Nat × List Part)) : Nat :=
  l.foldl (fun n r => n + readParts m r.2 * 2 ^ (8 * pitch * r.1)) 0

/-- The mask bits of the bytes that rows of n bytes at a pitch fill. -/
def rowsFilled (pitch n : Nat) (l : List (Nat × List Part)) : Nat :=
  l.foldl (fun v r => v + (2 ^ n - 1) * 2 ^ (pitch * r.1)) 0

/-- The qa entry of rows read from memory; every other byte is a structural zero (spec/06 R115,
R116). -/
def qaOf (e : QEntry) (x : Ctx) (m : List Host.Cell) (l : List (Nat × List Part)) : QaEntry :=
  { data := BitVec.ofNat 32768 (rowsData m 64 l), mask := ~~~BitVec.ofNat 4096 (rowsFilled 64 64 l)
    scales := (stageOf e x).a, epoch := e.epoch }

/-- The qb entry of rows read from memory (spec/06 R115, R116). -/
def qbOf (e : QEntry) (x : Ctx) (m : List Host.Cell) (k w : Nat) (l : List (Nat × List Part)) :
    QbEntry :=
  { data := BitVec.ofNat 65536 (rowsData m (8192 / k) l)
    mask := ~~~BitVec.ofNat 8192 (rowsFilled (8192 / k) (16 * w) l)
    scales := (stageOf e x).b, k := k, width := w, epoch := e.epoch }

/-- The lines of rows. -/
def rowsLines (l : List (Nat × List Part)) : List Nat := l.flatMap fun r => partLines r.2

/-- The rows of a latch load: number and address (spec/06 R122). -/
def latchRows (o : MM) (e : QEntry) (x : Ctx) (n : Nat) : List (Nat × Word) :=
  ((List.range n).filter fun i => bitP (govern e o.pred x) i).map fun i => (i, strideAddr o e i)

/-- The base and the stride of a latch load are multiples of 64 (spec/06 R122). -/
def rowAligned (a : Word) (e : QEntry) : Bool := a.toNat % 64 == 0 && e.b.toNat % 64 == 0

/-- `ld.v` to qa (spec/06 R122); a misaligned stride is reported with the base address (DESIGN CHOICE,
notes/assumptions/66.md). -/
def loadVQa (o : MM) (c : CtxId) (e : QEntry) (s : State) : Perform :=
  withSlot c e false s <|
    if !rowAligned (memAddr o e) e then .fault s 3 (memAddr o e) false
    else
      withGot (rowParts c 64 (latchRows o e (s.ctx c) (o.vi.toNat + 1)) s) fun s l =>
        readLines c (portL c) e 4 (rowsLines l) (l.flatMap (·.2)) s fun s m =>
          .done (s.modCtx c fun x => { x with q := { x.q with qa := x.q.qa ++ [qaOf e x m l] } })

/-- `ld.v` to qb (spec/06 R122). -/
def loadVQb (o : MM) (c : CtxId) (e : QEntry) (s : State) : Perform :=
  let k := qbK (o.vi.extractLsb' 0 2).toNat
  let w := tyWidth o.ty
  withSlot c e true s <|
    if !rowAligned (memAddr o e) e then .fault s 3 (memAddr o e) false
    else
      withGot (rowParts c (16 * w) (latchRows o e (s.ctx c) k) s) fun s l =>
        readLines c (portL c) e 4 (rowsLines l) (l.flatMap (·.2)) s fun s m =>
          .done (s.modCtx c fun x => { x with q := { x.q with qb := x.q.qb ++ [qbOf e x m k w l] } })

/-- `ld.v` (spec/06 R120, R122). -/
def performLdV (o : MM) (c : CtxId) (e : QEntry) (s : State) : Perform :=
  match vop o.v with
  | .qa => loadVQa o c e s
  | .qb => loadVQb o c e s
  | _ => loadVReg o c e s

/-- Row i of `gat.a` is read: its predicate bit is set and its index is below the limit (spec/06
R126). -/
def gatherRow (o : MM) (e : QEntry) (x : Ctx) (i : Nat) : Option (Nat × Word) :=
  let idx := sextI 32 (elem 32 i (readGroup e o.vi x 0))
  let limit := if o.off = 0 then 65536 else o.off.toNat
  if bitP (govern e o.pred x) i ∧ 0 ≤ idx ∧ idx < limit then
    some (i, e.a + BitVec.ofInt 64 idx * e.b)
  else none

/-- Every row lies in the issuing core's own slice, reached through the window or the alias (spec/06
R126); the first that does not is an access violation. -/
def gatherKeys (c : CtxId) : List (Nat × Word) → State → Got (List (Nat × List Part))
  | [], _ => .ok []
  | (i, va) :: rest, s =>
    match classOf (coreOf c) va.toNat with
    | .slice own k off =>
      match xlateSlice s own k off va with
      | .ok key =>
        if sliceCore key ≠ (coreOf c).val then .fault 7 va false
        else
          match gatherKeys c rest s with
          | .ok l => .ok ((i, [⟨0, 64, key⟩]) :: l)
          | r => r
      | .fault a t p => .fault a t p
      | .hold => .hold
    | _ => .fault 7 va false

/-- `gat.a` (spec/06 R126). -/
def performGatA (o : MM) (c : CtxId) (e : QEntry) (s : State) : Perform :=
  withSlot c e false s <|
    if !rowAligned e.a e then .fault s 3 e.a false
    else
      let rows := (List.range 64).filterMap (gatherRow o e (s.ctx c))
      withGot (s, gatherKeys c rows s) fun s l =>
        readLines c 5 e 4 (rowsLines l) (l.flatMap (·.2)) s fun s m =>
          .done (s.modCtx c fun x => { x with q := { x.q with qa := x.q.qa ++ [qaOf e x m l] } })

/-! ## Scales and scalars -/

/-- What the L stream finds at its entry into a region is kept for a discard (spec/13 R256). -/
def keepL (e : Nat) (x : Ctx) : Ctx :=
  modRegion e (fun r =>
    match r.lIn with
    | some _ => r
    | none => { r with lIn := some x.stage }) x

/-- A staging buffer written (spec/06 R123). -/
def setStage (qb : Bool) (v : Nat) (t : Staging) : Staging :=
  if qb then { t with b := BitVec.ofNat 4096 v } else { t with a := BitVec.ofNat 2048 v }

/-- `ld.qsc` (spec/06 R123). -/
def performLdQsc (o : MM) (c : CtxId) (e : QEntry) (s : State) : Perform :=
  let qb := vop o.v == .qb
  let a := memAddr o e
  if a.toNat % 64 ≠ 0 then .fault s 3 a false
  else
    withGot (spanParts c .load a (if qb then 512 else 256) allUsed s) fun s ps =>
      readLines c (portL c) e 4 (partLines ps) ps s fun s m =>
        .done (s.modCtx c fun x =>
          let x := keepL e.epoch x
          { x with stage := setStage qb (readParts m ps) x.stage })

/-- The bytes of a scalar access: 8 for .b (spec/06 R124, spec/11 R216). -/
def scalarBytes (t : Ty) : Nat := if t = .b then 8 else tyWidth t / 8

/-- The value that `lds` writes (spec/06 R124). -/
def scalarValue (t : Ty) (n : Nat) : Word :=
  if tySigned t then BitVec.ofInt 64 (sextI (tyWidth t) n) else BitVec.ofNat 64 n

/-- `lds` (spec/06 R124). -/
def performLds (o : MM) (c : CtxId) (e : QEntry) (s : State) : Perform :=
  let n := scalarBytes o.ty
  withGot (xlateList c .load n [(0, memAddr o e)] s) fun s l =>
    readLines c (portL c) e (max 4 n) (l.map (·.2)) (elemParts n l) s fun s m =>
      .done (s.modCtx c (writeS (o.v.extractLsb' 0 5) (scalarValue o.ty (keyElem m n l 0))))

/-! ## The instructions -/

/-- `ld.v` (spec/06 R120, R122). -/
def execLdV (o : MM) (s : State) : Host.Outcome State Fault Refusal :=
  issue .l (.ldV o) o.tok o.sa o.sb 0 (performLdV o) s

/-- `ld.vs` (spec/06 R120). -/
def execLdVs (o : MM) (s : State) : Host.Outcome State Fault Refusal :=
  issue .l (.ldVs o) o.tok o.sa o.sb 0 (performLdVs o) s

/-- `ld.vx` (spec/06 R120). -/
def execLdVx (o : MM) (s : State) : Host.Outcome State Fault Refusal :=
  issue .l (.ldVx o) o.tok o.sa o.sb 0 (performLdVx o) s

/-- `ld.bc` (spec/06 R120). -/
def execLdBc (o : MM) (s : State) : Host.Outcome State Fault Refusal :=
  issue .l (.ldBc o) o.tok o.sa o.sb 0 (performLdBc o) s

/-- `ld.qsc` (spec/06 R123). -/
def execLdQsc (o : MM) (s : State) : Host.Outcome State Fault Refusal :=
  issue .l (.ldQsc o) o.tok o.sa o.sb 0 (performLdQsc o) s

/-- `lds` (spec/06 R124): two that write one register do so in program order (R104). -/
def execLds (o : MM) (s : State) : Host.Outcome State Fault Refusal :=
  issue .l (.lds o) o.tok o.sa o.sb 0 (performLds o) s

/-- `gat.a` (spec/06 R126). -/
def execGatA (o : MM) (s : State) : Host.Outcome State Fault Refusal :=
  issue .l (.gatA o) o.tok o.sa o.sb 0 (performGatA o) s

end Sys2Proof.Machine
end

