-- ==== Sys2Proof/Machine/Stores.lean ====
section
/-! DEFINITION. The stores of the S stream, majors 0x30 and 0x31 (spec/11 R207 to R221). -/

namespace Sys2Proof.Machine

/-- What a store comes to once its lines are known (spec/11 R207 to R213); `va` is the address that an
overrun reports, and f takes what the store has popped. -/
def storeDone (c : CtxId) (e : QEntry) (va : Word) (ls : List (Word × LineWrite)) (q : Queues)
    (s : State) : Perform :=
  match storeLines c e ls s with
  | .wait s => .held s
  | .overrun => .fault s 8 va false
  | .done s => .done (s.modCtx c fun x => { x with q := q })

/-- A line address. -/
def lineVa (a : Word) : Word := a &&& 0xFFFF_FFFF_FFFF_FFC0#64

/-- The write of one element: its address, its key and its value (spec/11 R218). -/
def elemWrite (w : Nat) (j : Nat) (va : Word) (key v : Nat) : Word × LineWrite :=
  if w = 4 then (lineVa va, lineOfNibble key (decide (j % 2 = 1)) v)
  else (lineVa va, lineOf key (w / 8) v)

/-- The lines of the element writes of an instruction, in ascending order of the elements (spec/11
R218). -/
def elemLines (w : Nat) (v : VReg) (l : List (Nat × Word × Nat)) : List (Word × LineWrite) :=
  l.foldl (fun ls t => gatherLine (elemWrite w t.1 t.2.1 t.2.2 (elem w t.1 v)) ls) []

/-- `st.v` (spec/11 R218, R219). -/
def performStV (o : MM) (c : CtxId) (e : QEntry) (s : State) : Perform :=
  match takeSrc e o.v (s.ctx c) with
  | .empty => .wait s
  | .later k => .fault s 8 (BitVec.ofNat 64 k) false
  | .ok v x =>
    let w := tyWidth o.ty
    let a := memAddr o e
    let act := activeIdx o.ty (govern e o.pred x)
    withGot (vectorSpan c .store o.ty a act s) fun s ps =>
      let l := act.map fun j => (j, a + BitVec.ofNat 64 (j * w / 8), partKey ps (j * w / 8))
      storeDone c e a (elemLines w v l) x.q s

/-- A store whose active elements have addresses of their own (spec/11 R218, R219); an overrun is reported with the
base address (DESIGN CHOICE, notes/assumptions/66.md). -/
def storeElems (o : MM) (c : CtxId) (e : QEntry) (adr : Ctx → Nat → Word) (s : State) : Perform :=
  match takeSrc e o.v (s.ctx c) with
  | .empty => .wait s
  | .later k => .fault s 8 (BitVec.ofNat 64 k) false
  | .ok v x =>
    let l := (activeIdx o.ty (govern e o.pred x)).map fun j => (j, adr x j)
    withGot (xlateList c .store (elemBytes o.ty) l s) fun s ks =>
      let l := (l.zip ks).map fun t => (t.1.1, t.1.2, t.2.2)
      storeDone c e (memAddr o e) (elemLines (tyWidth o.ty) v l) x.q s

/-- `st.vs` (spec/11 R218, R219). -/
def performStVs (o : MM) (c : CtxId) (e : QEntry) (s : State) : Perform :=
  if !strideAligned o e then .fault s 3 (memAddr o e) false
  else storeElems o c e (fun _ => strideAddr o e) s

/-- `st.vx` (spec/11 R218, R219). -/
def performStVx (o : MM) (c : CtxId) (e : QEntry) (s : State) : Perform :=
  storeElems o c e (indexAddr o e) s

/-- `sts` (spec/11 R218, R219): the value is captured at append. -/
def performSts (o : MM) (c : CtxId) (e : QEntry) (s : State) : Perform :=
  let n := scalarBytes o.ty
  let a := memAddr o e
  withGot (xlateList c .store n [(0, a)] s) fun s ks =>
    let l := ks.map fun k => (lineVa a, lineOf k.2 n e.d.toNat)
    storeDone c e a l (s.ctx c).q s

/-- `st.v` (spec/11 R218). -/
def execStV (o : MM) (s : State) : Host.Outcome State Fault Refusal :=
  issue .s (.stV o) o.tok o.sa o.sb 0 (performStV o) s

/-- `st.vs` (spec/11 R218). -/
def execStVs (o : MM) (s : State) : Host.Outcome State Fault Refusal :=
  issue .s (.stVs o) o.tok o.sa o.sb 0 (performStVs o) s

/-- `st.vx` (spec/11 R218). -/
def execStVx (o : MM) (s : State) : Host.Outcome State Fault Refusal :=
  issue .s (.stVx o) o.tok o.sa o.sb 0 (performStVx o) s

/-- `sts` (spec/11 R218). -/
def execSts (o : MM) (s : State) : Host.Outcome State Fault Refusal :=
  issue .s (.sts o) o.tok o.sa 0 (o.v.extractLsb' 0 5) (performSts o) s

end Sys2Proof.Machine
end

