-- ==== Sys2Proof/Machine/Atomics.lean ====
section
/-! DEFINITION. Atomics and reductions, major 0x33 (spec/05 R95 to R102). -/

namespace Sys2Proof.Machine

/-- The new value that the home computes from the old value and the operand (spec/05 R96, R99). -/
def homeOp (op w old x : Nat) : Nat :=
  let s := sextI w
  match op with
  | 0 => (old + x) % 2 ^ w
  | 1 => if s x < s old then x else old
  | 2 => if s old < s x then x else old
  | 3 => min old x
  | 4 => max old x
  | 5 => old &&& x
  | 6 => old ||| x
  | 7 => old ^^^ x
  | 8 => x
  | _ => rneF32 (sumVals .rne [fvalOf .f32 old, fvalOf .f32 x]).1

/-- s[sa] + 4 x sext(off, 11) (spec/05 R97). -/
def amoAddr (o : SY) (sa : Word) : Word := sa + (o.imm.extractLsb' 0 11).signExtend 64 * 4

/-- The width of an atomic in bits (spec/05 R97). -/
def amoWidth (o : SY) : Nat := if o.imm.extractLsb' 22 2 = 0 then 32 else 64

/-- An address of n bytes checked for an atomic or a reduction: scratchpad or DRAM (spec/05 R95,
R99). -/
def amoKey (c : CtxId) (n : Nat) (va : Word) (s : State) : State × Got Nat :=
  match xlateList c .atomic n [(0, va)] s with
  | (s, .ok ((_, k) :: _)) => if isHost k then (s, .fault 7 va false) else (s, .ok k)
  | (s, .ok []) => (s, .hold)
  | (s, .fault a t p) => (s, .fault a t p)
  | (s, .hold) => (s, .hold)

/-! ## amo -/

/-- The value that `amo` stores, from the old one; `cas` stores only on a match (spec/05 R99). -/
def amoNew (op w : Nat) (old sb sd : Nat) : Nat :=
  if op = 9 then (if old = sb % 2 ^ w then sd % 2 ^ w else old) else homeOp op w old (sb % 2 ^ w)

/-- The value that `amo` returns (spec/05 R99). -/
def amoResult (op w old : Nat) : Word :=
  if w = 32 ∧ op ≤ 2 then BitVec.ofInt 64 (sextI 32 old) else BitVec.ofNat 64 old

/-- The read-modify-write at the home, with the old value in sd (spec/05 R99). -/
def amoApply (o : SY) (c : CtxId) (e : QEntry) (k : Nat) (s : State) : State :=
  let w := amoWidth o
  let op := o.subop.toNat
  let old := memNat s.mem k (w / 8)
  let new := amoNew op w old e.b.toNat e.d.toNat
  let s := touchBanks c 7 .rmw [k] { s with mem := memPutNat s.mem k (w / 8) new }
  s.modCtx c (writeS o.sd (amoResult op w old))

/-- The region of an `amo` retires with it (spec/05 R99, spec/13 R250). -/
def amoRetire (c : CtxId) (s : State) : State :=
  let s := retireEffects c (s.ctx c).reg s
  s.modCtx c (freshRegion (s.ctx c).reg.next (timeOf s c))

/-- `amo` at the head of the S stream, the only instruction of its region (spec/05 R99). -/
def performAmo (o : SY) (c : CtxId) (e : QEntry) (s : State) : Perform :=
  withGot (amoKey c (amoWidth o / 8) (amoAddr o e.a) s) fun s k =>
    let s := settleReads c [k] s
    if bytesBehind s c k (amoWidth o / 8) then .held s else .done (amoRetire c (amoApply o c e k s))

/-- `amo` (spec/05 R99): a commit point that begins when the region before it has retired. It goes down the S stream
(spec/02 R23), and the front issues nothing after it until the old value is written. -/
def execAmo (o : SY) (s : State) : Host.Outcome State Fault Refusal :=
  afterRetired s
    (let c := s.cur
     .next (handOver .s o.tok (performAmo o) c (capture .s (.amo o) o.sa o.sb o.sd s.me)
       (s.modCtx c fun x => closeHeld .commit (stepPc x))))

/-! ## red and vred -/

/-- A request placed in the reduction buffer (spec/05 R100). The value of TVAL at the 65th request of
a region is not stated. -/
def bufferRed (c : CtxId) (e : QEntry) (o : SY) (items : List (Nat × Nat)) (q : Queues) (s : State) :
    Perform :=
  let x := s.ctx c
  if 64 ≤ (x.sync.red.filter fun r => r.epoch == e.epoch).length then
    .fault s.bumpFree 8 (Config.freeValue s.freeCtr) false
  else if 64 ≤ x.sync.red.length then .held s
  else
    .done ((bumpSeq c s).modCtx c fun x =>
      { x with
        q := q
        sync := { x.sync with
          red := x.sync.red ++ [{ by_ := ctxOp x, op := o.subop.toNat, wide := amoWidth o == 64, det := o.imm.getLsbD 21
                                  items := items, epoch := e.epoch, committed := false, seq := x.sync.seq }] } })

/-- `red` (spec/05 R100). -/
def performRed (o : SY) (c : CtxId) (e : QEntry) (s : State) : Perform :=
  let w := amoWidth o
  withGot (amoKey c (w / 8) (amoAddr o e.a) s) fun s k =>
    bufferRed c e o [(k, e.b.toNat % 2 ^ w)] (s.ctx c).q s

/-- The span of `vred`: aligned to 64 bytes, checked whole, translated where lanes are active, in
scratchpad or DRAM (spec/05 R95, R101). -/
def vredSpan (c : CtxId) (a : Word) (act : List Nat) (s : State) : State × Got (List Part) :=
  if a.toNat % 64 ≠ 0 then (s, .fault 3 a false)
  else
    match spanParts c .atomic a 512 (firstUsed .n32 act) s with
    | (s, .ok ps) =>
      match ps.find? fun p => isHost p.key with
      | some p => (s, .fault 7 (a + BitVec.ofNat 64 ((firstUsed .n32 act p.off p.len).getD p.off)) false)
      | none => (s, .ok ps)
    | r => r

/-- `vred` (spec/05 R101). -/
def performVred (o : SY) (c : CtxId) (e : QEntry) (s : State) : Perform :=
  match takeSrc e (o.imm.extractLsb' 15 6) (s.ctx c) with
  | .empty => .wait s
  | .later k => .fault s 8 (BitVec.ofNat 64 k) false
  | .ok v x =>
    let act := activeIdx .n32 (govern e (o.imm.extractLsb' 11 4) x)
    withGot (vredSpan c (amoAddr o e.a) act s) fun s ps =>
      bufferRed c e o (act.map fun j => (partKey ps (4 * j), elem 32 j v)) x.q s

/-- `red` (spec/05 R100). -/
def execRed (o : SY) (s : State) : Host.Outcome State Fault Refusal :=
  issue .s (.red o) o.tok o.sa o.sb 0 (performRed o) s

/-- `vred` (spec/05 R101). -/
def execVred (o : SY) (s : State) : Host.Outcome State Fault Refusal :=
  issue .s (.vred o) o.tok o.sa 0 0 (performVred o) s

end Sys2Proof.Machine
end

