-- ==== Sys2Proof/Machine/Counters.lean ====
section
/-! DEFINITION. The token counters k1 to k15, majors 0x15, 0x27 and 0x36 (spec/06 R113, R114). -/

namespace Sys2Proof.Machine

/-- The counter that `kwait` and `ksig` name. -/
def ktokK (o : SY) : BitVec 4 := o.imm.extractLsb' 0 4

/-- The count that they take. -/
def ktokN (o : SY) : Nat := (o.imm.extractLsb' 4 4).toNat

/-- `kwait` at the head of its stream (spec/06 R114). -/
def performKwait (o : SY) (c : CtxId) (e : QEntry) (s : State) : Perform :=
  if (s.ctx c).tok.k[(ktokK o).toNat] < ktokN o then .held s
  else .done (s.modCtx c (bumpK e.epoch (ktokK o) (-(ktokN o : Int))))

/-- Every earlier instruction of the stream has completed: none waits aside, and no `mma` is in its K steps (spec/06
R114). -/
def streamDone (s : State) (c : CtxId) (st : Stream) : Bool :=
  noneAside (s.ctx c) st && !(st == .c && (s.core (coreOf c)).mmaRun.any fun m => m.ctx == c)

/-- `ksig` at the head of its stream (spec/06 R114). -/
def performKsig (st : Stream) (o : SY) (c : CtxId) (e : QEntry) (s : State) : Perform :=
  let t := (s.ctx c).tok
  let k := (ktokK o).toNat
  if !streamDone s c st then .held s
  else if 15 < t.k[k] + t.res[k] + ktokN o then .fault s 9 (BitVec.ofNat 64 k) false
  else .done (s.modCtx c (bumpK e.epoch (ktokK o) (ktokN o)))

/-- `kwait` in the L stream (spec/06 R114). -/
def execKwaitL (o : SY) (s : State) : Host.Outcome State Fault Refusal :=
  issue .l (.kwaitL o) o.tok 0 0 0 (performKwait o) s

/-- `ksig` in the L stream (spec/06 R114). -/
def execKsigL (o : SY) (s : State) : Host.Outcome State Fault Refusal :=
  issue .l (.ksigL o) o.tok 0 0 0 (performKsig .l o) s

/-- `kwait` in the C stream (spec/06 R114). -/
def execKwaitC (o : SY) (s : State) : Host.Outcome State Fault Refusal :=
  issue .c (.kwaitC o) o.tok 0 0 0 (performKwait o) s

/-- `ksig` in the C stream (spec/06 R114). -/
def execKsigC (o : SY) (s : State) : Host.Outcome State Fault Refusal :=
  issue .c (.ksigC o) o.tok 0 0 0 (performKsig .c o) s

/-- `kwait` in the S stream (spec/06 R114). -/
def execKwaitS (o : SY) (s : State) : Host.Outcome State Fault Refusal :=
  issue .s (.kwaitS o) o.tok 0 0 0 (performKwait o) s

/-- `ksig` in the S stream (spec/06 R114). -/
def execKsigS (o : SY) (s : State) : Host.Outcome State Fault Refusal :=
  issue .s (.ksigS o) o.tok 0 0 0 (performKsig .s o) s

end Sys2Proof.Machine
end

