-- ==== Sys2Proof/Machine/Templates.lean ====
section
/-! DEFINITION. Engine areas, templates, their fields and the plan of a COPY or a WINDOW (spec/04 R67 to
R73, R79 to R85). -/

namespace Sys2Proof.Machine

/-! ## Areas and fields -/

/-- The key of the engine area of a context (spec/04 R67). -/
def areaKey (c : CtxId) : Nat := sliceKey (coreOf c).val (0x17_8000 + 0x4000 * (bankOf c).val)

/-- The key of template t. -/
def tmplKey (c : CtxId) (t : Nat) : Nat := areaKey c + 128 * t

/-- The key of codebook n. -/
def cbKey (c : CtxId) (n : Nat) : Nat := areaKey c + 0x2000 + 16 * n

/-- A template as it is stored. -/
def tmplRead (m : List Host.Cell) (c : CtxId) (t : Nat) : BitVec 1024 :=
  BitVec.ofNat 1024 (memNat m (tmplKey c t) 128)

/-- The kind of a template. -/
def tKind (t : BitVec 1024) : Nat := (t.extractLsb' 0 4).toNat

/-- A field of a template as a number. -/
def tf (t : BitVec 1024) (at_ w : Nat) : Nat := (t.extractLsb' at_ w).toNat

/-- A signed field. -/
def tfs (t : BitVec 1024) (at_ w : Nat) : Int := (t.extractLsb' at_ w).toInt

/-- The place and the width of field f of a COPY template (spec/04 R69). -/
def copyField (f : Nat) : Option (Nat × Nat) :=
  match f with
  | 0 => some (0, 4) | 1 => some (8, 2) | 2 => some (10, 1) | 3 => some (11, 1) | 4 => some (12, 1)
  | 5 => some (13, 1) | 6 => some (16, 7) | 7 => some (64, 64) | 8 => some (128, 64)
  | 9 => some (192, 16) | 10 => some (208, 16) | 11 => some (224, 16) | 12 => some (240, 16)
  | 13 => some (256, 32) | 14 => some (288, 32) | 15 => some (320, 32) | 16 => some (352, 32)
  | 17 => some (384, 32) | 18 => some (416, 32)
  | 19 => some (448, 16) | 20 => some (464, 16) | 21 => some (480, 16) | 22 => some (496, 16)
  | 23 => some (512, 16) | 24 => some (528, 16) | 25 => some (544, 16) | 26 => some (560, 16)
  | 27 => some (576, 64) | 28 => some (640, 64)
  | _ => none

/-- The place and the width of field f of a WINDOW template (spec/04 R72). -/
def windowField (f : Nat) : Option (Nat × Nat) :=
  match f with
  | 0 => some (0, 4) | 4 => some (12, 1) | 7 => some (64, 64) | 27 => some (576, 64)
  | 28 => some (640, 64)
  | 29 => some (128, 16) | 30 => some (144, 16) | 31 => some (160, 32) | 32 => some (192, 16)
  | 33 => some (208, 8) | 34 => some (216, 8) | 35 => some (224, 8) | 36 => some (232, 8)
  | 37 => some (240, 8) | 38 => some (248, 8) | 39 => some (256, 16) | 40 => some (272, 16)
  | 41 => some (288, 16) | 42 => some (304, 16) | 43 => some (320, 32) | 44 => some (352, 32)
  | 45 => some (384, 32) | 46 => some (416, 32) | 47 => some (448, 8) | 48 => some (456, 8)
  | 49 => some (464, 8)
  | _ => none

/-- A field of a template of a kind (spec/04 R80, R85); of the reserved kinds only the kind itself, which `eset` may write as
in a template of kind 0 (DESIGN CHOICE, notes/assumptions/80.md). -/
def tmplField (kind f : Nat) : Option (Nat × Nat) :=
  match kind with
  | 1 => copyField f
  | 2 => windowField f
  | _ => if f = 0 then some (0, 4) else none

/-- A field replaced or raised by a value, wrapped to its width (spec/04 R79). -/
def patchField (add : Bool) (v : Word) (p : Nat × Nat) (t : BitVec 1024) : BitVec 1024 :=
  let old := tf t p.1 p.2
  let new := (if add then old + v.toNat else v.toNat) % 2 ^ p.2
  (t &&& ~~~(BitVec.ofNat 1024 ((2 ^ p.2 - 1) * 2 ^ p.1))) ||| BitVec.ofNat 1024 (new * 2 ^ p.1)

/-- The patch of an `eset` or an `efire` (spec/04 R79, R81); none when the kind has no such field. -/
def patched (o : E) (v : Word) (t : BitVec 1024) : Option (BitVec 1024) :=
  (tmplField (tKind t) o.fsel.toNat).map fun p => patchField (o.mode == 1) v p t

/-- The bits of a template that its kind leaves at zero (spec/04 R69, R72). -/
def tmplZeros (t : BitVec 1024) : Bool :=
  match tKind t with
  | 1 => tf t 4 4 == 0 && tf t 14 2 == 0 && tf t 23 41 == 0 && tf t 704 320 == 0
  | 2 => tf t 4 8 == 0 && tf t 13 51 == 0 && tf t 472 104 == 0 && tf t 704 320 == 0
  | _ => false

/-! ## COPY -/

/-- The element size in bytes. -/
def cpE (t : BitVec 1024) : Nat := 2 ^ tf t 8 2

/-- zf, cbx, aw and lq. -/
def cpZf (t : BitVec 1024) : Bool := t.getLsbD 10

/-- Expansion through a codebook. -/
def cpCbx (t : BitVec 1024) : Bool := t.getLsbD 11

/-- An arrival word is written. -/
def cpAw (t : BitVec 1024) : Bool := t.getLsbD 12

/-- The destination is a latch entry. -/
def cpLq (t : BitVec 1024) : Bool := t.getLsbD 13

/-- The codebook. -/
def cpCb (t : BitVec 1024) : Nat := tf t 16 7

/-- The source base; of a WINDOW as well. -/
def cpSrc (t : BitVec 1024) : Word := t.extractLsb' 64 64

/-- The destination base. -/
def cpDst (t : BitVec 1024) : Word := t.extractLsb' 128 64

/-- Extent d. -/
def cpExt (t : BitVec 1024) (d : Nat) : Nat := tf t (192 + 16 * d) 16

/-- Source stride d, 1 to 3. -/
def cpSs (t : BitVec 1024) (d : Nat) : Int := tfs t (256 + 32 * (d - 1)) 32

/-- Destination stride d, 1 to 3. -/
def cpDs (t : BitVec 1024) (d : Nat) : Int := tfs t (352 + 32 * (d - 1)) 32

/-- Start index d. -/
def cpO (t : BitVec 1024) (d : Nat) : Int := tfs t (448 + 16 * d) 16

/-- Bound d. -/
def cpB (t : BitVec 1024) (d : Nat) : Int := tf t (512 + 16 * d) 16

/-- The arrival word's address. -/
def tAwaddr (t : BitVec 1024) : Word := t.extractLsb' 576 64

/-- The arrival value. -/
def tAwval (t : BitVec 1024) : Word := t.extractLsb' 640 64

/-- The limits of a latch destination (spec/04 R71). -/
def lqOk (t : BitVec 1024) (fromS : Bool) : Bool :=
  let e := cpExt t 0 * cpE t
  let n := cpExt t 1
  !fromS && (cpDst t).extractLsb' 1 63 == 0 && cpExt t 2 == 1 && cpExt t 3 == 1 &&
    if (cpDst t).getLsbD 0 then
      (n == 16 || n == 32 || n == 64 || n == 128) && decide (e ≤ 8192 / n)
    else decide (n ≤ 64) && decide (e ≤ 64)

/-- A COPY template is well formed (spec/04 R85). -/
def copyOk (t : BitVec 1024) (fromS : Bool) : Bool :=
  tmplZeros t && ((List.range 4).all fun d => cpExt t d != 0) &&
    (!cpCbx t || cpE t == 1) && (!cpLq t || lqOk t fromS)

/-- The address that breaks the alignment of a COPY, if one does (spec/04 R85): the side whose base or stride it is, by
its base; a destination that is not used, with lq = 1, is not looked at (DESIGN CHOICE, notes/assumptions/64.md). -/
def copyMisaligned (t : BitVec 1024) : Option Word :=
  let e : Int := cpE t
  if (cpSrc t).toNat % cpE t ≠ 0 ∨ (List.range 3).any fun d => cpSs t (d + 1) % e != 0 then
    some (cpSrc t)
  else if !cpLq t ∧ ((cpDst t).toNat % cpE t ≠ 0 ∨ (List.range 3).any fun d => cpDs t (d + 1) % e != 0)
    then some (cpDst t)
  else if cpAw t ∧ (tAwaddr t).toNat % 8 ≠ 0 then some (tAwaddr t)
  else none

/-- The elements of a row that have a source (spec/04 R70): from lo to below hi. -/
def rowBounds (t : BitVec 1024) (i1 i2 i3 : Nat) : Nat × Nat :=
  let x := fun (d : Nat) (i : Nat) => cpO t d + i
  let inB := fun (d i : Nat) => decide (0 ≤ x d i) && decide (x d i < cpB t d)
  let n := cpExt t 0
  if !cpZf t then (0, n)
  else if inB 1 i1 && inB 2 i2 && inB 3 i3 then
    let lo := min n (-(cpO t 0)).toNat
    (lo, max lo (min n (cpB t 0 - cpO t 0).toNat))
  else (0, 0)

/-- The address of the source of element i0 of a row (spec/04 R70): the exact sum modulo 2^64 (DESIGN CHOICE,
notes/assumptions/80.md). -/
def rowSrc (t : BitVec 1024) (i0 i1 i2 i3 : Nat) : Word :=
  let x0 := cpO t 0 + i0
  let off := if cpCbx t then x0 / 2 else x0 * cpE t
  cpSrc t + BitVec.ofInt 64 (off + (cpO t 1 + i1) * cpSs t 1 + (cpO t 2 + i2) * cpSs t 2
    + (cpO t 3 + i3) * cpSs t 3)

/-- The address of the destination of a row, modulo 2^64 as that of the source. -/
def rowDst (t : BitVec 1024) (i1 i2 i3 : Nat) : Word :=
  cpDst t + BitVec.ofInt 64 (i1 * cpDs t 1 + i2 * cpDs t 2 + i3 * cpDs t 3)

/-- The bytes that a row reads from its first source address. -/
def rowSrcLen (t : BitVec 1024) (lo hi : Nat) : Nat :=
  if cpCbx t then ((cpO t 0 + hi - 1) / 2 - (cpO t 0 + lo) / 2 + 1).toNat else (hi - lo) * cpE t

/-- The pages of a span longer than one page. -/
def pageCuts : Nat → Nat → Nat → Nat → List (Nat × Nat)
  | 0, _, _, _ => []
  | f + 1, va, off, n =>
    if n = 0 then []
    else
      let k := min n (65536 - (va + off) % 65536)
      (off, k) :: pageCuts f va (off + k) (n - k)

/-- A contiguous span of any length checked and translated (spec/03 R45, spec/04 R77). -/
def engineSpan (c : CtxId) (acc : Access) (va : Word) (n : Nat) (s : State) : State × Got (List Part) :=
  if n = 0 then (s, .ok [])
  else if !spanOk (coreOf c) va.toNat n then (s, .fault 7 va false)
  else
    let cut := pageCuts (n / 65536 + 2) va.toNat 0 n
    match xlateList c acc 1 (cut.map fun p => (p.1, va + BitVec.ofNat 64 p.1)) s with
    | (s, .ok l) => (s, .ok ((cut.zip l).map fun q => ⟨q.1.1, q.1.2, q.2.2⟩))
    | (s, .fault a t p) => (s, .fault a t p)
    | (s, .hold) => (s, .hold)

/-- One row of a COPY checked (spec/04 R70, R77). -/
def planRow (c : CtxId) (t : BitVec 1024) (i : Nat × Nat × Nat) (s : State) : State × Got CopyRow :=
  let (i1, i2, i3) := i
  let (lo, hi) := rowBounds t i1 i2 i3
  let dva := rowDst t i1 i2 i3
  let n := if lo < hi then rowSrcLen t lo hi else 0
  match engineSpan c .engineRead (rowSrc t lo i1 i2 i3) n s with
  | (s, .fault a v p) => (s, .fault a v p)
  | (s, .hold) => (s, .hold)
  | (s, .ok src) =>
    match engineSpan c .engineWrite dva (if cpLq t then 0 else cpExt t 0 * cpE t) s with
    | (s, .ok dst) =>
      (s, .ok { i1 := i1, lo := lo, hi := hi, odd := (cpO t 0 + lo) % 2 == 1, src := src, dva := dva
                dst := dst })
    | (s, .fault a v p) => (s, .fault a v p)
    | (s, .hold) => (s, .hold)

/-- The rows of a COPY checked in order. -/
def planRows (c : CtxId) (t : BitVec 1024) : List (Nat × Nat × Nat) → State → State × Got (List CopyRow)
  | [], s => (s, .ok [])
  | i :: rest, s =>
    match planRow c t i s with
    | (s, .fault a v p) => (s, .fault a v p)
    | (s, .hold) => (s, .hold)
    | (s, .ok r) =>
      match planRows c t rest s with
      | (s, .ok l) => (s, .ok (r :: l))
      | q => q

/-- The row indices of a COPY. -/
def rowIndices (t : BitVec 1024) : List (Nat × Nat × Nat) :=
  (List.range (cpExt t 3)).flatMap fun i3 =>
    (List.range (cpExt t 2)).flatMap fun i2 => (List.range (cpExt t 1)).map fun i1 => (i1, i2, i3)

/-- The parts of one side of a COPY lie wholly in DRAM or wholly in scratchpad (spec/04 R70). -/
def sideOk (ps : List Part) : Bool :=
  ps.all (fun p => isDram p.key) || ps.all (fun p => isSlice p.key)

/-- The sources of the rows. -/
def planSrc (rs : List CopyRow) : List Part := rs.flatMap (·.src)

/-- The destinations of the rows. -/
def planDst (rs : List CopyRow) : List Part := rs.flatMap (·.dst)

/-- Some part lies in DRAM. -/
def anyDram (ps : List Part) : Bool := ps.any fun p => isDram p.key

/-- A COPY checked at its start: its rows, or its fault (spec/04 R70, R85). Where several faults of R85 apply, an error
of the template comes first, then an alignment, then a page or a class in the order of the rows (DESIGN CHOICE,
notes/assumptions/64.md). The VA of a class fault is the first address of the span of a row, or the base of a side that mixes
classes, or of the destination where both sides are DRAM (DESIGN CHOICE, notes/assumptions/80.md). -/
def planCopy (c : CtxId) (t : BitVec 1024) (fromS : Bool) (tmpl : Word) (s : State) :
    State × Got (List CopyRow) :=
  if !copyOk t fromS then (s, .fault 10 tmpl false)
  else
    match copyMisaligned t with
    | some a => (s, .fault 3 a false)
    | none =>
      match planRows c t (rowIndices t) s with
      | (s, .ok rs) =>
        if !sideOk (planSrc rs) then (s, .fault 7 (cpSrc t) false)
        else if !sideOk (planDst rs) || (anyDram (planSrc rs) && anyDram (planDst rs)) then
          (s, .fault 7 (cpDst t) false)
        else (s, .ok rs)
      | r => r

/-- The bytes of parts, in order. -/
def partsBytes (m : List Host.Cell) (ps : List Part) : List Byte :=
  ps.flatMap fun p => memBytes m p.key p.len

/-- Entry e of a latched codebook (spec/04 R67). -/
def cbEntry (cb : BitVec 128) (e : Nat) : Byte := cb.extractLsb' (8 * e) 8

/-- The values of a row with a source, expanded through the codebook when cbx = 1 (spec/04 R70). -/
def rowValues (a : ActiveCmd) (r : CopyRow) (src : List Byte) : List Byte :=
  if cpCbx a.tmpl then
    (List.range (r.hi - r.lo)).map fun j =>
      let n := j + (if r.odd then 1 else 0)
      let b := src[n / 2]?.getD 0
      cbEntry a.codebook (if n % 2 = 0 then (b.extractLsb' 0 4).toNat else (b.extractLsb' 4 4).toNat)
  else src

/-- The bytes that a row writes: zeros outside its bounds (spec/04 R70). -/
def rowBytes (m : List Host.Cell) (a : ActiveCmd) (r : CopyRow) : List Byte :=
  let e := cpE a.tmpl
  List.replicate (r.lo * e) 0 ++ rowValues a r (partsBytes m r.src) ++
    List.replicate ((cpExt a.tmpl 0 - r.hi) * e) 0

/-! ## WINDOW -/

/-- Bytes per entry row, K steps and row blocks. -/
def wKlb (t : BitVec 1024) : Nat := tf t 448 8

/-- K steps. -/
def wNk (t : BitVec 1024) : Nat := tf t 456 8

/-- Row blocks. -/
def wNm (t : BitVec 1024) : Nat := tf t 464 8

/-- A WINDOW template is well formed and fired from L (spec/04 R72, R73, R85). -/
def windowOk (t : BitVec 1024) (fromS : Bool) : Bool :=
  !fromS && tmplZeros t && tf t 128 16 != 0 && tf t 144 16 != 0 && tf t 256 16 != 0 &&
    tf t 208 8 != 0 && tf t 216 8 != 0 && tf t 224 8 != 0 && tf t 232 8 != 0 && tf t 304 16 != 0 &&
    tf t 240 8 != 0 && tf t 248 8 != 0 && (wKlb t == 32 || wKlb t == 64) && wNk t != 0 && wNm t != 0

/-- The address that byte k of row i of entry (m, q) reads, or none where it is a structural zero
(spec/04 R73). -/
def windowAddr (t : BitVec 1024) (m q i k : Nat) : Option Word :=
  let p := tf t 320 32 + 64 * m + i
  let kk := tf t 384 32 + wKlb t * q + k
  let cpt := tf t 304 16
  let tap := kk / cpt
  let kw := tf t 208 8
  let iy : Int := (p / tf t 256 16 * tf t 232 8 : Nat) - (tf t 288 16 : Int) + (tap / kw * tf t 248 8 : Nat)
  let ix : Int := (p % tf t 256 16 * tf t 224 8 : Nat) - (tf t 272 16 : Int) + (tap % kw * tf t 240 8 : Nat)
  if k < wKlb t ∧ p < tf t 352 32 ∧ kk < tf t 416 32 ∧ tap < kw * tf t 216 8 ∧ 0 ≤ iy ∧
      iy < tf t 144 16 ∧ 0 ≤ ix ∧ ix < tf t 128 16 then
    some (cpSrc t + BitVec.ofInt 64 (iy * tf t 160 32 + ix * tf t 192 16 + (kk % cpt : Nat)))
  else none

/-- The key of a byte in a scratchpad slice. -/
def sliceByte (s : State) (c : CtxId) (va : Word) : Got Nat :=
  match classOf (coreOf c) va.toNat with
  | .slice own k off =>
    match xlateSlice s own k off va with
    | .ok key => .ok key
    | .fault a t p => .fault a t p
    | .hold => .hold
  | _ => .fault 7 va false

/-- The first of a list of addresses that does not lie in a slice that can be reached. -/
def sliceCheck (s : State) (c : CtxId) : List Word → Got Unit
  | [] => .ok ()
  | a :: as =>
    match sliceByte s c a with
    | .ok _ => sliceCheck s c as
    | .fault k t p => .fault k t p
    | .hold => .hold

/-- The addresses that entry (m, q) of a WINDOW reads. -/
def windowAddrs (t : BitVec 1024) (m q : Nat) : List Word :=
  (List.range 64).flatMap fun i => (List.range 64).filterMap fun k => windowAddr t m q i k

/-- A WINDOW checked at its start (spec/04 R72, R73, R85). -/
def planWindow (c : CtxId) (t : BitVec 1024) (fromS : Bool) (tmpl : Word) (s : State) : Got Unit :=
  if !windowOk t fromS then .fault 10 tmpl false
  else if cpAw t ∧ (tAwaddr t).toNat % 8 ≠ 0 then .fault 3 (tAwaddr t) false
  else
    match sliceByte s c (cpSrc t) with
    | .ok _ =>
      sliceCheck s c ((List.range (wNm t)).flatMap fun m =>
        (List.range (wNk t)).flatMap fun q => windowAddrs t m q)
    | .fault k a p => .fault k a p
    | .hold => .hold

/-- One byte of an entry as the window unit reads it from a memory, with its mask bit. -/
def windowByte (s : State) (m' : List Host.Cell) (c : CtxId) (t : BitVec 1024) (m q i k : Nat) : Nat × Nat :=
  match windowAddr t m q i k with
  | none => (0, 1)
  | some a =>
    match sliceByte s c a with
    | .ok key => ((memRead m' key).toNat, 0)
    | _ => (0, 0)

/-- The arrival word of a command is reached in scratchpad (spec/04 R74, R85). -/
def awCheck (s : State) (c : CtxId) (t : BitVec 1024) : Got Unit :=
  if cpAw t then
    match sliceByte s c (tAwaddr t) with
    | .ok _ => .ok ()
    | .fault k a p => .fault k a p
    | .hold => .hold
  else .ok ()

end Sys2Proof.Machine
end

