-- ==== Sys2Proof/Machine/Engine.lean ====
section
/-! DEFINITION. The copy engine, majors 0x14 and 0x35: issue into the engine queues, the start of a
command, its completion and its arrival word (spec/04 R74 to R85). -/

namespace Sys2Proof.Machine

/-! ## Issue -/

/-- The engine queue of a context that a stream feeds. -/
def engQ (x : Ctx) (st : Stream) : List EngCmd := if st = .l then x.engL else x.engS

/-- The engine queue of a stream replaced. -/
def setEngQ (st : Stream) (l : List EngCmd) (x : Ctx) : Ctx :=
  if st = .l then { x with engL := l } else { x with engS := l }

/-- s[sa] + sext(val16): the patch value, or the address of a `cbload` (spec/04 R79, R83). -/
def engVal (o : E) (sa : Word) : Word := sa + o.val.signExtend 64

/-- An engine instruction at the head of its stream (spec/04 R75, R76): it takes a place in the engine
queue and reserves one increment of kp. While it waits for a place it has not begun, and its tokens stay in their channels
(DESIGN CHOICE, notes/assumptions/80.md). -/
def performEng (st : Stream) (o : E) (c : CtxId) (e : QEntry) (s : State) : Perform :=
  let x := s.ctx c
  let k := o.kp.toNat
  if 16 ≤ (engQ x st).length then .wait s
  else if o.kp ≠ 0 ∧ 15 < x.tok.k[k] + x.tok.res[k] + 1 then .fault s 9 (BitVec.ofNat 64 k) false
  else
    let cmd : EngCmd := { instr := e.instr, val := engVal o e.a, epoch := e.epoch, pos := e.pos
                          stage := x.stage }
    .done (s.modCtx c fun x =>
      let x := if o.kp = 0 then x else bumpRes o.kp 1 x
      setEngQ st (engQ x st ++ [cmd]) x)

/-- `eset` in the L stream (spec/04 R78). -/
def execEset (o : E) (s : State) : Host.Outcome State Fault Refusal :=
  issue .l (.eset o) o.tok o.sa 0 0 (performEng .l o) s

/-- `efire` in the L stream (spec/04 R78). -/
def execEfire (o : E) (s : State) : Host.Outcome State Fault Refusal :=
  issue .l (.efire o) o.tok o.sa 0 0 (performEng .l o) s

/-- `eclr` in the L stream (spec/04 R78). -/
def execEclr (o : E) (s : State) : Host.Outcome State Fault Refusal :=
  issue .l (.eclr o) o.tok o.sa 0 0 (performEng .l o) s

/-- `cbload` in the L stream (spec/04 R78). -/
def execCbload (o : E) (s : State) : Host.Outcome State Fault Refusal :=
  issue .l (.cbload o) o.tok o.sa 0 0 (performEng .l o) s

/-- `eset.s` (spec/04 R78). -/
def execEsetS (o : E) (s : State) : Host.Outcome State Fault Refusal :=
  issue .s (.esetS o) o.tok o.sa 0 0 (performEng .s o) s

/-- `efire.s` (spec/04 R78). -/
def execEfireS (o : E) (s : State) : Host.Outcome State Fault Refusal :=
  issue .s (.efireS o) o.tok o.sa 0 0 (performEng .s o) s

/-- `eclr.s` (spec/04 R78). -/
def execEclrS (o : E) (s : State) : Host.Outcome State Fault Refusal :=
  issue .s (.eclrS o) o.tok o.sa 0 0 (performEng .s o) s

/-- `cbload.s` (spec/04 R78). -/
def execCbloadS (o : E) (s : State) : Host.Outcome State Fault Refusal :=
  issue .s (.cbloadS o) o.tok o.sa 0 0 (performEng .s o) s

/-! ## Start -/

/-- What an engine command does. -/
inductive EngKind
  | set | fire | clear | book
  deriving DecidableEq, Repr

/-- The kind and the fields of an engine instruction, and whether it came from the S stream. -/
def engFields : Instr → Option (EngKind × E × Bool)
  | .eset o => some (.set, o, false)
  | .efire o => some (.fire, o, false)
  | .eclr o => some (.clear, o, false)
  | .cbload o => some (.book, o, false)
  | .esetS o => some (.set, o, true)
  | .efireS o => some (.fire, o, true)
  | .eclrS o => some (.clear, o, true)
  | .cbloadS o => some (.book, o, true)
  | _ => none

/-- The consumed counters as they are named (spec/04 R76). -/
def engNeeds (o : E) : List (BitVec 4) := [o.ka, o.kb, o.kc].filter fun k => k != 0

/-- Each consumed counter is at least the number of times it is named (spec/04 R76). -/
def engTokens (o : E) (x : Ctx) : Bool :=
  (engNeeds o).all fun k => decide (((engNeeds o).filter fun j => j == k).length ≤ x.tok.k[k.toNat])

/-- The consumed counters decremented at the start. -/
def takeNeeds (e : Nat) (o : E) (x : Ctx) : Ctx := (engNeeds o).foldl (fun x k => bumpK e k (-1) x) x

/-- The template writes of uncommitted regions of a context (spec/04 R80). -/
def undoCount (x : Ctx) : Nat := x.reg.undo.length + ((x.older.map fun r => r.undo.length).getD 0)

/-- A `cbload` of the same queue is active (spec/04 R83). -/
def bookActive (s : State) (c : CtxId) (fromS : Bool) : Bool :=
  (s.core (coreOf c)).active.any fun a =>
    a.ctx == c && match engFields a.cmd.instr with
      | some (.book, _, t) => t == fromS
      | _ => false

/-- What the start of the head of an engine queue comes to: it cannot start yet; a fault; or the
started command, and whether it has completed with its start. -/
inductive Started
  | wait (s : State)
  | fault (s : State) (cause : Nat) (tval : Word) (pe : Bool)
  | done (s : State)
  | active (s : State) (a : ActiveCmd)
  deriving Repr

/-- The start after an address check. -/
def startWith {α : Type} (r : State × Got α) (k : State → α → Started) : Started :=
  match r with
  | (s, .ok v) => k s v
  | (s, .fault cause tval pe) => .fault s cause tval pe
  | (s, .hold) => .wait s

/-- A stored template written, with its old value kept for a discard (spec/04 R80). -/
def writeTemplate (c : CtxId) (e t : Nat) (v : BitVec 1024) (s : State) : State :=
  let old := tmplRead s.mem c t
  let s := { s with mem := memPutNat s.mem (tmplKey c t) 128 v.toNat }
  s.modCtx c (modRegion e fun r => { r with undo := (tmplKey c t, old) :: r.undo })

/-- A write of a stored template under the limit of R80: TVAL of an overrun is the number of the template (DESIGN CHOICE,
notes/assumptions/80.md). -/
def startWrite (c : CtxId) (q : EngCmd) (t : Nat) (v : BitVec 1024) (s : State) : Started :=
  if 16 ≤ undoCount (s.ctx c) then
    if q.epoch = (oldest (s.ctx c)).epoch then .fault s 8 (BitVec.ofNat 64 t) false else .wait s
  else .done (writeTemplate c q.epoch t v s)

/-- The translations that the region of a command has used. -/
def cmdUsed (c : CtxId) (q : EngCmd) (s : State) : List TlbEntry :=
  ((regionOf (s.ctx c) q.epoch).map (·.used)).getD []

/-- What the region of a command is taken to have used. -/
def setUsed (c : CtxId) (q : EngCmd) (l : List TlbEntry) (s : State) : State :=
  s.modCtx c (modRegion q.epoch fun r => { r with used := l })

/-- The command as it is kept while it is active. -/
def activeOf (c : CtxId) (q : EngCmd) (t : BitVec 1024) (cb : BitVec 128) (rows : List CopyRow)
    (s : State) : ActiveCmd :=
  { ctx := c, gen := (s.ctx c).id.gen, op := ctxOp (s.ctx c), cmd := q, tmpl := t, codebook := cb, rows := rows, pushed := 0
    dead := false, late := false, heap := (s.ctx c).heap, used := [], sample := none }

/-- A start whose command, once it is active, holds the translations that the start has used (spec/03 R60). -/
def notingUse (c : CtxId) (q : EngCmd) (f : State → Started) (s : State) : Started :=
  let before := cmdUsed c q s
  let all := fun (s : State) =>
    let now := cmdUsed c q s
    setUsed c q (now ++ before.filter fun t => !now.contains t) s
  match f (setUsed c q [] s) with
  | .active s a => .active (all s) { a with used := cmdUsed c q s }
  | .wait s => .wait (all s)
  | .fault s cause tval pe => .fault (all s) cause tval pe
  | .done s => .done (all s)

/-- `efire` at its start, with its template as patched (spec/04 R70 to R74, R81, R85). -/
def startFire (c : CtxId) (q : EngCmd) (o : E) (fromS : Bool) (t : BitVec 1024) (s : State) :
    Started :=
  let n : Word := o.tmpl.setWidth 64
  match tKind t with
  | 1 =>
    if cpCbx t && bookActive s c fromS then .wait s
    else
      startWith (planCopy c t fromS n s) fun s rows =>
        startWith (s, awCheck s c t) fun s _ =>
          .active s (activeOf c q t (BitVec.ofNat 128 (memNat s.mem (cbKey c (cpCb t)) 16)) rows s)
  | 2 =>
    startWith (s, planWindow c t fromS n s) fun s _ =>
      startWith (s, awCheck s c t) fun s _ => .active s (activeOf c q t 0 [] s)
  | _ => .fault s 10 n false

/-- `cbload` at its start (spec/04 R83, R85). -/
def startBook (c : CtxId) (q : EngCmd) (o : E) (s : State) : Started :=
  if q.val.toNat % 16 ≠ 0 then .fault s 3 q.val false
  else
    startWith (engineSpan c .engineRead q.val (16 * cbCount o) s) fun s ps =>
      if !sideOk ps then .fault s 7 q.val false
      else
        .active s (activeOf c q 0 0
          [{ i1 := 0, lo := 0, hi := 0, odd := false, src := ps, dva := 0
             dst := [⟨0, 16 * cbCount o, cbKey c (cbFirst o)⟩] }] s)

/-- The head of an engine queue at its start (spec/04 R79 to R85). It reads its template, and a COPY its codebook, whole as
they stand then, and of two commands that write the same bytes the one that completes later leaves its value (DESIGN CHOICE,
notes/assumptions/80.md). -/
def startCmd (c : CtxId) (q : EngCmd) (k : EngKind) (o : E) (fromS : Bool) (s : State) : Started :=
  let t := tmplRead s.mem c o.tmpl.toNat
  let n : Word := o.tmpl.setWidth 64
  match k with
  | .set =>
    match patched o q.val t with
    | some v => startWrite c q o.tmpl.toNat v s
    | none => .fault s 10 n false
  | .clear => startWrite c q o.tmpl.toNat 0 s
  | .book => startBook c q o s
  | .fire =>
    if o.fsel = 63 then startFire c q o fromS t s
    else
      match patched o q.val t with
      | some v => startFire c q o fromS v s
      | none => .fault s 10 n false

/-- A change of the counters of a command's context, wherever the context is: in its bank, in the frame
of its trap, or saved (spec/04 R76, spec/18 R357, R362). -/
def engTok (a : ActiveCmd) (f : Ctx → Ctx) (s : State) : State :=
  let both := fun (x : Ctx) =>
    let x := f x
    { x with trap := { x.trap with
        frame := x.trap.frame.map fun k => { k with tok := (f { x with tok := k.tok }).tok } } }
  if (s.ctx a.ctx).id.gen = a.gen then s.modCtx a.ctx both
  else s.modCore (coreOf a.ctx) fun k =>
    { k with saved := k.saved.map fun t =>
        t.map fun v => if v.bank = bankOf a.ctx ∧ v.ctx.id.gen = a.gen then
          { v with ctx := both v.ctx } else v }

/-- The reservation of a completed command becomes an increment (spec/04 R76); a command of a discarded
region gives none (R77). -/
def engProduce (a : ActiveCmd) (s : State) : State :=
  let kp := engKp a.cmd.instr
  if a.dead || kp = 0 then s
  else engTok a (fun x => bumpK a.cmd.epoch kp 1 (bumpRes kp (-1) x)) s

/-- The context and the stream of queue i of a core (spec/04 R75). -/
def engSlot (k : CoreId) (i : Fin 4) : CtxId × Stream :=
  (ctxIn k ⟨i.val / 2, by omega⟩, if i.val % 2 = 0 then .l else .s)

/-- The sluice register of an engine queue (spec/20 R385). -/
def engSluice (st : Stream) : Fin 5 := if st = .l then 3 else 4

/-- What follows a start: the counters taken, the head dequeued and the pointer moved (spec/04 R75,
R76). -/
def startTake (k : CoreId) (i : Fin 4) (q : EngCmd) (o : E) (s : State) : State :=
  let (c, st) := engSlot k i
  let s := s.modCtx c fun x =>
    dequeued (engSluice st) (takeNeeds q.epoch o (setEngQ st (engQ x st).tail x))
  s.modCore k fun x => { x with engPtr := i + 1 }

/-- The lines that the window unit reads for entry n, one access each (spec/05 R88, R89). -/
def windowLines (s : State) (a : ActiveCmd) (n : Nat) : List Nat :=
  dedup ((windowAddrs a.tmpl (n / wNk a.tmpl) (n % wNk a.tmpl)).filterMap fun va =>
    match sliceByte s a.ctx va with
    | .ok k => some (k - k % 64)
    | _ => none)

/-- The number of the request of a command at the banks of its core. -/
def cmdReq (a : ActiveCmd) : Nat := 2 * a.cmd.pos + (bankOf a.ctx).val

/-- A line access of a command of an engine. -/
def cmdUse (a : ActiveCmd) (u : BankUse) : Bool := (u.port == 4 || u.port == 6) && u.req == some (cmdReq a)

/-- The line accesses of a command that an engine presents (spec/05 R89, R90), for the context that issued it while that is in
its bank. -/
def cmdTouch (a : ActiveCmd) (port : Fin 8) (acc : BankAcc) (keys : List Nat) (s : State) : State :=
  let k := coreOf a.ctx
  let by_ := if (s.ctx a.ctx).id.gen = a.gen then some a.ctx else none
  let lines := sliceLines keys
  let us : List BankUse := (linesAt k true lines).map fun l =>
    { line := l, port := port, by_ := by_, acc := acc, req := some (cmdReq a), epoch := a.cmd.epoch }
  presentFar acc (linesAt k false lines) (presentUses k us s)

/-- The lines of a template, and of the codebook that it names, in the engine area (spec/04 R67). -/
def tmplLines (c : CtxId) (t : Nat) : List Nat := [tmplKey c t, tmplKey c t + 64]

/-- The key of the arrival word of a command (spec/04 R74). -/
def arrivalKey (s : State) (a : ActiveCmd) : Option Nat :=
  if cpAw a.tmpl then
    match sliceByte s a.ctx (tAwaddr a.tmpl) with
    | .ok key => some key
    | _ => none
  else none

/-- What a command that has started has the banks of the slice do (spec/05 R89): its template and its codebook are read;
then the lines of its source, of its destination in scratchpad and of its arrival word, or those of the first entry of a
WINDOW. -/
def presentCmd (s : State) (a : ActiveCmd) : State :=
  let word := (arrivalKey s a).toList
  match engFields a.cmd.instr with
  | some (.fire, o, _) =>
    let s := cmdTouch a 4 .read
      (tmplLines a.ctx o.tmpl.toNat ++ if cpCbx a.tmpl then [cbKey a.ctx (cpCb a.tmpl)] else []) s
    if tKind a.tmpl = 2 then cmdTouch a 4 .write word (cmdTouch a 6 .read (windowLines s a 0) s)
    else
      let s := cmdTouch a 4 .write (partLines (planDst a.rows)) (cmdTouch a 4 .read (partLines (planSrc a.rows)) s)
      if anyDram (planDst a.rows) then s else cmdTouch a 4 .write word s
  | _ => cmdTouch a 4 .write (partLines (planDst a.rows)) (cmdTouch a 4 .read (partLines (planSrc a.rows)) s)

/-- Line accesses of a command at the slice of its core are still to be granted (spec/05 R89). -/
def cmdWaits (s : State) (k : CoreId) (a : ActiveCmd) : Bool :=
  (s.core k).now.any (cmdUse a)

/-- The line accesses of a command that ends are done with. -/
def cmdServed (k : CoreId) (a : ActiveCmd) (s : State) : State :=
  s.modCore k fun x => { x with
    now := x.now.filter fun u => !cmdUse a u
    served := x.served.filter fun u => !cmdUse a u }

/-- What an `eset` or an `eclr` has the banks of the slice do: its template is read, if it is patched, and written (spec/04
R67, R79, spec/05 R89). -/
def presentSet (c : CtxId) (kind : EngKind) (o : E) (s : State) : State :=
  let lines := tmplLines c o.tmpl.toNat
  let s := if kind = .set then touchBanks c 4 .read lines s else s
  touchBanks c 4 .write lines s

/-- The head of queue i of a core tried: none when it cannot start (spec/04 R75, R76). A head whose
start finds a fault leaves it with its region. -/
def tryStart (k : CoreId) (i : Fin 4) (s : State) : Option State :=
  let (c, st) := engSlot k i
  let x := s.ctx c
  match engQ x st with
  | [] => none
  | q :: _ =>
    match engFields q.instr with
    | none => none
    | some (kind, o, fromS) =>
      if !sluiceOpen x (engSluice st) || !engTokens o x ||
          ((regionOf x q.epoch).all fun r => r.fault.isSome) then none
      else
        match notingUse c q (startCmd c q kind o fromS) (actFor c q.epoch (flushPosted c s)) with
        | .wait _ => none
        | .fault s cause tval pe => some (raiseFault c q.epoch (faultRec cause tval q.pos pe) s)
        | .done s =>
          let s := startTake k i q o s
          some (engProduce (activeOf c q 0 0 [] s) (presentSet c kind o s))
        | .active s a =>
          some (presentCmd ((startTake k i q o s).modCore k fun x => { x with active := x.active ++ [a] }) a)

/-- The first queue at or after a place whose head can start. -/
def startFrom (k : CoreId) : Nat → Fin 4 → State → State
  | 0, _, s => s
  | n + 1, i, s =>
    match tryStart k i s with
    | some s => s
    | none => startFrom k n (i + 1) s

/-- ENGINE_COMMAND_START (spec/04 R75). -/
def engineStart (k : CoreId) (s : State) : State :=
  if 8 ≤ (s.core k).active.length then s else startFrom k 4 (s.core k).engPtr s

/-! ## Data -/

/-- The addresses in scratchpad that a command still has to reach and that are no part of its rows: those of a WINDOW's
entries that it has not pushed, and its arrival word (spec/04 R73, R74). -/
def cmdAddrs (a : ActiveCmd) : List Word :=
  (if tKind a.tmpl = 2 ∧ !a.dead then
    (List.range (tmplPushes a.tmpl - a.pushed)).flatMap fun i =>
      let n := a.pushed + i
      cpSrc a.tmpl :: windowAddrs a.tmpl (n / wNk a.tmpl) (n % wNk a.tmpl)
   else []) ++ (if cpAw a.tmpl then [tAwaddr a.tmpl] else [])

/-- The arrival word of a command lies in a slice that is fenced (spec/19 R371). -/
def arrivalHeld (s : State) (a : ActiveCmd) : Bool :=
  match awCheck s a.ctx a.tmpl with
  | .hold => true
  | _ => false

/-- Memory as a command reads lines of it: each aligned 4-byte word as it stands, or as it stood when the command was
sampled (spec/15 R304). -/
def cmdView (a : ActiveCmd) (lines : List Nat) (ps : List Part) (s : State) : List Host.Cell :=
  match a.sample with
  | none => lostView s ps
  | some m => tearLines s.freeCtr 4 m lines (lostView s ps)

/-- A command of an engine reads what its source holds now, and may use it until it completes (spec/15 R304). -/
def sampleCmd (k : CoreId) (n : Nat) (s : State) : State :=
  let m := s.mem
  s.modCore k fun x => { x with active := x.active.modify n fun a => { a with sample := some m } }

/-- The byte addresses of a row's destination: address and key. -/
def destBytes (r : CopyRow) : List (Word × Nat) :=
  r.dst.flatMap fun p =>
    (List.range p.len).map fun i => (r.dva + BitVec.ofNat 64 (p.off + i), p.key + i)

/-- What a COPY writes, byte by byte, as R70 gives it. -/
def copyOuts (m : List Host.Cell) (a : ActiveCmd) : List (Word × Nat × Byte) :=
  a.rows.flatMap fun r =>
    ((destBytes r).zip (rowBytes m a r)).map fun t => (t.1.1, t.1.2, t.2)

/-- Two parts share a byte. -/
def partsMeet (p q : Part) : Bool := decide (p.key < q.key + q.len) && decide (q.key < p.key + p.len)

/-- Some two parts of a list share a byte. -/
def selfMeet : List Part → Bool
  | [] => false
  | p :: ps => ps.any (partsMeet p) || selfMeet ps

/-- A key lies in some part. -/
def inParts (k : Nat) (ps : List Part) : Bool :=
  ps.any fun p => decide (p.key ≤ k) && decide (k < p.key + p.len)

/-- A destination byte where the command reads or writes the byte otherwise as well (spec/04 R70): where
it is also read, the byte is free; where it is written more than once, any of the values may stay. -/
def clashByte (free : Nat) (src : List Part) (outs : List (Word × Nat × Byte))
    (t : Word × Nat × Byte) : Word × Nat × Byte :=
  if inParts t.2.1 src then (t.1, t.2.1, (Config.freeValue (free + t.2.1)).extractLsb' 0 8)
  else
    let vs := outs.filter fun u => u.2.1 == t.2.1
    (t.1, t.2.1, ((vs[(Config.freeValue (free + t.2.1)).toNat % vs.length]?).map (·.2.2)).getD t.2.2)

/-- What a COPY writes, with its open bytes free. -/
def settleOuts (free : Nat) (a : ActiveCmd) (outs : List (Word × Nat × Byte)) :
    List (Word × Nat × Byte) :=
  if selfMeet (planDst a.rows) || (planDst a.rows).any (fun p => (planSrc a.rows).any (partsMeet p)) then
    outs.map (clashByte free (planSrc a.rows) outs)
  else outs

/-- The bytes written to a slice. -/
def putOuts (outs : List (Word × Nat × Byte)) (s : State) : State :=
  { s with mem := outs.foldl (fun m (t : Word × Nat × Byte) => memWrite m t.2.1 t.2.2) s.mem }

/-- The lines that a COPY to DRAM enters into the weir buffer. -/
def outLines (outs : List (Word × Nat × Byte)) : List (Word × LineWrite) :=
  linesOf 1 (outs.map fun t => (t.1, t.2.1, t.2.2.toNat))

/-- The latch entry of a COPY with lq = 1 (spec/04 R70, R71): the data and the mask of its rows. -/
def latchRowBits (m : List Host.Cell) (a : ActiveCmd) (pitch : Nat) : Nat × Nat :=
  a.rows.foldl (fun (d : Nat × Nat) r =>
    let at_ := pitch * r.i1
    let bs := rowBytes m a r
    let e := cpE a.tmpl
    (d.1 + bytesAt bs * 2 ^ (8 * at_),
     d.2 + (2 ^ (r.hi * e) - 2 ^ (r.lo * e)) * 2 ^ at_)) (0, 0)
where
  /-- The little-endian number of a byte list. -/
  bytesAt : List Byte → Nat
    | [] => 0
    | b :: bs => b.toNat + 256 * bytesAt bs

/-- The entry of a COPY pushed to qa or qb. -/
def pushCopy (a : ActiveCmd) (s : State) : State :=
  let k := cpExt a.tmpl 1
  let e := a.cmd.epoch
  let src := planSrc a.rows
  let m := cmdView a (partLines src) src s
  s.bumpFree.modCtx a.ctx fun x =>
    if (cpDst a.tmpl).getLsbD 0 then
      let d := latchRowBits m a (8192 / k)
      { x with q := { x.q with qb := x.q.qb ++
          [{ data := BitVec.ofNat 65536 d.1, mask := ~~~BitVec.ofNat 8192 d.2
             scales := a.cmd.stage.b, k := k, width := 8 * cpE a.tmpl, epoch := e }] } }
    else
      let d := latchRowBits m a 64
      { x with q := { x.q with qa := x.q.qa ++
          [{ data := BitVec.ofNat 32768 d.1, mask := ~~~BitVec.ofNat 4096 d.2
             scales := a.cmd.stage.a, epoch := e }] } }

/-- Entry n of a WINDOW (spec/04 R73). -/
def windowEntry (s : State) (a : ActiveCmd) (n : Nat) : QaEntry :=
  let m := n / wNk a.tmpl
  let q := n % wNk a.tmpl
  let v := cmdView a (windowLines s a n) [] s
  let bs := (List.range 64).flatMap fun i => (List.range 64).map fun k =>
    windowByte s v a.ctx a.tmpl m q i k
  { data := BitVec.ofNat 32768 (packFields 8 (bs.map (·.1)))
    mask := BitVec.ofNat 4096 (packFields 1 (bs.map (·.2)))
    scales := a.cmd.stage.a, epoch := a.cmd.epoch }

/-- The command pushes latch entries. -/
def pushes (a : ActiveCmd) : Bool := decide (0 < tmplPushes a.tmpl)

/-- The next entry of a pushing command placed, when its turn has come and a slot is free (spec/04 R71,
R73, spec/06 R109); the window unit goes on with the lines of the entry after it. -/
def pushNext (a : ActiveCmd) (s : State) : Option State :=
  match fillsTo a with
  | none => none
  | some b =>
    if pusherBefore s a.ctx b a.cmd.pos || !latchRoom (s.ctx a.ctx) b then none
    else if tKind a.tmpl = 2 then
      let s' := s.bumpFree.modCtx a.ctx fun x =>
        { x with q := { x.q with qa := x.q.qa ++ [windowEntry s a a.pushed] } }
      some (if a.pushed + 1 < tmplPushes a.tmpl then cmdTouch a 6 .read (windowLines s a (a.pushed + 1)) s' else s')
    else some (pushCopy a s)

/-! ## Completion -/

/-- Active command n of a core changed. -/
def setActive (k : CoreId) (n : Nat) (a : ActiveCmd) (s : State) : State :=
  s.modCore k fun x => { x with active := x.active.set n a }

/-- Active command n of a core gone. -/
def endActive (k : CoreId) (n : Nat) (s : State) : State :=
  s.modCore k fun x => { x with active := x.active.eraseIdx n }

/-- The arrival word of a command whose payload is in place, or is dropped (spec/04 R74, R77). -/
def arrive (a : ActiveCmd) (lines : List Nat) (s : State) : State :=
  if !cpAw a.tmpl then s
  else
    match sliceByte s a.ctx (tAwaddr a.tmpl) with
    | .ok key =>
      if lines.isEmpty then { s with mem := memPutNat s.mem key 8 (tAwval a.tmpl).toNat }
      else if a.dead then s
      else s.modCore (coreOf a.ctx) fun x =>
        { x with arrivals := x.arrivals ++
            [{ ctx := a.ctx, gen := a.gen, op := a.op, epoch := a.cmd.epoch, lines := lines, addr := key
               val := tAwval a.tmpl }] }
    | _ => s

/-- A command completes (spec/04 R76). -/
def finish (k : CoreId) (n : Nat) (a : ActiveCmd) (s : State) : State :=
  endActive k n (engProduce a (cmdServed k a s))

/-- Late lines placed while the reserve or the pool has room (spec/04 R77, spec/11 R213): how many, and
the state. -/
def placeLate (c : CtxId) (e : Nat) (run : LineRun) :
    List (Word × LineWrite) → State → Nat × State
  | [], s => (0, s)
  | l :: ls, s =>
    let h := s.half (halfOf c)
    if poolUsed h + poolNeed h c 1 ≤ 32768 then
      let r := placeLate c e run ls (weirPlace c e true run [l] s)
      (r.1 + 1, r.2)
    else (0, s)

/-- The lines of a command. -/
def cmdRun (a : ActiveCmd) : LineRun := { gen := a.gen, op := a.op, heap := a.heap, used := a.used }

/-- A COPY to DRAM places its payload (spec/04 R76, R77, spec/11 R212, R213). -/
def completeDram (k : CoreId) (n : Nat) (a : ActiveCmd) (outs : List (Word × Nat × Byte)) (s : State) :
    State :=
  let c := a.ctx
  let ls := outLines outs
  let lines := ls.map fun l => l.2.line
  if a.dead then finish k n a s
  else if a.late then
    let r := placeLate c a.cmd.epoch (cmdRun a) (ls.drop a.pushed) (bumpSeq c s)
    let a := { a with pushed := a.pushed + r.1 }
    if a.pushed < ls.length then setActive k n a r.2 else finish k n a (arrive a lines r.2)
  else
    match weirRoom s c a.cmd.epoch (newLines s c a.cmd.epoch ls) with
    | .wait => s
    | .overrun =>
      raiseFault c a.cmd.epoch (faultRec 8 ((ls.map (·.1)).headD 0) a.cmd.pos false) s
    | .steal c' e' => discard c' e' s
    | .ok =>
      finish k n a (arrive a lines (weirPlace c a.cmd.epoch false (cmdRun a) ls (bumpSeq c s)))

/-- A COPY or a `cbload` moves its data (spec/04 R70, R76, R83). -/
def completeMove (k : CoreId) (n : Nat) (a : ActiveCmd) (s : State) : State :=
  let s := flushPosted a.ctx s
  match engFields a.cmd.instr with
  | some (.book, _, _) =>
    let src := planSrc a.rows
    let m := cmdView a (partLines src) src s
    let at_ := a.rows.flatMap destBytes
    finish k n a (putOuts ((at_.zip (partsBytes m src)).map fun t => (t.1.1, t.1.2, t.2)) s.bumpFree)
  | _ =>
    let src := planSrc a.rows
    let outs := settleOuts s.freeCtr a (copyOuts (cmdView a (partLines src) src s) a)
    let s := s.bumpFree
    if anyDram (planDst a.rows) then completeDram k n a outs s
    else
      let s := s.modCtx a.ctx (noteSent a.cmd.epoch ((outLines outs).map (·.2)))
      finish k n a (arrive a [] (putOuts outs s))

/-- A byte that the command still has to reach lies in a half that has been struck (spec/19 R369). -/
def cmdStruck (s : State) (a : ActiveCmd) : Bool :=
  (planSrc a.rows ++ planDst a.rows).any (fun p => struckAt s p.key) ||
    (cmdAddrs a).any fun va => ((sliceHalf a.ctx va).any fun h => (s.half h).struck)

/-- A slice byte of a half. -/
def sliceInHalf (f : HalfId) (k : Nat) : Bool := isSlice k && decide (sliceCore k / 32 = f.val)

/-- A started command has requests under way to the slices of a half: by its rows, or by the entries of a WINDOW; its
arrival word follows them. -/
def cmdInHalf (f : HalfId) (a : ActiveCmd) : Bool :=
  a.rows.any (fun r => (r.src ++ r.dst).any fun p => sliceInHalf f p.key) ||
    (tKind a.tmpl == 2 && (cmdAddrs { a with tmpl := a.tmpl &&& ~~~(1#1024 <<< 12) }).any fun va =>
      sliceHalf a.ctx va == some f)

/-- A command waits for data in the slices of the half that is fenced (spec/19 R371). -/
def cmdFenced (s : State) (a : ActiveCmd) : Bool := s.dev.fo.fenced.any fun f => cmdInHalf f a

/-- A WINDOW that started earlier on the core of an active command has not completed: the window unit executes one
command at a time, in the order in which they start (spec/06 R127). -/
def windowBusy (s : State) (k : CoreId) (n : Nat) (a : ActiveCmd) : Bool :=
  tKind a.tmpl == 2 && ((s.core k).active.take n).any fun b => tKind b.tmpl == 2

/-- Data of a command that cannot be had, at an address (spec/04 R77): a fault of the region, or, once it has committed, the
abort of the operator. -/
def cmdLost (k : CoreId) (n : Nat) (a : ActiveCmd) (va : Word) (s : State) : State :=
  if a.dead then finish k n a s
  else if a.late then
    let s := endActive k n (cmdServed k a s)
    (a.op.map fun id => abortUnc id (halfOfCore k) s).getD s
  else raiseFault a.ctx a.cmd.epoch (faultRec 11 va a.cmd.pos false) s

/-- ENGINE_COMMAND_COMPLETE: an active command places an entry, moves its data or completes (spec/04 R71
to R77), once the banks of the slice have granted its line accesses (spec/05 R89). -/
def engineComplete (k : CoreId) (n : Nat) (s : State) : State :=
  match (s.core k).active[n]? with
  | none => s
  | some a =>
    if cmdStruck s a then cmdLost k n a (cpSrc a.tmpl) s
    else if windowBusy s k n a || cmdFenced s a || arrivalHeld s a || cmdWaits s k a then s
    else if !pushes a then completeMove k n a s
    else if a.dead then finish k n a (arrive a [] s)
    else
      match pushNext a s with
      | none => s
      | some s =>
        let a := { a with pushed := a.pushed + 1 }
        if a.pushed < tmplPushes a.tmpl then setActive k n a s
        else finish k n a (arrive a [] s)

/-- ARRIVAL_WORD_WRITE: the arrival word of a COPY to DRAM, once its payload has drained (spec/04
R74). -/
def arrivalWrite (k : CoreId) (n : Nat) (s : State) : State :=
  match (s.core k).arrivals[n]? with
  | none => s
  | some d =>
    if struckAt s d.addr then
      lostWrite d.ctx (decide ((s.ctx d.ctx).id.gen = d.gen)) d.op 0
        (s.modCore k fun x => { x with arrivals := x.arrivals.eraseIdx n })
    else if homeShut s d.addr || (s.half (halfOf d.ctx)).weir.any fun w =>
        w.ctx == d.ctx && w.epoch == d.epoch && d.lines.contains w.w.line then s
    else
      let by_ := if (s.ctx d.ctx).id.gen = d.gen then some d.ctx else none
      (presentKeys k by_ 4 .write [d.addr] { s with mem := memPutNat s.mem d.addr 8 d.val.toNat }).modCore k fun x =>
        { x with arrivals := x.arrivals.eraseIdx n }

/-- The clock of the cascade of a core is held: no command starts and none completes (spec/18 R364). -/
def coreHeld (s : State) (k : CoreId) : Bool := (s.casc (cascOfCore k)).hold

/-- ENGINE_COMMAND_START as a step of the part. -/
def execEngineCommandStart (k : CoreId) (s : State) : Host.Outcome State Fault Refusal :=
  .next (if coreHeld s k then s else engineStart k s)

/-- ENGINE_COMMAND_COMPLETE as a step of the part. -/
def execEngineCommandComplete (k : CoreId) (n : Nat) (s : State) : Host.Outcome State Fault Refusal :=
  .next (if coreHeld s k then s else engineComplete k n s)

/-- ARRIVAL_WORD_WRITE as a step of the part. -/
def execArrivalWordWrite (k : CoreId) (n : Nat) (s : State) : Host.Outcome State Fault Refusal :=
  .next (if coreHeld s k then s else arrivalWrite k n s)

end Sys2Proof.Machine
end

