-- ==== Sys2Proof/Machine/Matrix.lean ====
section
/-! DEFINITION. The matrix engine, major 0x26: the lease, the accumulator slots and the MAT
instructions (spec/10 R186 to R206). -/

namespace Sys2Proof.Machine

/-! ## Tiles, slots and the lease -/

/-- The number of a tile operand: z0 to z3, then zt0 and zt1. -/
def tileNo : ZOp → Nat
  | .z n => n.val
  | .zt n => 4 + n.val
  | .rsv n => n.val

/-- The slot that a tile holds (spec/10 R190, R196). -/
def slotOf (x : Ctx) (t : Nat) : Option Nat :=
  if t < 4 then x.mat.map[t]?.getD none else x.mat.trapMap[t - 4]?.getD none

/-- The values of a tile (spec/10 R189, R196). -/
def tileOf (s : State) (c : CtxId) (t : Nat) : Tile :=
  match slotOf (s.ctx c) t with
  | some i => ((s.core (coreOf c)).slots[i]?.getD none).getD Tile.zero
  | none => Tile.zero

/-- A write of the tile needs no slot: the region has written it, or it is a trap tile that holds
one (spec/10 R190, R196). -/
def hasSlot (x : Ctx) (e t : Nat) : Bool :=
  if t < 4 then (regionOf x e).any fun r => r.tiles.any fun p => p.1.val == t
  else (slotOf x t).isSome

/-- The map entry of a tile set by a region's first write (spec/10 R190). -/
def mapTile (e t slot : Nat) (x : Ctx) : Ctx :=
  if t < 4 then
    let k : Fin 4 := Fin.ofNat 4 t
    let old := x.mat.map[k.val]
    modRegion e (fun r => { r with tiles := r.tiles ++ [(k, old)] })
      { x with mat := { x.mat with map := x.mat.map.set k.val (some slot) } }
  else
    let k : Fin 2 := Fin.ofNat 2 (t - 4)
    { x with mat := { x.mat with trapMap := x.mat.trapMap.set k.val (some slot) } }

/-- A free slot of a core. -/
def freeSlotOf (k : Core) : Option Nat := k.slots.toList.findIdx? fun t => t.isNone

/-- A context whose younger region holds a slot (spec/10 R192). -/
def youngHolds (s : State) (c : CtxId) : Bool :=
  let x := s.ctx c
  x.older.isSome && !x.reg.tiles.isEmpty

/-- A first write that finds no free slot: it waits, and in an oldest region the engine discards a
younger region that holds one, the other bank's first (spec/10 R192). -/
def slotWait (c : CtxId) (e : Nat) (s : State) : State :=
  let c' := ctxIn (coreOf c) (1 - bankOf c)
  if e ≠ (oldest (s.ctx c)).epoch then s
  else if youngHolds s c' then discard c' (s.ctx c').reg.epoch s
  else if youngHolds s c then discard c (s.ctx c).reg.epoch s
  else s

/-- A slot of a core written. -/
def setSlot (k : CoreId) (i : Nat) (t : Tile) (s : State) : State :=
  s.modCore k fun x => { x with slots := x.slots.setIfInBounds i (some t) }

/-- The slot for a write of a region to a tile, with the tile's old values in it (spec/10 R190,
R191). -/
def takeSlot (c : CtxId) (e t : Nat) (s : State) : Option (Nat × State) :=
  let x := s.ctx c
  if hasSlot x e t then (slotOf x t).map fun i => (i, s)
  else
    match freeSlotOf (s.core (coreOf c)) with
    | none => none
    | some i =>
      let old := tileOf s c t
      some (i, setSlot (coreOf c) i old (s.modCtx c (mapTile e t i)))

/-- An `mma` of the context is in its K steps on the tile. -/
def tileBusy (s : State) (c : CtxId) (t : Nat) : Bool :=
  (s.core (coreOf c)).mmaRun.any fun m => m.ctx == c && m.tile == t

/-- A MAT instruction has begun under the lease, which ends with the sixty-fourth (spec/10 R194, R195). -/
def useLease (c : CtxId) (s : State) : State :=
  let s := s.modCore (coreOf c) fun k => { k with used := k.used + 1 }
  if 64 ≤ (s.core (coreOf c)).used then endLease c s else s

/-- A MAT instruction that holds the lease goes on. -/
def withLease (c : CtxId) (s : State) (k : State → Perform) : Perform :=
  match takeLease c s with
  | (false, s) => .wait s
  | (true, s) => k s

/-! ## mma -/

/-- The step count of a tile set when an `mma` has completed (spec/10 R202). -/
def setSteps (e t n : Nat) (x : Ctx) : Ctx :=
  let x := keepC e x
  { x with mat := { x.mat with steps := x.mat.steps.setIfInBounds t n } }

/-- The operand entries popped but for those that ka and kb keep (spec/10 R188). -/
def popLatches (o : MX) (x : Ctx) : Ctx :=
  { x with q := { x.q with
      qa := if o.flags.getLsbD 5 then x.q.qa else x.q.qa.tail
      qb := if o.flags.getLsbD 6 then x.q.qb else x.q.qb.tail } }

/-- The step count of an `mma` as the younger region finds it, when that began before the `mma` completed (spec/10
R202, spec/13 R256). -/
def stepsAt (e t n : Nat) (x : Ctx) : Ctx :=
  if e < x.reg.epoch then
    modRegion x.reg.epoch (fun r =>
      { r with cIn := r.cIn.map fun k => { k with steps := k.steps.setIfInBounds t n } }) x
  else x

/-- What the completion of an `mma` leaves: the entries popped, its step count, and its checksum
comparison due (spec/10 R193, R199). -/
def mmaFinish (m : MmaRun) (new : Tile) (s : State) : State :=
  let s := setSlot (coreOf m.ctx) m.slot new s
  let s := s.modCtx m.ctx fun x =>
    stepsAt m.epoch m.tile (shapeK m.op) (setSteps m.epoch m.tile (shapeK m.op) (popLatches m.op x))
  s.modCore (coreOf m.ctx) fun k =>
    { k with
      mmaRun := none
      checks := k.checks ++ [{ ctx := m.ctx, epoch := m.epoch
                               due := { op := m.op, a := m.a, b := m.b, old := m.base, new := new
                                        slot := m.slot } }] }

/-- An `mma` that begins with its operands, its slot and the lease: in a lagging stream it enters its
K steps, otherwise it runs through them (spec/10 R187, R199). -/
def mmaBegin (c : CtxId) (o : MX) (e : QEntry) (a : QaEntry) (b : QbEntry) (slot : Nat) (s : State) :
    Perform :=
  let s := (useLease c s).modCtx c (keepC e.epoch)
  let t := tileNo o.z
  let m : MmaRun := { ctx := c, op := o, tile := t, slot := slot, a := a, b := b
                      base := tileOf s c t, step := 0, epoch := e.epoch, pos := e.pos }
  if s.lag then .begun (s.modCore (coreOf c) fun k => { k with mmaRun := some m })
  else .done (mmaFinish m (mmaGroups o a b m.base (groupCount o)) s)

/-- The checks of the latch entries of an `mma` and its wait for them: for entries of its own region (spec/06 R108,
R110, spec/10 R188). When both heads are of a later region the fault names qa (DESIGN CHOICE,
notes/assumptions/65.md). -/
def mmaOperands (c : CtxId) (o : MX) (e : QEntry) (s : State)
    (k : QaEntry → QbEntry → Perform) : Perform :=
  let x := s.ctx c
  match x.q.qa.head?, x.q.qb.head? with
  | some a, some b =>
    if e.epoch < a.epoch then .fault s 8 52 false
    else if e.epoch < b.epoch then .fault s 8 53 false
    else if a.epoch < e.epoch ∨ b.epoch < e.epoch then .wait s
    else if b.k ≠ shapeK o then .fault s 10 (BitVec.ofNat 64 b.k) false
    else k a b
  | some a, none => if e.epoch < a.epoch then .fault s 8 52 false else .wait s
  | none, some b => if e.epoch < b.epoch then .fault s 8 53 false else .wait s
  | none, none => .wait s

/-- `mma` at the head of the C stream (spec/10 R187 to R199): while the array is busy it waits for that, and looks at the
heads of the latch queues, which an `mma` before it may still pop, only then. -/
def performMma (o : MX) (c : CtxId) (e : QEntry) (s : State) : Perform :=
  withLease c s fun s =>
    if (s.core (coreOf c)).mmaRun.isSome then .wait s
    else
      mmaOperands c o e s fun a b =>
        match takeSlot c e.epoch (tileNo o.z) s with
        | none => .wait (slotWait c e.epoch s)
        | some (i, s) => mmaBegin c o e a b i s

/-- One K step of the `mma` in the array (spec/10 R199): with the last one it completes, once the
channels that it signals have room. -/
def mmaTurn (k : CoreId) (s : State) : State :=
  match (s.core k).mmaRun with
  | none => s
  | some m =>
    let x := s.ctx m.ctx
    let now := ((s.core k).slots[m.slot]?.getD none).getD Tile.zero
    let new := mmaStep m.op m.a m.b m.step now
    if m.step + 1 < groupCount m.op then
      (setSlot k m.slot new s).modCore k fun k =>
        { k with mmaRun := some { m with step := m.step + 1 } }
    else if !tokRoom x .c m.op.tok then s
    else
      (mmaFinish m new s).modCtx m.ctx (tokGive m.epoch .c m.op.tok)

/-! ## The other MAT instructions -/

/-- A MAT instruction that writes a tile: it waits for an `mma` on the tile, takes a slot, pops what it
has read from a queue, and writes the tile that f gives (spec/10 R190, R204). -/
def tileWrite (c : CtxId) (o : MX) (e : QEntry) (q : Queues) (f : Tile → Tile) (s : State) : Perform :=
  let t := tileNo o.z
  if tileBusy s c t then .wait s
  else
    match takeSlot c e.epoch t s with
    | none => .wait (slotWait c e.epoch s)
    | some (i, s) =>
      .done ((setSlot (coreOf c) i (f (tileOf s c t)) (useLease c s)).modCtx c fun x =>
        { x with q := q })

/-- `mzero` (spec/10 R200). -/
def performMzero (o : MX) (c : CtxId) (e : QEntry) (s : State) : Perform :=
  withLease c s fun s => tileWrite c o e (s.ctx c).q (fun _ => Tile.zero) s

/-- The source registers of `mwr` (spec/10 R198, R201). -/
def mwrSource (o : MX) (e : QEntry) (x : Ctx) : Taken (Nat → VReg) :=
  if matRows o = 1 then
    match takeSrc e o.v x with
    | .ok v x => .ok (fun _ => v) x
    | .empty => .empty
    | .later k => .later k
  else .ok (readGroup e o.v x) x

/-- `mwr` (spec/10 R201). -/
def performMwr (o : MX) (c : CtxId) (e : QEntry) (s : State) : Perform :=
  withLease c s fun s =>
    match mwrSource o e (s.ctx c) with
    | .empty => .wait s
    | .later k => .fault s 8 (BitVec.ofNat 64 k) false
    | .ok v x => tileWrite c o e x.q (mwrTile (matFirst o) (matRows o) v) s

/-- Registers written to a destination group, or pushed as one entry (spec/10 R198). -/
def putGroup (e : QEntry) (code : BitVec 6) (n : Nat) (f : Nat → VReg) (x : Ctx) : Ctx :=
  if n = 1 then putDst e code (f 0) x else writeGroup e code f n x

/-- The k positions of the youngest older `mma` on the tile that the values read hold (spec/10
R202). -/
def stepCount (s : State) (c : CtxId) (t : Nat) : Nat :=
  match (s.core (coreOf c)).mmaRun with
  | some m =>
    if m.ctx = c ∧ m.tile = t then m.step * groupG m.op
    else (s.ctx c).mat.steps[t]?.getD 0
  | none => (s.ctx c).mat.steps[t]?.getD 0

/-- What `mrd` writes beside its rows: the marks, and the step count (spec/10 R202). -/
def mrdRest (o : MX) (e : QEntry) (t : Tile) (count : Nat) (x : Ctx) : Ctx :=
  let x := if o.v2 = 0 then x else putPred e o.v2 (mrdMarks (matFirst o) (matRows o) t) x
  writeS o.sd (BitVec.ofNat 64 count) x

/-- The registers that `mrd` reads out of a tile (spec/10 R202). -/
def mrdReg (o : MX) (t : Tile) (r : Nat) : VReg :=
  if o.flags.getLsbD 1 then mrdSide t else t.row (matFirst o + r)

/-- `mrd` (spec/10 R202). -/
def performMrd (o : MX) (c : CtxId) (e : QEntry) (s : State) : Perform :=
  withLease c s fun s =>
    if !dstRoom o.v (s.ctx c) then .wait s
    else
      let t := tileOf s c (tileNo o.z)
      let n := stepCount s c (tileNo o.z)
      .done ((useLease c s).modCtx c fun x =>
        mrdRest o e t n (putGroup e o.v (matRows o) (mrdReg o t) x))

/-- Register r of a drain (spec/10 R203). -/
def drainOut (o : MX) (e : QEntry) (t : Tile) (x : Ctx) (r : Nat) : VReg :=
  if o.flags.getLsbD 4 then
    drainReg o.aty (matFirst o) (matRows o) t (readGroup e o.v2 x 0) (readGroup e o.v2 x 1) r
  else t.row (matFirst o + r)

/-- `mdrain` (spec/10 R203). -/
def performMdrain (o : MX) (c : CtxId) (e : QEntry) (s : State) : Perform :=
  withLease c s fun s =>
    if tileBusy s c (tileNo o.z) || !dstRoom o.v (s.ctx c) then .wait s
    else
      let t := tileOf s c (tileNo o.z)
      .done ((useLease c s).modCtx c fun x =>
        putGroup e o.v (drainRegs o) (drainOut o e t x) x)

/-- `mma` (spec/10 R199). -/
def execMma (o : MX) (s : State) : Host.Outcome State Fault Refusal :=
  withLevel (.mma o) s (issue .c (.mma o) o.tok 0 0 0 (performMma o) s)

/-- `mzero` (spec/10 R200). -/
def execMzero (o : MX) (s : State) : Host.Outcome State Fault Refusal :=
  withLevel (.mzero o) s (issue .c (.mzero o) o.tok 0 0 0 (performMzero o) s)

/-- `mwr` (spec/10 R201). -/
def execMwr (o : MX) (s : State) : Host.Outcome State Fault Refusal :=
  withLevel (.mwr o) s (issue .c (.mwr o) o.tok 0 0 0 (performMwr o) s)

/-- `mrd` (spec/10 R202): the step count is written when it completes. -/
def execMrd (o : MX) (s : State) : Host.Outcome State Fault Refusal :=
  withLevel (.mrd o) s (if busyS s.me o.sd then .next s
    else issue .c (.mrd o) o.tok 0 0 0 (performMrd o) s)

/-- `mdrain` (spec/10 R203). -/
def execMdrain (o : MX) (s : State) : Host.Outcome State Fault Refusal :=
  withLevel (.mdrain o) s (issue .c (.mdrain o) o.tok 0 0 0 (performMdrain o) s)

end Sys2Proof.Machine
end

