-- ==== Sys2Proof/Machine/Objects.lean ====
section
/-! DEFINITION. Synchronisation objects: records and their checks, claims, waiting at a home, and the
clamp of TIME (spec/14 R274 to R281, R295, spec/15 R298, R299, R308). -/

namespace Sys2Proof.Machine

/-! ## Records -/

/-- A record as its home holds it (spec/14 R274). -/
structure ObjRec where
  hdr : Word
  base : Word
  len : Word
  w0 : Word
  w1 : Word
  w2 : Word
  w3 : Word
  deriving DecidableEq, Repr

/-- The record at a key. -/
def objRead (m : List Host.Cell) (k : Nat) : ObjRec :=
  { hdr := memWord m k, base := memWord m (k + 8), len := memWord m (k + 0x10)
    w0 := memWord m (k + 0x18), w1 := memWord m (k + 0x20), w2 := memWord m (k + 0x28)
    w3 := memWord m (k + 0x30) }

/-- The kinds of records (spec/14 R274). -/
inductive ObjKind
  | lock | ring | arrival | timeline | join
  deriving DecidableEq, Repr

/-- The code of a kind. -/
def kindCode : ObjKind → Nat
  | .lock => 1 | .ring => 2 | .arrival => 3 | .timeline => 4 | .join => 5

/-- xh of a ring. -/
def ObjRec.xh (r : ObjRec) : Bool := r.hdr.getLsbD 4

/-- tin of a ring. -/
def ObjRec.tin (r : ObjRec) : Bool := r.hdr.getLsbD 5

/-- lgn of a ring. -/
def ObjRec.lgn (r : ObjRec) : Nat := (r.hdr.extractLsb' 8 5).toNat

/-- The slot count of a ring. -/
def ObjRec.slots (r : ObjRec) : Nat := 2 ^ r.lgn

/-- The words that a kind requires to be zero, and the header fields of rings (spec/14 R274, R275). -/
def recZeros (k : ObjKind) (r : ObjRec) : Bool :=
  r.hdr.extractLsb' 6 2 == 0 && r.hdr.extractLsb' 13 51 == 0 && r.len.extractLsb' 48 16 == 0 &&
  match k with
  | .ring => true
  | .lock => r.hdr.extractLsb' 4 9 == 0 && r.w0.extractLsb' 39 24 == 0 && r.w1 == 0 && r.w2 == 0 &&
      r.w3 == 0
  | .arrival => r.hdr.extractLsb' 4 9 == 0 && r.w1 == 0 && r.w2 == 0 && r.w3 == 0
  | .timeline => r.hdr.extractLsb' 4 9 == 0 && r.w1.extractLsb' 6 57 == 0 && r.w2 == 0 && r.w3 == 0
  | .join => r.hdr.extractLsb' 4 9 == 0 && r.w2 == 0 && r.w3 == 0

/-- lgn and the slot size of a ring (spec/14 R275). -/
def ringShape (r : ObjRec) : Bool :=
  decide (r.lgn ≤ 16) && decide (0 < r.len.toNat) && decide (r.len.toNat % r.slots = 0) &&
    decide (r.len.toNat / r.slots % 64 = 0)

/-- The record lies in a folded slice, by whatever address it is reached, so that a ring in it is local (spec/19 R372,
R374): once a half's window is folded, every slice that an address names is one of the other half. -/
def foldedRec (s : State) (c : CtxId) (va : Word) : Bool := s.dev.fo.fold.isSome && (sliceHalf c va).isSome

/-- What an instruction is to a ring. -/
inductive Side
  | producer | consumer | none
  deriving DecidableEq, Repr

/-- The conditions on records that lie in the other half (spec/14 R276, spec/19 R374). -/
def crossOk (s : State) (c : CtxId) (k : ObjKind) (side : Side) (va : Word) (r : ObjRec) : Bool :=
  let h := sliceHalf c va
  if k == .ring && r.xh && !foldedRec s c va then
    h.isSome && sliceHalf c r.base == h && sliceHalf c (r.base + r.len - 1) == h &&
      match side with
      | .consumer => h == some (halfOf c)
      | .producer => h != some (halfOf c)
      | .none => true
  else h == none || h == some (halfOf c) || foldedRec s c va

/-- The checks of a record for an instruction (spec/14 R295). -/
def recOk (s : State) (c : CtxId) (k : ObjKind) (side : Side) (va : Word) (r : ObjRec) : Bool :=
  decide ((r.hdr.extractLsb' 0 4).toNat = kindCode k) && recZeros k r &&
    (k != .ring || ringShape r) && (side != .producer || !r.tin) && crossOk s c k side va r

/-- The cause of a page fault on an object: 4 in the L stream, 5 in the S stream (spec/14 R295). -/
def syncCause (st : Stream) (cause : Nat) : Nat :=
  if isPageFault cause then (if st = .l then 4 else 5) else cause

/-- An address of n bytes that an object or task instruction uses: aligned, and in scratchpad or DRAM
(spec/14 R295). -/
def syncXlate (c : CtxId) (st : Stream) (acc : Access) (n : Nat) (va : Word) (s : State) :
    State × Got Nat :=
  match xlateList c acc n [(0, va)] s with
  | (s, .ok ((_, k) :: _)) => if isHost k then (s, .fault 7 va false) else (s, .ok k)
  | (s, .ok []) => (s, .hold)
  | (s, .fault a t p) => (s, .fault (syncCause st a) t p)
  | (s, .hold) => (s, .hold)

/-- A record reached and checked (spec/14 R276, R295). -/
def withRec (c : CtxId) (st : Stream) (k : ObjKind) (side : Side) (va : Word) (s : State)
    (f : State → Nat → ObjRec → Perform) : Perform :=
  withGot (syncXlate c st .atomic 64 va s) fun s key =>
    let r := objRead s.mem key
    if recOk s c k side va r then f s key r else .fault s 10 va false

/-! ## Claims -/

/-- A claim of an earlier run that the region's next claiming instruction receives (spec/14 R281). -/
def nextClaim (x : Ctx) (e : Nat) (kind : ClaimKind) (key : Nat) : Option Claim :=
  let n := ((regionOf x e).map (·.claims)).getD 0
  match (x.sync.claims.filter fun k => k.epoch == e)[n]? with
  | some k => if k.received || k.kind ≠ kind || k.key ≠ key then none else some k
  | none => none

/-- The region has executed one more claiming instruction. -/
def countClaim (e : Nat) (x : Ctx) : Ctx :=
  modRegion e (fun r => { r with claims := r.claims + 1 }) x

/-- The listed claim is received. -/
def receiveClaim (e : Nat) (k : Claim) (x : Ctx) : Ctx :=
  countClaim e { x with sync := { x.sync with
    claims := x.sync.claims.map fun t => if t = k then { t with received := true } else t } }

/-- The key under which the timeline of a queue records its releases. -/
def tlKey (q : QueueId) : Nat := 2 ^ 70 + q.val

/-- A new claim of a region. -/
def newClaim (e : Nat) (kind : ClaimKind) (key val : Nat) (x : Ctx) : Ctx :=
  countClaim e { x with sync := { x.sync with
    claims := x.sync.claims ++ [{ kind := kind, key := key, val := val, epoch := e
                                  received := true, ending := false, gen := x.id.gen }] } }

/-- The claim list has no room for one more (spec/14 R281). -/
def claimsFull (x : Ctx) : Bool := decide (16 ≤ x.sync.claims.length)

/-- The oldest claim of a kind on a record that no effect ends yet (spec/14 R286). -/
def openClaim (x : Ctx) (kind : ClaimKind) (key : Nat) : Option Claim :=
  x.sync.claims.find? fun k => k.kind == kind && k.key == key && !k.ending

/-- A claim that an effect on its way will end. -/
def markEnding (k : Claim) (x : Ctx) : Ctx :=
  { x with sync := { x.sync with
      claims := x.sync.claims.map fun t => if t = k then { t with ending := true } else t } }

/-! ## Scopes and the clamp of TIME -/

/-- The agents of scope n of a context include another context (spec/15 R298). -/
def inScope (n : Nat) (c c' : CtxId) : Bool :=
  match n with
  | 0 => c == c'
  | 1 => coreOf c == coreOf c'
  | 2 => cascOf c == cascOf c'
  | 3 => halfOf c == halfOf c'
  | _ => true

/-- A release and an acquire synchronise (spec/15 R298, R299): operations of turnouts and command processors count as
system scope, and the scope of a half includes its own. -/
def synchronises (t : Stamp) (scope : Nat) (c : CtxId) : Bool :=
  match t.by_ with
  | .ctx p => inScope t.scope p c && inScope scope c p
  | .half h => decide (4 ≤ scope) || (decide (scope = 3) && h == halfOf c)

/-- The clamp of a context after an acquire of a record (spec/15 R308). -/
def raiseClamp (c : CtxId) (key scope : Nat) (s : State) : State :=
  let t := s.stamps.foldl (fun (m : Nat) t =>
    if t.key = key ∧ synchronises t scope c then max m t.time.toNat else m) 0
  s.modCtx c fun x =>
    { x with cnt := { x.cnt with clamp := if x.cnt.clamp.toNat < t then BitVec.ofNat 64 t
                                          else x.cnt.clamp } }

/-- A release recorded at the home of its record (spec/15 R308). -/
def stampRelease (key : Nat) (p : Releaser) (scope : Nat) (time : Word) (s : State) : State :=
  { s with stamps := ⟨key, p, scope, time⟩ ::
      s.stamps.filter fun t => !(t.key == key && t.by_ == p && t.scope == scope) }

/-! ## Waiting -/

/-- The home of a key: a slice, or the memory-side buffer of a half (spec/14 R276). -/
def sameHome (s : State) (k k' : Nat) : Bool :=
  if isSlice k then isSlice k' && sliceCore k == sliceCore k'
  else isDram k' && homeHalf s k == homeHalf s k'

/-- A list of keys without repeats is full for one more word (spec/14 R279). -/
def watchFull (s : State) (key : Nat) : Bool :=
  let ws := (s.waiters.filter fun w => w.role == .word && !w.polled && sameHome s key w.key).map (·.key)
  !ws.contains key && decide ((if isSlice key then 256 else 1024) ≤ (dedup ws).length)

/-- The waiter of a context's stream. -/
def waiterOf (s : State) (c : CtxId) (st : Stream) : Option Waiter :=
  s.waiters.find? fun w => w.ctx == c && w.stream == st

/-- An acquire registers at the home and waits (spec/14 R279). -/
def registerWait (c : CtxId) (st : Stream) (role : WaitRole) (key : Nat) (s : State) : State :=
  if (waiterOf s c st).isSome then s
  else
    let w : Waiter := { ctx := c, stream := st, key := key, role := role
                        polled := role == .word && watchFull s key, since := timeOf s c }
    let s := { s with waiters := s.waiters ++ [w] }
    if onRecord w then { s with mem := waitBit key (coreOf c) true s.mem } else s

/-- An acquire that has completed no longer waits. -/
def endWait (c : CtxId) (st : Stream) (s : State) : State :=
  dropWaiters (fun w => w.ctx == c && w.stream == st) s

/-- Another context waits for the same grant, so the order of R279 decides. -/
def grantQueue (s : State) (c : CtxId) (role : WaitRole) (key : Nat) : Bool :=
  s.waiters.any fun w => w.key == key && w.role == role && w.ctx != c

/-- A grant of a record is taken: its home keeps the position while the record has a waiter (spec/14
R279). -/
def takeGrant (c : CtxId) (key : Nat) (s : State) : State :=
  let rest := s.grants.filter fun g => g.1 != key
  if s.waiters.any fun w => w.key == key && onRecord w then { s with grants := (key, c) :: rest }
  else { s with grants := rest }

/-- An acquire with a claim (spec/14 R279, R281): it receives a claim of an earlier run; or it takes
its grant when the condition holds and no one is before it; or it waits. `take` makes the grant at
the home. -/
def claimOrWait (c : CtxId) (st : Stream) (e : Nat) (woken : Bool) (role : WaitRole)
    (kind : ClaimKind) (key val : Nat) (cond : Bool) (va : Word) (s : State)
    (take : State → State) (fin : Nat → State → State) : Perform :=
  match nextClaim (s.ctx c) e kind key with
  | some k => .done (fin k.val ((endWait c st s).modCtx c (receiveClaim e k)))
  | none =>
    if claimsFull (s.ctx c) then .fault s 8 va false
    else if cond && (woken || !grantQueue s c role key) then
      let s := touchBanks c 7 .rmw [key] (takeGrant c key (endWait c st (take s)))
      .done (fin val (s.modCtx c (newClaim e kind key val)))
    else .held (registerWait c st role key s)

end Sys2Proof.Machine
end

