-- ==== Sys2Proof/Machine/Sync.lean ====
section
/-! DEFINITION. The acquires and the releases, majors 0x13 and 0x32 (spec/14 R277 to R289). -/

namespace Sys2Proof.Machine

/-- The number of a scope code. -/
def scopeNat (c : Scope) : Nat := (scopeCode c).toNat

/-! ## Acquires -/

/-- The owner of a lock word. -/
def lockOwner (w : Word) : CtxId := Fin.ofNat 128 (w.extractLsb' 32 7).toNat

/-- The lock word of a context that holds the lock. -/
def lockWord (c : CtxId) (gen : Word32) : Word :=
  1#64 <<< 63 ||| BitVec.ofNat 64 (c.val * 2 ^ 32) ||| gen.setWidth 64

/-- A context with a generation that is not resident holds what it holds (spec/14 R281). -/
def savedLives (s : State) (c : CtxId) (gen : Word32) : Bool :=
  (s.core (coreOf c)).saved.toList.any fun t =>
    t.any fun v => v.bank == bankOf c && v.ctx.id.gen == gen

/-- The context of a bank lives on (spec/16 R319). -/
def ctxLives (x : Ctx) : Bool :=
  match x.bank with
  | .running | .faulted | .halted => true
  | _ => false

/-- A lock is free (spec/14 R285): nobody holds it, or its owner has ended its work item or task. An owner that has
been evicted has not ended (DEDUCED, notes/assumptions/20.md). -/
def lockFree (s : State) (w : Word) : Bool :=
  let c := lockOwner w
  let gen := w.extractLsb' 0 32
  !w.getLsbD 63 ||
    !((ctxLives (s.ctx c) && (s.ctx c).id.gen == gen) || savedLives s c gen)

/-- A context owns a lock. -/
def ownsLock (c : CtxId) (x : Ctx) (w : Word) : Bool :=
  w.getLsbD 63 && lockOwner w == c && w.extractLsb' 0 32 == x.id.gen

/-- `acq` (spec/14 R285): `woken` when the home grants it to a waiter. -/
def performAcq (woken : Bool) (o : SY) (c : CtxId) (e : QEntry) (s : State) : Perform :=
  withRec c .l .lock .none e.a s fun s key r =>
    let fin := fun (_ : Nat) (s : State) => raiseClamp c key (scopeNat o.scope) s
    let x := s.ctx c
    if ownsLock c x r.w0 && (nextClaim x e.epoch .lock key).isNone then .done (fin 0 (endWait c .l s))
    else
      claimOrWait c .l e.epoch woken .lock .lock key 0 (lockFree s r.w0) e.a s
        (fun s => { s with mem := memPutNat s.mem (key + 0x18) 8 (lockWord c x.id.gen).toNat }) fin

/-- The condition of `waitw` (spec/14 R288). -/
def waitCond (cond : Nat) (word v : Word) : Bool :=
  match cond with
  | 0 => word == v
  | 1 => word != v
  | 2 => decide (v.toNat ≤ word.toNat)
  | 3 => decide (word.toNat < v.toNat)
  | _ => decide (0 ≤ (word - v).toInt)

/-- A nonzero timeout has elapsed on TIME since the wait began (spec/14 R288). -/
def waitExpired (s : State) (c : CtxId) (o : SY) : Bool :=
  let us := (o.imm.extractLsb' 0 16).toNat
  match waiterOf s c .l with
  | some w => decide (0 < us) && decide (us * 1000 ≤ (timeOf s c).toNat - w.since.toNat)
  | none => false

/-- `waitw` once the key of its word is known (spec/14 R288): it reads the word as it begins, and the home looks at it
again while it waits there (R279). -/
def waitWord (o : SY) (c : CtxId) (e : QEntry) (role : WaitRole) (home key : Nat) (s : State) :
    Perform :=
  let s := settleReads c [key] s
  let s := if (waiterOf s c .l).isNone then touchBanks c (portL c) .read [key] s else s
  let s := noteRead c e [key - key % 64] s.mem s
  if waitCond o.subop.toNat (memWord s.mem key) e.b then
    .done (raiseClamp c key (scopeNat o.scope) (endWait c .l s))
  else if waitExpired s c o then .done (endWait c .l s)
  else .held (registerWait c .l role home s)

/-- `waitw` (spec/14 R288). -/
def performWaitw (o : SY) (c : CtxId) (e : QEntry) (s : State) : Perform :=
  if o.imm.getLsbD 23 then
    withRec c .l .arrival .none e.a s fun s key _ => waitWord o c e .value key (key + 0x18) s
  else
    withGot (syncXlate c .l .load 8 e.a s) fun s key => waitWord o c e .word key key s

/-- The deposit address of `ringwf`: none, or a dword of the own slice (spec/14 R286, R295). -/
def depositKey (o : SY) (c : CtxId) (e : QEntry) (s : State) : Got (Option Nat) :=
  if o.sb = 0 then .ok none
  else if e.b.toNat % 8 ≠ 0 then .fault 3 e.b false
  else
    match classOf (coreOf c) e.b.toNat with
    | .slice own k off =>
      match xlateSlice s own k off e.b with
      | .ok key => if sliceCore key = (coreOf c).val then .ok (some key) else .fault 7 e.b false
      | .fault a t p => .fault a t p
      | .hold => .hold
    | _ => .fault 7 e.b false

/-- The deposit of a claimed index. -/
def deposit (c : CtxId) (d : Option Nat) (v : Nat) (s : State) : State :=
  match d with
  | some k => touchBanks c (portL c) .write [k] { s with mem := memPutNat s.mem k 8 v }
  | none => s

/-- `ringwf` (spec/14 R286). -/
def performRingwf (woken : Bool) (o : SY) (c : CtxId) (e : QEntry) (s : State) : Perform :=
  withRec c .l .ring .consumer e.a s fun s key r =>
    withGot (s, depositKey o c e s) fun s d =>
      claimOrWait c .l e.epoch woken .consume .consume key r.w2.toNat (r.w1 != r.w2) e.a s
        (fun s => { s with mem := memPutNat s.mem (key + 0x28) 8 (r.w2 + 1).toNat })
        (fun v s => raiseClamp c key (scopeNat o.scope) (deposit c d (v % r.slots) s))

/-- The value of a timeline record (spec/14 R275, R289). -/
def timelineOf (s : State) (r : ObjRec) : Word :=
  if r.w1.getLsbD 63 then (s.queue (Fin.ofNat 64 (r.w1.extractLsb' 0 6).toNat)).tl else r.w0

/-- The key under which a timeline record's releases are recorded. -/
def timelineKey (key : Nat) (r : ObjRec) : Nat :=
  if r.w1.getLsbD 63 then tlKey (Fin.ofNat 64 (r.w1.extractLsb' 0 6).toNat) else key

/-- `tlwait` (spec/14 R289). -/
def performTlwait (o : SY) (c : CtxId) (e : QEntry) (s : State) : Perform :=
  withRec c .l .timeline .none e.a s fun s key r =>
    if 0 ≤ (timelineOf s r - e.b).toInt then
      .done (raiseClamp c (timelineKey key r) (scopeNat o.scope) (endWait c .l s))
    else .held (registerWait c .l .value key s)

/-- `ringwe` (spec/14 R284, R286, R287): it acts at device scope. -/
def performRingwe (woken : Bool) (o : SY) (c : CtxId) (e : QEntry) (s : State) : Perform :=
  withRec c .s .ring .producer e.a s fun s key r =>
    claimOrWait c .s e.epoch woken .produce .produce key r.w0.toNat
      (decide ((r.w0 - r.w3).toNat < r.slots)) e.a s
      (fun s => { s with mem := memPutNat s.mem (key + 0x18) 8 (r.w0 + 1).toNat })
      (fun v s => (raiseClamp c key 4 s).modCtx c (writeS o.sd (BitVec.ofNat 64 (v % r.slots))))

/-! ## Releases -/

/-- A deferred effect of an instruction of a region (spec/14 R278). -/
def deferEff (c : CtxId) (e : QEntry) (st : Stream) (eff : Deferred) (base : Word) (len : Nat)
    (all : Bool) (scope : Nat) (s : State) : State :=
  (bumpSeq c s).modCtx c fun x =>
    { x with sync := { x.sync with
        deferred := x.sync.deferred ++
          [{ eff := eff, epoch := e.epoch, stream := st, base := base, len := len, all := all
             scope := scope, retired := false, seq := x.sync.seq, op := ctxOp x, clamp := none }] } }

/-- `ringfree` (spec/14 R286, R287): the oldest unfreed consumer claim is freed after retirement. -/
def performRingfree (_ : SY) (c : CtxId) (e : QEntry) (s : State) : Perform :=
  withRec c .l .ring .consumer e.a s fun s key _ =>
    match openClaim (s.ctx c) .consume key with
    | none => .fault s 10 e.a false
    | some k =>
      .done (deferEff c e .l (.ringfree key k.val) 0 0 false 4 (s.modCtx c (markEnding k)))

/-- `rel` (spec/14 R285). -/
def performRel (o : SY) (c : CtxId) (e : QEntry) (s : State) : Perform :=
  withRec c .s .lock .none e.a s fun s key r =>
    .done (deferEff c e .s (.rel key (s.ctx c).id.gen) r.base r.len.toNat false (scopeNat o.scope) s)

/-- `ringpub` (spec/14 R286). -/
def performRingpub (o : SY) (c : CtxId) (e : QEntry) (s : State) : Perform :=
  withRec c .s .ring .producer e.a s fun s key r =>
    match openClaim (s.ctx c) .produce key with
    | none => .fault s 10 e.a false
    | some k =>
      .done (deferEff c e .s (.ringpub key k.val) r.base r.len.toNat false (scopeNat o.scope)
        (s.modCtx c (markEnding k)))

/-- `setw` (spec/14 R288): with obj = 1 it releases the record's bound range, otherwise only the word
itself. -/
def performSetw (o : SY) (c : CtxId) (e : QEntry) (s : State) : Perform :=
  if o.imm.getLsbD 23 then
    withRec c .s .arrival .none e.a s fun s key r =>
      .done (deferEff c e .s (.setw (key + 0x18) e.b) r.base r.len.toNat false (scopeNat o.scope) s)
  else
    withGot (syncXlate c .s .store 8 e.a s) fun s key =>
      .done (deferEff c e .s (.setw key e.b) e.a 8 false (scopeNat o.scope) s)

/-- `tlsig` (spec/14 R278, R289): to a queue timeline its release is at system scope. -/
def performTlsig (o : SY) (c : CtxId) (e : QEntry) (s : State) : Perform :=
  withRec c .s .timeline .none e.a s fun s key r =>
    let scope := if r.w1.getLsbD 63 then 5 else scopeNat o.scope
    .done (deferEff c e .s (.tlsig key e.b) 0 0 true scope s)

/-! ## The instructions -/

/-- `acq` (spec/14 R285). -/
def execAcq (o : SY) (s : State) : Host.Outcome State Fault Refusal :=
  issue .l (.acq o) o.tok o.sa 0 0 (performAcq false o) s

/-- `waitw` (spec/14 R288). -/
def execWaitw (o : SY) (s : State) : Host.Outcome State Fault Refusal :=
  issue .l (.waitw o) o.tok o.sa o.sb 0 (performWaitw o) s

/-- `ringwf` (spec/14 R286). -/
def execRingwf (o : SY) (s : State) : Host.Outcome State Fault Refusal :=
  issue .l (.ringwf o) o.tok o.sa o.sb 0 (performRingwf false o) s

/-- `ringfree` (spec/14 R286). -/
def execRingfree (o : SY) (s : State) : Host.Outcome State Fault Refusal :=
  issue .l (.ringfree o) o.tok o.sa 0 0 (performRingfree o) s

/-- `tlwait` (spec/14 R289). -/
def execTlwait (o : SY) (s : State) : Host.Outcome State Fault Refusal :=
  issue .l (.tlwait o) o.tok o.sa o.sb 0 (performTlwait o) s

/-- `rel` (spec/14 R285). -/
def execRel (o : SY) (s : State) : Host.Outcome State Fault Refusal :=
  issue .s (.rel o) o.tok o.sa 0 0 (performRel o) s

/-- `ringwe` (spec/14 R286). -/
def execRingwe (o : SY) (s : State) : Host.Outcome State Fault Refusal :=
  if busyS s.me o.sd then .next s else issue .s (.ringwe o) o.tok o.sa 0 0 (performRingwe false o) s

/-- `ringpub` (spec/14 R286). -/
def execRingpub (o : SY) (s : State) : Host.Outcome State Fault Refusal :=
  issue .s (.ringpub o) o.tok o.sa 0 0 (performRingpub o) s

/-- `setw` (spec/14 R288). -/
def execSetw (o : SY) (s : State) : Host.Outcome State Fault Refusal :=
  issue .s (.setw o) o.tok o.sa o.sb 0 (performSetw o) s

/-- `tlsig` (spec/14 R289). -/
def execTlsig (o : SY) (s : State) : Host.Outcome State Fault Refusal :=
  issue .s (.tlsig o) o.tok o.sa o.sb 0 (performTlsig o) s

end Sys2Proof.Machine
end

