-- ==== Sys2Proof/Machine/Walker.lean ====
section
/-! DEFINITION. How the part itself, the command processors and the homes reach memory by a virtual
address (spec/17 R338, spec/14 R290, spec/04 R68): through the page tables of an ASID, never through a
heap, and with no page request. -/

namespace Sys2Proof.Machine

/-- The class of an address for the part: without an issuing core the alias names no slice. -/
def partClass (core : Option CoreId) (va : Nat) : VClass :=
  match core with
  | some k => classOf k va
  | none => if va < 0x7F10_0000_0000 then classOf 0 va else .bad

/-- A walked translation as the part uses it. -/
def partLand (s : State) (wr : Bool) (va : Word) (w : Walk) : Got Nat :=
  match w with
  | .leaf t =>
    if (if wr then t.wr else t.rd) then
      match landPa s va (t.paOf va.toNat) with
      | .ok k => .ok k
      | .fault c t p => .fault c t p
      | .hold => .hold
    else .fault 7 va false
  | .malformed => .fault 7 va false
  | .lost => .fault 11 va false
  | _ => .fault 4 va false

/-- An address as the part reaches it (spec/17 R338): the walker of a half serves a first touch. -/
def partXlate (h : HalfId) (core : Option CoreId) (asid : BitVec 8) (wr : Bool) (va : Word)
    (s : State) : State × Got Nat :=
  match partClass core va.toNat with
  | .bad => (s, .fault 7 va false)
  | .slice own k off =>
    match xlateSlice s own k off va with
    | .ok key => (s, .ok key)
    | .fault c t p => (s, .fault c t p)
    | .hold => (s, .hold)
  | .translated =>
    match walk s asid va.toNat with
    | .touch e =>
      let r := firstTouch s h e
      (r.1, if r.2 then partLand r.1 wr va (walk r.1 asid va.toNat) else .fault 4 va true)
    | w => (s, partLand s wr va w)

/-- Bytes read by the part from an address, page by page (spec/03 R45). -/
def partBytes (h : HalfId) (core : Option CoreId) (asid : BitVec 8) :
    Nat → Word → Nat → State → State × Got (List Byte)
  | 0, _, _, s => (s, .ok [])
  | f + 1, va, n, s =>
    if n = 0 then (s, .ok [])
    else
      let k := min n (4096 - va.toNat % 4096)
      match partXlate h core asid false va s with
      | (s, .ok key) =>
        match partBytes h core asid f (va + BitVec.ofNat 64 k) (n - k) s with
        | (s, .ok l) => (s, .ok (memBytes (readView s key k) key k ++ l))
        | r => r
      | (s, .fault c t p) => (s, .fault c t p)
      | (s, .hold) => (s, .hold)

/-- The little-endian number of a byte list. -/
def bytesNat : List Byte → Nat
  | [] => 0
  | b :: bs => b.toNat + 256 * bytesNat bs

/-- n aligned bytes read by the part as one number. -/
def partRead (h : HalfId) (core : Option CoreId) (asid : BitVec 8) (va : Word) (n : Nat) (s : State) :
    State × Got Nat :=
  match partBytes h core asid (n / 4096 + 2) va n s with
  | (s, .ok l) => (s, .ok (bytesNat l))
  | (s, .fault c t p) => (s, .fault c t p)
  | (s, .hold) => (s, .hold)

end Sys2Proof.Machine
end

