-- ==== Sys2Proof/Machine/Tasks.lean ====
section
/-! DEFINITION. Tasks, major 0x34: continuation records, task queues, join counters and raises of the
group count (spec/14 R290 to R294). -/

namespace Sys2Proof.Machine

/-- A continuation record (spec/14 R291). -/
structure ContRec where
  code : Word
  frame : Word
  join : Word
  cur : Word
  deriving DecidableEq, Repr

/-- The continuation record in 32 bytes. -/
def contOf (n : Nat) : ContRec :=
  ⟨BitVec.ofNat 64 n, BitVec.ofNat 64 (n / 2 ^ 64), BitVec.ofNat 64 (n / 2 ^ 128),
   BitVec.ofNat 64 (n / 2 ^ 192)⟩

/-- The zero bits of a continuation record, and cur below 3 (spec/14 R291, R295). -/
def ContRec.ok (r : ContRec) : Bool :=
  r.code.extractLsb' 48 16 == 0 && r.code.extractLsb' 0 3 == 0 && decide (r.cur.toNat ≤ 2)

/-- The number of entries of a spill ring (spec/14 R292). -/
def spillSize (g : Casc) : Nat := 2 ^ (min g.tqLgsz.toNat 12 + 4)

/-- The on-chip queue refilled from the spill ring, in order (spec/14 R292). -/
def refill : Nat → Casc → Casc
  | 0, g => g
  | n + 1, g =>
    match g.spill with
    | [] => { g with tqHead := g.tqTail }
    | t :: ts =>
      if g.tasks.length < 64 then
        refill n { g with tasks := g.tasks ++ [t], spill := ts, tqHead := g.tqHead + 1 }
      else g

/-- Where an entry finds room: 1 on chip, 2 in the spill ring, 0 nowhere (spec/14 R293). The oldest
entries are on chip, so an entry goes to the ring while the ring holds any. -/
def taskRoom (g : Casc) : Nat :=
  if g.spill.isEmpty ∧ g.tasks.length < 64 then 1
  else if g.tqEn ∧ g.spill.length < spillSize g then 2
  else 0

/-- An entry added where there is room. -/
def addTask (t : TaskEntry) (g : Casc) : Casc :=
  match taskRoom g with
  | 1 => { g with tasks := g.tasks ++ [t] }
  | 2 => { g with spill := g.spill ++ [t], tqTail := g.tqTail + 1 }
  | _ => g

/-- The target cascade of `tpost`, within the half (spec/14 R282, R293). -/
def postTarget (c : CtxId) (t : Nat) : CascId :=
  let g := (cascOf c).val
  let base := g - g % 8
  let i := match t with
    | 0 => g % 8
    | 1 => (g % 8 + 1) % 8
    | _ => (g % 8 + 7) % 8
  Fin.ofNat 16 (base + i)

/-- The number of the operator of a context; 0 when no launch has placed it. -/
def opNumber (x : Ctx) : Nat := (ctxOp x).getD 0

/-- `tpost` (spec/14 R293): the record is read, an entry is reserved, and the status is written. -/
def performTpost (o : SY) (c : CtxId) (e : QEntry) (s : State) : Perform :=
  withGot (syncXlate c .s .load 32 e.a s) fun s key =>
    let s := settleReads c [key] s
    if bytesBehind s c key 32 then .held s
    else
      let s := touchBanks c (portS c) .read [key] s
      let r := contOf (memNat s.mem key 32)
      if !r.ok then .fault s 10 e.a false
      else
        let g := postTarget c (o.imm.extractLsb' 0 2).toNat
        let s := (bumpSeq c s).modCasc g (refill 64)
        let st := taskRoom (s.casc g)
        let x := s.ctx c
        let t : TaskEntry :=
          { op := opNumber x, fb := x.id.fb, code := r.code, frame := r.frame, join := r.join
            cur := r.cur.extractLsb' 0 2, owner := c, epoch := e.epoch, seq := x.sync.seq + 1
            ready := false }
        let s := s.modCasc g (addTask t)
        let s := if st = 0 then s else deferEff c e .s .tpost 0 0 true 4 s
        .done (s.modCtx c (writeS o.sd (BitVec.ofNat 64 st)))

/-- `tjoin` (spec/14 R290): the counter is decremented after retirement. -/
def performTjoin (o : SY) (c : CtxId) (e : QEntry) (s : State) : Perform :=
  withRec c .s .join .none e.a s fun s key _ =>
    let x := s.ctx c
    .done (deferEff c e .s (.tjoin key (opNumber x) (asidOf s x) x.id.fb) 0 0 true (scopeNat o.scope) s)

/-- The product of the trip counts of the spatial levels after level 0 (spec/14 R294). -/
def otherTrips (d : Dispatch) : Nat :=
  (((d.trips.zip d.temporal).drop 1).filter fun t => !t.2).foldl (fun m t => m * t.1) 1

/-- `grais` on the operator of a context (spec/14 R294): the value for sd and whether it raises. -/
def raiseOf (o : Operator) (n : Nat) : Word × Bool :=
  let old := o.disp.trips.headD 0
  if n = 0 then (BitVec.ofNat 64 old, false)
  else if 2 ^ 32 - 1 < (old + n) * otherTrips o.disp then (BitVec.allOnes 64, false)
  else (BitVec.ofNat 64 old, true)

/-- The trip count of level 0 of a dispatch set raised. -/
def Dispatch.raise (n : Nat) (d : Dispatch) : Dispatch := { d with trips := d.trips.modify 0 (· + n) }

/-- The trip count of level 0 raised, for the fallback operator's items too, which use the same loop table (spec/14
R294, spec/17 R346). -/
def raiseTrips (n : Nat) (o : Operator) : Operator :=
  { o with disp := o.disp.raise n, fbDisp := o.fbDisp.map (·.raise n) }

/-- The operator of a context whose level 0 is spatial over cores. -/
def raisable (s : State) (x : Ctx) : Option Operator :=
  ((ctxOp x).bind s.op).filter fun o => o.cores

/-- `grais` (spec/14 R294): the new indices are dealt after retirement, as items of the fallback operator when one of its
items or tasks raises. The value of TVAL is not stated
for it. -/
def performGrais (o : SY) (c : CtxId) (e : QEntry) (s : State) : Perform :=
  match raisable s (s.ctx c) with
  | none => .fault s.bumpFree 10 (Config.freeValue s.freeCtr) false
  | some p =>
    let n := (e.b.extractLsb' 0 32).toNat
    let r := raiseOf p n
    let s :=
      if r.2 then
        deferEff c e .s (.grais p.id (s.ctx c).id.fb n (p.disp.trips.headD 0)) 0 0 false 4
          (s.modOp p.id (raiseTrips n))
      else s
    .done (s.modCtx c (writeS o.sd r.1))

/-- `tpost` (spec/14 R293). -/
def execTpost (o : SY) (s : State) : Host.Outcome State Fault Refusal :=
  if busyS s.me o.sd then .next s else issue .s (.tpost o) o.tok o.sa 0 0 (performTpost o) s

/-- `tjoin` (spec/14 R290). -/
def execTjoin (o : SY) (s : State) : Host.Outcome State Fault Refusal :=
  issue .s (.tjoin o) o.tok o.sa 0 0 (performTjoin o) s

/-- `grais` (spec/14 R294). -/
def execGrais (o : SY) (s : State) : Host.Outcome State Fault Refusal :=
  if busyS s.me o.sd then .next s else issue .s (.grais o) o.tok 0 o.sb 0 (performGrais o) s

end Sys2Proof.Machine
end

