-- ==== Sys2Proof/Machine/VInt.lean ====
section
/-! DEFINITION. Vector integer instructions, major 0x20 (spec/08 R152 to R160). -/

namespace Sys2Proof.Machine

/-- The saturation bit of a VX word, imm14[12] (spec/08 R155). -/
def satOf (o : VX) : Bool := o.imm.getLsbD 12

/-- Element j of the i-th source. -/
def el (o : VX) (vs : List VReg) (i j : Nat) : Nat := elem (tyWidth o.ty) j (src vs i)

/-- An element-wise integer instruction of two sources (spec/08 R155). -/
def intOp2 (o : VX) (f : Nat → Nat → Nat) : CtxId → QEntry → State → Perform :=
  vecOp [o.va, o.vb] o.vd o.pred fun vs p old =>
    underMask (tyWidth o.ty) p old fun j => f (el o vs 0 j) (el o vs 1 j)

/-- An element-wise integer instruction of one source. -/
def intOp1 (o : VX) (f : Nat → Nat) : CtxId → QEntry → State → Perform :=
  vecOp [o.va] o.vd o.pred fun vs p old =>
    underMask (tyWidth o.ty) p old fun j => f (el o vs 0 j)

/-- A shift by a register or by an immediate: in the immediate form vb is no source (spec/08
R156). -/
def shiftOp (o : VX) (f : Nat → Nat → Nat) : CtxId → QEntry → State → Perform :=
  vecOp (if o.imm.getLsbD 13 then [o.va] else [o.va, o.vb]) o.vd o.pred fun vs p old =>
    underMask (tyWidth o.ty) p old fun j =>
      f (el o vs 0 j) (shiftCount o.imm (tyWidth o.ty) (el o vs 1 j))

/-- What `vadd` does at the head of the C stream (spec/08 R155). -/
def performVadd (o : VX) : CtxId → QEntry → State → Perform :=
  intOp2 o (intWrap2 o.ty fun a b => a + b)

/-- `vadd` (spec/08 R155). -/
def execVadd (o : VX) (s : State) : Host.Outcome State Fault Refusal :=
  issue .c (.vadd o) o.tok 0 0 0 (performVadd o) s

/-- What `vsub` does at the head of the C stream (spec/08 R155). -/
def performVsub (o : VX) : CtxId → QEntry → State → Perform :=
  intOp2 o (intWrap2 o.ty fun a b => a - b)

/-- `vsub` (spec/08 R155). -/
def execVsub (o : VX) (s : State) : Host.Outcome State Fault Refusal :=
  issue .c (.vsub o) o.tok 0 0 0 (performVsub o) s

/-- What `vadd.sat` does at the head of the C stream (spec/08 R155). -/
def performVaddSat (o : VX) : CtxId → QEntry → State → Perform :=
  intOp2 o (intNarrow2 true o.ty fun a b => a + b)

/-- `vadd.sat` (spec/08 R155). -/
def execVaddSat (o : VX) (s : State) : Host.Outcome State Fault Refusal :=
  issue .c (.vaddSat o) o.tok 0 0 0 (performVaddSat o) s

/-- What `vsub.sat` does at the head of the C stream (spec/08 R155). -/
def performVsubSat (o : VX) : CtxId → QEntry → State → Perform :=
  intOp2 o (intNarrow2 true o.ty fun a b => a - b)

/-- `vsub.sat` (spec/08 R155). -/
def execVsubSat (o : VX) (s : State) : Host.Outcome State Fault Refusal :=
  issue .c (.vsubSat o) o.tok 0 0 0 (performVsubSat o) s

/-- What `vmul` does at the head of the C stream (spec/08 R155). -/
def performVmul (o : VX) : CtxId → QEntry → State → Perform :=
  intOp2 o (intNarrow2 (satOf o) o.ty fun a b => a * b)

/-- `vmul` (spec/08 R155). -/
def execVmul (o : VX) (s : State) : Host.Outcome State Fault Refusal :=
  issue .c (.vmul o) o.tok 0 0 0 (performVmul o) s

/-- What `vmulh` does at the head of the C stream (spec/08 R155). -/
def performVmulh (o : VX) : CtxId → QEntry → State → Perform :=
  intOp2 o (intWrap2 o.ty fun a b => mulHigh (tyWidth o.ty) a b)

/-- `vmulh` (spec/08 R155). -/
def execVmulh (o : VX) (s : State) : Host.Outcome State Fault Refusal :=
  issue .c (.vmulh o) o.tok 0 0 0 (performVmulh o) s

/-- What `vmla` does at the head of the C stream (spec/08 R155). -/
def performVmla (o : VX) : CtxId → QEntry → State → Perform :=
  vecOp [o.va, o.vb] o.vd o.pred fun vs p old =>
    underMask (tyWidth o.ty) p old fun j =>
      narrowN (satOf o) (tySigned o.ty) (tyWidth o.ty)
        (tyVal o.ty (elem (tyWidth o.ty) j old) + tyVal o.ty (el o vs 0 j) * tyVal o.ty (el o vs 1 j))

/-- `vmla` (spec/08 R155). -/
def execVmla (o : VX) (s : State) : Host.Outcome State Fault Refusal :=
  issue .c (.vmla o) o.tok 0 0 0 (performVmla o) s

/-- What `vmla.w` does at the head of the C stream (spec/08 R157). -/
def performVmlaW (o : VX) : CtxId → QEntry → State → Perform :=
  fun c e s => computeOp [o.va, o.vb] none (fun vs x =>
    let p := govern e o.pred x
    writeGroup e o.vd (fun r =>
      vmlaWReg (satOf o) o.ty p (src vs 0) (src vs 1) (oldGroup e o.vd x r) r) (tyK o.ty) x) c e s

/-- `vmla.w` (spec/08 R157). -/
def execVmlaW (o : VX) (s : State) : Host.Outcome State Fault Refusal :=
  issue .c (.vmlaW o) o.tok 0 0 0 (performVmlaW o) s

/-- What `vmul.w` does at the head of the C stream (spec/08 R157). -/
def performVmulW (o : VX) : CtxId → QEntry → State → Perform :=
  fun c e s => computeOp [o.va, o.vb] none (fun vs x =>
    let p := govern e o.pred x
    writeGroup e o.vd (fun r =>
      vmulWReg o.ty p (src vs 0) (src vs 1) (oldGroup e o.vd x r) r) (tyK o.ty) x) c e s

/-- `vmul.w` (spec/08 R157). -/
def execVmulW (o : VX) (s : State) : Host.Outcome State Fault Refusal :=
  issue .c (.vmulW o) o.tok 0 0 0 (performVmulW o) s

/-- What `vabs` does at the head of the C stream (spec/08 R155). -/
def performVabs (o : VX) : CtxId → QEntry → State → Perform :=
  intOp1 o fun a =>
    narrowN (satOf o) true (tyWidth o.ty) ((tyVal o.ty a).natAbs : Int)

/-- `vabs` (spec/08 R155). -/
def execVabs (o : VX) (s : State) : Host.Outcome State Fault Refusal :=
  issue .c (.vabs o) o.tok 0 0 0 (performVabs o) s

/-- What `vneg` does at the head of the C stream (spec/08 R155). -/
def performVneg (o : VX) : CtxId → QEntry → State → Perform :=
  intOp1 o fun a => narrowN (satOf o) (tySigned o.ty) (tyWidth o.ty) (-tyVal o.ty a)

/-- `vneg` (spec/08 R155). -/
def execVneg (o : VX) (s : State) : Host.Outcome State Fault Refusal :=
  issue .c (.vneg o) o.tok 0 0 0 (performVneg o) s

/-- What `vmin` does at the head of the C stream (spec/08 R155). -/
def performVmin (o : VX) : CtxId → QEntry → State → Perform :=
  intOp2 o (pickElem o.ty false)

/-- `vmin` (spec/08 R155). -/
def execVmin (o : VX) (s : State) : Host.Outcome State Fault Refusal :=
  issue .c (.vmin o) o.tok 0 0 0 (performVmin o) s

/-- What `vmax` does at the head of the C stream (spec/08 R155). -/
def performVmax (o : VX) : CtxId → QEntry → State → Perform :=
  intOp2 o (pickElem o.ty true)

/-- `vmax` (spec/08 R155). -/
def execVmax (o : VX) (s : State) : Host.Outcome State Fault Refusal :=
  issue .c (.vmax o) o.tok 0 0 0 (performVmax o) s

/-- What `vand` does at the head of the C stream (spec/08 R155). -/
def performVand (o : VX) : CtxId → QEntry → State → Perform :=
  intOp2 o fun a b => a &&& b

/-- `vand` (spec/08 R155). -/
def execVand (o : VX) (s : State) : Host.Outcome State Fault Refusal :=
  issue .c (.vand o) o.tok 0 0 0 (performVand o) s

/-- What `vor` does at the head of the C stream (spec/08 R155). -/
def performVor (o : VX) : CtxId → QEntry → State → Perform :=
  intOp2 o fun a b => a ||| b

/-- `vor` (spec/08 R155). -/
def execVor (o : VX) (s : State) : Host.Outcome State Fault Refusal :=
  issue .c (.vor o) o.tok 0 0 0 (performVor o) s

/-- What `vxor` does at the head of the C stream (spec/08 R155). -/
def performVxor (o : VX) : CtxId → QEntry → State → Perform :=
  intOp2 o fun a b => a ^^^ b

/-- `vxor` (spec/08 R155). -/
def execVxor (o : VX) (s : State) : Host.Outcome State Fault Refusal :=
  issue .c (.vxor o) o.tok 0 0 0 (performVxor o) s

/-- What `vandn` does at the head of the C stream (spec/08 R155). -/
def performVandn (o : VX) : CtxId → QEntry → State → Perform :=
  intOp2 o fun a b => a &&& (b ^^^ (2 ^ tyWidth o.ty - 1))

/-- `vandn` (spec/08 R155). -/
def execVandn (o : VX) (s : State) : Host.Outcome State Fault Refusal :=
  issue .c (.vandn o) o.tok 0 0 0 (performVandn o) s

/-- What `vshl` does at the head of the C stream (spec/08 R156). -/
def performVshl (o : VX) : CtxId → QEntry → State → Perform :=
  shiftOp o (shlElem (satOf o) o.ty)

/-- `vshl` (spec/08 R156). -/
def execVshl (o : VX) (s : State) : Host.Outcome State Fault Refusal :=
  issue .c (.vshl o) o.tok 0 0 0 (performVshl o) s

/-- What `vshr` does at the head of the C stream (spec/08 R156). -/
def performVshr (o : VX) : CtxId → QEntry → State → Perform :=
  shiftOp o (shrElem o.ty)

/-- `vshr` (spec/08 R156). -/
def execVshr (o : VX) (s : State) : Host.Outcome State Fault Refusal :=
  issue .c (.vshr o) o.tok 0 0 0 (performVshr o) s

/-- What `vrshr` does at the head of the C stream (spec/08 R156). -/
def performVrshr (o : VX) : CtxId → QEntry → State → Perform :=
  shiftOp o (rshrElem o.ty)

/-- `vrshr` (spec/08 R156). -/
def execVrshr (o : VX) (s : State) : Host.Outcome State Fault Refusal :=
  issue .c (.vrshr o) o.tok 0 0 0 (performVrshr o) s

/-- What `vclz` does at the head of the C stream (spec/08 R155). -/
def performVclz (o : VX) : CtxId → QEntry → State → Perform :=
  intOp1 o (clzN (tyWidth o.ty))

/-- `vclz` (spec/08 R155). -/
def execVclz (o : VX) (s : State) : Host.Outcome State Fault Refusal :=
  issue .c (.vclz o) o.tok 0 0 0 (performVclz o) s

/-- What `vpopc` does at the head of the C stream (spec/08 R155). -/
def performVpopc (o : VX) : CtxId → QEntry → State → Perform :=
  intOp1 o (popcN (tyWidth o.ty))

/-- `vpopc` (spec/08 R155). -/
def execVpopc (o : VX) (s : State) : Host.Outcome State Fault Refusal :=
  issue .c (.vpopc o) o.tok 0 0 0 (performVpopc o) s

/-- What `vavg` does at the head of the C stream (spec/08 R155). -/
def performVavg (o : VX) : CtxId → QEntry → State → Perform :=
  intOp2 o (intWrap2 o.ty fun a b => (a + b + 1) / 2)

/-- `vavg` (spec/08 R155). -/
def execVavg (o : VX) (s : State) : Host.Outcome State Fault Refusal :=
  issue .c (.vavg o) o.tok 0 0 0 (performVavg o) s

/-- A comparison that writes a predicate: inactive elements give 0 (spec/08 R159, spec/09 R173). -/
def compareOp (o : VX) (f : Nat → Nat → Bool) : CtxId → QEntry → State → Perform :=
  fun c e s => predOp [o.va, o.vb] (fun vs x =>
    let p := govern e o.pred x
    putPred e o.vd (buildP (tyCount o.ty) fun j =>
      bitP p j && f (el o vs 0 j) (el o vs 1 j)) x) c e s

/-- What `vcmp` does at the head of the C stream (spec/08 R159). -/
def performVcmp (o : VX) : CtxId → QEntry → State → Perform :=
  compareOp o fun a b => icond (o.imm.extractLsb' 0 3).toNat (tyVal o.ty a) (tyVal o.ty b)

/-- `vcmp` (spec/08 R159). -/
def execVcmp (o : VX) (s : State) : Host.Outcome State Fault Refusal :=
  issue .c (.vcmp o) o.tok 0 0 0 (performVcmp o) s

/-- What `vsel` does at the head of the C stream (spec/08 R160). -/
def performVsel (o : VX) : CtxId → QEntry → State → Perform :=
  vecOp [o.va, o.vb] o.vd o.pred fun vs p _ =>
    buildV (tyWidth o.ty) fun j => if bitP p j then el o vs 0 j else el o vs 1 j

/-- `vsel` (spec/08 R160). -/
def execVsel (o : VX) (s : State) : Host.Outcome State Fault Refusal :=
  issue .c (.vsel o) o.tok 0 0 0 (performVsel o) s

/-- What `vdot4` does at the head of the C stream (spec/08 R158). -/
def performVdot4 (o : VX) : CtxId → QEntry → State → Perform :=
  vecOp [o.va, o.vb] o.vd o.pred fun vs p old =>
    vdot4Reg (satOf o) o.ty (tyOfCode (o.imm.extractLsb' 0 4)) p (src vs 0) (src vs 1) old

/-- `vdot4` (spec/08 R158). -/
def execVdot4 (o : VX) (s : State) : Host.Outcome State Fault Refusal :=
  issue .c (.vdot4 o) o.tok 0 0 0 (performVdot4 o) s


end Sys2Proof.Machine
end

