-- ==== Sys2Proof/Machine/VFloat.lean ====
section
/-! DEFINITION. Vector floating-point instructions, major 0x21 (spec/09 R166 to R174). -/

namespace Sys2Proof.Machine

/-- An element-wise floating instruction of two sources (spec/09 R170). -/
def floatOp2 (o : VX) (f : Rm → Nat → Nat → Nat × FFlags) : CtxId → QEntry → State → Perform :=
  floatOp [o.va, o.vb] o.vd o.pred fun rm vs p old =>
    floatMask (tyWidth o.ty) p old fun j => f rm (el o vs 0 j) (el o vs 1 j)

/-- An element-wise floating instruction of three sources. -/
def floatOp3 (o : VX) (f : Rm → Nat → Nat → Nat → Nat × FFlags) : CtxId → QEntry → State → Perform :=
  floatOp [o.va, o.vb, o.vc] o.vd o.pred fun rm vs p old =>
    floatMask (tyWidth o.ty) p old fun j => f rm (el o vs 0 j) (el o vs 1 j) (el o vs 2 j)

/-- An element-wise floating instruction of one source. -/
def floatOp1 (o : VX) (f : Rm → Nat → Nat × FFlags) : CtxId → QEntry → State → Perform :=
  floatOp [o.va] o.vd o.pred fun rm vs p old =>
    floatMask (tyWidth o.ty) p old fun j => f rm (el o vs 0 j)

/-- What `vfadd` does at the head of the C stream (spec/09 R170). -/
def performVfadd (o : VX) : CtxId → QEntry → State → Perform :=
  floatOp2 o fun rm => faddElem o.ty rm (satOf o)

/-- `vfadd` (spec/09 R170). -/
def execVfadd (o : VX) (s : State) : Host.Outcome State Fault Refusal :=
  issue .c (.vfadd o) o.tok 0 0 0 (performVfadd o) s

/-- What `vfsub` does at the head of the C stream (spec/09 R170). -/
def performVfsub (o : VX) : CtxId → QEntry → State → Perform :=
  floatOp2 o fun rm => fsubElem o.ty rm (satOf o)

/-- `vfsub` (spec/09 R170). -/
def execVfsub (o : VX) (s : State) : Host.Outcome State Fault Refusal :=
  issue .c (.vfsub o) o.tok 0 0 0 (performVfsub o) s

/-- What `vfmul` does at the head of the C stream (spec/09 R170). -/
def performVfmul (o : VX) : CtxId → QEntry → State → Perform :=
  floatOp2 o fun rm => fmulElem o.ty rm (satOf o)

/-- `vfmul` (spec/09 R170). -/
def execVfmul (o : VX) (s : State) : Host.Outcome State Fault Refusal :=
  issue .c (.vfmul o) o.tok 0 0 0 (performVfmul o) s

/-- What `vfma` does at the head of the C stream (spec/09 R170). -/
def performVfma (o : VX) : CtxId → QEntry → State → Perform :=
  floatOp3 o fun rm => fmaElem o.ty rm (satOf o)

/-- `vfma` (spec/09 R170). -/
def execVfma (o : VX) (s : State) : Host.Outcome State Fault Refusal :=
  issue .c (.vfma o) o.tok 0 0 0 (performVfma o) s

/-- What `vfnma` does at the head of the C stream (spec/09 R170). -/
def performVfnma (o : VX) : CtxId → QEntry → State → Perform :=
  floatOp3 o fun rm => fnmaElem o.ty rm (satOf o)

/-- `vfnma` (spec/09 R170). -/
def execVfnma (o : VX) (s : State) : Host.Outcome State Fault Refusal :=
  issue .c (.vfnma o) o.tok 0 0 0 (performVfnma o) s

/-- What `vfmin` does at the head of the C stream (spec/09 R172). -/
def performVfmin (o : VX) : CtxId → QEntry → State → Perform :=
  floatOp2 o fun _ a b => (fminmaxElem o.ty false a b, .none)

/-- `vfmin` (spec/09 R172). -/
def execVfmin (o : VX) (s : State) : Host.Outcome State Fault Refusal :=
  issue .c (.vfmin o) o.tok 0 0 0 (performVfmin o) s

/-- What `vfmax` does at the head of the C stream (spec/09 R172). -/
def performVfmax (o : VX) : CtxId → QEntry → State → Perform :=
  floatOp2 o fun _ a b => (fminmaxElem o.ty true a b, .none)

/-- `vfmax` (spec/09 R172). -/
def execVfmax (o : VX) (s : State) : Host.Outcome State Fault Refusal :=
  issue .c (.vfmax o) o.tok 0 0 0 (performVfmax o) s

/-- What `vfabs` does at the head of the C stream (spec/09 R171). -/
def performVfabs (o : VX) : CtxId → QEntry → State → Perform :=
  floatOp1 o fun _ a => (fabsElem o.ty a, .none)

/-- `vfabs` (spec/09 R171). -/
def execVfabs (o : VX) (s : State) : Host.Outcome State Fault Refusal :=
  issue .c (.vfabs o) o.tok 0 0 0 (performVfabs o) s

/-- What `vfneg` does at the head of the C stream (spec/09 R171). -/
def performVfneg (o : VX) : CtxId → QEntry → State → Perform :=
  floatOp1 o fun _ a => (fnegElem o.ty a, .none)

/-- `vfneg` (spec/09 R171). -/
def execVfneg (o : VX) (s : State) : Host.Outcome State Fault Refusal :=
  issue .c (.vfneg o) o.tok 0 0 0 (performVfneg o) s

/-- What `vfcmp` does at the head of the C stream (spec/09 R173). -/
def performVfcmp (o : VX) : CtxId → QEntry → State → Perform :=
  compareOp o fun a b =>
    fcond (o.imm.extractLsb' 0 3).toNat (fvalIn o.ty a) (fvalIn o.ty b)

/-- `vfcmp` (spec/09 R173). -/
def execVfcmp (o : VX) (s : State) : Host.Outcome State Fault Refusal :=
  issue .c (.vfcmp o) o.tok 0 0 0 (performVfcmp o) s

/-- What `vfrcp` does at the head of the C stream (spec/09 R174). -/
def performVfrcp (o : VX) : CtxId → QEntry → State → Perform :=
  floatOp1 o fun rm => specialCode .rcp o.ty rm

/-- `vfrcp` (spec/09 R174). -/
def execVfrcp (o : VX) (s : State) : Host.Outcome State Fault Refusal :=
  issue .c (.vfrcp o) o.tok 0 0 0 (performVfrcp o) s

/-- What `vfrsq` does at the head of the C stream (spec/09 R174). -/
def performVfrsq (o : VX) : CtxId → QEntry → State → Perform :=
  floatOp1 o fun rm => specialCode .rsq o.ty rm

/-- `vfrsq` (spec/09 R174). -/
def execVfrsq (o : VX) (s : State) : Host.Outcome State Fault Refusal :=
  issue .c (.vfrsq o) o.tok 0 0 0 (performVfrsq o) s

/-- What `vfsqrt` does at the head of the C stream (spec/09 R174). -/
def performVfsqrt (o : VX) : CtxId → QEntry → State → Perform :=
  floatOp1 o fun rm => sqrtCode o.ty rm

/-- `vfsqrt` (spec/09 R174). -/
def execVfsqrt (o : VX) (s : State) : Host.Outcome State Fault Refusal :=
  issue .c (.vfsqrt o) o.tok 0 0 0 (performVfsqrt o) s

/-- What `vfexp2` does at the head of the C stream (spec/09 R174). -/
def performVfexp2 (o : VX) : CtxId → QEntry → State → Perform :=
  floatOp1 o fun rm => specialCode .exp2 o.ty rm

/-- `vfexp2` (spec/09 R174). -/
def execVfexp2 (o : VX) (s : State) : Host.Outcome State Fault Refusal :=
  issue .c (.vfexp2 o) o.tok 0 0 0 (performVfexp2 o) s

/-- What `vflog2` does at the head of the C stream (spec/09 R174). -/
def performVflog2 (o : VX) : CtxId → QEntry → State → Perform :=
  floatOp1 o fun rm => specialCode .log2 o.ty rm

/-- `vflog2` (spec/09 R174). -/
def execVflog2 (o : VX) (s : State) : Host.Outcome State Fault Refusal :=
  issue .c (.vflog2 o) o.tok 0 0 0 (performVflog2 o) s

/-- What `vftanh` does at the head of the C stream (spec/09 R174). -/
def performVftanh (o : VX) : CtxId → QEntry → State → Perform :=
  floatOp1 o fun rm => specialCode .tanh o.ty rm

/-- `vftanh` (spec/09 R174). -/
def execVftanh (o : VX) (s : State) : Host.Outcome State Fault Refusal :=
  issue .c (.vftanh o) o.tok 0 0 0 (performVftanh o) s

/-- What `vfsig` does at the head of the C stream (spec/09 R174). -/
def performVfsig (o : VX) : CtxId → QEntry → State → Perform :=
  floatOp1 o fun rm => specialCode .sig o.ty rm

/-- `vfsig` (spec/09 R174). -/
def execVfsig (o : VX) (s : State) : Host.Outcome State Fault Refusal :=
  issue .c (.vfsig o) o.tok 0 0 0 (performVfsig o) s

/-- What `vfclass` does at the head of the C stream (spec/09 R174). -/
def performVfclass (o : VX) : CtxId → QEntry → State → Perform :=
  floatOp1 o fun _ a => (classCode o.ty a, .none)

/-- `vfclass` (spec/09 R174). -/
def execVfclass (o : VX) (s : State) : Host.Outcome State Fault Refusal :=
  issue .c (.vfclass o) o.tok 0 0 0 (performVfclass o) s


end Sys2Proof.Machine
end

