-- ==== Sys2Proof/Machine/VConv.lean ====
section
/-! DEFINITION. Conversions, major 0x22 (spec/09 R175 to R177). -/

namespace Sys2Proof.Machine

/-- The flags of the elements below n that a predicate governs. -/
def flagsBelow (n : Nat) (p : PReg) (f : Nat → Nat × FFlags) : FFlags :=
  orFlags (((List.range n).filter fun j => bitP p j).map fun j => (f j).2)

/-- The factor of a conversion between two widths. -/
def cvtK (a b : Ty) : Nat := tyWidth a / tyWidth b

/-- What `vcvt` does at the head of the C stream (spec/09 R175). -/
def performVcvt (o : VX) : CtxId → QEntry → State → Perform :=
  floatOp1 o fun rm => cvtElem o.ty (cvtSrc o) rm (satOf o)

/-- `vcvt` (spec/09 R175). -/
def execVcvt (o : VX) (s : State) : Host.Outcome State Fault Refusal :=
  issue .c (.vcvt o) o.tok 0 0 0 (performVcvt o) s

/-- What `vnarrow` does at the head of the C stream (spec/09 R176). -/
def performVnarrow (o : VX) : CtxId → QEntry → State → Perform :=
  fun c e s => computeOp [] (some o.vd) (fun _ x =>
    let k := cvtK (cvtSrc o) o.ty
    let p := govern e o.pred x
    let f := fun j => cvtElem o.ty (cvtSrc o) (fpcRm x) (satOf o)
      (groupElem (tyWidth (cvtSrc o)) k (readGroup e o.va x) j)
    let r := floatMask (tyWidth o.ty) p (dstOld e o.vd x) f
    raiseFlags e.epoch r.2 (putDst e o.vd r.1 x)) c e s

/-- `vnarrow` (spec/09 R176). -/
def execVnarrow (o : VX) (s : State) : Host.Outcome State Fault Refusal :=
  issue .c (.vnarrow o) o.tok 0 0 0 (performVnarrow o) s

/-- What `vwiden` does at the head of the C stream (spec/09 R176). -/
def performVwiden (o : VX) : CtxId → QEntry → State → Perform :=
  fun c e s => computeOp [o.va] none (fun vs x =>
    let k := cvtK o.ty (cvtSrc o)
    let p := govern e o.pred x
    let f := fun j => cvtElem o.ty (cvtSrc o) (fpcRm x) (satOf o)
      (elem (tyWidth (cvtSrc o)) j (src vs 0))
    raiseFlags e.epoch (flagsBelow (tyCount (cvtSrc o)) p f)
      (writeGroup e o.vd (fun r =>
        widenReg (tyWidth o.ty) k r p (oldGroup e o.vd x r) fun j => (f j).1) k x)) c e s

/-- `vwiden` (spec/09 R176). -/
def execVwiden (o : VX) (s : State) : Host.Outcome State Fault Refusal :=
  issue .c (.vwiden o) o.tok 0 0 0 (performVwiden o) s

/-- The sources of `vrqs`: queues are possible only where the groups are single registers (spec/09
R177). -/
def vrqsSrcs (o : VX) : List (BitVec 6) := if tyK o.ty = 1 then [o.va, o.vb, o.vc] else []

/-- Register r of source i of `vrqs`. -/
def vrqsReg (o : VX) (e : QEntry) (vs : List VReg) (x : Ctx) (i r : Nat) : VReg :=
  if tyK o.ty = 1 then src vs i
  else readGroup e (if i = 0 then o.va else if i = 1 then o.vb else o.vc) x r

/-- What `vrqs` does at the head of the C stream (spec/09 R177). -/
def performVrqs (o : VX) : CtxId → QEntry → State → Perform :=
  fun c e s => computeOp (vrqsSrcs o) (some o.vd) (fun vs x =>
    let g := fun i j => groupElem 32 (tyK o.ty) (vrqsReg o e vs x i) j
    putDst e o.vd (underMask (tyWidth o.ty) (govern e o.pred x) (dstOld e o.vd x) fun j =>
      requant o.ty (g 0 j) (g 1 j) (g 2 j)) x) c e s

/-- `vrqs` (spec/09 R177). -/
def execVrqs (o : VX) (s : State) : Host.Outcome State Fault Refusal :=
  issue .c (.vrqs o) o.tok 0 0 0 (performVrqs o) s


end Sys2Proof.Machine
end

