-- ==== Sys2Proof/Machine/VPerm.lean ====
section
/-! DEFINITION. Permutations and reductions, major 0x23 (spec/09 R178 to R183). -/

namespace Sys2Proof.Machine

/-- What `vperm` does at the head of the C stream (spec/09 R178). -/
def performVperm (o : VX) : CtxId → QEntry → State → Perform :=
  vecOp [o.va, o.vb] o.vd o.pred fun vs p old =>
    underMask (tyWidth o.ty) p old
      (permElem o.ty (o.imm.extractLsb' 0 10).toNat (src vs 0) (src vs 1))

/-- `vperm` (spec/09 R178). -/
def execVperm (o : VX) (s : State) : Host.Outcome State Fault Refusal :=
  issue .c (.vperm o) o.tok 0 0 0 (performVperm o) s

/-- The count of a slide, imm14[10:0] (spec/09 R179). -/
def slideCount (o : VX) : Nat := (o.imm.extractLsb' 0 11).toNat

/-- What `vslideup` does at the head of the C stream (spec/09 R179). -/
def performVslideup (o : VX) : CtxId → QEntry → State → Perform :=
  vecOp [o.va, o.vb] o.vd o.pred fun vs p old =>
    underMask (tyWidth o.ty) p old (slideUpElem o.ty (slideCount o) (src vs 0) (src vs 1))

/-- `vslideup` (spec/09 R179). -/
def execVslideup (o : VX) (s : State) : Host.Outcome State Fault Refusal :=
  issue .c (.vslideup o) o.tok 0 0 0 (performVslideup o) s

/-- What `vslidedn` does at the head of the C stream (spec/09 R179). -/
def performVslidedn (o : VX) : CtxId → QEntry → State → Perform :=
  vecOp [o.va, o.vb] o.vd o.pred fun vs p old =>
    underMask (tyWidth o.ty) p old (slideDnElem o.ty (slideCount o) (src vs 0) (src vs 1))

/-- `vslidedn` (spec/09 R179). -/
def execVslidedn (o : VX) (s : State) : Host.Outcome State Fault Refusal :=
  issue .c (.vslidedn o) o.tok 0 0 0 (performVslidedn o) s

/-- What `vzip` does at the head of the C stream (spec/09 R180). -/
def performVzip (o : VX) : CtxId → QEntry → State → Perform :=
  fun c e s => computeOp [o.va, o.vb] none (fun vs x =>
    writeGroup e o.vd (fun r => buildV (tyWidth o.ty) fun j =>
      zipElem o.ty (src vs 0) (src vs 1) (r * tyCount o.ty + j)) 2 x) c e s

/-- `vzip` (spec/09 R180). -/
def execVzip (o : VX) (s : State) : Host.Outcome State Fault Refusal :=
  issue .c (.vzip o) o.tok 0 0 0 (performVzip o) s

/-- What `vunzip` does at the head of the C stream (spec/09 R180). -/
def performVunzip (o : VX) : CtxId → QEntry → State → Perform :=
  fun c e s => computeOp [] none (fun _ x =>
    writeGroup e o.vd (fun r => buildV (tyWidth o.ty) fun j =>
      pairElem o.ty (readGroup e o.va x 0) (readGroup e o.va x 1) (2 * j + r)) 2 x) c e s

/-- `vunzip` (spec/09 R180). -/
def execVunzip (o : VX) (s : State) : Host.Outcome State Fault Refusal :=
  issue .c (.vunzip o) o.tok 0 0 0 (performVunzip o) s

/-- What `vbcast` does at the head of the C stream (spec/09 R181). -/
def performVbcast (o : VX) : CtxId → QEntry → State → Perform :=
  vecOp [o.va] o.vd o.pred fun vs p old =>
    underMask (tyWidth o.ty) p old fun _ => el o vs 0 (o.imm.extractLsb' 0 10).toNat

/-- `vbcast` (spec/09 R181). -/
def execVbcast (o : VX) (s : State) : Host.Outcome State Fault Refusal :=
  issue .c (.vbcast o) o.tok 0 0 0 (performVbcast o) s

/-- A reduction: its value in element 0 of vd, zeros above, whatever the predicate (spec/09 R182). -/
def reduceOp (o : VX) (f : Rm → PReg → VReg → VReg → VReg × FFlags) :
    CtxId → QEntry → State → Perform :=
  floatOp [o.va, o.vb] o.vd o.pred fun rm vs p _ => f rm p (src vs 0) (src vs 1)

/-- What `vredsum` does at the head of the C stream (spec/09 R182). -/
def performVredsum (o : VX) : CtxId → QEntry → State → Perform :=
  reduceOp o fun rm p a b =>
    let r := redsumVal o.ty rm (satOf o) p a b
    (elem0 32 r.1, r.2)

/-- `vredsum` (spec/09 R182). -/
def execVredsum (o : VX) (s : State) : Host.Outcome State Fault Refusal :=
  issue .c (.vredsum o) o.tok 0 0 0 (performVredsum o) s

/-- What `vredmax` does at the head of the C stream (spec/09 R182). -/
def performVredmax (o : VX) : CtxId → QEntry → State → Perform :=
  reduceOp o fun _ p a b => (elem0 (tyWidth o.ty) (redpickVal o.ty true p a b), .none)

/-- `vredmax` (spec/09 R182). -/
def execVredmax (o : VX) (s : State) : Host.Outcome State Fault Refusal :=
  issue .c (.vredmax o) o.tok 0 0 0 (performVredmax o) s

/-- What `vredmin` does at the head of the C stream (spec/09 R182). -/
def performVredmin (o : VX) : CtxId → QEntry → State → Perform :=
  reduceOp o fun _ p a b => (elem0 (tyWidth o.ty) (redpickVal o.ty false p a b), .none)

/-- `vredmin` (spec/09 R182). -/
def execVredmin (o : VX) (s : State) : Host.Outcome State Fault Refusal :=
  issue .c (.vredmin o) o.tok 0 0 0 (performVredmin o) s

/-- What `vscan` does at the head of the C stream (spec/09 R183). -/
def performVscan (o : VX) : CtxId → QEntry → State → Perform :=
  floatOp [o.va, o.vb] o.vd o.pred fun rm vs p old =>
    scanReg o.ty rm (satOf o) p (src vs 0) (src vs 1) old

/-- `vscan` (spec/09 R183). -/
def execVscan (o : VX) (s : State) : Host.Outcome State Fault Refusal :=
  issue .c (.vscan o) o.tok 0 0 0 (performVscan o) s


end Sys2Proof.Machine
end

