-- ==== Sys2Proof/Machine/VPred.lean ====
section
/-! DEFINITION. Predicates and register moves, majors 0x24 and 0x25 (spec/08 R161 to R163). -/

namespace Sys2Proof.Machine

/-- A predicate instruction of two sources: every bit of pd is written (spec/08 R161). -/
def maskOp2 (o : VX) (f : Bool → Bool → Bool) : CtxId → QEntry → State → Perform :=
  fun c e s => predOp [] (fun _ x =>
    let p := govern e o.pred x
    let a := predOf e o.va x
    let b := predOf e o.vb x
    putPred e o.vd (buildP (predCount o.ty) fun j => bitP p j && f (bitP a j) (bitP b j)) x) c e s

/-- A predicate instruction of one source (spec/08 R161). -/
def maskOp1 (o : VX) (f : Bool → Bool) : CtxId → QEntry → State → Perform :=
  fun c e s => predOp [] (fun _ x =>
    let p := govern e o.pred x
    let a := predOf e o.va x
    putPred e o.vd (buildP (predCount o.ty) fun j => bitP p j && f (bitP a j)) x) c e s

/-- What `pand` does at the head of the C stream (spec/08 R161). -/
def performPand (o : VX) : CtxId → QEntry → State → Perform :=
  maskOp2 o fun a b => a && b

/-- `pand` (spec/08 R161). -/
def execPand (o : VX) (s : State) : Host.Outcome State Fault Refusal :=
  issue .c (.pand o) o.tok 0 0 0 (performPand o) s

/-- What `por` does at the head of the C stream (spec/08 R161). -/
def performPor (o : VX) : CtxId → QEntry → State → Perform :=
  maskOp2 o fun a b => a || b

/-- `por` (spec/08 R161). -/
def execPor (o : VX) (s : State) : Host.Outcome State Fault Refusal :=
  issue .c (.por o) o.tok 0 0 0 (performPor o) s

/-- What `pxor` does at the head of the C stream (spec/08 R161). -/
def performPxor (o : VX) : CtxId → QEntry → State → Perform :=
  maskOp2 o fun a b => a != b

/-- `pxor` (spec/08 R161). -/
def execPxor (o : VX) (s : State) : Host.Outcome State Fault Refusal :=
  issue .c (.pxor o) o.tok 0 0 0 (performPxor o) s

/-- What `pandn` does at the head of the C stream (spec/08 R161). -/
def performPandn (o : VX) : CtxId → QEntry → State → Perform :=
  maskOp2 o fun a b => a && !b

/-- `pandn` (spec/08 R161). -/
def execPandn (o : VX) (s : State) : Host.Outcome State Fault Refusal :=
  issue .c (.pandn o) o.tok 0 0 0 (performPandn o) s

/-- What `pnot` does at the head of the C stream (spec/08 R161). -/
def performPnot (o : VX) : CtxId → QEntry → State → Perform :=
  maskOp1 o fun a => !a

/-- `pnot` (spec/08 R161). -/
def execPnot (o : VX) (s : State) : Host.Outcome State Fault Refusal :=
  issue .c (.pnot o) o.tok 0 0 0 (performPnot o) s

/-- What `pfirst` does at the head of the C stream (spec/08 R161). -/
def performPfirst (o : VX) : CtxId → QEntry → State → Perform :=
  fun c e s => predOp [] (fun _ x =>
    let p := govern e o.pred x
    let a := predOf e o.va x
    let first := firstBit (predCount o.ty) fun j => bitP p j && bitP a j
    putPred e o.vd (buildP (predCount o.ty) fun j => first == some j) x) c e s

/-- `pfirst` (spec/08 R161). -/
def execPfirst (o : VX) (s : State) : Host.Outcome State Fault Refusal :=
  issue .c (.pfirst o) o.tok 0 0 0 (performPfirst o) s

/-- What `ptest` does at the head of the C stream (spec/08 R162). -/
def performPtest (o : VX) : CtxId → QEntry → State → Perform :=
  fun c e s => predOp [] (fun _ x =>
    let v := ptestFlag (predCount o.ty) (govern e o.pred x) (predOf e o.va x)
    setFlag e.pos e.epoch (Fin.ofNat 4 o.vd.toNat) v x) c e s

/-- `ptest` (spec/08 R162). -/
def execPtest (o : VX) (s : State) : Host.Outcome State Fault Refusal :=
  issue .c (.ptest o) o.tok 0 0 0 (performPtest o) s

/-- What `pmov` does at the head of the C stream (spec/08 R161). -/
def performPmov (o : VX) : CtxId → QEntry → State → Perform :=
  maskOp1 o fun a => a

/-- `pmov` (spec/08 R161). -/
def execPmov (o : VX) (s : State) : Host.Outcome State Fault Refusal :=
  issue .c (.pmov o) o.tok 0 0 0 (performPmov o) s

/-- The immediate of `vli` and `viota`, sign-extended (spec/08 R163). -/
def immVX (o : VX) : Int := sextI 14 o.imm.toNat

/-- What `vmov` does at the head of the C stream (spec/08 R163). -/
def performVmov (o : VX) : CtxId → QEntry → State → Perform :=
  vecOp [o.va] o.vd o.pred fun vs p old =>
    underMask (tyWidth o.ty) p old fun j => el o vs 0 j

/-- `vmov` (spec/08 R163). -/
def execVmov (o : VX) (s : State) : Host.Outcome State Fault Refusal :=
  issue .c (.vmov o) o.tok 0 0 0 (performVmov o) s

/-- What `vli` does at the head of the C stream (spec/08 R163). -/
def performVli (o : VX) : CtxId → QEntry → State → Perform :=
  vecOp [] o.vd o.pred fun _ p old =>
    underMask (tyWidth o.ty) p old fun _ => wrapN (tyWidth o.ty) (immVX o)

/-- `vli` (spec/08 R163). -/
def execVli (o : VX) (s : State) : Host.Outcome State Fault Refusal :=
  issue .c (.vli o) o.tok 0 0 0 (performVli o) s

/-- What `viota` does at the head of the C stream (spec/08 R163). -/
def performViota (o : VX) : CtxId → QEntry → State → Perform :=
  vecOp [] o.vd o.pred fun _ p old =>
    underMask (tyWidth o.ty) p old fun j => wrapN (tyWidth o.ty) ((j : Int) + immVX o)

/-- `viota` (spec/08 R163). -/
def execViota (o : VX) (s : State) : Host.Outcome State Fault Refusal :=
  issue .c (.viota o) o.tok 0 0 0 (performViota o) s

/-- What `vdup` does at the head of the C stream (spec/08 R163). -/
def performVdup (o : VX) : CtxId → QEntry → State → Perform :=
  fun c e s => vecOp [] o.vd o.pred (fun _ p old =>
    underMask (tyWidth o.ty) p old fun _ => zextN (tyWidth o.ty) e.a.toNat) c e s

/-- `vdup` (spec/08 R163). -/
def execVdup (o : VX) (s : State) : Host.Outcome State Fault Refusal :=
  issue .c (.vdup o) o.tok (o.imm.extractLsb' 0 5) 0 0 (performVdup o) s

/-- What `vclr` does at the head of the C stream (spec/08 R163). -/
def performVclr (o : VX) : CtxId → QEntry → State → Perform :=
  vecOp [] o.vd o.pred fun _ p old =>
    underMask (tyWidth o.ty) p old fun _ => 0

/-- `vclr` (spec/08 R163). -/
def execVclr (o : VX) (s : State) : Host.Outcome State Fault Refusal :=
  issue .c (.vclr o) o.tok 0 0 0 (performVclr o) s


end Sys2Proof.Machine
end

