-- ==== Sys2Proof/Machine/Perform.lean ====
section
/-! DEFINITION. The turns of the streams: what the head of a stream does (spec/02 R23, spec/06 R104 to
R109, spec/14 R279). -/

namespace Sys2Proof.Machine

/-- The stream, the tokens and the effect of an instruction at the head of a stream; none for what the
front executes itself. A home that grants an acquire to a waiter passes `woken`. -/
def headOf (woken : Bool) : Instr → Option (Stream × Tok × (CtxId → QEntry → State → Perform))
  | .csrw _ => some (.c, Tok.none, performFpc)
  | .csrs _ => some (.c, Tok.none, performFpc)
  | .csrc _ => some (.c, Tok.none, performFpc)
  | .guardMax _ => some (.c, Tok.none, performGuard)
  | .guardSsq _ => some (.c, Tok.none, performGuard)
  | .ldV o => some (.l, o.tok, performLdV o)
  | .ldVs o => some (.l, o.tok, performLdVs o)
  | .ldVx o => some (.l, o.tok, performLdVx o)
  | .ldBc o => some (.l, o.tok, performLdBc o)
  | .ldQsc o => some (.l, o.tok, performLdQsc o)
  | .lds o => some (.l, o.tok, performLds o)
  | .gatA o => some (.l, o.tok, performGatA o)
  | .acq o => some (.l, o.tok, performAcq woken o)
  | .waitw o => some (.l, o.tok, performWaitw o)
  | .ringwf o => some (.l, o.tok, performRingwf woken o)
  | .ringfree o => some (.l, o.tok, performRingfree o)
  | .tlwait o => some (.l, o.tok, performTlwait o)
  | .eset o => some (.l, o.tok, performEng .l o)
  | .efire o => some (.l, o.tok, performEng .l o)
  | .eclr o => some (.l, o.tok, performEng .l o)
  | .cbload o => some (.l, o.tok, performEng .l o)
  | .kwaitL o => some (.l, o.tok, performKwait o)
  | .ksigL o => some (.l, o.tok, performKsig .l o)
  | .vadd o => some (.c, o.tok, performVadd o)
  | .vsub o => some (.c, o.tok, performVsub o)
  | .vaddSat o => some (.c, o.tok, performVaddSat o)
  | .vsubSat o => some (.c, o.tok, performVsubSat o)
  | .vmul o => some (.c, o.tok, performVmul o)
  | .vmulh o => some (.c, o.tok, performVmulh o)
  | .vmla o => some (.c, o.tok, performVmla o)
  | .vmlaW o => some (.c, o.tok, performVmlaW o)
  | .vmulW o => some (.c, o.tok, performVmulW o)
  | .vabs o => some (.c, o.tok, performVabs o)
  | .vneg o => some (.c, o.tok, performVneg o)
  | .vmin o => some (.c, o.tok, performVmin o)
  | .vmax o => some (.c, o.tok, performVmax o)
  | .vand o => some (.c, o.tok, performVand o)
  | .vor o => some (.c, o.tok, performVor o)
  | .vxor o => some (.c, o.tok, performVxor o)
  | .vandn o => some (.c, o.tok, performVandn o)
  | .vshl o => some (.c, o.tok, performVshl o)
  | .vshr o => some (.c, o.tok, performVshr o)
  | .vrshr o => some (.c, o.tok, performVrshr o)
  | .vclz o => some (.c, o.tok, performVclz o)
  | .vpopc o => some (.c, o.tok, performVpopc o)
  | .vavg o => some (.c, o.tok, performVavg o)
  | .vcmp o => some (.c, o.tok, performVcmp o)
  | .vsel o => some (.c, o.tok, performVsel o)
  | .vdot4 o => some (.c, o.tok, performVdot4 o)
  | .vfadd o => some (.c, o.tok, performVfadd o)
  | .vfsub o => some (.c, o.tok, performVfsub o)
  | .vfmul o => some (.c, o.tok, performVfmul o)
  | .vfma o => some (.c, o.tok, performVfma o)
  | .vfnma o => some (.c, o.tok, performVfnma o)
  | .vfmin o => some (.c, o.tok, performVfmin o)
  | .vfmax o => some (.c, o.tok, performVfmax o)
  | .vfabs o => some (.c, o.tok, performVfabs o)
  | .vfneg o => some (.c, o.tok, performVfneg o)
  | .vfcmp o => some (.c, o.tok, performVfcmp o)
  | .vfrcp o => some (.c, o.tok, performVfrcp o)
  | .vfrsq o => some (.c, o.tok, performVfrsq o)
  | .vfsqrt o => some (.c, o.tok, performVfsqrt o)
  | .vfexp2 o => some (.c, o.tok, performVfexp2 o)
  | .vflog2 o => some (.c, o.tok, performVflog2 o)
  | .vftanh o => some (.c, o.tok, performVftanh o)
  | .vfsig o => some (.c, o.tok, performVfsig o)
  | .vfclass o => some (.c, o.tok, performVfclass o)
  | .vcvt o => some (.c, o.tok, performVcvt o)
  | .vnarrow o => some (.c, o.tok, performVnarrow o)
  | .vwiden o => some (.c, o.tok, performVwiden o)
  | .vrqs o => some (.c, o.tok, performVrqs o)
  | .vperm o => some (.c, o.tok, performVperm o)
  | .vslideup o => some (.c, o.tok, performVslideup o)
  | .vslidedn o => some (.c, o.tok, performVslidedn o)
  | .vzip o => some (.c, o.tok, performVzip o)
  | .vunzip o => some (.c, o.tok, performVunzip o)
  | .vbcast o => some (.c, o.tok, performVbcast o)
  | .vredsum o => some (.c, o.tok, performVredsum o)
  | .vredmax o => some (.c, o.tok, performVredmax o)
  | .vredmin o => some (.c, o.tok, performVredmin o)
  | .vscan o => some (.c, o.tok, performVscan o)
  | .pand o => some (.c, o.tok, performPand o)
  | .por o => some (.c, o.tok, performPor o)
  | .pxor o => some (.c, o.tok, performPxor o)
  | .pandn o => some (.c, o.tok, performPandn o)
  | .pnot o => some (.c, o.tok, performPnot o)
  | .pfirst o => some (.c, o.tok, performPfirst o)
  | .ptest o => some (.c, o.tok, performPtest o)
  | .pmov o => some (.c, o.tok, performPmov o)
  | .vmov o => some (.c, o.tok, performVmov o)
  | .vli o => some (.c, o.tok, performVli o)
  | .viota o => some (.c, o.tok, performViota o)
  | .vdup o => some (.c, o.tok, performVdup o)
  | .vclr o => some (.c, o.tok, performVclr o)
  | .mma o => some (.c, o.tok, performMma o)
  | .mzero o => some (.c, o.tok, performMzero o)
  | .mwr o => some (.c, o.tok, performMwr o)
  | .mrd o => some (.c, o.tok, performMrd o)
  | .mdrain o => some (.c, o.tok, performMdrain o)
  | .kwaitC o => some (.c, o.tok, performKwait o)
  | .ksigC o => some (.c, o.tok, performKsig .c o)
  | .stV o => some (.s, o.tok, performStV o)
  | .stVs o => some (.s, o.tok, performStVs o)
  | .stVx o => some (.s, o.tok, performStVx o)
  | .sts o => some (.s, o.tok, performSts o)
  | .rel o => some (.s, o.tok, performRel o)
  | .ringwe o => some (.s, o.tok, performRingwe woken o)
  | .ringpub o => some (.s, o.tok, performRingpub o)
  | .setw o => some (.s, o.tok, performSetw o)
  | .tlsig o => some (.s, o.tok, performTlsig o)
  | .amo o => some (.s, o.tok, performAmo o)
  | .red o => some (.s, o.tok, performRed o)
  | .vred o => some (.s, o.tok, performVred o)
  | .tpost o => some (.s, o.tok, performTpost o)
  | .tjoin o => some (.s, o.tok, performTjoin o)
  | .grais o => some (.s, o.tok, performGrais o)
  | .esetS o => some (.s, o.tok, performEng .s o)
  | .efireS o => some (.s, o.tok, performEng .s o)
  | .eclrS o => some (.s, o.tok, performEng .s o)
  | .cbloadS o => some (.s, o.tok, performEng .s o)
  | .kwaitS o => some (.s, o.tok, performKwait o)
  | .ksigS o => some (.s, o.tok, performKsig .s o)
  | _ => none

/-- What a turn comes to: whether it has moved anything on, and the state. -/
abbrev Moved := Bool × State

/-- The first of two turns that moves something on. -/
def orElse (r : Moved) (k : State → Moved) : Moved := if r.1 then r else k r.2

/-- An instruction that has been put aside would complete if the channels it signals had room (spec/02 R28). -/
def asideStuck (s : State) (c : CtxId) (e : QEntry) : Bool :=
  match headOf false e.instr with
  | none => false
  | some (st, t, perf) =>
    !tokRoom (s.ctx c) st t && !behindFault (s.ctx c) e &&
      if e.aside then !((s.ctx c).sync.unsent.any fun u => u.pos == e.pos)
      else
        match perf c e (actFor c e.epoch s) with
        | .done _ => true
        | _ => false

/-- The last K step of an `mma` of a context waits for the channels that it signals (spec/02 R28). -/
def mmaStuck (s : State) (c : CtxId) : Bool :=
  (s.core (coreOf c)).mmaRun.any fun m =>
    m.ctx == c && decide (groupCount m.op ≤ m.step + 1) && !tokRoom (s.ctx c) .c m.op.tok

/-- A stream stalls while an instruction of it that has begun waits for room in a channel that it signals (spec/02
R28). -/
def signalStuck (s : State) (c : CtxId) (st : Stream) : Bool :=
  ((s.ctx c).q.parked.any fun e => e.st == st && asideStuck s c e) || (st == .c && mmaStuck s c)

/-- What a wait has changed that counts as going on: a waiter registered at a home (spec/14 R279), or a lease taken
(spec/10 R194). -/
def waitMoved (c : CtxId) (s t : State) : Bool :=
  t.waiters.length != s.waiters.length || (t.core (coreOf c)).lease != (s.core (coreOf c)).lease

/-- A head of a stream tried in its turn: one that its stalled stream keeps from beginning takes a free lease all the same
(spec/10 R194). -/
def headTurn (woken : Bool) (st : Stream) (c : CtxId) (e : QEntry) (s : State) : Moved :=
  match headOf woken e.instr with
  | none => (false, s)
  | some (_, t, perf) =>
    if !e.begun && signalStuck s c st then
      let t := if behindFault (s.ctx c) e then s else leaseFor c e.instr s
      (waitMoved c s t, t)
    else
      match attempt st t perf c e s with
      | .wait t => (waitMoved c s t, t)
      | .held t => (!e.begun || waitMoved c s t, tryHead st c e (.held t))
      | p => (true, tryHead st c e p)

/-- What a head that would complete, but for what its turn leaves under way, goes on with: it begins, and its tokens are
taken. -/
def beginHead (st : Stream) (c : CtxId) (e : QEntry) (s : State) (k : Tok → QEntry → State → State) : State :=
  match headOf false e.instr with
  | none => s
  | some (_, t, perf) =>
    if behindFault (s.ctx c) e || (!e.begun && (!mayBegin (s.ctx c) st t e || signalStuck s c st)) then s
    else
      match perf c e (actFor c e.epoch (settleAside c e s)) with
      | .done _ => k t { e with begun := true } (beginTake st t c e s)
      | .held s' => k t { e with begun := true } (beginTake st t c e s')
      | _ => s

/-- A sample of what an instruction finds; the context's own posted writes are in it (spec/15 R301). -/
def sampleOf (c : CtxId) (s : State) : State × Sample :=
  let s := (flushPosted c s).bumpFree
  (s, { v := (s.ctx c).regs.v, p := (s.ctx c).regs.p, mem := s.mem, draw := s.freeCtr, fixed := false })

/-- The head of a stream begins and reads part of its sources now and part of them as it completes (spec/02 R27,
spec/06 R106, spec/15 R302). -/
def beginTurn (st : Stream) (c : CtxId) (s : State) : State :=
  match ((s.ctx c).q.get st).head? with
  | none => s
  | some e => beginHead st c e s fun _ e s =>
      let r := sampleOf c s
      setHead st c { e with sample := some r.2 } r.1

/-- A store at the head of the S stream is put aside: it has read its sources, its lines for main memory are in the weir
buffer, and those for slices are to go out (spec/11 R208, spec/15 R300). -/
def storeAside (c : CtxId) (e : QEntry) (s : State) : State :=
  let q : QEntry := { e with aside := true }
  match headOf false e.instr with
  | none => s
  | some (st, t, perf) =>
    if e.begun || behindFault (s.ctx c) e || !mayBegin (s.ctx c) st t e || signalStuck s c st then s
    else
      match perf c q (actFor c e.epoch s) with
      | .done s' => parkQ c q (dropHead st c (beginTake st t c e s'))
      | _ => s

/-- The head of a stream is put aside: it has begun, and its stream goes on (spec/06 R104). -/
def asideTurn (st : Stream) (c : CtxId) (s : State) : State :=
  match ((s.ctx c).q.get st).head? with
  | none => s
  | some e =>
    if isStore e.instr then storeAside c e s
    else if mayAside e.instr then beginHead st c e s fun _ e s => parkQ c e (dropHead st c s) else s

/-- What an instruction leaves that had been put aside: later ones of its stream read nothing older than it has read,
and what they read before it is forgotten when nothing is aside any more (spec/15 R302). -/
def leaveAside (c : CtxId) (e : QEntry) (s : State) : State :=
  let now := s.mem
  let fresh := fun (t : QEntry) =>
    if t.st = e.st ∧ e.pos < t.pos then { t with sample := t.sample.map fun k => { k with mem := now } } else t
  s.modCtx c fun x =>
    let rest := x.q.parked.filter fun t => t.pos != e.pos
    { x with
      q := { x.q with l := x.q.l.map fresh, parked := rest.map fresh }
      reads := if rest.isEmpty then [] else x.reads }

/-- A store put aside goes on: its lines land as far as they can, and it completes with the last one. -/
def storeTurn (t : Tok) (c : CtxId) (e : QEntry) (s : State) : Moved :=
  let s' := landStore c e.pos s
  let left := (s'.ctx c).sync.unsent.any fun u => u.pos == e.pos
  if !left && tokRoom (s'.ctx c) .s t then (true, (leaveAside c e s').modCtx c (tokGive e.epoch .s t))
  else ((s'.ctx c).sync.unsent.length != (s.ctx c).sync.unsent.length, s')

/-- An instruction put aside tried again: its tokens are taken (spec/06 R104, R109). -/
def parkedTurn (c : CtxId) (e : QEntry) (s : State) : Moved :=
  match headOf false e.instr with
  | none => (false, s)
  | some (st, t, perf) =>
    if behindFault (s.ctx c) e then (false, s)
    else if e.aside then storeTurn t c e s
    else
      match perf c e (actFor c e.epoch (settleAside c e s)) with
      | .done s' =>
        if tokRoom (s'.ctx c) st t then (true, (leaveAside c e s').modCtx c (tokGive e.epoch st t))
        else (false, s)
      | .held s' => (false, s')
      | .fault s cause tval pe => (true, raiseFault c e.epoch (faultRec cause tval e.pos pe) s)
      | _ => (false, s)

/-- The instructions put aside tried in their order. -/
def parkedTurns (c : CtxId) : List QEntry → State → Moved
  | [], s => (false, s)
  | e :: es, s => orElse (parkedTurn c e s) (parkedTurns c es)

/-- The head of a stream, past what waits aside (spec/06 R104). -/
def pastTurn (st : Stream) (c : CtxId) (s : State) : Moved :=
  match ((s.ctx c).q.get st).head? with
  | none => (false, s)
  | some e => headTurn false st c e s

/-- A turn of a stream of a context: it first completes what it has put aside. -/
def streamTurn (st : Stream) (c : CtxId) (s : State) : Moved :=
  orElse (parkedTurns c ((s.ctx c).q.parked.filter fun t => t.st == st) s) (pastTurn st c)

/-! ## The order before a page fault -/

/-- The younger region has found a page fault: the front has stopped, and the older region completes in order (spec/18
R358). -/
def pageWaits (x : Ctx) : Bool := x.older.isSome && x.reg.fault.any fun f => isPageFault f.cause

/-- An instruction of the older region is left in a stream. -/
def olderLeft (x : Ctx) (st : Stream) : Bool :=
  (x.q.get st ++ x.q.parked.filter fun t => t.st == st).any fun t => decide (t.epoch < x.reg.epoch)

/-- The port of a context at which its stream presents what it waits for. -/
def bankWaits (s : State) (c : CtxId) (st : Stream) : Bool :=
  (s.core (coreOf c)).now.any fun u => u.by_ == some c && u.req.isSome &&
    match st with
    | .l => u.port == portL c || u.port == 5
    | .c => false
    | .s => u.port == portS c

/-- The older region has an instruction in a stream that goes on, or that waits for a bank only. -/
def olderGoes (s : State) (c : CtxId) (st : Stream) : Bool :=
  (olderLeft (s.ctx c) st && ((streamTurn st c s).1 || bankWaits s c st)) ||
    (st == .c && (s.core (coreOf c)).mmaRun.any fun m => m.ctx == c && decide (m.epoch < (s.ctx c).reg.epoch))

/-- A stream may go on: before a page fault the L stream of the older region goes first, then its C stream, then its S
stream, as far as each can (spec/18 R358; DEDUCED, notes/assumptions/81.md). -/
def mayGo (s : State) (c : CtxId) (st : Stream) : Bool :=
  !pageWaits (s.ctx c) ||
    match st with
    | .l => true
    | .c => !olderGoes s c .l
    | .s => !olderGoes s c .l && !olderGoes s c .c

/-- A turn of a stream in that order. -/
def orderedTurn (st : Stream) (c : CtxId) (s : State) : Moved :=
  if mayGo s c st then streamTurn st c s else (false, s)

end Sys2Proof.Machine
end

