-- ==== Sys2Proof/Machine/Drain.lean ====
section
/-! DEFINITION. What has retired reaches its home: the drain of the weir buffers, posted writes,
reductions, deferred effects and join posts (spec/05 R95, R100, spec/11 R209, R211, spec/14 R278, R290,
spec/15 R306). -/

namespace Sys2Proof.Machine

/-! ## Weir buffers and posted writes -/

/-- A reduction that the context made before a write is still on its way to bytes of it (spec/05
R100). -/
def redBefore (x : Ctx) (seq : Nat) (w : LineWrite) : Bool :=
  x.sync.red.any fun r => decide (r.seq < seq) && r.items.any fun i => itemHits r.wide w i

/-- Entries of one context that drain in an order: those of different regions, those that came late,
and those that share a line (spec/11 R211). -/
def drainAfter (u t : WeirEntry) : Bool :=
  u.ctx == t.ctx && u.committed &&
    (u.epoch != t.epoch || u.late || t.late || u.w.line == t.w.line)

/-- A committed entry may drain: nothing is left that drains before it (spec/11 R211). -/
def drainReady (s : State) (before : List WeirEntry) (t : WeirEntry) : Bool :=
  t.committed && !before.any (fun u => drainAfter u t) && !redBefore (s.ctx t.ctx) t.seq t.w

/-- Entry n of a weir buffer drained to its home (spec/11 R211, R215). A home that has been struck takes nothing: the entry
is lost (spec/19 R369). -/
def weirDrain (h : HalfId) (n : Nat) (s : State) : State :=
  let ws := (s.half h).weir
  match ws[n]? with
  | none => s
  | some t =>
    if !drainReady s (ws.take n) t then s
    else if struckAt s t.w.line then
      lostWrite t.ctx (decide ((s.ctx t.ctx).id.gen = t.gen)) t.op t.va (s.modHalf h (weirDrop n))
    else { s with mem := memLine s.mem t.w }.modHalf h (weirErase n)

/-- The first entry of a weir buffer that may drain. -/
def drainNext (s : State) (h : HalfId) : Option Nat :=
  let ws := (s.half h).weir
  (List.range ws.length).find? fun n =>
    match ws[n]? with
    | some t => drainReady s (ws.take n) t
    | none => false

/-- WEIR_DRAIN (spec/11 R211). -/
def execWeirDrain (h : HalfId) (n : Nat) (s : State) : Host.Outcome State Fault Refusal :=
  .next (weirDrain h n s)

/-- Posted line n of a context written at its slice and acknowledged; lines of one place keep their
order (spec/11 R208, R209). One for a slice that has been struck is lost (spec/19 R369). -/
def postedAck (c : CtxId) (n : Nat) (s : State) : State :=
  let ps := (s.ctx c).sync.posted
  match ps[n]? with
  | none => s
  | some p =>
    let gone := fun (x : Ctx) => { x with sync := { x.sync with posted := x.sync.posted.eraseIdx n } }
    if struckAt s p.w.line then lostSent c p.op p.va (s.modCtx c gone)
    else if homeShut s p.w.line || (ps.take n).any fun q => q.w.line == p.w.line then s
    else (presentFar .write [p.w.line] { s with mem := memLine s.mem p.w }).modCtx c gone

/-- POSTED_ACK (spec/11 R209). -/
def execPostedAck (c : CtxId) (n : Nat) (s : State) : Host.Outcome State Fault Refusal :=
  .next (postedAck c n s)

/-! ## Acknowledgements -/

/-- A line at an address shares a byte with a range of addresses (spec/14 R278). -/
def lineMeets (va base : Word) (len : Nat) : Bool :=
  decide (base.toNat < va.toNat + 64) && decide (va.toNat < base.toNat + len)

/-- An entry of a weir buffer holds a write to a range of addresses (spec/14 R278). -/
def entryMeets (w : WeirEntry) (base : Word) (len : Nat) : Bool := (w.va :: w.also).any fun va => lineMeets va base len

/-- The writes of a context before a place in its order that a release waits for: those in its range, or
all (spec/14 R278). -/
def unacked (s : State) (c : CtxId) (seq : Nat) (all : Bool) (base : Word) (len : Nat) : Bool :=
  ((s.ctx c).sync.posted.any fun p => decide (p.seq < seq) && (all || lineMeets p.va base len)) ||
    ((s.half (halfOf c)).weir.any fun w =>
      w.ctx == c && decide (w.seq < seq) && (all || entryMeets w base len))

/-- A signal at system scope waits for every committed entry of its context (spec/14 R278). -/
def drainsAll (s : State) (c : CtxId) (d : DeferredRec) : Bool :=
  match d.eff with
  | .tlsig _ _ => d.scope == 5 && (s.half (halfOf c)).weir.any fun w => w.ctx == c && w.committed
  | _ => false

/-- A ring effect waits at the home for an earlier claim (spec/14 R286). -/
def ringWaits (s : State) (d : Deferred) : Bool :=
  match d with
  | .ringpub key v => memWord s.mem (key + 0x20) != BitVec.ofNat 64 v
  | .ringfree key v => memWord s.mem (key + 0x30) != BitVec.ofNat 64 v
  | _ => false

/-- An earlier effect of a stream has not taken place (spec/13 R260, spec/14 R278): a ring effect that
waits at its home for another claim holds nothing else back. -/
def effectBefore (s : State) (c : CtxId) (st : Stream) (seq : Nat) : Bool :=
  ((s.ctx c).sync.deferred.any fun d =>
    d.retired && d.stream == st && decide (d.seq < seq) && !ringWaits s d.eff) ||
  (st == .s && (s.ctx c).sync.red.any fun r => r.committed && decide (r.seq < seq))

/-! ## Reductions -/

/-- One element of a request read, changed and written at its home (spec/05 R95, R96). -/
def reduceItem (op : Nat) (wide : Bool) (m : List Host.Cell) (i : Nat × Nat) : List Host.Cell :=
  let n := if wide then 8 else 4
  memPutNat m i.1 n (homeOp op (8 * n) (memNat m i.1 n) i.2)

/-- The context's own earlier writes to the bytes of a request are on their way (spec/05 R100). -/
def writesBefore (s : State) (c : CtxId) (r : RedReq) : Bool :=
  let hits := fun (w : LineWrite) => r.items.any fun i => itemHits r.wide w i
  ((s.ctx c).sync.posted.any fun p => decide (p.seq < r.seq) && hits p.w) ||
    ((s.ctx c).sync.unsent.any fun u => decide (u.p.seq < r.seq) && hits u.p.w) ||
    ((s.half (halfOf c)).weir.any fun w => w.ctx == c && decide (w.seq < r.seq) && hits w.w)

/-- An addition of f32 that routers may merge (spec/05 R96): integer merges never change the final value. -/
def RedReq.fadd (r : RedReq) : Bool := r.op == 10 && !r.wide && !r.det

/-- The requests of a context that wait to reach their homes and may meet others in a router. -/
def mergeable (s : State) (c : CtxId) : List RedReq :=
  ((s.ctx c).sync.red.filter fun r => r.committed).takeWhile fun r =>
    r.fadd && !writesBefore s c r &&
      !((s.ctx c).sync.deferred.any fun d =>
        d.retired && d.stream == .s && decide (d.seq < r.seq) && !ringWaits s d.eff)

/-- An addend that is merged into a request: its context, its request and its value. -/
structure Addend where
  ctx : CtxId
  seq : Nat
  val : Nat
  deriving DecidableEq, Repr

/-- The addends that a context's requests, oldest first, have at a place and that meet there: a request goes on to its
home only behind all of the one before it (spec/13 R260). -/
def addendsOf (free : Nat → Bool) (d : CtxId) (k : Nat) : List RedReq → List Addend
  | [] => []
  | q :: qs =>
    match q.items.lookup k with
    | none => []
    | some v =>
      if free q.seq then ⟨d, q.seq, v⟩ :: (if q.items.length ≤ 1 then addendsOf free d k qs else []) else []

/-- The requests of a context that may meet request `seq` of another, or of the same, behind it. -/
def meetersOf (s : State) (c : CtxId) (seq : Nat) (d : CtxId) : List RedReq :=
  let l := mergeable s d
  if d = c then
    if l.any fun q => q.seq == seq && decide (1 < q.items.length) then [] else l.filter fun q => q.seq != seq
  else l

/-- The addends at a place that meet those of request `seq` of a context (spec/05 R96). -/
def addendsAt (s : State) (c : CtxId) (seq k : Nat) : List Addend :=
  (List.finRange 128).flatMap fun d => addendsOf (Config.meets s.freeCtr k d.val) d k (meetersOf s c seq d)

/-- Addends merged two at a time in a grouping that nothing fixes (spec/05 R96). -/
def mergeSum (free : Nat → Bool) : Nat → List Nat → Nat
  | _, [] => 0
  | _, [x] => x
  | 0, x :: xs => xs.foldl (homeOp 10 32) x
  | n + 1, x :: y :: xs =>
    if free n then mergeSum free n (homeOp 10 32 x y :: xs) else mergeSum free n (y :: xs ++ [x])

/-- An item that has been merged leaves its own request, and an empty request leaves the buffer. -/
def mergedAway (k : Nat) (a : Addend) (s : State) : State :=
  s.modCtx a.ctx fun x => { x with sync := { x.sync with
    red := (x.sync.red.map fun q =>
      if q.seq = a.seq then { q with items := q.items.filter fun i => i.1 != k } else q).filter fun q =>
        q.seq != a.seq || !q.items.isEmpty } }

/-- One element of an addition with what it has met. -/
def reduceMerged (c : CtxId) (seq : Nat) (s : State) (i : Nat × Nat) : State :=
  let l := addendsAt s c seq i.1
  let v := mergeSum (Config.grouping s.freeCtr i.1) (4 * l.length) (i.2 :: l.map (·.val))
  l.foldl (fun s a => mergedAway i.1 a s) { s with mem := reduceItem 10 false s.mem (i.1, v) }

/-- Of the elements of a request those that reach their homes together, one at least: other agents may see some of them
applied and others not (spec/05 R101). -/
def itemsNow (free : Nat) (l : List (Nat × Nat)) : List (Nat × Nat) :=
  match l with
  | [] | [_] => l
  | _ =>
    let first := (Config.freeValue free).toNat % l.length
    l.zipIdx.filterMap fun t => if t.2 = first ∨ Config.tearM free t.2 = true then some t.1 else none

/-- What is left of a request. -/
def itemsLeft (now : List (Nat × Nat)) (seq : Nat) (l : List RedReq) : List RedReq :=
  (l.map fun t => if t.seq = seq then { t with items := t.items.filter fun i => !now.contains i } else t).filter fun t =>
    t.seq != seq || !t.items.isEmpty

/-- The elements of a request whose homes have been struck are lost (spec/19 R369). -/
def lostItems (c : CtxId) (r : RedReq) (s : State) : State :=
  let now := r.items.filter fun i => struckAt s i.1
  lostSent c r.by_ 0 (s.modCtx c fun x => { x with sync := { x.sync with red := itemsLeft now r.seq x.sync.red } })

/-- The oldest committed request of a context applied at its homes, wholly or some elements of it (spec/05 R95, R96,
R100, R101). -/
def reductionApply (c : CtxId) (s : State) : State :=
  let x := s.ctx c
  match x.sync.red.find? fun r => r.committed with
  | none => s
  | some r =>
    if r.items.any fun i => struckAt s i.1 then lostItems c r s
    else if effectBefore s c .s r.seq || writesBefore s c r || (r.items.any fun i => homeShut s i.1) then s
    else
      let now := itemsNow s.freeCtr r.items
      let s := touchBanks c 7 .rmw (now.map (·.1)) s.bumpFree
      let s := if r.fadd then now.foldl (reduceMerged c r.seq) s
        else { s with mem := now.foldl (reduceItem r.op r.wide) s.mem }
      s.modCtx c fun x => { x with sync := { x.sync with red := itemsLeft now r.seq x.sync.red } }

/-- REDUCTION_APPLY (spec/05 R95). -/
def execReductionApply (c : CtxId) (s : State) : Host.Outcome State Fault Refusal :=
  .next (reductionApply c s)

/-! ## Timelines -/

/-- A queue timeline raised by a signal; the interrupt follows an advance (spec/17 R340). -/
def raiseTimeline (q : QueueId) (v : Word) (s : State) : State :=
  if 0 < (v - (s.queue q).tl).toInt then queueIrq q (s.modQueue q fun x => { x with tl := v }) else s

/-- A timeline raised by its record: the alias of a queue, or the word of the record (spec/14 R289). -/
def raiseRecord (key : Nat) (v : Word) (s : State) : State :=
  let r := objRead s.mem key
  if r.w1.getLsbD 63 then raiseTimeline (Fin.ofNat 64 (r.w1.extractLsb' 0 6).toNat) v s
  else if 0 < (v - r.w0).toInt then { s with mem := memPutNat s.mem (key + 0x18) 8 v.toNat }
  else s

/-! ## Join posts -/

/-- The task queue of a cascade has an entry free (spec/14 R292). -/
def postRoomAt (g : CascId) (s : State) : Bool := taskRoom (refill 64 (s.casc g)) != 0

/-- The continuation record of a join post, read when the post is made (spec/14 R290): it is readable, or it is not, or
it lies in a slice that is fenced. -/
def postRecord (p : HeldPost) (s : State) : State × Got ContRec :=
  if p.va.toNat % 32 ≠ 0 then (s, .fault 3 p.va false)
  else
    match partXlate (halfOf p.by_) (some (coreOf p.by_)) p.asid false p.va s with
    | (s, .ok k) =>
      let r := contOf (memNat s.mem k 32)
      (s, if isHost k then .fault 7 p.va false else if r.ok then .ok r else .fault 10 p.va false)
    | (s, .fault a t e) => (s, .fault a t e)
    | (s, .hold) => (s, .hold)

/-- The task of a join post. -/
def postTask (p : HeldPost) (r : ContRec) : TaskEntry :=
  { op := p.op, fb := p.fb, code := r.code, frame := r.frame, join := r.join, cur := r.cur.extractLsb' 0 2
    owner := p.by_, epoch := 0, seq := 0, ready := true }

/-- A join post made (spec/14 R290, R291): a record that cannot be read aborts the operator; the task of
an operator that has ended is dropped. None while the record lies in a slice that is fenced (spec/19 R371). -/
def makePost (p : HeldPost) (s : State) : Option State :=
  if (s.op p.op).isNone then some s
  else
    match postRecord p s with
    | (_, .hold) => none
    | (s, .fault _ _ _) => some (abortOp p.op 5 s)
    | (s, .ok r) => some (s.modCasc (cascOf p.by_) fun g => addTask (postTask p r) (refill 64 g))

/-- A join post made, or held while its cascade has no entry free or its record cannot be reached yet (spec/14 R290). -/
def joinPost (p : HeldPost) (s : State) : State :=
  let wait := s.modCasc (cascOf p.by_) fun g => { g with held := g.held ++ [p] }
  if postRoomAt (cascOf p.by_) s then (makePost p s).getD wait else wait

/-- JOIN_POST_RETRY: the oldest held post of a cascade (spec/14 R290). -/
def joinRetry (g : CascId) (s : State) : State :=
  match (s.casc g).held with
  | [] => s
  | p :: ps =>
    if postRoomAt g s then (makePost p (s.modCasc g fun x => { x with held := ps })).getD s else s

/-- JOIN_POST_RETRY as a step of the part. -/
def execJoinPostRetry (g : CascId) (s : State) : Host.Outcome State Fault Refusal :=
  .next (joinRetry g s)

/-! ## Deferred effects -/

/-- The claims of a bank that satisfy a test are gone, from its context and from its evicted ones (spec/14
R281). -/
def dropClaims (c : CtxId) (f : Claim → Bool) (s : State) : State :=
  let drop := fun (x : Ctx) =>
    { x with sync := { x.sync with claims := x.sync.claims.filter fun k => !f k } }
  (s.modCtx c drop).modCore (coreOf c) fun k =>
    { k with saved := k.saved.map fun t =>
        t.map fun v => if v.bank = bankOf c then { v with ctx := drop v.ctx } else v }

/-- A word of a record replaced. -/
def putWord (k : Nat) (v : Word) (s : State) : State := { s with mem := memPutNat s.mem k 8 v.toNat }

/-- The reserved task of a retired `tpost` may be popped (spec/14 R293). -/
def readyTask (c : CtxId) (seq : Nat) (t : TaskEntry) : TaskEntry :=
  if t.owner = c ∧ t.seq = seq then { t with ready := true } else t

/-- Every index tuple of a list of levels, level 0 outermost (spec/16 R312). -/
def tuples : List (List Nat) → List (List Nat)
  | [] => [[]]
  | l :: ls => l.flatMap fun i => (tuples ls).map fun t => i :: t

/-- The linear index of a tuple (spec/16 R312). -/
def linear (idx trips : List Nat) : Nat :=
  (idx.zip trips).foldl (fun n t => n * t.2 + t.1) 0

/-- The spatial trip counts of a dispatch set. -/
def spatialTrips (d : Dispatch) : List Nat :=
  ((d.trips.zip d.temporal).filter fun t => !t.2).map (·.1)

/-- The items of level-0 indices from `first` on, n of them (spec/14 R294, spec/16 R326). -/
def raisedItems (d : Dispatch) (fb : Bool) (first n : Nat) : List Item :=
  let rest := (spatialTrips d).drop 1
  (tuples ((List.range n).map (first + ·) :: rest.map List.range)).map fun t =>
    { idx := t, lin := linear t (spatialTrips d), avoid := none, fb := fb, res := false, ord := 0 }

/-- Raised items among those that wait to be dealt: those of a fallback item or task are fallback items, behind the entries
that are there (spec/13 R271, spec/14 R294, spec/16 R314). -/
def addRaised (fold : Option (Fin 2)) (fb : Bool) (first n : Nat) (o : Operator) : Operator :=
  if fb then
    (raisedItems (o.fbDisp.getD o.disp) true first n).foldl (fun o it =>
      addFallback { it with ord := o.entered + 1 } { o with entered := o.entered + 1 }) o
  else
    { o with pending := (raisedItems o.disp false first n).foldl (fun l it => insertItem (freshBefore fold o) it l) o.pending }

/-- The timeline of a record is that of a queue that takes no advance now. -/
def tlShut (s : State) (r : ObjRec) : Bool :=
  r.w1.getLsbD 63 && queueShut s (Fin.ofNat 64 (r.w1.extractLsb' 0 6).toNat)

/-- The key of the record that an effect changes. -/
def effKey : Deferred → Option Nat
  | .rel k _ | .ringpub k _ | .ringfree k _ | .setw k _ | .tlsig k _ | .tjoin k _ _ _ => some k
  | .tpost | .grais _ _ _ _ => none

/-- The releaser's TIME as its effect takes place (spec/15 R308): that of a context that has left its bank keeps its
clamp. -/
def releaseTime (s : State) (c : CtxId) (d : DeferredRec) : Word :=
  match d.clamp with
  | none => timeOf s c
  | some k => if (halfTime s (halfOf c)).toNat < k.toNat then k else halfTime s (halfOf c)

/-- What a deferred effect does at its home (spec/14 R285 to R294); none while it waits there. -/
def applyEffect (c : CtxId) (d : DeferredRec) (s : State) : Option State :=
  let stamp := fun (k : Nat) (s : State) => stampRelease k (.ctx c) d.scope (releaseTime s c d) s
  match d.eff with
  | .rel key gen =>
    let w := memWord s.mem (key + 0x18)
    let mine := w.getLsbD 63 && lockOwner w == c && w.extractLsb' 0 32 == gen
    let s := if mine then putWord (key + 0x18) (w &&& ~~~(1#64 <<< 63)) s else s
    some (stamp key (dropClaims c (fun k => k.kind == .lock && k.key == key && k.gen == gen) s))
  | .ringpub key v =>
    if ringWaits s d.eff then none
    else
      some (stamp key (dropClaims c (fun k => k.kind == .produce && k.key == key && k.val == v)
        (putWord (key + 0x20) (BitVec.ofNat 64 (v + 1)) s)))
  | .ringfree key v =>
    if ringWaits s d.eff then none
    else
      some (stamp key (dropClaims c (fun k => k.kind == .consume && k.key == key && k.val == v)
        (putWord (key + 0x30) (BitVec.ofNat 64 (v + 1)) s)))
  | .setw key v => some (stamp key (putWord key v s))
  | .tlsig key v =>
    let r := objRead s.mem key
    if tlShut s r then none
    else some (stamp (timelineKey key r) (raiseRecord key v s))
  | .tjoin key op asid fb =>
    let n := memWord s.mem (key + 0x18) - 1
    let s := stamp key (putWord (key + 0x18) n s)
    some (if n = 0 then
        joinPost { op := op, fb := fb, va := memWord s.mem (key + 0x20), asid := asid, by_ := c } s
      else s)
  | .tpost =>
    some { s with cascs := s.cascs.map fun (g : Casc) =>
      { g with tasks := g.tasks.map (readyTask c d.seq), spill := g.spill.map (readyTask c d.seq) } }
  | .grais op fb n first => some (s.modOp op (addRaised s.dev.fo.fold fb first n))

/-- The home of an effect can be reached (spec/19 R369). -/
def effectReach (s : State) (d : Deferred) : Bool := (effKey d).all fun k => !homeShut s k

/-- The home of an effect has been struck (spec/19 R369). -/
def effectStruck (s : State) (d : Deferred) : Bool := (effKey d).any (struckAt s)

/-- Deferred effect n of a context, once its region has retired and its acknowledgements are in (spec/14
R278); one whose home has been struck is lost (spec/19 R369). -/
def deferredApply (c : CtxId) (n : Nat) (s : State) : State :=
  match (s.ctx c).sync.deferred[n]? with
  | none => s
  | some d =>
    let gone := fun (x : Ctx) => { x with sync := { x.sync with deferred := x.sync.deferred.eraseIdx n } }
    if d.retired && effectStruck s d.eff then lostSent c d.op 0 (s.modCtx c gone)
    else if !d.retired || effectBefore s c d.stream d.seq || unacked s c d.seq d.all d.base d.len ||
        drainsAll s c d || !effectReach s d.eff then s
    else (applyEffect c d ((touchBanks c 7 .rmw (effKey d.eff).toList s).modCtx c gone)).getD s

/-- DEFERRED_EFFECT_APPLY (spec/14 R278). -/
def execDeferredEffectApply (c : CtxId) (n : Nat) (s : State) : Host.Outcome State Fault Refusal :=
  .next (deferredApply c n s)

/-- Deferred effect n could take effect now. -/
def deferredReady (s : State) (c : CtxId) (n : Nat) : Bool :=
  match (s.ctx c).sync.deferred[n]? with
  | none => false
  | some d =>
    d.retired && (effectStruck s d.eff ||
      !effectBefore s c d.stream d.seq && !unacked s c d.seq d.all d.base d.len && !drainsAll s c d &&
        effectReach s d.eff && !ringWaits s d.eff &&
        match d.eff with
        | .tlsig key _ => !tlShut s (objRead s.mem key)
        | _ => true)

end Sys2Proof.Machine
end

