-- ==== Sys2Proof/Machine/Wake.lean ====
section
/-! DEFINITION. Waiters woken at their homes (spec/14 R279, R288). -/

namespace Sys2Proof.Machine

/-- The context can go on: its bank runs and its cascade's clock is not held (spec/18 R364). -/
def canRun (s : State) (c : CtxId) : Bool :=
  (s.ctx c).bank == .running && !(s.casc (cascOf c)).hold

/-- The context that last took a grant of a record (spec/14 R279). -/
def lastGrant (s : State) (key : Nat) : Option CtxId := (s.grants.find? fun g => g.1 == key).map (·.2)

/-- The distance of a context from the start of the grant order of a record (spec/14 R279). -/
def grantDistance (last : Option CtxId) (c : CtxId) : Nat :=
  match last with
  | some l => (c.val + 127 - l.val) % 128
  | none => c.val

/-- A waiter put into the order of the grants. -/
def insertWaiter (d : CtxId → Nat) (w : Waiter) : List Waiter → List Waiter
  | [] => [w]
  | t :: ts => if d w.ctx < d t.ctx then w :: t :: ts else t :: insertWaiter d w ts

/-- The waiters of a key in the order of the grants (spec/14 R279). -/
def waitersOf (s : State) (key : Nat) : List Waiter :=
  (s.waiters.filter fun w => w.key == key).foldr (insertWaiter (grantDistance (lastGrant s key))) []

/-- A waiter evaluates its condition again. -/
def wakeOne (w : Waiter) (s : State) : Moved :=
  if canRun s w.ctx && mayGo s w.ctx w.stream && (s.waiters.contains w) then
    match ((s.ctx w.ctx).q.get w.stream).head? with
    | some e => headTurn true w.stream w.ctx e s
    | none => (false, s)
  else (false, s)

/-- Waiters evaluate their conditions again, in order. -/
def wakeAll : List Waiter → State → Moved
  | [], s => (false, s)
  | w :: ws, s =>
    let r := wakeOne w s
    let t := wakeAll ws r.2
    (r.1 || t.1, t.2)

/-- The waiters of a key evaluate their conditions again (spec/14 R279). -/
def wakeKey (key : Nat) (s : State) : State := (wakeAll (waitersOf s key) s).2

/-- A wake-up of waiters whose cascade's clock is held is latched (spec/18 R364). -/
def latchWake (key : Nat) (s : State) : State :=
  { s with cascs := Vector.ofFn fun g =>
      let x := s.casc g
      if x.hold && (s.waiters.any fun w => w.key == key && cascOf w.ctx == g) then
        { x with latched := x.latched ++ [.wake key] } else x }

/-- WAITER_WAKE: a change at a record or a watched word (spec/14 R279). -/
def execWaiterWake (key : Nat) (s : State) : Host.Outcome State Fault Refusal :=
  .next (wakeKey key (latchWake key s))

/-- WAITW_POLL: a `waitw` that found the watch table full reads its word again (spec/14 R279). -/
def execWaitwPoll (c : CtxId) (s : State) : Host.Outcome State Fault Refusal :=
  match waiterOf s c .l with
  | some w => .next (if w.polled then (wakeOne w s).2 else s)
  | none => .next s

/-- WAITW_TIMEOUT: a `waitw` whose timeout has elapsed completes without acquiring (spec/14 R288). -/
def execWaitwTimeout (c : CtxId) (s : State) : Host.Outcome State Fault Refusal :=
  match waiterOf s c .l with
  | some w => .next (if w.role = .word ∨ w.role = .value then (wakeOne w s).2 else s)
  | none => .next s

end Sys2Proof.Machine
end

