-- ==== Sys2Proof/Machine/Events.lean ====
section
/-! DEFINITION. What happens to regions and contexts: retirement, overruns, detected errors, checksum
comparisons, traps, page faults and their requests, cache refills (spec/13, spec/18, spec/03 R54 to
R62). -/

namespace Sys2Proof.Machine

/-- REGION_RETIRE (spec/13 R251). -/
def execRegionRetire (c : CtxId) (s : State) : Host.Outcome State Fault Refusal :=
  .next (if canRun s c then tryRetire c s else s)

/-- REGION_OVERRUN (spec/13 R255). -/
def execRegionOverrun (c : CtxId) (s : State) : Host.Outcome State Fault Refusal :=
  .next (if canRun s c && overlong s c then overrun c s else s)

/-! ## Detected errors -/

/-- Data that a replay cannot restore are consumed by a region of a context (spec/13 R262); one that has been discarded
meanwhile consumes them again. -/
def uncorrectable (c : CtxId) (e : Nat) (va : Word) (s : State) : State :=
  if (s.ctx c).bank = .running ∧ (regionOf (s.ctx c) e).isSome then raiseUnc c e va s else s

/-- An error in entry n of a weir buffer (spec/11 R214): an uncommitted entry is restored by a replay; a
committed one is dropped. A context that is halted or faulted counts as one that has moved on, as does one that has
ended: its operator is aborted at once (DESIGN CHOICE, notes/assumptions/69.md). -/
def weirError (c : CtxId) (n : Nat) (s : State) : State :=
  match (s.half (halfOf c)).weir[n]? with
  | none => s
  | some w =>
    if !w.committed then
      if w.ctx = c ∧ (s.ctx c).bank = .running then countedDiscard c w.epoch s else s
    else
      lostWrite w.ctx (decide ((s.ctx w.ctx).id.gen = w.gen)) w.op w.va (s.modHalf (halfOf c) (weirDrop n))

/-- The region that an error report concerns (spec/13 R261). -/
def errorRegion (x : Ctx) (younger : Bool) : Nat :=
  if younger ∧ x.older.isSome then x.reg.epoch else (oldest x).epoch

/-- A region is discarded for a detected error. A second error in a region that a first one has already discarded
discards nothing (spec/13 R273): the region that it concerned is gone, or nothing of its replay has been issued yet. -/
def errorDiscard (c : CtxId) (e : Nat) (s : State) : State :=
  let x := s.ctx c
  if x.bank ≠ .running then s
  else
    match regionOf x e with
    | none => s
    | some r => if 0 < x.cnt.att ∧ r.count = 0 then s else countedDiscard c e s

/-- Uncorrectable data in what active command n of a core has read (spec/04 R77). -/
def commandError (k : CoreId) (n : Nat) (va : Word) (s : State) : State :=
  match (s.core k).active[n]? with
  | none => s
  | some a => cmdLost k n a va s

/-- A value that a region has sent to a slice was wrong, and the error is not yet reported (spec/13 R259): free bits stand
in its place until the replay writes it again. -/
def wrongValue (c : CtxId) (e n : Nat) (s : State) : State :=
  match (regionOf (s.ctx c) e).bind fun r => r.sent[n]? with
  | none => s
  | some w =>
    let d := packFields 64 ((List.range 8).map fun i => (Config.freeValue (s.freeCtr + i)).toNat)
    let s := { s with mem := memLine s.mem { w with data := BitVec.ofNat 512 d }, freeCtr := s.freeCtr + 8 }
    s.modCtx c (modRegion e fun r => { r with bad := true })

/-- An error that is not of the context's own state. -/
def namedError (e : ErrorReport) (s : State) : State :=
  let k := coreOf e.ctx
  match e.kind with
  | .command n va => commandError k n va s
  | .operator id => abortUnc id (halfOf e.ctx) s
  | .saved i => s.modSaved k i.val fun v => { v with bad := true }
  | .package => s.modDev fun d => { d with boot := { d.boot with bad := true } }
  | _ => s

/-- DETECTED_ERROR in a cascade whose clock runs, in the region that it concerned as it was reported (spec/13 R258, R261
to R264). -/
def detectedError (e : ErrorReport) (region : Nat) (s : State) : State :=
  match e.kind with
  | .sent n => wrongValue e.ctx region n s
  | .weirEntry n => weirError e.ctx n (countError (coreOf e.ctx) s)
  | .uncorrectable va => uncorrectable e.ctx region va (countError (coreOf e.ctx) s)
  | .replay => errorDiscard e.ctx region (countError (coreOf e.ctx) s)
  | _ => namedError e (countError (coreOf e.ctx) s)

/-- DETECTED_ERROR (spec/13 R261, spec/18 R364). -/
def execDetectedError (e : ErrorReport) (s : State) : Host.Outcome State Fault Refusal :=
  let region := errorRegion (s.ctx e.ctx) e.younger
  .next (orLatch (cascOf e.ctx) (.error e region) (detectedError e region) s)

/-- CHECKSUM_COMPARE: comparison n of a core (spec/10 R193). -/
def checksumCompare (k : CoreId) (n : Nat) (u : Upset) (s : State) : State :=
  match (s.core k).checks[n]? with
  | none => s
  | some t =>
    let d := if u.hit then { t.due with new := flipBit t.due.new u } else t.due
    if checksumPass d then
      s.modCore k fun x => { x with checks := x.checks.eraseIdx n }
    else countedDiscard t.ctx t.epoch (countError k s)

/-- CHECKSUM_COMPARE as a step of the part. -/
def execChecksumCompare (k : CoreId) (n : Nat) (u : Upset) (s : State) :
    Host.Outcome State Fault Refusal :=
  .next (if (s.casc (cascOfCore k)).hold then s else checksumCompare k n u s)

/-! ## Traps and page faults -/

/-- The fault of the oldest region is a page fault, if it has one. -/
def faultKind (x : Ctx) : Option Bool := (oldest x).fault.map fun f => isPageFault f.cause

/-- TRAP_ENTRY: a fault that waited for the older region or for earlier instructions (spec/18 R356,
R357). -/
def execTrapEntry (c : CtxId) (s : State) : Host.Outcome State Fault Refusal :=
  .next (if canRun s c && faultKind (s.ctx c) == some false then takeFault c s else s)

/-- PAGE_FAULT: the same for a page fault (spec/18 R358). -/
def execPageFault (c : CtxId) (s : State) : Host.Outcome State Fault Refusal :=
  .next (if canRun s c && faultKind (s.ctx c) == some true then takeFault c s else s)

/-- The walk of an address ends at an entry that asks for a first touch (spec/03 R57). -/
def walkTouches (s : State) (c : CtxId) (va : Word) : Bool :=
  let x := s.ctx c
  let asid := asidOf s x
  !inHeap x.heap va &&
    ((s.core (coreOf c)).tlb ++ (s.half (halfOf c)).tlb).all (fun t => !t.hit asid va.toNat) &&
    match classOf (coreOf c) va.toNat, walk s asid va.toNat with
    | .translated, .touch _ => true
    | _, _ => false

/-- A walker with a zero-filled page in hand that it has not installed: it is its spare, and stays so when
the other walker installs its own first (spec/03 R57, R58). -/
def preparePage (h : HalfId) (s : State) : State :=
  match takePage s h with
  | (s, none) => s
  | (s, some p) => s.modHalf h fun x => { x with spare := some p }

/-- PAGE_WALK (spec/03 R54, R55, R57): the walker resolves an address that a context accesses, with its first
touch; or, where the schedule leaves that under way, it has only the page for it (R58,
notes/assumptions/41.md). A failed lookup leaves nothing in the TLBs; the access that needed it raises the
fault. -/
def execPageWalk (c : CtxId) (va : Word) (acc : Access) (s : State) :
    Host.Outcome State Fault Refusal :=
  .next (if (s.ctx c).bank = .running then
      if s.lag && walkTouches s c va then preparePage (halfOf c) s else (xlate s c acc va).1
    else s)

/-- The page-request record (spec/03 R61). -/
def prqRecord (s : State) (c : CtxId) (x : Ctx) (p : PageReq) : Nat :=
  let d0 := (p.va.extractLsb' 0 48).toNat + (asidOf s x).toNat * 2 ^ 48 + p.cause * 2 ^ 56 +
    p.fetch.toNat * 2 ^ 60 + p.pe.toNat * 2 ^ 61
  let d1 := (coreOf c).val + (bankOf c).val * 2 ^ 6 + x.id.queue.val * 2 ^ 7 +
    x.id.gen.toNat * 2 ^ 16
  d0 + d1 * 2 ^ 64 + p.time.toNat * 2 ^ 128

/-- A page request with the context bank that it names, the context and, when that is evicted, its save slot. -/
structure Request where
  ctx : CtxId
  slot : Option Nat
  x : Ctx
  req : PageReq
  deriving Repr

/-- The unwritten page requests of a half, those of evicted contexts among them (spec/18 R358, R362). -/
def unwritten (s : State) (h : HalfId) : List Request :=
  let ask := fun (c : CtxId) (slot : Option Nat) (x : Ctx) =>
    (x.preq.filter fun p => !p.written).map fun p => ({ ctx := c, slot := slot, x := x, req := p } : Request)
  (halfCtxs h).flatMap fun c =>
    (ask c none (s.ctx c)).toList ++ (List.range 8).filterMap fun i =>
      (((s.core (coreOf c)).saved[i]?.getD none).filter fun v => v.bank == bankOf c).bind fun v =>
        ask c (some i) v.ctx

/-- The request that was raised first. -/
def firstRequest : List Request → Option Request
  | [] => none
  | t :: ts =>
    match firstRequest ts with
    | some u => if u.req.time.toNat < t.req.time.toNat then some u else some t
    | none => some t

/-- The request has been written. -/
def requestWritten (r : Request) (s : State) : State :=
  let done := fun (x : Ctx) => { x with preq := some { r.req with written := true } }
  match r.slot with
  | none => s.modCtx r.ctx done
  | some i => s.modSaved (coreOf r.ctx) i fun v => { v with ctx := done v.ctx }

/-- A record put at tail of a ring of 32-byte entries (spec/03 R56). -/
def ringPush (r : RingReg) (rec : Nat) (s : State) : State :=
  let at_ := r.base.toNat + 32 * (r.tail.toNat % ringEntries r)
  { s with mem := memPutNat s.mem (ringKey s at_) 32 rec }

/-- The ring has no room. -/
def ringFull (r : RingReg) : Bool := decide (ringEntries r ≤ (r.tail - r.head).toNat)

/-- PAGE_REQUEST_WRITE: the oldest waiting record of a half (spec/03 R61, R416). -/
def pageRequestWrite (h : HalfId) (s : State) : State :=
  match firstRequest (unwritten s h) with
  | none => s
  | some q =>
    let r := (s.half h).prq
    if !ringOk s r 32 then
      let s' := s.modHalf h fun x => { x with prq := { x.prq with berr := true } }
      if r.berr then s' else raiseIrq (ownerFn s) ⟨64 + h.val, by omega⟩ s'
    else if ringFull r || (s.half h).cpQuiet then s
    else
      let s := ringPush r (prqRecord s q.ctx q.x q.req) s
      let s := requestWritten q (s.modHalf h fun x => { x with prq := { x.prq with tail := x.prq.tail + 1 } })
      raiseIrq (ownerFn s) ⟨64 + h.val, by omega⟩ s

/-- PAGE_REQUEST_WRITE as a step of the part. -/
def execPageRequestWrite (h : HalfId) (s : State) : Host.Outcome State Fault Refusal :=
  .next (pageRequestWrite h s)

/-! ## The instruction cache -/

/-- A line put into an instruction cache; when it is full the line that leaves is a free value (spec/12
R224). -/
def icachePut (k : CoreId) (l : ICacheLine) (s : State) : State :=
  let n := s.freeCtr
  (s.modCore k fun x =>
    let rest := x.icache.filter fun t => t.line != l.line
    { x with icache := l :: (if rest.length < 2048 then rest
                             else rest.eraseIdx (Config.icacheVictim n % 2048)) }).bumpFree

/-- ICACHE_REFILL: a line fetched, or fetched again (spec/12 R224, spec/22 R409). -/
def execIcacheRefill (k : CoreId) (line : Nat) (s : State) : Host.Outcome State Fault Refusal :=
  if line % 64 = 0 ∧ (line < dramC s ∨ isHost line) then
    .next (icachePut k { line := line, data := memLineRead (readView s line 64) line } s)
  else .next s

end Sys2Proof.Machine
end

