-- ==== Sys2Proof/Machine/Sched.lean ====
section
/-! DEFINITION. The scheduler: starts, gangs, tasks, pre-emption, eviction and the bank switch (spec/16
R312 to R326, spec/18 R361 to R363). -/

namespace Sys2Proof.Machine

/-! ## Starts -/

/-- The loop stack at the start of a work item: one fixed entry for each spatial level (spec/12 R229,
spec/16 R312). -/
def startLoops (d : Dispatch) (idx : List Nat) : Vector LoopEntry 6 :=
  Vector.ofFn fun i =>
    match (spatialTrips d)[i.val]?, idx[i.val]? with
    | some n, some j => ⟨true, true, BitVec.ofNat 32 n, BitVec.ofNat 32 j, 0, 0⟩
    | _, _ => LoopEntry.empty

/-- The scalar registers at a start (spec/12 R227). -/
def startRegs (pc args s2 s3 : Word) : Regs :=
  let r := Regs.zero
  { r with pc := pc, s := ((r.s.set 1 args).set 2 s2).set 3 s3 }

/-- A context at the start of a work item or task, in a bank that keeps its number, its trap vector and
what is still on its way (spec/12 R227, R229, R242 to R245, spec/13 R256, spec/16 R314). -/
def startedCtx (x : Ctx) (w : Work) (regs : Regs) (loops : Vector LoopEntry 6) (time : Word) : Ctx :=
  let d := w.disp
  let f : FrontCk := { FrontCk.start with loops := loops, gtol := if d.gd then d.gtol else 0 }
  let e := x.epochs + 1
  { Ctx.empty with
    bank := .running
    regs := regs
    front := f
    trap := { x.trap with inh := false, fatal := false, unc := false, frame := none }
    id := { gen := x.id.gen + 1, sys := false, task := w.task, cls := d.cls, queue := d.queue
            rx := d.rx, fb := w.item.fb, gd := d.gd, card := d.card, tag := d.tag }
    cnt := { Counters.zero with clamp := time }
    heap := d.heap
    reg := Region.fresh e regs.pc f time
    epochs := e
    pos := x.pos
    sync := x.sync
    sluice := x.sluice
    sinceDeq := x.sinceDeq
    work := some w }

/-- The template image of an operator (spec/04 R68): its bytes, or the error code of its queue. -/
def readImage (c : CtxId) (d : Dispatch) (s : State) : State × Except Nat (List Byte) :=
  if d.tcnt = 0 then (s, .ok [])
  else if d.timg.toNat % 128 ≠ 0 then (s, .error 1)
  else
    match partBytes (halfOf c) none d.asid 4 d.timg (128 * d.tcnt) s with
    | (s, .ok l) => (s, .ok l)
    | (s, .fault cause _ _) => (s, .error (if cause = 11 then 5 else 4))
    | (s, .hold) => (s, .error 4)

/-- The template table of a bank rewritten (spec/04 R68). -/
def loadImage (c : CtxId) (l : List Byte) (s : State) : State :=
  { s with mem := memPutBytes (memZero s.mem (areaKey c) 0x2000) (areaKey c) l }

/-- A filler bank taken by new work. -/
def takeBank (c : CtxId) (s : State) : State :=
  s.modCasc (cascOf c) fun g => { g with fillers := g.fillers.filter fun t => t.1 != c }

/-- A context runs with the dispatch set of an operator, or with that of its fallback items. -/
def hasSet (op : Nat) (fb : Bool) (x : Ctx) : Bool := ctxOp x == some op && x.id.fb == fb

/-- The core runs no context with the dispatch set, so it comes in with an invalidated instruction
cache (spec/12 R224, spec/17 R349). -/
def swapIn (k : CoreId) (op : Nat) (fb : Bool) (s : State) : State :=
  if hasSet op fb (s.ctx (ctxIn k 0)) || hasSet op fb (s.ctx (ctxIn k 1)) then s
  else s.modCore k fun x => { x with icache := [] }

/-- A start in a bank (spec/04 R68, spec/16 R318, R325): an image that cannot be read aborts the
operator. The clamp of TIME is that of the command processor of the half (spec/15 R308). -/
def startIn (c : CtxId) (w : Work) (regs : Regs) (loops : Vector LoopEntry 6) (s : State) : State :=
  match readImage c w.disp s with
  | (s, .error code) => if code = 5 then abortUnc w.disp.op (halfOf c) s else abortOp w.disp.op code s
  | (s, .ok l) =>
    let s := swapIn (coreOf c) w.disp.op w.item.fb (loadImage c l (takeBank c s))
    s.modCtx c fun x => startedCtx x w regs loops (halfTime s (halfOf c))

/-- The template image lies in a slice that is fenced, so a start waits (spec/19 R371). -/
def imageHeld (s : State) (d : Dispatch) : Bool :=
  match partClass none d.timg.toNat with
  | .slice own k _ => d.tcnt != 0 && !own && s.dev.fo.fenced == some (halfOfCore k)
  | _ => false

/-! ## States of banks -/

/-- The state of a bank as R319 names it. -/
inductive BankState
  | empty | filler | running | waiting | faulted | trap | halted | ending
  deriving DecidableEq, Repr

/-- `done` is issued and its region is retiring: nothing of it is left in a stream or an engine queue, so that
only what R251 asks of the memory is outstanding (DEDUCED, notes/assumptions/21.md). -/
def isEnding (x : Ctx) : Bool :=
  x.reg.closed == some .done && (queued x).isEmpty && x.engL.isEmpty && x.engS.isEmpty

/-- The state of a bank (spec/16 R319). -/
def bankState (x : Ctx) : BankState :=
  match x.bank with
  | .empty => .empty
  | .filler => .filler
  | .faulted => .faulted
  | .halted => .halted
  | .running =>
    if isEnding x then .ending
    else if x.trap.inh then .trap
    else if 0 < x.waited then .waiting
    else .running

/-- The class of the context of a bank. -/
def clsOf (x : Ctx) : Nat := x.id.cls.toNat

/-! ## Co-issue -/

/-- A context counts in the co-issue set of its cascade (spec/16 R317, R322). -/
def coIssues (s : State) (c : CtxId) : Bool :=
  let x := s.ctx c
  let y := s.ctx (otherBank c)
  let aside := y.switched && y.bank == .running
  match bankState x with
  | .running => true
  | .waiting | .faulted => !aside
  | _ => false

/-- An operator beside another: one and the same, or both mix and declare the same current class (spec/16
R317). -/
def mayShare (d d' : Dispatch) (cur cur' : BitVec 2) : Bool :=
  d.op == d'.op || (d.mixok && d'.mixok && cur == cur')

/-- The co-issue rule for newcomers of a class on a cascade (spec/16 R317, R321): `below` leaves out the
contexts of lower classes, which would be halted. The newcomer shares with every operator of the set. -/
def coIssueOk (s : State) (g : CascId) (d : Dispatch) (cur : BitVec 2) (below : Bool) : Bool :=
  (cascCtxs g).all fun c =>
    let x := s.ctx c
    !coIssues s c || (below && decide (d.cls.toNat < clsOf x)) ||
      match x.work with
      | some w => mayShare d w.disp cur w.cur
      | none => true

/-! ## Tiers -/

/-- The tiers of a cascade that are not retired, of a half that is in service (spec/16 R315, spec/19
R371). -/
def liveTiers (s : State) (g : CascId) : List (Fin 4) :=
  if s.dev.fo.fenced = some (halfOfCasc g) ∨ s.dev.fo.fold = some (halfOfCasc g) ∨
      (s.half (halfOfCasc g)).struck then []
  else (List.finRange 4).filter fun t => !coreRetired s (coreAt g t)

/-- An evicted context of a class, or of a higher one, waits to return to a bank: it takes precedence over new work
(spec/16 R322, R327). -/
def savedWaits (s : State) (cls : Nat) (c : CtxId) : Bool :=
  (s.core (coreOf c)).saved.toList.any fun t => t.any fun v => v.bank == bankOf c && decide (clsOf v.ctx ≤ cls)

/-- A bank is free for a class: Empty, filler, or held by a context of a lower class (spec/16 R316). -/
def bankOpen (s : State) (cls : Nat) (c : CtxId) : Bool :=
  (s.ctx c).bank == .empty || (s.ctx c).bank == .filler || decide (cls < clsOf (s.ctx c))

/-- A bank is free for a gang of a class, and no evicted context is to return to it first (spec/16 R316, R322). -/
def bankFits (s : State) (cls : Nat) (c : CtxId) : Bool := bankOpen s cls c && !savedWaits s cls c

/-- A halted or evicted context of a cascade, of a class or of a higher one, would not be able to resume beside a
newcomer: it resumes first (spec/16 R322, R327). -/
def resumesFirst (s : State) (g : CascId) (d : Dispatch) : Bool :=
  let bars := fun (x : Ctx) => decide (clsOf x ≤ d.cls.toNat) &&
    match x.work with
    | some w => !mayShare d w.disp d.cur w.cur
    | none => false
  (cascCtxs g).any fun c =>
    ((s.ctx c).bank == .halted && bars (s.ctx c)) ||
      (s.core (coreOf c)).saved.toList.any fun t => t.any fun v => v.bank == bankOf c && bars v.ctx

/-- The banks of a tier that are free for a gang of a class. -/
def freeBanks (s : State) (g : CascId) (t : Fin 4) (cls : Nat) : List CtxId :=
  [ctxIn (coreAt g t) 0, ctxIn (coreAt g t) 1].filter (bankFits s cls)

/-- The banks of a tier in the order in which a gang of a class takes them: the lowest Empty one, then a
filler one, then one that a lower class holds, of the lowest class and the latest start (spec/16 R316,
R321). -/
def bankChoice (s : State) (g : CascId) (t : Fin 4) (cls : Nat) : Option CtxId :=
  let bs := freeBanks s g t cls
  let lower := bs.filter fun c =>
    (s.ctx c).bank != .empty && (s.ctx c).bank != .filler && decide (cls < clsOf (s.ctx c))
  let since := fun (c : CtxId) => ((s.ctx c).work.map fun w => w.since.toNat).getD 0
  let victim := lower.foldl (fun (v : Option CtxId) c =>
    match v with
    | none => some c
    | some u =>
      if clsOf (s.ctx u) < clsOf (s.ctx c) ∨
          (clsOf (s.ctx u) = clsOf (s.ctx c) ∧ since u < since c) then some c else v) none
  ((bs.find? fun c => (s.ctx c).bank == .empty).or
    (bs.find? fun c => (s.ctx c).bank == .filler)).or victim

/-! ## Pre-emption and eviction -/

/-- A handler that is to start again: at TVEC.addr, with what the trap frame holds (spec/18 R361, R366,
notes/assumptions/33.md). -/
def restartHandler (x : Ctx) : Ctx :=
  let f := x.trap.frame.getD Checkpoint.start
  { x with
    regs := { x.regs with pc := x.trap.tvec }
    front := f.front, fpc := f.fpc, tok := f.tok, flags := f.flags, stage := f.stage
    reg := { x.reg with start := x.trap.tvec, front := f.front } }

/-- A running context halted (spec/18 R361): the length of its oldest region counts on when it resumes (spec/13 R255). -/
def haltRunning (len : Nat) (x : Ctx) : Ctx :=
  let x := { x with bank := .halted, switched := false, waited := 0, reg := { x.reg with len := len } }
  if x.trap.inh then restartHandler x else x

/-- A context halted (spec/18 R361). -/
def haltCtx (c : CtxId) (s : State) : State :=
  match bankState (s.ctx c) with
  | .running | .waiting | .trap =>
    (endLease c (discardAll c s)).modCtx c (haltRunning (oldest (s.ctx c)).len)
  | .faulted => s.modCtx c fun x => { x with bank := .halted, switched := false, waited := 0 }
  | _ => s

/-- The running contexts of the partner of a context's operator (spec/16 R324): fallback items have no partner (spec/17
R346). -/
def partnerCtxs (s : State) (c : CtxId) : List CtxId :=
  if (s.ctx c).id.fb then []
  else
    match ((ctxOp (s.ctx c)).bind s.op).bind (·.partner) with
    | some p => (opCtxs s p).filter fun d => bankState (s.ctx d) != .halted && !(s.ctx d).id.fb
    | none => []

/-- A context pre-empted, and with it the partner of its operator (spec/16 R324, spec/18 R361). -/
def preempt (c : CtxId) (s : State) : State :=
  match bankState (s.ctx c) with
  | .running | .waiting | .trap | .faulted =>
    (partnerCtxs s c).foldl (fun s d => haltCtx d s) (haltCtx c s)
  | _ => s

/-- PREEMPT_REQUEST (spec/18 R361, R364). -/
def execPreemptRequest (c : CtxId) (s : State) : Host.Outcome State Fault Refusal :=
  .next (orLatch (cascOf c) (.preempt c) (preempt c) s)

/-- The first free save slot of a core (spec/18 R363). -/
def freeSave (k : Core) : Option Nat :=
  if k.csaveEn then k.saved.toList.findIdx? fun t => t.isNone else none

/-- The tiles of a context with their numbers (spec/18 R362). -/
def heldTiles (s : State) (c : CtxId) : List (Nat × Tile) :=
  (List.range 6).filterMap fun t => (slotOf (s.ctx c) t).map fun _ => (t, tileOf s c t)

/-- The templates and codebooks of a bank (spec/18 R362). -/
def areaCells (s : State) (c : CtxId) : List Host.Cell :=
  s.mem.filter fun b => decide (areaKey c ≤ b.1) && decide (b.1 < areaKey c + 0x2800)

/-- The key of save slot i of a core, if the map has its address (spec/18 R363). -/
def slotKey (s : State) (k : CoreId) (i : Nat) : Option Nat :=
  paKey s ((s.core k).csaveBase.toNat * 2 ^ 21 + 2 ^ 18 * i)

/-- What memory holds in the place of save slot i of a core (spec/18 R363). -/
def slotCells (s : State) (k : CoreId) (i : Nat) : List Host.Cell :=
  match slotKey s k i with
  | some a => s.mem.filter fun b => decide (a ≤ b.1) && decide (b.1 < a + 2 ^ 18)
  | none => []

/-- A context written to save slot i of a core: the spec does not give the bytes, so they are free (spec/18 R362, R363;
DESIGN CHOICE, notes/assumptions/37.md). -/
def writeSlot (k : CoreId) (i : Nat) (s : State) : State :=
  match slotKey s k i with
  | some a =>
    let byte := fun (j : Nat) => (Config.freeValue (s.freeCtr + j / 8)).extractLsb' (8 * (j % 8)) 8
    { s with mem := memSplice s.mem a (2 ^ 18) (memList a byte (2 ^ 18)), freeCtr := s.freeCtr + 2 ^ 15 }
  | none => s

/-- A halted context may be evicted: its core has a free save slot (spec/18 R362, R363). -/
def evictable (s : State) (c : CtxId) : Bool :=
  (s.ctx c).bank == .halted && (freeSave (s.core (coreOf c))).isSome

/-- Eviction (spec/18 R362, R363): the context moves to a save slot, and its slots and its bank are free. What
has retired and is on its way stays with the bank. -/
def evict (c : CtxId) (s : State) : State :=
  match (if evictable s c then freeSave (s.core (coreOf c)) else none) with
  | none => s
  | some i =>
    let x := s.ctx c
    let k := coreOf c
    let v : SavedCtx := { bank := bankOf c, ctx := x, tiles := heldTiles s c, area := areaCells s c, under := [], bad := false }
    let s := writeSlot k i (freeSlots k (ctxSlots x) s)
    let v := { v with under := slotCells s k i }
    let s := s.modCore k fun k => { disownUses c k with saved := k.saved.setIfInBounds i (some v) }
    endSwitch c <| s.modCtx c fun x => { emptyBank .empty x with
      sync := { x.sync with claims := [], red := x.sync.red.filter (·.committed)
                            deferred := x.sync.deferred.map (keepClamp x.cnt.clamp) } }

/-- EVICT (spec/18 R362). -/
def execEvict (c : CtxId) (s : State) : Host.Outcome State Fault Refusal := .next (evict c s)

/-- A bank made ready for a gang, or for an evicted context that returns: its context is halted and evicted (spec/16 R321). -/
def clearBank (c : CtxId) (s : State) : Option State :=
  match (s.ctx c).bank with
  | .empty | .filler => some s
  | _ =>
    let s := evict c (preempt c s)
    if (s.ctx c).bank = .empty then some s else none

/-- A halted context that runs again, dealing with the answer to its page request (spec/03 R62, spec/18
R358, R361): its oldest discarded region starts again, and a handler from its start. -/
def resume (c : CtxId) (s : State) : State :=
  let s := s.modCtx c fun x =>
    { x with bank := .running, waited := 0 }
  match (s.ctx c).preq with
  | none => s
  | some p =>
    match p.answer with
    | none => s.modCtx c fun x => { x with bank := .faulted }
    | some true => s.modCtx c fun x => { x with preq := none }
    | some false => takeTrap c p.cause (s.ctx c).regs.pc p.va false s

/-- The contexts of lower classes on a cascade that the co-issue rule keeps from running beside a newcomer of a current
class (spec/16 R321). -/
def conflicts (s : State) (g : CascId) (d : Dispatch) (cur : BitVec 2) : List CtxId :=
  (cascCtxs g).filter fun c =>
    coIssues s c && decide (d.cls.toNat < clsOf (s.ctx c)) &&
      match (s.ctx c).work with
      | some w => !mayShare d w.disp cur w.cur
      | none => false

/-- Those contexts pre-empted. -/
def clearWay (g : CascId) (d : Dispatch) (cur : BitVec 2) (s : State) : State :=
  (conflicts s g d cur).foldl (fun s c => preempt c s) s

/-- A context that comes back to its bank has those pre-empted as well: work of a lower class does not keep it out (spec/16
R321, R322, R327; DEDUCED, notes/assumptions/82.md). -/
def clearWayFor (c : CtxId) (x : Ctx) (s : State) : State :=
  match x.work with
  | some w => clearWay (cascOf c) w.disp w.cur s
  | none => s

/-- A context of a class may resume in its bank: no context of a higher class holds the other bank in
Running, Trap or Ending, and the co-issue rule holds with all but lower classes (spec/16 R322, R327). -/
def bankFreeFor (s : State) (c : CtxId) (x : Ctx) : Bool :=
  let y := s.ctx (otherBank c)
  let higher := decide (clsOf y < clsOf x) &&
    match bankState y with
    | .running | .trap | .ending => true
    | _ => false
  !higher &&
    match x.work with
    | some w => coIssueOk s (cascOf c) w.disp w.cur true
    | none => true

/-- The evicted context of a bank that returns first: the highest class, then the lowest slot (DESIGN CHOICE,
notes/assumptions/37.md). -/
def nextSaved (k : Core) (b : Fin 2) : Option (Nat × SavedCtx) :=
  let l := (List.range 8).filterMap fun i =>
    ((k.saved[i]?.getD none).filter fun v => v.bank == b).map fun v => (i, v)
  l.foldl (fun (best : Option (Nat × SavedCtx)) t =>
    match best with
    | none => some t
    | some u => if clsOf t.2.ctx < clsOf u.2.ctx then some t else best) none

/-- The saved tiles put back into free slots. -/
def restoreTiles (c : CtxId) (l : List (Nat × Tile)) (s : State) : State :=
  l.foldl (fun s t =>
    match freeSlotOf (s.core (coreOf c)) with
    | none => s
    | some i =>
      (setSlot (coreOf c) i t.2 s).modCtx c fun x =>
        if t.1 < 4 then { x with mat := { x.mat with map := x.mat.map.setIfInBounds t.1 (some i) } }
        else { x with mat := { x.mat with
          trapMap := x.mat.trapMap.setIfInBounds (t.1 - 4) (some i) } }) s

/-- The evicted context back in its bank (spec/18 R362). -/
def restoreCtx (x : Ctx) (v : SavedCtx) : Ctx :=
  let e := max x.epochs v.ctx.epochs + 1
  { v.ctx with
    mat := { v.ctx.mat with map := Vector.replicate 4 none, trapMap := Vector.replicate 2 none }
    sync := { x.sync with
      claims := v.ctx.sync.claims.map fun k =>
        if k.epoch = v.ctx.reg.epoch then { k with epoch := e }
        else if k.epoch = v.ctx.reg.epoch + 1 then { k with epoch := e + 1 } else k }
    reg := { v.ctx.reg with epoch := e }
    epochs := e
    pos := max x.pos v.ctx.pos
    sluice := x.sluice
    sinceDeq := x.sinceDeq }

/-- A free predicate register or vector register, of 16 or 64 free values. -/
def freeBits (n words : Nat) : Nat := packFields 64 ((List.range words).map fun i => (Config.freeValue (n + i)).toNat)

/-- A free position of the loop stack below a free height. -/
def freeLoop (n h i : Nat) : LoopEntry :=
  if i < h then
    { valid := true, fixed := (Config.freeValue n).getLsbD 0, count := (Config.freeValue (n + 1)).setWidth 32
      index := (Config.freeValue (n + 1)).extractLsb' 32 32, body := addrField (Config.freeValue (n + 2))
      exit := addrField (Config.freeValue (n + 3)) }
  else LoopEntry.empty

/-- A free checkpoint. -/
def freeCheckpoint (n : Nat) : Checkpoint :=
  let w := fun (i : Nat) => Config.freeValue (n + i)
  { front :=
      { loops := Vector.ofFn fun i => freeLoop (n + 8 + 4 * i.val) ((w 0).toNat % 7) i.val
        rvb := (w 1).setWidth 5, rpb := (w 2).setWidth 3, gtol := (w 3).setWidth 32 }
    fpc := (w 4).setWidth 7
    tok := { k := Vector.ofFn fun i => (w (32 + i.val)).toNat % 16, res := Vector.replicate 16 0
             ch := Vector.ofFn fun i => (w (48 + i.val)).toNat % 16 }
    flags := Vector.ofFn fun i =>
      let b := w (56 + i.val)
      ⟨b.getLsbD 0, b.getLsbD 1, b.getLsbD 2, (b.extractLsb' 8 11).toNat⟩
    stage := { a := BitVec.ofNat 2048 (freeBits (n + 64) 32), b := BitVec.ofNat 4096 (freeBits (n + 128) 64) } }

/-- The state of a context whose save slot was written meanwhile is unpredictable: the registers and all that the checkpoint
and the trap frame hold are free values (spec/18 R362, R363). -/
def freeRegs (n : Nat) (x : Ctx) : Ctx :=
  let w := fun (i : Nat) => Config.freeValue (n + i)
  let k := freeCheckpoint (n + 8192)
  let pc := addrField (w 0)
  { x with
    regs :=
      { pc := pc
        s := Vector.ofFn fun i => w (1 + i.val)
        v := Vector.ofFn fun i => BitVec.ofNat 4096 (freeBits (n + 64 + 64 * i.val) 64)
        p := Vector.ofFn fun i => BitVec.ofNat 1024 (freeBits (n + 4096 + 64 * i.val) 16) }
    front := k.front, fpc := k.fpc, tok := k.tok, flags := k.flags, stage := k.stage
    trap := { x.trap with
      tvec := addrField (w 40), tcause := w 41, tpc := addrField (w 42), tval := w 43, tscr0 := w 44
      tscr1 := w 45, kind := (w 46).getLsbD 0
      frame := x.trap.frame.map fun _ => freeCheckpoint (n + 12288) }
    reg := { x.reg with start := pc, front := k.front } }

/-- A free tile. -/
def freeTile (n : Nat) : Tile :=
  { rows := Vector.ofFn fun i => BitVec.ofNat 4096 (freeBits (n + 64 * i.val) 64)
    marks := Vector.ofFn fun i => BitVec.ofNat 128 (freeBits (n + 4096 + 2 * i.val) 2)
    rsum := BitVec.ofNat 2048 (freeBits (n + 4224) 32) }

/-- What a restore finds in a save slot (spec/18 R362, R363): the context, its tiles and its templates and codebooks as they
were saved, or free ones where the slot was written meanwhile. -/
def foundIn (n at_ : Nat) (intact : Bool) (v : SavedCtx) : SavedCtx :=
  if intact then v
  else
    { v with
      ctx := freeRegs n v.ctx
      tiles := v.tiles.zipIdx.map fun t => (t.1.1, freeTile (n + 16384 + 8192 * t.2))
      area := memList at_ (fun j => (Config.freeValue (n + 65536 + j / 8)).extractLsb' (8 * (j % 8)) 8) 0x2800 }

/-- A restored context runs on; an uncorrectable error in what was saved is taken with TVAL 0 (spec/13 R262). -/
def settleSaved (c : CtxId) (v : SavedCtx) (s : State) : State :=
  let s := resume c s
  if v.bad then takeFaultTrap c 11 0 s else s

/-- An evicted context put back from save slot i (spec/18 R362). -/
def restoreFrom (c : CtxId) (i : Nat) (v : SavedCtx) (s : State) : State :=
  let intact := slotCells s (coreOf c) i == v.under
  let v := foundIn s.freeCtr (areaKey c) intact v
  let s := takeBank c { s with freeCtr := s.freeCtr + if intact then 0 else 2 ^ 17 }
  let s := s.modCore (coreOf c) fun k => { k with saved := k.saved.setIfInBounds i none }
  let s := { s with mem := memPutCells (memZero s.mem (areaKey c) 0x2800) v.area }
  settleSaved c v (restoreTiles c v.tiles (s.modCtx c fun x => restoreCtx x v))
where
  /-- Listed bytes written back. -/
  memPutCells (m : List Host.Cell) : List Host.Cell → List Host.Cell
    | [] => m
    | b :: bs => memPutCells (memWrite m b.1 b.2) bs

/-- An evicted context fits in its bank: the tiles that it holds find slots, and the co-issue rule holds (spec/16 R322,
spec/18 R362). -/
def restoreFits (s : State) (c : CtxId) (v : SavedCtx) : Bool :=
  decide (v.tiles.length ≤ ((s.core (coreOf c)).slots.toList.filter (·.isNone)).length) &&
    match v.ctx.work with
    | some w => coIssueOk s (cascOf c) w.disp w.cur true
    | none => true

/-- Restore (spec/16 R322, spec/18 R362): a context of a lower class that holds the bank is pre-empted and evicted. -/
def restore (c : CtxId) (s : State) : State :=
  match nextSaved (s.core (coreOf c)) (bankOf c) with
  | none => s
  | some (i, v) =>
    if !bankOpen s (clsOf v.ctx) c then s
    else
      match clearBank c s with
      | none => s
      | some s' => if restoreFits s' c v then restoreFrom c i v (clearWayFor c v.ctx s') else s

/-- RESTORE (spec/18 R362). -/
def execRestore (c : CtxId) (s : State) : Host.Outcome State Fault Refusal :=
  .next (if heldClock s c then s else restore c s)

/-! ## The bank switch -/

/-- The other bank holds a higher class that is faulted, or has waited for the threshold (spec/16
R322). -/
def switchDue (s : State) (c : CtxId) : Bool :=
  let x := s.ctx c
  let y := s.ctx (otherBank c)
  decide (clsOf y < clsOf x) &&
    match bankState y with
    | .faulted => true
    | .waiting => s.dev.bswt != 0 && decide (s.dev.bswt.toNat ≤ y.waited)
    | _ => false

/-- A switched context is halted once more when the higher class can run again (spec/16 R322). -/
def switchBack (s : State) (c : CtxId) : Bool :=
  let x := s.ctx c
  let y := s.ctx (otherBank c)
  x.switched && x.bank == .running && decide (clsOf y < clsOf x) &&
    match bankState y with
    | .running | .trap => true
    | _ => false

/-- One bank's part in the bank switch and in ordinary resumption (spec/16 R322). -/
def switchBank (c : CtxId) (s : State) : State :=
  if switchBack s c then haltCtx c s
  else if (s.ctx c).bank != .halted then s
  else if switchDue s c then (resume c s).modCtx c fun x => { x with switched := true }
  else if bankFreeFor s c (s.ctx c) then resume c (clearWayFor c (s.ctx c) s)
  else s

/-- BANK_SWITCH (spec/16 R322). -/
def execBankSwitch (k : CoreId) (s : State) : Host.Outcome State Fault Refusal :=
  .next (if (s.casc (cascOfCore k)).hold then s else switchBank (ctxIn k 1) (switchBank (ctxIn k 0) s))

/-! ## What there is to deal -/

/-- The placement mask of an operator record (spec/17 R345). -/
def maskOf (o : Operator) : Nat := (o.words[0].extractLsb' 16 16).toNat

/-- The half on which an item is dealt (spec/16 R313, spec/19 R373). -/
def itemHalf (s : State) (o : Operator) (it : Item) : HalfId :=
  let h : HalfId := if o.halves then Fin.ofNat 2 (it.idx.headD 0) else o.half
  if s.dev.fo.fold = some h then 1 - h else h

/-- The mask names a cascade, itself or through the fold (spec/16 R313, spec/19 R373): bits of the
operator's other half are ignored. -/
def maskHas (s : State) (o : Operator) (g : CascId) : Bool :=
  let bit := fun (g : CascId) =>
    (o.halves || halfOfCasc g == o.half) && (maskOf o).testBit g.val
  bit g || (s.dev.fo.fold == some (1 - halfOfCasc g) && bit (Fin.ofNat 16 (g.val + 8)))

/-- The eligible cascades of an operator on a half (spec/16 R313, R315). -/
def eligible (s : State) (o : Operator) (h : HalfId) : List CascId :=
  (List.finRange 16).filter fun g => halfOfCasc g == h && maskHas s o g && !(liveTiers s g).isEmpty

/-- A part of an operator that is dealt on its own: its own items, or its fallback items (spec/16 R320,
spec/17 R346). -/
structure Unit_ where
  op : Operator
  fb : Bool
  deriving Repr

/-- The items of a unit on a half in dealing order (spec/16 R314). -/
def unitItems (s : State) (u : Unit_) (h : HalfId) : List Item :=
  let l := if u.fb then u.op.fallback else u.op.restart ++ u.op.pending
  l.filter fun it => itemHalf s u.op it == h

/-- The contexts of an operator, resident or evicted, with their work. -/
def liveWork (s : State) (id : Nat) : List Work :=
  let own := s.ctxs.toList.filterMap (·.work)
  let saved := s.cores.toList.flatMap fun k => k.saved.toList.filterMap fun t => t.bind fun v => v.ctx.work
  (own ++ saved).filter fun w => w.disp.op == id

/-- The items of an operator that are dealt and not started. -/
def dealtItems (s : State) (id : Nat) : List Item :=
  s.cascs.toList.flatMap fun g =>
    g.gangs.flatMap fun k => if k.op = id then k.items.filterMap (·.2) else []

/-- An operator has queued tasks or held join posts. -/
def hasTasks (s : State) (id : Nat) : Bool :=
  s.cascs.toList.any fun g =>
    (g.tasks ++ g.spill).any (fun t => t.op == id) || g.held.any fun t => t.op == id

/-- A work item of an operator, fallback items apart, has been dealt and has not ended. -/
def ownItems (s : State) (id : Nat) : Bool :=
  (liveWork s id).any (fun w => !w.task && !w.item.fb) || (dealtItems s id).any fun it => !it.fb

/-- A fallback item of an operator has been dealt and has not ended. -/
def fbItems (s : State) (id : Nat) : Bool :=
  (liveWork s id).any (fun w => !w.task && w.item.fb) || (dealtItems s id).any fun it => it.fb

/-- A task that a fallback item has posted is queued, held or running. -/
def fbTasks (s : State) (id : Nat) : Bool :=
  (liveWork s id).any (fun w => w.task && w.item.fb) ||
    s.cascs.toList.any fun g =>
      (g.tasks ++ g.spill).any (fun t => t.op == id && t.fb) || g.held.any fun t => t.op == id && t.fb

/-- A unit can still produce items (spec/16 R315). -/
def canProduce (s : State) (u : Unit_) : Bool :=
  let id := u.op.id
  let busy := !(liveWork s id).isEmpty || !(dealtItems s id).isEmpty || hasTasks s id
  if u.fb then ownItems s id || !u.op.pending.isEmpty || !u.op.restart.isEmpty ||
    (u.op.cores && (fbItems s id || fbTasks s id)) || (u.op.disp.rx && fbItems s id)
  else (u.op.cores && busy) || (u.op.disp.rx && ownItems s id)

/-- The dispatch set of a unit. -/
def unitDisp (u : Unit_) : Dispatch := if u.fb then u.op.fbDisp.getD u.op.disp else u.op.disp

/-- The items of a guarded operator that get a fallback entry as they are dealt (spec/13 R270, spec/17 R348): one for
each item, however often it is dealt. -/
def fbNeed (u : Unit_) (its : List Item) : Nat :=
  if u.op.disp.gd && !u.fb then (its.filter fun it => !it.res).length else 0

/-- The fallback entries of a half that running operators hold (spec/17 R348): that of an item is free again once the item, or
the fallback item that it leaves, has ended with its region's retirement (DESIGN CHOICE, notes/assumptions/70.md). -/
def fbTaken (s : State) (h : HalfId) : Nat := s.ops.foldl (fun n o => n + o.fbUsed[h.val]) 0

/-- The shadow dispatch bank of a core can hold a dispatch set: it is free, or it holds that set for a gang of
the same operator (spec/17 R349). -/
def shadowFits (s : State) (k : CoreId) (d : Dispatch) : Bool :=
  match (s.core k).shadow with
  | none => true
  | some e => e == d

/-- A cascade on which a gang of a unit can be placed: every live tier is free for it, with a bank beside
those that earlier reservations take (spec/16 R316, R317, R321). -/
def placeable (s : State) (u : Unit_) (g : CascId) : Bool :=
  let d := unitDisp u
  !(liveTiers s g).isEmpty &&
    ((liveTiers s g).all fun t =>
      decide ((s.casc g).gangs.length < (freeBanks s g t d.cls.toNat).length) &&
        shadowFits s (coreAt g t) d) &&
    coIssueOk s g d d.cur true && !resumesFirst s g d

/-- Rotation of a list of cascades to begin after the one used last (spec/16 R316). -/
def afterCasc (last : Option CascId) (l : List CascId) : List CascId :=
  match last with
  | none => l
  | some g => l.filter (fun c => decide (g < c)) ++ l.filter fun c => decide (c ≤ g)

/-- The items that a gang on a cascade takes: none while a partial gang has to wait (spec/16 R315). -/
def gangItems (s : State) (u : Unit_) (h : HalfId) (g : CascId) : List Item :=
  let w := (liveTiers s g).length
  let l := (unitItems s u h).take w
  if l.length < w ∧ canProduce s u then [] else l

/-- The cascade for the next gang of a unit on a half (spec/16 R316). -/
def chooseCasc (s : State) (u : Unit_) (h : HalfId) : Option CascId :=
  let el := eligible s u.op h
  let ok := fun (g : CascId) =>
    let its := gangItems s u h g
    let others := el.filter fun e => !its.any fun it => it.avoid == some e
    let avoided := its.any fun it => it.avoid == some g
    !its.isEmpty && (!avoided || others.isEmpty) && placeable s u g &&
      decide (fbTaken s h + fbNeed u its ≤ 65536)
  (afterCasc u.op.lastCasc[h.val] el).find? ok

/-- The items of a gang taken out of an operator's lists. -/
def takeItems (u : Unit_) (its : List Item) (o : Operator) : Operator :=
  if u.fb then { o with fallback := o.fallback.filter fun t => !its.contains t }
  else
    { o with restart := o.restart.filter (fun t => !its.contains t)
             pending := o.pending.filter fun t => !its.contains t }

/-- The items given to the live tiers in ascending order; the spare tiers run filler (spec/16 R315). -/
def dealTiers : List (Fin 4) → List Item → List (Fin 4 × Option Item)
  | [], _ => []
  | t :: ts, [] => (t, none) :: dealTiers ts []
  | t :: ts, i :: is => (t, some i) :: dealTiers ts is

/-- A gang of a unit formed on a cascade, which is reserved for it (spec/16 R316, spec/17 R349). -/
def formOn (u : Unit_) (h : HalfId) (g : CascId) (s : State) : State :=
  let its := gangItems s u h g
  let d := unitDisp u
  let tiers := liveTiers s g
  let gang : Gang :=
    { op := u.op.id, num := s.opCount + 1, disp := d
      items := dealTiers tiers (its.map fun it => { it with res := it.res || u.op.disp.gd }) }
  let s := { s with opCount := s.opCount + 1 }
  let s := s.modOp u.op.id fun o =>
    { takeItems u its o with lastCasc := o.lastCasc.set h.val (some g)
                             fbUsed := o.fbUsed.set h.val (o.fbUsed[h.val] + fbNeed u its) }
  let s := tiers.foldl (fun s t => s.modCore (coreAt g t) fun k => { k with shadow := some d }) s
  s.modCasc g fun x => { x with gangs := x.gangs ++ [gang] }

/-- The partner of an operator that still has items to deal (spec/16 R324). -/
def pairOf (s : State) (o : Operator) : Option Operator :=
  (o.partner.bind s.op).filter fun p => !(p.pending.isEmpty && p.restart.isEmpty)

/-- The half on which the first pending item of a partner is dealt. -/
def pairHalf (s : State) (p : Operator) : HalfId :=
  match (p.restart ++ p.pending).head? with
  | some it => itemHalf s p it
  | none => p.half

/-- A unit tried on a half: a gang of an operator with a partner is formed only in a step in which one of
the partner is formed as well (spec/16 R316, R324); fallback items have no partner (spec/17 R346). -/
def formUnit (u : Unit_) (h : HalfId) (s : State) : Option State :=
  match chooseCasc s u h with
  | none => none
  | some g =>
    let s := formOn u h g s
    match (if u.fb then none else pairOf s u.op) with
    | none => some s
    | some p =>
      let v : Unit_ := ⟨p, false⟩
      match chooseCasc s v (pairHalf s p) with
      | none => none
      | some g' => some (formOn v (pairHalf s p) g' s)

/-! ## The order of dealing -/

/-- The units of a list of operators, each operator before its fallback items (spec/16 R320). -/
def unitsOf (l : List Operator) : List Unit_ := l.flatMap fun o => [⟨o, false⟩, ⟨o, true⟩]

/-- The operators of a class with something to deal on a half, oldest launch first. -/
def dealable (s : State) (h : HalfId) (cls : Nat) : List Operator :=
  s.ops.filter fun o => o.state == .running && o.disp.cls.toNat == cls &&
    !((unitItems s ⟨o, false⟩ h).isEmpty && (unitItems s ⟨o, true⟩ h).isEmpty)

/-- One operator's deadline lies before another's (spec/16 R320). -/
def earlier (o p : Operator) : Bool :=
  let d := (o.deadline - p.deadline).toInt
  decide (d < 0) || (decide (d = 0) && (decide (o.queue.val < p.queue.val) ||
    (o.queue == p.queue && decide (o.id < p.id))))

/-- An operator put into the order of the deadlines. -/
def insertOp (o : Operator) : List Operator → List Operator
  | [] => [o]
  | p :: ps => if earlier o p then o :: p :: ps else p :: insertOp o ps

/-- The queues from one on, wrapping. -/
def queuesFrom (q : QueueId) : List QueueId := (List.finRange 64).map fun i => q + i

/-- The first unit of a list of which a gang can be formed. -/
def firstUnit (h : HalfId) (s : State) : List Unit_ → Option State
  | [] => none
  | u :: us =>
    match formUnit u h s with
    | some s => some s
    | none => firstUnit h s us

/-- The first queue of a list with an operator of which a gang can be formed. -/
def firstQueue (h : HalfId) (l : List Operator) (s : State) : List QueueId → Option (QueueId × State)
  | [] => none
  | q :: qs =>
    match firstUnit h s (unitsOf (l.filter fun o => o.queue == q)) with
    | some s => some (q, s)
    | none => firstQueue h l s qs

/-- The weight of a queue (spec/16 R323): 0 acts as 1. -/
def weight (s : State) (q : QueueId) : Nat := max (s.queue q).wt.toNat 1

/-- The next gang of the standard class: weighted round-robin over the queues (spec/16 R320). -/
def formStd (h : HalfId) (s : State) : Option State :=
  let x := s.half h
  let l := dealable s h 1
  let order := if 0 < x.stdLeft then queuesFrom x.lastStd else queuesFrom (x.lastStd + 1)
  match firstQueue h l s order with
  | none => none
  | some (q, s) =>
    let left := if 0 < x.stdLeft ∧ q = x.lastStd then x.stdLeft - 1 else weight s q - 1
    some (s.modHalf h fun x => { x with lastStd := q, stdLeft := left })

/-- The next gang of the background class: round-robin, one gang per visit (spec/16 R320). -/
def formBg (h : HalfId) (s : State) : Option State :=
  match firstQueue h (dealable s h 2) s (queuesFrom ((s.half h).lastBg + 1)) with
  | none => none
  | some (q, s) => some (s.modHalf h fun x => { x with lastBg := q })

/-- The next gang of the real-time class: the earliest deadline (spec/16 R320). -/
def formRt (h : HalfId) (s : State) : Option State :=
  firstUnit h s (unitsOf ((dealable s h 0).foldr insertOp []))

/-- GANG_FORM: the next gang of a half (spec/16 R316, R320). -/
def gangForm (h : HalfId) (s : State) : Option State :=
  ((formRt h s).or (formStd h s)).or (formBg h s)

/-- GANG_FORM as a step of the part. -/
def execGangForm (h : HalfId) (s : State) : Host.Outcome State Fault Refusal :=
  .next ((gangForm h s).getD s)

/-! ## Starting a gang -/

/-- The banks of the tiers made ready, one for each (spec/16 R316, R318). -/
def readyTiers (g : CascId) (cls : Nat) :
    List (Fin 4 × Option Item) → State → Option (State × List (CtxId × Option Item))
  | [], s => some (s, [])
  | (t, it) :: ts, s =>
    match bankChoice s g t cls with
    | none => none
    | some c =>
      match clearBank c s with
      | none => none
      | some s =>
        match readyTiers g cls ts s with
        | none => none
        | some (s, l) => some (s, (c, it) :: l)

/-- A member of a gang started, or filler in its place (spec/16 R318). -/
def startMember (k : Gang) (m : CtxId × Option Item) (s : State) : State :=
  if (s.op k.op).isNone then s
  else
    match m.2 with
    | none =>
      (s.modCtx m.1 fun x => { x with bank := .filler }).modCasc (cascOf m.1) fun g =>
        { g with fillers := (m.1, k.num) :: g.fillers.filter fun t => t.1 != m.1 }
    | some it =>
      let w : Work := { disp := k.disp, item := it, task := false, cur := k.disp.cur, gang := k.num
                        since := s.dev.time }
      startIn m.1 w (startRegs k.disp.entry k.disp.args 0 (BitVec.ofNat 64 it.lin))
        (startLoops k.disp it.idx) s

/-- A gang reserved on a cascade made ready to start; none when it has to wait (spec/16 R318, R321). -/
def gangReady (g : CascId) (k : Gang) (s : State) : Option (State × List (CtxId × Option Item)) :=
  if (s.casc g).hold ∨ !coIssueOk s g k.disp k.disp.cur true ∨ resumesFirst s g k.disp ∨ imageHeld s k.disp then none
  else
    readyTiers g k.disp.cls.toNat k.items (clearWay g k.disp k.disp.cur s)

/-- A ready gang started: its members begin in one step, and the reservation ends (spec/16 R318, spec/17
R349). -/
def launchGang (g : CascId) (k : Gang) (l : List (CtxId × Option Item)) (s : State) : State :=
  let s := endReservation g k s
  let s := s.modHalf (halfOfCasc g) fun h => { h with gangs := h.gangs + 1 }
  settleFiller g (l.foldl (fun s m => startMember k m s) s)

/-- The reserved gangs of an operator, fallback items apart, each with its cascade. -/
def gangsOf (s : State) (id : Nat) : List (CascId × Gang) :=
  (List.finRange 16).flatMap fun g => ((s.casc g).gangs.filter fun k => k.op == id && !k.fb).map fun k => (g, k)

/-- A reserved gang of the partner of an operator, with its cascade: the one formed first (spec/16 R324). -/
def pairGang (s : State) (k : Gang) : Option (CascId × Gang) :=
  (((s.op k.op).bind (·.partner)).map (gangsOf s)).bind fun l =>
    l.foldl (fun a b => match a with
      | none => some b
      | some a => if b.2.num < a.2.num then some b else some a) none

/-- One gang of a cascade started, and one of the partner with it (spec/16 R318, R324): while the partner has items to
deal and no gang of it is reserved, it waits. A gang of fallback items starts alone (spec/17 R346). -/
def startGang (g : CascId) (k : Gang) (s : State) : Option State :=
  match gangReady g k s with
  | none => none
  | some (s, l) =>
    match (if k.fb then none else pairGang s k) with
    | none => if !k.fb && ((s.op k.op).bind (pairOf s)).isSome then none else some (launchGang g k l s)
    | some (g', k') =>
      match gangReady g' k' s with
      | none => none
      | some (s, l') => some (launchGang g' k' l' (launchGang g k l s))

/-- The first gang of a list that can start. -/
def startFirst (g : CascId) (s : State) : List Gang → Option State
  | [] => none
  | k :: ks =>
    match startGang g k s with
    | some s => some s
    | none => startFirst g s ks

/-- GANG_START: the oldest reserved gang of the cascade that can start (spec/16 R318, R324). -/
def gangStart (g : CascId) (s : State) : Option State := startFirst g s (s.casc g).gangs

/-- GANG_START as a step of the part. -/
def execGangStart (g : CascId) (s : State) : Host.Outcome State Fault Refusal :=
  .next ((gangStart g s).getD s)

/-! ## Tasks -/

/-- TASK_REFILL: the on-chip queue refilled from the spill ring (spec/14 R292). -/
def execTaskRefill (g : CascId) (s : State) : Host.Outcome State Fault Refusal :=
  .next (s.modCasc g (refill 64))

/-- A halted or evicted context of a core of at least a class waits to resume (spec/16 R325). -/
def waitsToResume (s : State) (k : CoreId) (cls : Nat) : Bool :=
  [ctxIn k 0, ctxIn k 1].any (fun c =>
    (s.ctx c).bank == .halted && decide (clsOf (s.ctx c) ≤ cls)) ||
  (s.core k).saved.toList.any fun t => t.any fun v => decide (clsOf v.ctx ≤ cls)

/-- A task may start in a bank (spec/16 R316, R325). -/
def taskFits (s : State) (c : CtxId) (d : Dispatch) (cur : BitVec 2) : Bool :=
  let g := cascOf c
  let cls := d.cls.toNat
  !((s.casc g).gangs.any fun k => decide (k.disp.cls.toNat ≤ cls)) &&
    coIssueOk s g d cur false && !waitsToResume s (coreOf c) cls

/-- The bank may take new work. -/
def bankIdle (s : State) (c : CtxId) : Bool :=
  ((s.ctx c).bank == .empty || (s.ctx c).bank == .filler) &&
    (liveTiers s (cascOf c)).contains (tierOfCore (coreOf c))

/-- The dispatch set of a task: that of the fallback operator for what a fallback item has posted (spec/13 R271, spec/14
R291). -/
def taskDisp (o : Operator) (t : TaskEntry) : Dispatch := if t.fb then o.fbDisp.getD o.disp else o.disp

/-- TASK_POP: an idle bank takes the oldest task of its cascade (spec/14 R291, spec/16 R325); OPINFO.fb is 1 in what a
fallback item has posted (DEDUCED, notes/assumptions/24.md). -/
def taskPop (c : CtxId) (s : State) : State :=
  let g := cascOf c
  let s' := s.modCasc g (refill 64)
  match (s'.casc g).tasks with
  | [] => s
  | t :: ts =>
    if !t.ready || !bankIdle s c || (s.casc g).hold then s
    else
      match s.op t.op with
      | none => s'.modCasc g fun x => { x with tasks := ts }
      | some o =>
        let d := taskDisp o t
        if !taskFits s c d t.cur || imageHeld s d then s
        else
          let w : Work := { disp := d, item := ⟨[], 0, none, t.fb, false, 0⟩, task := true, cur := t.cur
                            gang := 0, since := s.dev.time }
          startIn c w (startRegs t.code d.args t.frame t.join) noLoops
            (s'.modCasc g fun x => { x with tasks := ts })

/-- TASK_POP as a step of the part. -/
def execTaskPop (c : CtxId) (s : State) : Host.Outcome State Fault Refusal := .next (taskPop c s)

end Sys2Proof.Machine
end

