-- ==== Sys2Proof/Machine/Launch.lean ====
section
/-! DEFINITION. What the command processors share: their accesses, the states of the queues, the drains,
the timelines they act on, and the launch of an operator (spec/17 R329 to R349, spec/16 R310 to R313). -/

namespace Sys2Proof.Machine

/-! ## Accesses of a command processor -/

/-- What a command processor gets: a value; an error code; or a wait, while a half is fenced (spec/17
R337, R338, spec/19 R371). -/
inductive CpGot (α : Type)
  | ok (v : α)
  | err (code : Nat)
  | wait
  deriving Repr

/-- An access that fails gives error code 4 (spec/17 R337, R338). -/
def ofGot {α : Type} : Got α → CpGot α
  | .ok v => .ok v
  | .fault _ _ _ => .err 4
  | .hold => .wait

/-- One access after another. -/
def cpThen {α β : Type} (r : State × CpGot α) (k : State → α → State × CpGot β) : State × CpGot β :=
  match r with
  | (s, .ok v) => k s v
  | (s, .err n) => (s, .err n)
  | (s, .wait) => (s, .wait)

/-- n bytes at an address of a packet, a card or a record, which must be aligned to their size (spec/17
R338). -/
def cpRead (q : QueueId) (va : Word) (n : Nat) (s : State) : State × CpGot Nat :=
  if va.toNat % n ≠ 0 then (s, .err 1)
  else
    let r := partRead (s.queue q).home none (s.queue q).asid va n s
    (r.1, ofGot r.2)

/-- The key of an aligned dword. -/
def cpKey (q : QueueId) (wr : Bool) (va : Word) (s : State) : State × CpGot Nat :=
  if va.toNat % 8 ≠ 0 then (s, .err 1)
  else
    let r := partXlate (s.queue q).home none (s.queue q).asid wr va s
    (r.1, ofGot r.2)

/-- The dwords of a number. -/
def dwords (n v : Nat) : Vector Word n := Vector.ofFn fun i => BitVec.ofNat 64 (v / 2 ^ (64 * i.val))

/-- TIME of the command processor that serves a queue. -/
def cpTime (s : State) (q : QueueId) : Word := halfTime s (s.queue q).home

/-! ## The states of a queue -/

/-- The command processor of a half runs: neither stopped at a quiescent point nor failed (spec/13 R265,
spec/17 R330, spec/19 R369, R370, spec/20 R387). -/
def cpAlive (s : State) (h : HalfId) : Bool :=
  !(s.half h).cpQuiet && !(s.half h).cpFatal && !(s.half h).struck && s.dev.fo.fenced != some h && s.dev.fo.fold != some h &&
    !s.dev.stopped

/-- The queues of the failed half resume with the re-run phase of the adoption (spec/19 R370). -/
def heldQueue (s : State) (q : QueueId) : Bool :=
  (s.queue q).adopted && adopting s

/-- A queue is served: its packets and cards are taken up (spec/17 R336, R337). -/
def served (s : State) (q : QueueId) : Bool :=
  cpAlive s (s.queue q).home && !heldQueue s q &&
    match (s.queue q).st with
    | .idle | .active | .waiting => true
    | _ => false

/-- The type of a packet (spec/17 R338). -/
def Pkt.ty (p : Pkt) : Nat := (p.words[0].extractLsb' 8 8).toNat

/-- The tag of a packet. -/
def Pkt.tag (p : Pkt) : Word32 := p.words[0].extractLsb' 32 32

/-- A WAIT_TL or WAIT_MEM that is being served. -/
def Pkt.waits (p : Pkt) : Bool := p.begun && (p.ty == 4 || p.ty == 5)

/-- The number of operators of a queue that run, QSTATq.nop (spec/17 R332). -/
def nopOf (s : State) (q : QueueId) : Nat := (queueOps s q).length

/-- The state in which a queue now stands (spec/17 R336). -/
def queueState (s : State) (q : QueueId) : QState :=
  let x := s.queue q
  match x.st with
  | .disabled => .disabled
  | .error => .error
  | .draining => if (queueOps s q).isEmpty then .disabled else .draining
  | _ =>
    if x.pkts.head?.any (·.waits) then .waiting
    else if x.rd = x.wi ∧ x.pkts.isEmpty ∧ (queueOps s q).isEmpty then .idle
    else .active

/-- A queue brought to its state; one that becomes Disabled drops what it had taken (spec/17 R336). -/
def settleQueue (q : QueueId) (s : State) : State :=
  let st := queueState s q
  s.modQueue q fun x =>
    { x with st := st, pkts := if st = .disabled then [] else x.pkts }

/-- A packet of a queue changed. -/
def modPkt (q : QueueId) (index : Word32) (f : Pkt → Pkt) (s : State) : State :=
  s.modQueue q fun x => { x with pkts := x.pkts.map fun p => if p.index = index then f p else p }

/-- A packet completes (spec/17 R335). -/
def endPkt (q : QueueId) (index : Word32) (s : State) : State :=
  settleQueue q (s.modQueue q fun x => { x with pkts := x.pkts.filter fun p => p.index != index })

/-- What a packet or card does with what it got: an error puts the queue into its error state. -/
def cpDone {α : Type} (q : QueueId) (index : Word32) (r : State × CpGot α) (k : State → α → State) :
    State :=
  match r with
  | (s, .ok v) => k s v
  | (s, .err code) => queueError q code index s
  | (s, .wait) => s

/-! ## Drains and timelines -/

/-- The committed writes of the operators of a queue have drained (spec/15 R306). -/
def queueDrained (s : State) (q : QueueId) : Bool :=
  !(s.halves.toList.any fun h => h.weir.any fun w =>
    w.committed && (w.op.any fun id => (queueOps s q).contains id))

/-- The target of a timeline packet or card (spec/17 R342): a queue timeline, or the key of a record. -/
inductive TlTarget
  | queue (q : QueueId)
  | record (key : Nat)
  deriving DecidableEq, Repr

/-- The target that a dword names (spec/17 R342): a record of another kind, or with reserved values in its
header or in its second word, gives error code 1. -/
def tlTarget (q : QueueId) (t : Word) (s : State) : State × CpGot TlTarget :=
  if t.getLsbD 63 then (s, .ok (.queue (Fin.ofNat 64 (t.extractLsb' 0 6).toNat)))
  else
    cpThen (cpRead q t 8 s) fun s hdr =>
    cpThen (cpRead q (t + 0x20) 8 s) fun s w =>
      let alias_ := BitVec.ofNat 64 w
      if hdr ≠ 4 ∨ alias_.extractLsb' 6 57 ≠ 0 then (s, .err 1)
      else if alias_.getLsbD 63 then
        (s, .ok (.queue (Fin.ofNat 64 (alias_.extractLsb' 0 6).toNat)))
      else cpThen (cpKey q false (t + 0x18) s) fun s k => (s, .ok (.record (k - 0x18)))

/-- The value of a target. -/
def tlValue (s : State) : TlTarget → Word
  | .queue q => (s.queue q).tl
  | .record k => memWord s.mem (k + 0x18)

/-- A release by the command processor of a half, with its TIME (spec/15 R299, R308). -/
def cpRelease (h : HalfId) (key scope : Nat) (s : State) : State :=
  stampRelease key (.half h) scope (halfTime s h) s

/-- n bytes written at an aligned address, and released (spec/17 R341, R352). -/
def cpWrite (q : QueueId) (va : Word) (n scope v : Nat) (s : State) : State × CpGot Unit :=
  if va.toNat % n ≠ 0 then (s, .err 1)
  else
    let h := (s.queue q).home
    let r := partXlate h none (s.queue q).asid true va s
    cpThen (r.1, ofGot r.2) fun s k => (cpRelease h k scope { s with mem := memPutNat s.mem k n v }, .ok ())

/-- A target raised by the command processor of a half, which releases at system scope (spec/15 R306, spec/17
R340). -/
def tlRaise (h : HalfId) (t : TlTarget) (v : Word) (s : State) : State :=
  match t with
  | .queue q => cpRelease h (tlKey q) 5 (raiseTimeline q v s)
  | .record k => cpRelease h k 5 (raiseRecord k v s)

/-- A queue timeline cannot advance while a command processor is at its quiescent point, or while its queue is being
adopted (spec/17 R330, spec/19 R375). -/
def tlOpen (s : State) : TlTarget → Bool
  | .queue q => !queueShut s q
  | .record _ => true

/-! ## Operator records -/

/-- A bit of dword 0 of an operator record (spec/17 R345). -/
def recBit (w : Vector Word 16) (i : Nat) : Bool := w[0].getLsbD i

/-- kind. -/
def cardKind (w : Vector Word 16) : Nat := (w[0].extractLsb' 0 4).toNat

/-- tcnt. -/
def recTcnt (w : Vector Word 16) : Nat := (w[0].extractLsb' 40 7).toNat

/-- The heap triple of a record as HEAPB, HEAPL and HEAPO hold it: their reserved high bits read 0 (spec/12 R244). -/
def recHeap (w : Vector Word 16) : Heap :=
  ⟨w[5] &&& 0x0000_FFFF_FFFF_FFFF#64, w[6] &&& 0x0001_FFFF_FFFF_FFFF#64, w[7]⟩

/-- The heap triple obeys R50 (spec/03 R50): multiples of 64 KiB, and an image in the global region. -/
def heapOk (s : State) (h : Heap) : Bool :=
  decide (h.base.toNat % 65536 = 0) && decide (h.len.toNat % 65536 = 0) &&
    decide (h.off.toNat % 65536 = 0) &&
    (h.len == 0 || decide ((h.base + h.off).toNat + h.len.toNat ≤ dramG s))

/-- The fields by which an entry runs: its templates, its alignment and its heap (spec/17 R346, R347). -/
def entryOk (s : State) (w : Vector Word 16) : Bool :=
  decide (recTcnt w ≤ 64) && decide (w[2].toNat % 64 = 0) && decide (w[8].toNat % 128 = 0) &&
    heapOk s (recHeap w)

/-- What the record alone refuses (spec/17 R347). -/
def recordOk (s : State) (w : Vector Word 16) : Bool :=
  cardKind w == 1 && w[0].extractLsb' 9 2 != 3 && w[0].extractLsb' 11 2 != 3 && entryOk s w &&
    (!recBit w 5 || (w[11] != 0 && decide (w[11].toNat % 128 = 0)))

/-- The levels of a loop table (spec/16 R310): trip counts and kinds; none when R311 is broken. -/
structure Levels where
  trips : List Nat
  kinds : List Nat
  deriving DecidableEq, Repr

/-- The trip counts of the spatial levels. -/
def Levels.spatial (l : Levels) : List Nat :=
  ((l.trips.zip l.kinds).filter fun t => t.2 != 0).map (·.1)

/-- The product of a list. -/
def product (l : List Nat) : Nat := l.foldl (fun (a b : Nat) => a * b) 1

/-- A loop table read and checked (spec/16 R310, R311). -/
def loopLevels (w : Vector Word 8) : Option Levels :=
  let n := w[0].toNat
  let lv := (w.toList.drop 1).take 6
  let l : Levels :=
    { trips := (lv.take n).map fun v => (v.extractLsb' 0 32).toNat
      kinds := (lv.take n).map fun v => (v.extractLsb' 32 32).toNat }
  let sp := l.spatial.length
  if decide (1 ≤ n) && decide (n ≤ 6) && w[7] == 0 && (lv.drop n).all (· == 0) &&
      l.kinds.all (fun k => decide (k ≤ 2)) && (l.kinds.take sp).all (fun k => k != 0) &&
      (l.kinds.drop 1).all (fun k => k != 2) &&
      (l.kinds.head? != some 2 || l.trips.head? == some 2) &&
      decide (product l.spatial ≤ 2 ^ 32 - 1) then
    some l
  else none

/-! ## Launch -/

/-- What a launch is given beside the record (spec/17 R338, R339). -/
structure LaunchArgs where
  queue : QueueId
  pkt : Word32
  recVa : Word
  args : Word
  deadline : Word
  inGraph : Bool
  card : BitVec 16
  tag : Word32
  deriving DecidableEq, Repr

/-- The dispatch set of a record (spec/17 R345, R349). -/
def recDispatch (s : State) (a : LaunchArgs) (id : Nat) (w : Vector Word 16) (l : Levels) : Dispatch :=
  { op := id, entry := w[2], args := if a.args = 0 then w[4] else a.args, heap := recHeap w
    gtol := w[10].extractLsb' 0 32, timg := w[8], tcnt := recTcnt w, trips := l.trips
    temporal := l.kinds.map (· == 0), cls := w[0].extractLsb' 11 2, asid := (s.queue a.queue).asid
    queue := a.queue, rx := recBit w 7, gd := recBit w 5, met := recBit w 6, card := a.card, tag := a.tag
    mixok := recBit w 8, cur := w[0].extractLsb' 9 2, fbud := w[0].extractLsb' 32 8
    thr := recBit w 14 }

/-- The dispatch set of the fallback items: entry, arguments, heap and templates come from the fallback
record, all else from the guarded operator (spec/17 R346). -/
def fbDispatch (d : Dispatch) (w : Vector Word 16) : Dispatch :=
  { d with entry := w[2], args := w[4], heap := recHeap w, timg := w[8], tcnt := recTcnt w }

/-- The work items of an operator in the order of their linear index; after a failover those of the
surviving half go first (spec/16 R312, R314, spec/19 R373). -/
def freshItems (s : State) (halves : Bool) (sp : List Nat) : List Item :=
  let its := (tuples (sp.map List.range)).map fun t =>
    ({ idx := t, lin := linear t sp, avoid := none, fb := false, res := false, ord := 0 } : Item)
  match s.dev.fo.fold with
  | none => its
  | some f =>
    if halves then
      let own := fun (it : Item) => it.idx.head? != some f.val
      its.filter own ++ its.filter fun it => !own it
    else its

/-- Every half with items has an eligible cascade (spec/16 R313). -/
def eligibleOk (s : State) (o : Operator) : Bool :=
  o.pending.all fun it => !(eligible s o (itemHalf s o it)).isEmpty

/-- An operator with items for a half that is fenced waits for the end of the fence (spec/19 R370). -/
def needsFenced (s : State) (o : Operator) : Bool :=
  o.pending.any fun it => s.dev.fo.fenced == some (itemHalf s o it)

/-- The operator that runs from a record of an ASID (spec/17 R346). -/
def runningFrom (s : State) (asid : BitVec 8) (va : Word) : Option Nat :=
  (s.ops.find? fun o => o.state == .running && o.recVa == va && o.disp.asid == asid).map (·.id)

/-- The partner of an operator is still running. -/
def partnerLive (s : State) (p : Operator) : Bool := (p.partner.bind s.op).any fun q => q.state == .running

/-- Partners found at a launch, on both sides (spec/16 R324, spec/17 R346): the partner is the operator that runs. -/
def pairUp (s : State) (o : Operator) (p : Operator) : Operator :=
  if !partnerLive s p ∧ (o.partner = some p.id ∨
      (p.words[12] = o.recVa ∧ p.words[12] ≠ 0 ∧ p.disp.asid = o.disp.asid)) then
    { p with partner := some o.id }
  else p

/-- The operator that names a new one as its partner. -/
def namedBy (s : State) (asid : BitVec 8) (va : Word) : Option Nat :=
  (s.ops.find? fun o => o.state == .running && o.words[12] == va && va != 0 && o.disp.asid == asid).map
    (·.id)

/-- An operator from its record, its fallback record and its loop table (spec/17 R348). -/
def newOperator (s : State) (a : LaunchArgs) (w : Vector Word 16) (fb : Option (Vector Word 16))
    (l : Levels) : Operator :=
  let id := s.opCount + 1
  let d := recDispatch s a id w l
  let halves := l.kinds.head? == some 2
  { id := id, queue := a.queue, pkt := a.pkt, card := if a.inGraph then a.recVa else 0
    inGraph := a.inGraph, words := w, recVa := a.recVa, disp := d
    fbDisp := fb.map (fbDispatch d), half := Fin.ofNat 2 (recBit w 13).toNat
    deadline := if a.deadline = 0 then w[9] else a.deadline, halves := halves
    cores := l.kinds.head? == some 1, pending := freshItems s halves l.spatial, restart := []
    fallback := [], entered := 0, gfail := 0, lastCasc := Vector.replicate 2 none, state := .running
    partner := if w[12] = 0 then namedBy s d.asid a.recVa
               else (runningFrom s d.asid w[12]).or (namedBy s d.asid a.recVa)
    fbUsed := Vector.replicate 2 0 }

/-- The fallback record of a guarded operator; a record of another kind or one that breaks R50 is refused
(spec/17 R346, R347). -/
def readFallback (q : QueueId) (w : Vector Word 16) (s : State) :
    State × CpGot (Option (Vector Word 16)) :=
  if !recBit w 5 then (s, .ok none)
  else
    cpThen (cpRead q w[11] 128 s) fun s n =>
      let f := dwords 16 n
      if cardKind f = 1 ∧ entryOk s f then (s, .ok (some f)) else (s, .err 3)

/-- The loop table of an operator: in scratchpad or main memory (spec/16 R310). -/
def readLevels (q : QueueId) (va : Word) (s : State) : State × CpGot Levels :=
  cpThen (cpRead q va 64 s) fun s n =>
    match loopLevels (dwords 8 n) with
    | some l => (s, .ok l)
    | none => (s, .err 3)

/-- An operator launched from the words of its record (spec/17 R347, R348): its number, or the error
code. -/
def launchOp (a : LaunchArgs) (w : Vector Word 16) (s : State) : State × CpGot Nat :=
  if !recordOk s w then (s, .err 3)
  else
    cpThen (readFallback a.queue w s) fun s fb =>
    cpThen (readLevels a.queue w[3] s) fun s l =>
      let o := newOperator s a w fb l
      if needsFenced s o then (s, .wait)
      else if !eligibleOk s o then (s, .err 3)
      else
        ({ s with ops := s.ops.map (pairUp s o) ++ [o], opCount := o.id }, .ok o.id)

end Sys2Proof.Machine
end

