-- ==== Sys2Proof/Machine/Packets.lean ====
section
/-! DEFINITION. Packets: notify writes, the fetch, LAUNCH, the packets that signal, wait and write, INVAL,
PAGE_RESP and QUEUE_CFG (spec/17 R333 to R344, spec/03 R59 to R62). -/

namespace Sys2Proof.Machine

/-! ## Notify writes and the fetch -/

/-- An index delivered to the notify page of a queue (spec/17 R334). -/
def notify (q : QueueId) (n : Word32) (s : State) : State :=
  let x := s.queue q
  if (n - x.wi).toInt ≤ 0 then s
  else if 2 ^ x.lgsz.toNat < (n - x.rd).toNat then queueError q 9 (servedPkt x) s
  else settleQueue q (s.modQueue q fun x => { x with wi := n })

/-- Notify writes of a queue are latched while its command processor is at a quiescent point, or the queue is being
adopted (spec/17 R330, spec/19 R375). -/
def notifyHeld (s : State) (q : QueueId) : Bool := (s.half (s.queue q).home).cpQuiet || heldQueue s q

/-- NOTIFY_WRITE (spec/17 R334): latched while the command processors are stopped (R330), and while an
adoption is under way (spec/19 R375). Either function and a peer may write (spec/21 R393). -/
def execNotifyWrite (n : Notify) (s : State) : Host.Outcome State Fault Refusal :=
  let h := (s.queue n.queue).home
  if s.dev.stopped then .next s
  else if notifyHeld s n.queue then
    .next (s.modHalf h fun x => { x with cpLatched := x.cpLatched ++ [.notifyWrite n] })
  else .next (notify n.queue n.index s)

/-- The PA of packet rd (spec/17 R333). -/
def pktPa (x : Queue) : Nat := x.base.toNat + 64 * (x.rd.toNat % 2 ^ x.lgsz.toNat)

/-- A queue whose next packet is due (spec/17 R333). -/
def mayFetch (s : State) (q : QueueId) : Bool :=
  let x := s.queue q
  served s q && x.en && x.rd != x.wi

/-- The packet that a queue would take is there: its header is valid, or it cannot be read at all. -/
def packetThere (s : State) (q : QueueId) : Bool :=
  let pa := pktPa (s.queue q)
  mayFetch s q && (!ringPlaceOk s pa 64 || memRead (readView s (ringKey s pa) 64) (ringKey s pa) &&& 1 != 0)

/-- The class of a queue: 3 acts as 2 (spec/17 R331). -/
def queueCls (x : Queue) : Fin 3 := if x.cls = 0 then 0 else if x.cls = 1 then 1 else 2

/-- The queue whose packet the command processor of a half takes up: the highest class with work, and
round-robin within a class (spec/17 R329). -/
def nextQueue (s : State) (h : HalfId) : Option QueueId :=
  let of := fun (cls : Fin 3) =>
    (queuesFrom ((s.half h).cpLast[cls.val] + 1)).find? fun q =>
      (s.queue q).home == h && queueCls (s.queue q) == cls && packetThere s q
  ((of 0).or (of 1)).or (of 2)

/-- The types that a queue accepts, or the error code of another (spec/17 R337, R338). -/
def typeError (x : Queue) (ty : Nat) : Option Nat :=
  if (1 ≤ ty ∧ ty ≤ 7) then none
  else if 0x20 ≤ ty ∧ ty ≤ 0x24 then (if x.priv then none else some 2)
  else some 1

/-- A packet as it is taken. -/
def freshPkt (index : Word32) (w : Vector Word 8) : Pkt :=
  { index := index, words := w, begun := false, tlq := none, waitFrom := 0, readAt := 0, delay := 0
    op := none, graph := none }

/-- Packet rd of a queue read and, when its valid bit is 1, taken (spec/17 R333). A type that the queue does not accept
puts it into its error state as the packet is taken (DEDUCED, notes/assumptions/42.md). -/
def takePacket (q : QueueId) (s : State) : State :=
  let x := s.queue q
  let pa := pktPa x
  if !ringPlaceOk s pa 64 then queueError q 4 x.rd s
  else
    let k := ringKey s pa
    let w := dwords 8 (memNat (readView s k 64) k 64)
    if !w[0].getLsbD 0 then s
    else
      let s := { s with mem := memPutNat s.mem k 8 (w[0] &&& ~~~1#64).toNat }
      let s := s.modHalf x.home fun h => { h with cpLast := h.cpLast.set (queueCls x).val q }
      let p := freshPkt x.rd w
      let s := s.modQueue q fun x => { x with rd := x.rd + 1, pkts := x.pkts ++ [p] }
      match typeError x p.ty with
      | some code => queueError q code p.index s
      | none => settleQueue q s

/-- Packet rd of a queue taken in its turn. -/
def fetchPacket (q : QueueId) (s : State) : State :=
  if mayFetch s q ∧ nextQueue s (s.queue q).home = some q then takePacket q s else s

/-- PACKET_FETCH (spec/17 R333). -/
def execPacketFetch (q : QueueId) (s : State) : Host.Outcome State Fault Refusal := .next (fetchPacket q s)

/-- PACKET_POLL: a packet whose valid bit was 0, read again (spec/17 R333). -/
def execPacketPoll (q : QueueId) (s : State) : Host.Outcome State Fault Refusal := .next (fetchPacket q s)

/-! ## The beginning of a packet -/

/-- A packet that begins only after every earlier one has completed (spec/17 R335). -/
def Pkt.barred (p : Pkt) : Bool := p.words[0].getLsbD 16 || p.ty == 3 || p.ty == 6 || p.ty == 7

/-- A packet of a queue may begin (spec/17 R335). -/
def canBegin (s : State) (q : QueueId) (p : Pkt) : Bool :=
  let before := (s.queue q).pkts.takeWhile fun t => t.index != p.index
  before.all (·.begun) && !(before.any (·.waits)) && (!p.barred || before.isEmpty) &&
    (p.ty != 1 || decide (nopOf s q < 16))

/-- The packet of a type that a queue can begin now. -/
def beginning (s : State) (q : QueueId) (ty : Nat) : Option Pkt :=
  if served s q then
    ((s.queue q).pkts.find? fun p => !p.begun).filter fun p => p.ty == ty && canBegin s q p
  else none

/-- A packet marked as begun. -/
def beginPkt (q : QueueId) (index : Word32) (s : State) : State :=
  settleQueue q (modPkt q index (fun p => { p with begun := true }) s)

/-- The packet of a type that a queue has begun and not completed. -/
def openPkt (s : State) (q : QueueId) (ty : Nat) : Option Pkt :=
  if served s q then (s.queue q).pkts.find? fun p => p.begun && p.ty == ty else none

/-! ## LAUNCH -/

/-- LAUNCH: the operator of the record starts, or is refused (spec/17 R339, R347, R348). -/
def launchPkt (q : QueueId) (p : Pkt) (s : State) : State :=
  let va := p.words[1]
  if va.toNat % 128 ≠ 0 then queueError q 3 p.index s
  else
    cpDone q p.index (cpRead q va 128 s) fun s n =>
      let a : LaunchArgs :=
        { queue := q, pkt := p.index, recVa := va, args := p.words[2], deadline := p.words[3]
          inGraph := false, card := 0, tag := p.tag }
      cpDone q p.index (launchOp a (dwords 16 n) s) fun s id =>
        settleQueue q (modPkt q p.index (fun p => { p with begun := true, op := some id }) s)

/-- LAUNCH as a step of the part. -/
def execLaunch (q : QueueId) (s : State) : Host.Outcome State Fault Refusal :=
  match beginning s q 1 with
  | none => .next s
  | some p => .next (launchPkt q p s)

/-! ## SIGNAL, WRITE and FENCE -/

/-- SIGNAL: the queue's own timeline, after the drain (spec/15 R306, spec/17 R340). -/
def execSignal (q : QueueId) (s : State) : Host.Outcome State Fault Refusal :=
  match beginning s q 3 with
  | none => .next s
  | some p =>
    if queueDrained s q && tlOpen s (.queue q) then
      .next (endPkt q p.index (tlRaise (s.queue q).home (.queue q) p.words[1] s))
    else .next s

/-- WRITE: after its drain it writes its value, a word or a dword, at system scope (spec/17 R341). -/
def execWrite (q : QueueId) (s : State) : Host.Outcome State Fault Refusal :=
  match beginning s q 6 with
  | none => .next s
  | some p =>
    if queueDrained s q then
      let n := if p.words[3].getLsbD 0 then 8 else 4
      .next (cpDone q p.index (cpWrite q p.words[1] n 5 p.words[2].toNat s) fun s _ => endPkt q p.index s)
    else .next s

/-- The writes, reductions and effects of an operator that have retired have reached their homes (spec/15 R303, R307): a
ring effect that waits at its home for another claim holds nothing back. -/
def opSettled (s : State) (id : Nat) : Bool :=
  !(s.halves.toList.any fun h => h.weir.any fun w => w.op == some id) &&
    !(s.ctxs.toList.any fun x => x.sync.posted.any (fun p => p.op == some id) ||
      x.sync.red.any (fun r => r.by_ == some id) ||
      x.sync.deferred.any fun d => d.retired && d.op == some id && !ringWaits s d.eff) &&
    !(s.cores.toList.any fun k => k.active.any (fun a => a.op == some id) || k.arrivals.any fun a => a.op == some id)

/-- FENCE: its scope is 0 to 5; the earlier packets have completed and their writes have drained (spec/17
R341). -/
def execFencePacket (q : QueueId) (s : State) : Host.Outcome State Fault Refusal :=
  match beginning s q 7 with
  | none => .next s
  | some p =>
    let scope := (p.words[1].extractLsb' 0 3).toNat
    if 5 < scope then .next (queueError q 1 p.index s)
    else if scope = 0 || queueDrained s q then .next (endPkt q p.index s)
    else .next s

/-! ## Waits -/

/-- A wait begins now. -/
def startWait (q : QueueId) (index : Word32) (s : State) : State :=
  let t := cpTime s q
  settleQueue q (modPkt q index (fun p => { p with begun := true, waitFrom := t, readAt := t }) s)

/-- A wait on a timeline target evaluated (spec/17 R337, R342): satisfied, still waiting, or an error. -/
def evalTimeline (q : QueueId) (p : Pkt) (target threshold : Word) (s : State) : State × CpGot Bool :=
  cpThen (tlTarget q target s) fun s t =>
    if reached (tlValue s t) threshold then (s, .ok true)
    else
      match t with
      | .record _ => (s, .ok false)
      | .queue r =>
        if (s.queue r).st = .error then (s, .err 7)
        else (modPkt q p.index (fun p => { p with tlq := some r }) s, .ok false)

/-- WAIT_TL evaluated (spec/17 R342). -/
def waitTlPkt (q : QueueId) (p : Pkt) (s : State) : State :=
  cpDone q p.index (evalTimeline q p p.words[1] p.words[2] s) fun s ok =>
    if ok then endPkt q p.index s else s

/-- WAIT_TL: it begins, or is evaluated again (spec/17 R342). -/
def execWaitTl (q : QueueId) (s : State) : Host.Outcome State Fault Refusal :=
  match beginning s q 4 with
  | some p => .next (waitTlPkt q p (startWait q p.index s))
  | none =>
    match openPkt s q 4 with
    | some p => .next (waitTlPkt q p s)
    | none => .next s

/-- The back-off cap of a queue's class in ns (spec/17 R343). -/
def backoffCap (x : Queue) : Nat :=
  if x.cls = 0 then 2000 else if x.cls = 1 then 64000 else 1000000

/-- A masked word against a masked value (spec/17 R343): the condition codes 5 to 7 give error code 1. -/
def evalMemory (q : QueueId) (va value mask : Word) (cond : Nat) (s : State) : State × CpGot Bool :=
  if 4 < cond then (s, .err 1)
  else
    cpThen (cpRead q va 8 s) fun s n =>
      (s, .ok (waitCond cond (BitVec.ofNat 64 n &&& mask) (value &&& mask)))

/-- The delay after a read that failed (spec/17 R343). -/
def backOff (q : QueueId) (s : State) (p : Pkt) : Pkt :=
  { p with delay := if p.delay = 0 then 250 else min (2 * p.delay) (backoffCap (s.queue q))
           readAt := cpTime s q }

/-- WAIT_MEM evaluated (spec/17 R343). -/
def waitMemPkt (q : QueueId) (p : Pkt) (s : State) : State :=
  let cond := (p.words[4].extractLsb' 0 3).toNat
  cpDone q p.index (evalMemory q p.words[1] p.words[2] p.words[3] cond s) fun s ok =>
    if ok then endPkt q p.index s else modPkt q p.index (backOff q s) s

/-- WAIT_MEM begins (spec/17 R343). -/
def execWaitMem (q : QueueId) (s : State) : Host.Outcome State Fault Refusal :=
  match beginning s q 5 with
  | some p => .next (waitMemPkt q p (startWait q p.index s))
  | none => .next s

/-- ns have passed on TIME since a moment. -/
def passed (s : State) (q : QueueId) (since : Word) (ns : Nat) : Bool :=
  decide (ns ≤ (cpTime s q - since).toNat)

/-- WAIT_MEM_REREAD: the word is read again once the delay has passed (spec/17 R343). -/
def execWaitMemReread (q : QueueId) (s : State) : Host.Outcome State Fault Refusal :=
  match openPkt s q 5 with
  | some p => if passed s q p.readAt p.delay then .next (waitMemPkt q p s) else .next s
  | none => .next s

/-- A timeout in µs, 0 for none, has passed since a wait began (spec/17 R343, R351). -/
def timedOut (s : State) (q : QueueId) (p : Pkt) (us : Nat) : Bool :=
  us != 0 && passed s q p.waitFrom (1000 * us)

/-- WAIT_MEM_TIMEOUT (spec/17 R343). -/
def execWaitMemTimeout (q : QueueId) (s : State) : Host.Outcome State Fault Refusal :=
  match openPkt s q 5 with
  | some p =>
    if timedOut s q p (p.words[4].extractLsb' 32 32).toNat then .next (queueError q 6 p.index s)
    else .next s
  | none => .next s

/-! ## INVAL -/

/-- The entries that an INVAL names (spec/03 R59). -/
structure InvalArgs where
  asid : BitVec 8
  all : Bool
  glb : Bool
  hint : Nat
  base : Nat
  len : Nat
  deriving DecidableEq, Repr

/-- The fields of an INVAL packet (spec/17 R338). -/
def invalArgs (p : Pkt) : InvalArgs :=
  { asid := p.words[1].extractLsb' 0 8, all := p.words[1].getLsbD 8, glb := p.words[1].getLsbD 9
    hint := (p.words[1].extractLsb' 12 3).toNat, base := (p.words[2].extractLsb' 0 32).toNat
    len := (p.words[3].extractLsb' 0 32).toNat }

/-- A range of n units of 64 KiB from a unit on meets the range of an INVAL. -/
def InvalArgs.meets (a : InvalArgs) (unit n : Nat) : Bool :=
  a.len == 0 || (decide (a.base < unit + n) && decide (unit < a.base + a.len))

/-- An INVAL names a translation (spec/03 R59). -/
def InvalArgs.names (a : InvalArgs) (t : TlbEntry) : Bool :=
  (if t.gl then a.glb else a.all || t.asid == a.asid) &&
    (a.hint == 0 || (if t.big then a.hint == 3 else a.hint == 4)) &&
    (if t.big then a.meets (32 * t.vpage) 32 else a.meets t.vpage 1)

/-- The oldest region of a context that has used a translation that an INVAL names. -/
def usedBy (a : InvalArgs) (x : Ctx) : Option Nat :=
  let hit := fun (r : Region) => r.used.any a.names
  match x.older with
  | some r => if hit r then some r.epoch else if hit x.reg then some x.reg.epoch else none
  | none => if hit x.reg then some x.reg.epoch else none

/-- A region that an INVAL discards is of a context whose clock is held (spec/18 R364). -/
def invalHeld (a : InvalArgs) (s : State) : Bool :=
  (List.finRange 128).any fun c => (usedBy a (s.ctx c)).isSome && (s.ctx c).bank == .running && heldClock s c

/-- The regions that an INVAL discards (spec/03 R60). -/
def invalRegions (a : InvalArgs) (s : State) : State :=
  (List.finRange 128).foldl (fun s c =>
    match usedBy a (s.ctx c) with
    | some e => if (s.ctx c).bank = .running then discard c e s else s
    | none => s) s

/-- The entries that an INVAL removes from every TLB (spec/03 R59). -/
def invalTlbs (a : InvalArgs) (s : State) : State :=
  { s with
    cores := s.cores.map fun (k : Core) => { k with tlb := k.tlb.filter fun t => !a.names t }
    halves := s.halves.map fun (h : Half) => { h with tlb := h.tlb.filter fun t => !a.names t } }

/-- INVAL broadcast (spec/03 R59, R60, spec/17 R344), once no hold keeps a region from its discard (spec/18 R364). -/
def execInval (q : QueueId) (s : State) : Host.Outcome State Fault Refusal :=
  match beginning s q 0x20 with
  | none => .next s
  | some p =>
    let a := invalArgs p
    if a.hint ≠ 0 ∧ a.hint ≠ 3 ∧ a.hint ≠ 4 then .next (queueError q 1 p.index s)
    else if invalHeld a s then .next s
    else .next (beginPkt q p.index (invalRegions a (invalTlbs a s)))

/-- Of the halves that an INVAL waits for, a fenced one is left out (spec/19 R377), no committed weir entry formed from a
translation that it names is left, and of their cores no command that uses one (spec/03 R60). -/
def invalSettled (a : InvalArgs) (s : State) : Bool :=
  let asks := fun (h : HalfId) => s.dev.fo.fenced != some h
  !((List.finRange 2).any fun h => asks h && (s.half h).weir.any fun w => w.committed && w.used.any a.names) &&
    !((List.finRange 64).any fun k => asks (halfOfCore k) && (s.core k).active.any fun t => t.used.any a.names)

/-- INVAL_COMPLETE (spec/03 R60). -/
def execInvalComplete (q : QueueId) (s : State) : Host.Outcome State Fault Refusal :=
  match openPkt s q 0x20 with
  | none => .next s
  | some p => if invalSettled (invalArgs p) s then .next (endPkt q p.index s) else .next s

/-! ## PAGE_RESP -/

/-- An answer kept with a context that is halted or evicted (spec/18 R358). -/
def keepAnswer (ok : Bool) (x : Ctx) : Ctx :=
  { x with preq := x.preq.map fun p => { p with answer := some (p.answer.getD ok) } }

/-- An answer for an evicted context (spec/18 R358, R362). -/
def answerSaved (c : CtxId) (gen : Word32) (ok : Bool) (s : State) : State :=
  let keep := fun (v : SavedCtx) =>
    if v.bank = bankOf c ∧ v.ctx.id.gen = gen then { v with ctx := keepAnswer ok v.ctx } else v
  s.modCore (coreOf c) fun k => { k with saved := k.saved.map fun t => t.map keep }

/-- An answer to a page request (spec/03 R62, spec/18 R358): success readies the context, failure enters its
handler with a fatal cause; any other answer is dropped. -/
def pageAnswer (c : CtxId) (gen : Word32) (ok : Bool) (s : State) : State :=
  let x := s.ctx c
  if x.id.gen = gen ∧ x.bank = .faulted then
    match x.preq with
    | none => s
    | some p =>
      if ok then s.modCtx c fun x => { x with bank := .running, preq := none }
      else takeTrap c p.cause x.regs.pc p.va false s
  else if x.id.gen = gen ∧ x.bank = .halted then s.modCtx c (keepAnswer ok)
  else answerSaved c gen ok s

/-- PAGE_RESP (spec/03 R62, spec/17 R344): while the clock of its cascade is held the answer is latched (spec/18
R364). -/
def execPageResp (q : QueueId) (s : State) : Host.Outcome State Fault Refusal :=
  match beginning s q 0x21 with
  | none => .next s
  | some p =>
    let w := p.words[1]
    let c := ctxIn (Fin.ofNat 64 (w.extractLsb' 0 6).toNat) (Fin.ofNat 2 (w.extractLsb' 6 1).toNat)
    let gen := w.extractLsb' 32 32
    let ok := !w.getLsbD 7
    .next (endPkt q p.index (orLatch (cascOf c) (.answer c gen ok) (pageAnswer c gen ok) s))

/-! ## QUEUE_CFG -/

/-- A QBASE image written: base is PA[43:6] (spec/17 R331). -/
def writeQbase (q : QueueId) (v : Word) (s : State) : State :=
  if (s.queue q).en then s
  else s.modQueue q fun x => { x with base := v &&& 0x0000_0FFF_FFFF_FFC0#64 }

/-- The fields of a QCTL image but for en (spec/17 R331). -/
def qctlFields (v : Word) (x : Queue) : Queue :=
  { x with
    priv := v.getLsbD 62, ie := v.getLsbD 61, home := if v.getLsbD 60 then 1 else 0
    cls := v.extractLsb' 58 2, fn := if v.getLsbD 56 then 1 else 0, asid := v.extractLsb' 48 8
    lgsz := v.extractLsb' 0 5 }

/-- en ← 1 (spec/17 R331, R336, R337, spec/21 R401): refused for a ring size outside 4 to 16 and before
phase 5, and without effect in Draining, which is left for Disabled only (DEDUCED, notes/assumptions/42.md); a
queue that leaves the error state skips the remaining packets. -/
def enableQueue (q : QueueId) (s : State) : State :=
  let x := s.queue q
  if x.en || x.st == .draining || x.lgsz.toNat < 4 || 16 < x.lgsz.toNat || s.dev.boot.phase != 5 then s
  else
    settleQueue q (s.modQueue q fun x =>
      { x with en := true, st := .idle, rd := if x.st = .error then x.wi else x.rd })

/-- en ← 0 (spec/17 R336, R337): Draining while operators run, and no packet is begun any more; out of the error state at
once, whatever en was. -/
def disableQueue (q : QueueId) (s : State) : State :=
  if (s.queue q).st = .error then
    settleQueue q (s.modQueue q fun x => { x with en := false, st := .disabled, rd := x.wi })
  else if !(s.queue q).en then s
  else
    settleQueue q (s.modQueue q fun x =>
      { x with en := false, st := .draining, pkts := x.pkts.filter fun p => p.op.isSome })

/-- A QCTL image written with its en (spec/17 R331). -/
def writeQctl (q : QueueId) (v : Word) (s : State) : State :=
  if (s.queue q).en then
    let s := s.modQueue q fun x => { x with ie := v.getLsbD 61 }
    if v.getLsbD 63 then s else disableQueue q s
  else
    let s := s.modQueue q (qctlFields v)
    if v.getLsbD 63 then enableQueue q s else disableQueue q s

/-- A queue reset out of the error state (spec/17 R337, R344). -/
def resetQueue (q : QueueId) (s : State) : State :=
  if (s.queue q).st ≠ .error then s
  else
    settleQueue q (s.modQueue q fun x =>
      { x with rd := x.wi, st := if x.en then .idle else .disabled })

/-- A QUEUE_CFG packet with an op acts on its target (spec/17 R344). -/
def queueCfg (op : Nat) (f : QueueId → Pkt → State → State) (q : QueueId) (s : State) :
    Host.Outcome State Fault Refusal :=
  match beginning s q 0x24 with
  | none => .next s
  | some p =>
    if (p.words[1].extractLsb' 8 2).toNat ≠ op then .next s
    else .next (endPkt q p.index (f (Fin.ofNat 64 (p.words[1].extractLsb' 0 6).toNat) p s))

/-- QUEUE_CFG op 0: the images but for en, ignored while the target is enabled (spec/17 R344). -/
def execQueueCfgWrite (q : QueueId) (s : State) : Host.Outcome State Fault Refusal :=
  queueCfg 0 (fun t p s =>
    if (s.queue t).en then s
    else (writeQbase t p.words[2] s).modQueue t (qctlFields p.words[3])) q s

/-- QUEUE_CFG op 1 (spec/17 R344): ignored on the issuing queue. -/
def execQueueCfgEnable (q : QueueId) (s : State) : Host.Outcome State Fault Refusal :=
  queueCfg 1 (fun t _ s => if t = q then s else enableQueue t s) q s

/-- QUEUE_CFG op 2 (spec/17 R344): ignored on the issuing queue. -/
def execQueueCfgDisable (q : QueueId) (s : State) : Host.Outcome State Fault Refusal :=
  queueCfg 2 (fun t _ s => if t = q then s else disableQueue t s) q s

/-- QUEUE_CFG op 3 (spec/17 R337, R344). -/
def execQueueCfgReset (q : QueueId) (s : State) : Host.Outcome State Fault Refusal :=
  queueCfg 3 (fun t _ s => resetQueue t s) q s

end Sys2Proof.Machine
end

