-- ==== Sys2Proof/Machine/Graphs.lean ====
section
/-! DEFINITION. Graphs of job cards and the completion of operators (spec/17 R339, R351, R352, spec/15
R307). -/

namespace Sys2Proof.Machine

/-! ## The walk -/

/-- A graph of a packet changed. -/
def modGraph (q : QueueId) (index : Word32) (f : GraphSt → GraphSt) (s : State) : State :=
  modPkt q index (fun p => { p with graph := p.graph.map f }) s

/-- A packet or card that may have to wait acts: none while it waits. -/
def cpStep {α : Type} (q : QueueId) (index : Word32) (r : State × CpGot α) (k : State → α → Option State) :
    Option State :=
  match r with
  | (s, .ok v) => k s v
  | (s, .err code) => some (queueError q code index s)
  | (_, .wait) => none

/-- The next card of a graph dequeued (spec/17 R351): it counts against the budget, it must be aligned, and its kind must
be one of the table. While its slice is fenced (spec/19 R371) it is not read, and counts nothing. -/
def dequeueCard (q : QueueId) (index : Word32) (g : GraphSt) (s : State) : State :=
  if g.budget = 0 then queueError q 8 index s
  else
    cpDone q index (cpRead q g.card 128 s) fun s n =>
      let w := dwords 16 n
      if cardKind w = 0 ∨ 7 < cardKind w then queueError q 8 index s
      else
        settleQueue q (modPkt q index (fun p =>
          { p with
            delay := 0, tlq := none
            graph := p.graph.map fun g => { g with words := some w, budget := g.budget - 1 } }) s)

/-- A card passes, and its successor is dequeued (spec/17 R351). -/
def passCard (q : QueueId) (index : Word32) (next : Word) (g : GraphSt) (s : State) : State :=
  let g := { g with card := next, words := none, waitOp := none }
  dequeueCard q index g (modGraph q index
    (fun h => { h with card := next, words := none, waitOp := none }) s)

/-- A graph of a queue whose next card has still to be read. -/
def unreadGraph (s : State) (q : QueueId) : Option (Word32 × GraphSt) :=
  if served s q then
    (s.queue q).pkts.findSome? fun p =>
      (p.graph.filter fun g => p.begun && g.words.isNone).map fun g => (p.index, g)
  else none

/-- GRAPH: it begins with its first card; a budget of 0 means 2^32 (spec/17 R338, R339). A card that could not be read
as its turn came is read. -/
def execGraph (q : QueueId) (s : State) : Host.Outcome State Fault Refusal :=
  match unreadGraph s q with
  | some t => .next (dequeueCard q t.1 t.2 s)
  | none =>
    match beginning s q 2 with
    | none => .next s
    | some p =>
      let n := (p.words[2].extractLsb' 0 32).toNat
      let g : GraphSt :=
        { first := p.words[1], card := p.words[1], words := none, budget := if n = 0 then 2 ^ 32 else n, loops := []
          asyncOps := [], waitOp := none }
      .next (dequeueCard q p.index g (beginPkt q p.index (modPkt q p.index (fun p => { p with graph := some g }) s)))

/-- A card that is being served. -/
structure Card where
  pkt : Pkt
  graph : GraphSt
  words : Vector Word 16
  deriving Repr

/-- The card of a packet's graph, if it is of a kind and its operator, when it waits for one, has
completed. -/
def cardOf (kind : Nat) (p : Pkt) : Option Card :=
  match p.graph with
  | none => none
  | some g =>
    match g.words with
    | none => none
    | some w => if p.begun && cardKind w == kind && g.waitOp.isNone then some ⟨p, g, w⟩ else none

/-- The cards of a kind to which the graphs of a queue have come, the oldest graph first. -/
def cardsAt (s : State) (q : QueueId) (kind : Nat) : List Card :=
  if served s q then (s.queue q).pkts.filterMap (cardOf kind) else []

/-- Those whose graphs have joined: every async operator launched before has completed (spec/17 R351). -/
def joinedAt (s : State) (q : QueueId) (kind : Nat) : List Card :=
  (cardsAt s q kind).filter fun c => c.graph.asyncOps.isEmpty

/-- The first card that does not have to wait acts: no graph holds another back. -/
def onCards (l : List Card) (f : Card → State → Option State) (s : State) : Host.Outcome State Fault Refusal :=
  .next ((l.findSome? fun c => f c s).getD s)

/-! ## OP cards -/

/-- OPINFO.card of an OP card (spec/17 R339). -/
def cardNumber (g : GraphSt) : BitVec 16 :=
  BitVec.ofNat 16 ((g.card - g.first).toNat / 128 + 1)

/-- An OP card launches its operator while the queue has room for one more (spec/17 R335, R351). -/
def opCard (q : QueueId) (c : Card) (s : State) : Option State :=
  if 16 ≤ nopOf s q then none
  else
    let a : LaunchArgs :=
      { queue := q, pkt := c.pkt.index, recVa := c.graph.card, args := 0, deadline := 0
        inGraph := true, card := cardNumber c.graph, tag := c.pkt.tag }
    cpStep q c.pkt.index (launchOp a c.words s) fun s id =>
      some (if recBit c.words 4 then
          let f := fun (g : GraphSt) => { g with asyncOps := g.asyncOps ++ [id] }
          passCard q c.pkt.index c.words[1] (f c.graph) (modGraph q c.pkt.index f s)
        else settleQueue q (modGraph q c.pkt.index (fun g => { g with waitOp := some id }) s))

/-- OP_CARD (spec/17 R351). -/
def execOpCard (q : QueueId) (s : State) : Host.Outcome State Fault Refusal :=
  onCards (cardsAt s q 1) (opCard q) s

/-! ## COND and LOOPN -/

/-- The predicate of a COND or LOOPN card, read once after the join (spec/17 R352). -/
def predicate (q : QueueId) (w : Vector Word 16) (s : State) : State × CpGot Bool :=
  evalMemory q w[3] w[4] w[5] (w[0].extractLsb' 4 3).toNat s

/-- COND (spec/17 R352). -/
def condCard (q : QueueId) (c : Card) (s : State) : Option State :=
  cpStep q c.pkt.index (predicate q c.words s) fun s b =>
    some (passCard q c.pkt.index (if b then c.words[1] else c.words[2]) c.graph s)

/-- COND as a step of the part. -/
def execCond (q : QueueId) (s : State) : Host.Outcome State Fault Refusal :=
  onCards (joinedAt s q 2) (condCard q) s

/-- The iteration count of a LOOPN card (spec/17 R352). -/
def loopCount (g : GraphSt) (va : Word) : Nat :=
  ((g.loops.find? fun t => t.1 == va).map (·.2)).getD 0

/-- The count of a LOOPN card set; 0 is not kept. -/
def setLoopCount (va : Word) (n : Nat) (g : GraphSt) : GraphSt :=
  let rest := g.loops.filter fun t => t.1 != va
  { g with loops := if n = 0 then rest else (va, n) :: rest }

/-- A LOOPN card passes with its count. -/
def passLoop (q : QueueId) (c : Card) (next : Word) (n : Nat) (s : State) : State :=
  let f := setLoopCount c.graph.card n
  passCard q c.pkt.index next (f c.graph) (modGraph q c.pkt.index f s)

/-- The count written when a loop ends, at an address that is not 0, and released at device scope (spec/17 R352). -/
def writeCount (q : QueueId) (va : Word) (n : Nat) (s : State) : State × CpGot Unit :=
  if va = 0 then (s, .ok ()) else cpWrite q va 8 4 n s

/-- LOOPN (spec/17 R352). -/
def loopnCard (q : QueueId) (c : Card) (s : State) : Option State :=
  let i := c.pkt.index
  let n := loopCount c.graph c.graph.card
  cpStep q i (predicate q c.words s) fun s b =>
    if b ∧ n < (c.words[6].extractLsb' 0 32).toNat then
      some (if n = 0 ∧ 8 ≤ c.graph.loops.length then queueError q 8 i s
        else passLoop q c c.words[1] (n + 1) s)
    else if b ∧ c.words[6].getLsbD 32 then some (queueError q 8 i s)
    else cpStep q i (writeCount q c.words[7] n s) fun s _ => some (passLoop q c c.words[2] 0 s)

/-- LOOPN as a step of the part. -/
def execLoopn (q : QueueId) (s : State) : Host.Outcome State Fault Refusal :=
  onCards (joinedAt s q 3) (loopnCard q) s

/-! ## SIGNAL, WAIT, JOIN and END -/

/-- A SIGNAL card: the drain covers the queue that walks the graph (spec/15 R306, spec/17 R351). -/
def signalCard (q : QueueId) (c : Card) (s : State) : Option State :=
  if !queueDrained s q then none
  else
    cpStep q c.pkt.index (tlTarget q c.words[2] s) fun s t =>
      if tlOpen s t then
        some (passCard q c.pkt.index c.words[1] c.graph (tlRaise (s.queue q).home t c.words[3] s))
      else none

/-- SIGNAL_CARD (spec/17 R351). -/
def execSignalCard (q : QueueId) (s : State) : Host.Outcome State Fault Refusal :=
  onCards (joinedAt s q 4) (signalCard q) s

/-- The condition field of a WAIT card. -/
def waitCode (w : Vector Word 16) : Nat := (w[0].extractLsb' 5 3).toNat

/-- What a WAIT card waits for (spec/17 R342, R343, R351). -/
def evalWaitCard (q : QueueId) (c : Card) (s : State) : State × CpGot Bool :=
  if 4 < waitCode c.words then (s, .err 1)
  else if recBit c.words 4 then
    evalMemory q c.words[2] c.words[3] c.words[4] (waitCode c.words) s
  else evalTimeline q c.pkt c.words[2] c.words[3] s

/-- A WAIT card has begun its wait. -/
def Card.begun (c : Card) : Bool := c.pkt.delay != 0

/-- A WAIT card: it begins its wait, or is evaluated again: in memory mode after the back-off (spec/17 R343, R351). -/
def waitCard (q : QueueId) (c : Card) (s : State) : Option State :=
  let i := c.pkt.index
  let mem := recBit c.words 4
  if c.begun ∧ mem ∧ !passed s q c.pkt.readAt c.pkt.delay then none
  else
    let s := if c.begun then s else modPkt q i (fun p => { p with waitFrom := cpTime s q }) s
    cpStep q i (evalWaitCard q c s) fun s ok =>
      if ok then some (passCard q i c.words[1] c.graph s)
      else if c.begun ∧ !mem then none
      else some (modPkt q i (backOff q s) s)

/-- WAIT_CARD (spec/17 R351). -/
def execWaitCard (q : QueueId) (s : State) : Host.Outcome State Fault Refusal :=
  onCards (cardsAt s q 5) (waitCard q) s

/-- WAIT_CARD_TIMEOUT: in either mode (spec/17 R351). -/
def execWaitCardTimeout (q : QueueId) (s : State) : Host.Outcome State Fault Refusal :=
  onCards (cardsAt s q 5) (fun c s =>
    if c.begun && timedOut s q c.pkt (c.words[5].extractLsb' 32 32).toNat then
      some (queueError q 6 c.pkt.index s)
    else none) s

/-- JOIN (spec/17 R351). -/
def execJoin (q : QueueId) (s : State) : Host.Outcome State Fault Refusal :=
  onCards (joinedAt s q 6) (fun c s => some (passCard q c.pkt.index c.words[1] c.graph s)) s

/-- END: the GRAPH completes (spec/17 R335, R351). -/
def execEndCard (q : QueueId) (s : State) : Host.Outcome State Fault Refusal :=
  onCards (joinedAt s q 7) (fun c s => some (endPkt q c.pkt.index s)) s

/-! ## The completion of operators -/

/-- A deferred effect that may still give an operator a task or an item (spec/16 R326). -/
def mayYield (id : Nat) (d : DeferredRec) : Bool :=
  match d.eff with
  | .tjoin _ op _ _ | .grais op _ _ _ => op == id
  | _ => false

/-- Nothing of an operator is left to run (spec/15 R307, spec/16 R314, R326). -/
def opIdle (s : State) (o : Operator) : Bool :=
  o.pending.isEmpty && o.restart.isEmpty && o.fallback.isEmpty && (liveWork s o.id).isEmpty &&
    (dealtItems s o.id).isEmpty && !hasTasks s o.id &&
    !(s.ctxs.toList.any fun x => x.sync.deferred.any (mayYield o.id))

/-- The deadline of a real-time operator has passed at its completion (spec/16 R323). -/
def missed (s : State) (o : Operator) : Bool :=
  o.disp.cls == 0 && decide (0 < (halfTime s o.half - o.deadline).toInt)

/-- The packet or card that launched an operator completes (spec/17 R335, R351). -/
def opPassed (o : Operator) (s : State) : State :=
  let q := o.queue
  match (s.queue q).pkts.find? fun p => p.index == o.pkt with
  | none => settleQueue q s
  | some p =>
    match p.graph with
    | none => endPkt q p.index s
    | some g =>
      if g.waitOp = some o.id then
        match g.words with
        | some w => passCard q p.index w[1] g s
        | none => s
      else
        settleQueue q (modGraph q p.index
          (fun g => { g with asyncOps := g.asyncOps.filter fun n => n != o.id }) s)

/-- An operator completes (spec/15 R307, spec/17 R350): its writes have reached their homes. -/
def completeOp (o : Operator) (s : State) : State :=
  let s := { s with ops := s.ops.filter fun p => p.id != o.id }
  let s := if missed s o then s.modHalf o.half fun h => { h with dlmiss := h.dlmiss + 1 } else s
  opPassed o s

/-- The packet of an operator can complete now: its queue's command processor runs, and no failover has
still to settle it (spec/19 R375). -/
def opServed (s : State) (o : Operator) : Bool :=
  cpAlive s (s.queue o.queue).home && !heldQueue s o.queue && !s.dev.fo.lost.contains o.id

/-- OPERATOR_COMPLETE (spec/15 R307). -/
def execOperatorComplete (id : Nat) (s : State) : Host.Outcome State Fault Refusal :=
  match s.op id with
  | none => .next s
  | some o =>
    if o.state = .running ∧ opServed s o ∧ opIdle s o ∧ opSettled s id then .next (completeOp o s)
    else .next s

end Sys2Proof.Machine
end

