-- ==== Sys2Proof/Machine/Failover.lean ====
section
/-! DEFINITION. Failover of a half (spec/13 R265, spec/19 R368 to R377). -/

namespace Sys2Proof.Machine

/-! ## Triggers -/

/-- The retired cores of a half (spec/13 R264). -/
def retiredCount (s : State) (h : HalfId) : Nat :=
  ((List.finRange 64).filter fun k => halfOfCore k == h && coreRetired s k).length

/-- The other half. -/
def otherHalf (h : HalfId) : HalfId := 1 - h

/-- The conditions under which a half is adopted by the other (spec/19 R368). -/
def canAdopt (s : State) (f : HalfId) : Bool :=
  let t := otherHalf f
  s.dev.fo.foen && s.dev.fo.phase == 0 && (s.half f).islandOk && (s.half t).islandOk &&
    decide (retiredCount s t ≤ 8) && !(s.half t).cpFatal && !(s.half t).struck

/-- A context of an operator is on a half, in a bank or evicted. -/
def ctxOnHalf (s : State) (h : HalfId) (id : Nat) : Bool :=
  (halfCtxs h).any fun c =>
    ctxOp (s.ctx c) == some id ||
      (s.core (coreOf c)).saved.toList.any fun t => t.any fun v => ctxOp v.ctx == some id

/-- An operator has a task or a join post on a cascade, or a gang reserved there. -/
def onCasc (g : Casc) (id : Nat) : Bool :=
  (g.tasks ++ g.spill).any (fun t => t.op == id) || g.held.any (fun t => t.op == id) ||
    g.gangs.any fun k => k.op == id

/-- The cascades of a half. -/
def halfCascs (h : HalfId) : List CascId := (List.finRange 16).filter fun g => halfOfCasc g == h

/-- An operator has something on a half (spec/19 R375). -/
def opOnHalf (s : State) (h : HalfId) (o : Operator) : Bool :=
  ctxOnHalf s h o.id || (halfCascs h).any (fun g => onCasc (s.casc g) o.id) ||
    (o.pending ++ o.restart ++ o.fallback).any fun it => itemHalf s o it == h

/-- A half out of service (spec/19 R369). -/
def markStruck (f : HalfId) (s : State) : State := s.modHalf f fun h => { h with struck := true }

/-- A half that no half can adopt (spec/19 R369): its queues enter the error state, the operators with a
context on it are aborted, and the device has failed. -/
def strikeHalf (f : HalfId) (s : State) : State :=
  let s := markStruck f s
  let s := s.modDev fun d => { d with fo := { d.fo with phase := 6, src := f, fenced := none, lost := [] } }
  let s := (List.finRange 64).foldl (fun s q =>
    if (s.queue q).home = f then queueError q 5 (servedPkt (s.queue q)) s else s) s
  ((s.ops.filter fun o => ctxOnHalf s f o.id).map (·.id)).foldl (fun s id => abortOp id 5 s) s

/-! ## The fence -/

/-- The regions of a surviving context that requests under way to the slices of the fenced half concern: that of the
request, or, when it has retired, the oldest (spec/19 R371, spec/13 R261). -/
def sentTo (s : State) (f : HalfId) (c : CtxId) : List Nat :=
  let x := s.ctx c
  let now := fun (e : Nat) => if (regionOf x e).isSome then e else (oldest x).epoch
  let posted := (x.sync.posted.filter fun p => sliceInHalf f p.w.line && p.op == ctxOp x).map (·.epoch)
  let cmds := ((s.core (coreOf c)).active.filter fun a =>
    a.ctx == c && a.gen == x.id.gen && !a.dead && cmdInHalf f a).map (·.cmd.epoch)
  let waits := (s.waiters.filter fun w => w.ctx == c && sliceInHalf f w.key).filterMap fun w =>
    ((x.q.get w.stream).head?.map (·.epoch))
  (posted ++ cmds ++ waits).map now

/-- The least of a list. -/
def least : List Nat → Option Nat
  | [] => none
  | n :: ns => some (match least ns with | some m => min n m | none => n)

/-- A surviving context's requests to the fenced half are detected errors of their regions, which are
discarded and not counted (spec/19 R371), after a hold of its clock (spec/18 R364). A command runs on: it waits for the
remap (DEDUCED, notes/assumptions/78.md). -/
def recallFrom (f : HalfId) (s : State) (c : CtxId) : State :=
  let s := match (if (s.ctx c).bank = .running then least (sentTo s f c) else none) with
    | some e => orLatch (cascOf c) (.recall c e) (discard c e) s
    | none => s
  s.modCtx c fun x => { x with sync := { x.sync with
    posted := x.sync.posted.filter fun p => !sliceInHalf f p.w.line } }

/-- Operators aborted by the failover (spec/19 R375, R376). -/
def countAborted (n : Nat) (s : State) : State :=
  s.modDev fun d => { d with fo := { d.fo with nab := d.fo.nab + BitVec.ofNat 8 n } }

/-- A core whose contexts, commands, tiles and saved contexts are lost (spec/19 R371). -/
def wipeCore (k : Core) : Core :=
  { k with
    slots := Vector.replicate 16 none, lease := none, used := 0, mmaRun := none, checks := []
    active := [], arrivals := [], tlb := [], icache := [], shadow := none
    saved := Vector.replicate 8 none }

/-- A cascade whose task queue and spill ring are emptied (spec/19 R371). -/
def wipeCasc (g : Casc) : Casc :=
  { g with tasks := [], spill := [], tqHead := g.tqTail, held := [], gangs := [], fillers := []
           latched := [] }

/-- What a lost context had on its way to slices of its own half is lost with them (spec/19 R372). -/
def wipeSync (f : HalfId) (y : SyncSt) : SyncSt :=
  { y with
    posted := y.posted.filter fun p => !sliceInHalf f p.w.line
    deferred := y.deferred.filter fun d => !((effKey d.eff).any (sliceInHalf f)) }

/-- Everything on the cores of a half is lost, evicted contexts among it (spec/19 R370, R371): the generations rise. -/
def wipeHalf (f : HalfId) (s : State) : State :=
  let s := (halfCtxs f).foldl (fun s c => killCtx c s) s
  let s := ((List.finRange 64).filter fun k => halfOfCore k == f).foldl (fun s k => endSavedOf (fun _ => true) k s) s
  let s := (halfCtxs f).foldl (fun s c => s.modCtx c fun x => { x with sync := wipeSync f x.sync }) s
  let s := { s with
    cores := Vector.ofFn fun i => if halfOfCore i = f then wipeCore (s.core i) else s.core i
    cascs := Vector.ofFn fun i => if halfOfCasc i = f then wipeCasc (s.casc i) else s.casc i }
  s.modHalf f fun h => { h with spare := none }

/-- The failover of a half begins (spec/19 R368, R370): its cores stop, and its command processor. -/
def beginAdoption (f : HalfId) (s : State) : State :=
  let lost := (s.ops.filter fun o => o.state == .running && opOnHalf s f o).map (·.id)
  let s := s.modDev fun d => { d with fo := { d.fo with
    phase := 1, src := f, nq := 0, nab := 0, dur := 0, fenced := some f, started := d.time
    lost := lost } }
  let s := { s with queues := s.queues.map fun (q : Queue) =>
    { q with adopted := q.home == f && q.st != .disabled } }
  wipeHalf f ((halfCtxs (otherHalf f)).foldl (recallFrom f) s)

/-- A trigger of R265 strikes a half (spec/13 R265, spec/19 R368, R369): unless retired cores explain it,
it is a fatal error of the half's command processor or fabric. Nothing more befalls a half that is being adopted; after the
adoption R369 applies to the half that is struck, whichever it is (R377). A trigger that strikes the survivor during the
adoption strikes both halves at once (DESIGN CHOICE, notes/assumptions/77.md). -/
def trigger (f : HalfId) (s : State) : State :=
  let s := if retiredCount s f ≤ 8 then s.modHalf f fun h => { h with cpFatal := true } else s
  let fo := s.dev.fo
  if !fo.foen || (adopting s && fo.src == f) then s
  else if canAdopt s f then beginAdoption f s
  else if adopting s then strikeHalf f (strikeHalf (otherHalf f) (markStruck f s))
  else strikeHalf f s

/-- FOCTL.go: the failover of a half under the conditions of R368 (spec/19 R376). -/
def failOver (f : HalfId) (s : State) : State := if canAdopt s f then beginAdoption f s else s

/-- FAILOVER_TRIGGER (spec/19 R368): during a quiescent point it waits for the resume (R370). -/
def execFailoverTrigger (f : HalfId) (s : State) : Host.Outcome State Fault Refusal :=
  if s.dev.stopped then .next s
  else if anyQuiet s then
    .next (s.modHalf f fun h => { h with due := true })
  else .next (trigger f s)

/-- ISLAND_WATCHDOG_EXPIRY (spec/19 R368). -/
def execIslandWatchdogExpiry (h : HalfId) (s : State) : Host.Outcome State Fault Refusal :=
  .next (s.modHalf h fun x => { x with islandOk := false })

/-- ISLAND_HEALTH_LOSS: the controllers stop answering, or the island SRAM holds an uncorrectable error
(spec/19 R368). -/
def execIslandHealthLoss (h : HalfId) (_ : IslandLoss) (s : State) : Host.Outcome State Fault Refusal :=
  .next (s.modHalf h fun x => { x with islandOk := false })

/-! ## Adoption -/

/-- The drain of the failed half (spec/19 R370): committed entries reach their homes, the rest and the
reduction buffers are dropped. -/
def drainHalf (f : HalfId) (s : State) : State :=
  let ws := (s.half f).weir.filter (·.committed)
  let s := { s with mem := ws.foldl (fun m (w : WeirEntry) => memLine m w.w) s.mem }
  let s := s.modHalf f fun h => { h with weir := [] }
  (halfCtxs f).foldl (fun s c =>
    s.modCtx c fun x => { x with sync := { x.sync with red := [] } }) s

/-- A key after the fold (spec/19 R372). -/
def foldKey (f : HalfId) (k : Nat) : Nat :=
  if sliceInHalf f k then
    (if f.val = 1 then k - 32 * 2 ^ 21 else k + 32 * 2 ^ 21)
  else k

/-- An effect after the fold. -/
def foldEff (f : HalfId) : Deferred → Deferred
  | .rel k g => .rel (foldKey f k) g
  | .ringpub k v => .ringpub (foldKey f k) v
  | .ringfree k v => .ringfree (foldKey f k) v
  | .setw k v => .setw (foldKey f k) v
  | .tlsig k v => .tlsig (foldKey f k) v
  | .tjoin k o a b => .tjoin (foldKey f k) o a b
  | d => d

/-- What a context has on its way goes to the folded addresses (spec/19 R372). -/
def foldSync (f : HalfId) (y : SyncSt) : SyncSt :=
  let fold := fun (p : Posted) => { p with w := { p.w with line := foldKey f p.w.line } }
  { y with
    posted := y.posted.map fold
    unsent := y.unsent.map fun u => { u with p := fold u.p }
    red := y.red.map fun r => { r with items := r.items.map fun i => (foldKey f i.1, i.2) }
    deferred := y.deferred.map fun d => { d with eff := foldEff f d.eff }
    claims := y.claims.map fun k => { k with key := foldKey f k.key } }

/-- The fresh items of an operator whose level 0 is spatial over halves, those of the survivor first (spec/19
R373). -/
def foldItems (f : HalfId) (o : Operator) : Operator :=
  if o.halves then
    let own := fun (it : Item) => it.idx.head? != some f.val
    { o with pending := o.pending.filter own ++ o.pending.filter fun it => !own it }
  else o

/-- The arrival words and the commands that wait go to the folded addresses (spec/19 R372). -/
def foldArrivals (f : HalfId) (k : Core) : Core :=
  let part := fun (p : Part) => { p with key := foldKey f p.key }
  let row := fun (r : CopyRow) => { r with src := r.src.map part, dst := r.dst.map part }
  { k with
    arrivals := k.arrivals.map fun a => { a with addr := foldKey f a.addr }
    active := k.active.map fun a => { a with rows := a.rows.map row } }

/-- The remap (spec/19 R370, R372, R373). -/
def remap (f : HalfId) (s : State) : State :=
  let s := s.modDev fun d => { d with fo := { d.fo with fenced := none, fold := some f } }
  { s with
    ctxs := s.ctxs.map fun (x : Ctx) => { x with sync := foldSync f x.sync }
    cores := s.cores.map (foldArrivals f)
    queues := s.queues.map fun (q : Queue) =>
      { q with home := if q.home = f then otherHalf f else q.home }
    ops := s.ops.map (foldItems f) }

/-- A partner named by its new number. -/
def renamePartner (new old : Nat) (o : Operator) : Operator :=
  if o.partner = some new then { o with partner := some old } else o

/-- An effect of an operator for another number. -/
def renameEff (id new : Nat) (d : DeferredRec) : DeferredRec :=
  { d with eff :=
      match d.eff with
      | .tjoin k op asid fb => .tjoin k (if op = id then new else op) asid fb
      | .grais op fb n first => .grais (if op = id then new else op) fb n first
      | e => e }

/-- The effects of the retired regions of an operator that has been killed give its restart neither a task nor an item: they
name another number, which no operator has. -/
def disownEffects (id new : Nat) (s : State) : State :=
  { s with ctxs := s.ctxs.map fun (x : Ctx) =>
      { x with sync := { x.sync with deferred := x.sync.deferred.map (renameEff id new) } } }

/-- An operator launched again from its record, under its own number (spec/19 R375). -/
def relaunch (o : Operator) (s : State) : State :=
  let s := dropOp o.id s
  let s := { s with ops := s.ops.filter fun p => p.id != o.id }
  let a : LaunchArgs :=
    { queue := o.queue, pkt := o.pkt, recVa := o.recVa, args := o.disp.args, deadline := o.deadline
      inGraph := o.inGraph, card := o.disp.card, tag := o.disp.tag }
  cpDone o.queue o.pkt (launchOp a o.words s) fun s id =>
    let s := s.modOp id fun n =>
      { n with id := o.id, disp := { n.disp with op := o.id }
               fbDisp := n.fbDisp.map fun d => { d with op := o.id } }
    disownEffects o.id id { s with ops := s.ops.map (renamePartner id o.id) }

/-- An operator with something on the failed half settled (spec/19 R375). -/
def settleOp (s : State) (id : Nat) : State :=
  match s.op id with
  | none => s
  | some o =>
    if o.disp.rx then relaunch o s else abortOp id 5 s

/-- Latched notify writes served (spec/17 R330, spec/19 R375). -/
def serveNotify (s : State) : Instr → State
  | .notifyWrite n => notify n.queue n.index s
  | _ => s

/-- A latched notify write of a queue that still latches them. -/
def stillHeld (s : State) : Instr → Bool
  | .notifyWrite n => notifyHeld s n.queue
  | _ => false

/-- The notify writes that the halves have latched, and that nothing holds any more, are served in arrival order. -/
def serveLatched (s : State) : State :=
  let l := s.halves.toList.flatMap fun h => h.cpLatched
  (l.filter fun i => !stillHeld s i).foldl serveNotify
    { s with halves := s.halves.map fun (h : Half) => { h with cpLatched := h.cpLatched.filter (stillHeld s) } }

/-- The operators to settle that are to be aborted. -/
def toAbort (s : State) : List Nat :=
  s.dev.fo.lost.filter fun id => (s.op id).any fun o => !o.disp.rx

/-- The re-run phase (spec/19 R370, R375, R376): operators are settled, and the adopted queues resume. -/
def rerun (s : State) : State :=
  let ids := s.dev.fo.lost
  let s := countAborted (toAbort s).length s
  serveLatched (ids.foldl settleOp (s.modDev fun d => { d with fo := { d.fo with phase := 5, lost := [] } }))

/-- The adopted queues. -/
def adoptedQueues (s : State) : List QueueId := (List.finRange 64).filter fun q => (s.queue q).adopted

/-- The adoption completes (spec/19 R370, R376). -/
def completeAdoption (f : HalfId) (s : State) : State :=
  let us := (s.dev.time - s.dev.fo.started).toNat / 1000
  let s := s.modHalf f fun h => { h with fo := true }
  let s := s.modDev fun d => { d with fo := { d.fo with
    nq := BitVec.ofNat 8 (adoptedQueues s).length, dur := BitVec.ofNat 32 us } }
  (adoptedQueues s).foldl (fun s q => queueIrq q s) s

/-- The next phase of the adoption. -/
def setPhase (n : BitVec 3) (s : State) : State :=
  s.modDev fun d => { d with fo := { d.fo with phase := n } }

/-- ADOPTION: the phase under way ends and the next begins (spec/19 R370). -/
def execAdoption (s : State) : Host.Outcome State Fault Refusal :=
  let f := s.dev.fo.src
  if s.dev.stopped || anyQuiet s then .next s
  else
    match s.dev.fo.phase.toNat with
    | 1 => .next (setPhase 2 s)
    | 2 => .next (setPhase 3 (drainHalf f s))
    | 3 => .next (setPhase 4 (remap f s))
    | 4 => .next (rerun s)
    | 5 => if (s.half f).fo then .next s else .next (completeAdoption f s)
    | _ => .next s

end Sys2Proof.Machine
end

