-- ==== Sys2Proof/Machine/HostLink.lean ====
section
/-! DEFINITION. The host side: ownership, the BAR0 registers, the turnouts and the BAR2 aperture (spec/21
R392 to R399, spec/04 R63 to R66, spec/03 R49, R52, R56). -/

namespace Sys2Proof.Machine

/-! ## Ownership -/

/-- The number of a master (spec/21 R397). -/
def masterCode : Master → BitVec 2
  | .fn0 => 0 | .fn1 => 1 | .i3c => 2 | .spi => 3

/-- A master owns the device. -/
def owns (s : State) (m : Master) : Bool := s.dev.owner.v && s.dev.owner.own == masterCode m

/-- A dropped BAR0 write is counted (spec/21 R397, R398). -/
def dropWrite (s : State) : State :=
  s.modDev fun d => { d with owner := { d.owner with
    ndrop := if d.owner.ndrop = 0xFFFF#16 then d.owner.ndrop else d.owner.ndrop + 1 } }

/-- A BAR0 write that takes effect only when its master is the owner (spec/21 R397). -/
def ownerWrite (m : Master) (f : State → State) (s : State) : Host.Outcome State Fault Refusal :=
  .next (if owns s m then f s else dropWrite s)

/-- The owner record changed. -/
def modOwner (f : Owner → Owner) (s : State) : State :=
  s.modDev fun d => { d with owner := f d.owner }

/-- A master becomes owner, and its heartbeat timer starts (spec/21 R398, R399). -/
def makeOwner (m : BitVec 2) (s : State) : State :=
  modOwner (fun o => { o with v := true, own := m, beat := s.dev.time, claimAt := none }) s

/-- The masters in the order of priority (spec/21 R398). -/
def priority : List (BitVec 2) := [3, 0, 1, 2]

/-- An election (spec/21 R399): the candidate of highest priority but for the former owner; a pending
handover lapses (R405). -/
def election (s : State) : State :=
  let o := s.dev.owner
  let s := modOwner (fun o => { o with ho := false }) s
  match priority.find? fun m => o.cand.getLsbD m.toNat && m != o.own with
  | some m => makeOwner m s
  | none => modOwner (fun o => { o with v := false }) s

/-- 100 ms in ns. -/
def handoverTime : Nat := 100000000

/-- The handover window is open (spec/21 R399). -/
def handoverOpen (s : State) : Bool :=
  s.dev.owner.ho && decide ((s.dev.time - s.dev.owner.hoFrom).toNat < handoverTime)

/-- A master has priority over another (spec/21 R398). -/
def outranks (m n : BitVec 2) : Bool := decide (priority.findIdx (· == m) < priority.findIdx (· == n))

/-- claim = 1 written (spec/21 R398, R399): while there is no owner, or by the handover target in time. A claim that
arrives together with one that found no owner, at the same TIME, wins when its master has priority. -/
def claim (m : BitVec 2) (s : State) : State :=
  let o := s.dev.owner
  if !o.v || (o.claimAt == some s.dev.time && outranks m o.own) then
    modOwner (fun o => { o with claimAt := some s.dev.time }) (makeOwner m s)
  else if handoverOpen s && o.target == m then
    makeOwner m (modOwner (fun o => { o with ho := false }) s)
  else s

/-- OWNCTL.claim (spec/21 R398, R399). -/
def execOwnctlClaim (m : Master) (s : State) : Host.Outcome State Fault Refusal :=
  .next (claim (masterCode m) s)

/-- OWNCTL.rel (spec/21 R399). -/
def execOwnctlRelease (m : Master) (s : State) : Host.Outcome State Fault Refusal :=
  ownerWrite m election s

/-- ho and to as the owner writes them (spec/21 R398, R399): a write of ho = 1 opens the window of 100 ms. -/
def setHandover (ho : Bool) (target : BitVec 2) (s : State) : State :=
  modOwner (fun o => { o with ho := ho, target := target, hoFrom := if ho then s.dev.time else o.hoFrom }) s

/-- OWNCTL.ho with to (spec/21 R399). -/
def execOwnctlHandover (m target : Master) (s : State) : Host.Outcome State Fault Refusal :=
  ownerWrite m (setHandover true (masterCode target)) s

/-- A candidacy bit set or cleared. -/
def setCand (m : Master) (on : Bool) (o : Owner) : Owner :=
  let b : BitVec 4 := 1#4 <<< (masterCode m).toNat
  { o with cand := if on then o.cand ||| b else o.cand &&& ~~~b }

/-- OWNCTL.cand: a master's own bit (spec/21 R398). -/
def execOwnctlCandidate (m : Master) (on : Bool) (s : State) : Host.Outcome State Fault Refusal :=
  .next (modOwner (setCand m on) s)

/-- OWNHB (spec/21 R399). -/
def execOwnhbWrite (m : Master) (s : State) : Host.Outcome State Fault Refusal :=
  ownerWrite m (fun s => modOwner (fun o => { o with beat := s.dev.time }) s) s

/-- HEARTBEAT_EXPIRY: 2^hbto ms without a heartbeat (spec/21 R399). -/
def execHeartbeatExpiry (s : State) : Host.Outcome State Fault Refusal :=
  let o := s.dev.owner
  if o.v && decide (2 ^ o.hbto.toNat * 1000000 ≤ (s.dev.time - o.beat).toNat) then .next (election s)
  else .next s

/-- HANDOVER_TIMEOUT (spec/21 R399). -/
def execHandoverTimeout (s : State) : Host.Outcome State Fault Refusal :=
  if s.dev.owner.ho && !handoverOpen s then .next (modOwner (fun o => { o with ho := false }) s)
  else .next s

/-! ## Rings, partition and task spill -/

/-- Some user queue is enabled. -/
def anyEnabled (s : State) : Bool := s.queues.toList.any fun q => q.en

/-- The base field [43:6] (spec/03 R56). -/
def baseField (v : Word) : Word := v &&& 0x0000_0FFF_FFFF_FFC0#64

/-- berr of a ring after a write to it (spec/03 R56, R416). -/
def recheck (s : State) (size : Nat) (r : RingReg) : RingReg := { r with berr := !ringOk s r size }

/-- A write of a ring's BASE register. -/
def ringBase (s : State) (size : Nat) (v : Word) (r : RingReg) : RingReg :=
  recheck s size { r with base := baseField v }

/-- A write of the CTL register of a ring whose tail software moves (spec/03 R56). -/
def poolCtl (s : State) (v : Word) (r : RingReg) : RingReg :=
  recheck s 8 { r with tail := v.extractLsb' 16 16, lgsz := v.extractLsb' 0 4 }

/-- A write of the CTL register of a ring whose head software moves (spec/03 R56, spec/20 R390). -/
def headCtl (s : State) (v : Word) (r : RingReg) : RingReg :=
  recheck s 32 { r with head := v.extractLsb' 32 16, lgsz := v.extractLsb' 0 4 }

/-- gsz written, as it acts (spec/03 R49): every byte keeps its place in its channel (R48). -/
def setGsz (v : BitVec 13) (s : State) : State :=
  let t := s.modDev fun d => { d with gsz := BitVec.ofNat 13 (min v.toNat (dramC s / 2 ^ 25)) }
  { t with mem := if t.dev.gsz = s.dev.gsz then s.mem else repartition s t }

/-- MEMCFG_WRITE (spec/03 R49): gsz is kept while it is locked or a queue is enabled; lock is set only. -/
def execMemcfgWrite (w : RegWrite) (s : State) : Host.Outcome State Fault Refusal :=
  ownerWrite w.master (fun s =>
    let t := if s.dev.lock || anyEnabled s then s else setGsz (w.value.extractLsb' 16 13) s
    t.modDev fun d => { d with lock := d.lock || w.value.getLsbD 63 }) s

/-- TQCTL_WRITE (spec/14 R292): ignored while a queue is enabled. -/
def execTqctlWrite (g : CascId) (w : RegWrite) (s : State) : Host.Outcome State Fault Refusal :=
  ownerWrite w.master (fun s =>
    if anyEnabled s then s
    else s.modCasc g fun x =>
      { x with tqEn := w.value.getLsbD 63, tqLgsz := w.value.extractLsb' 0 4 }) s

/-- QCTL_WRITE (spec/17 R331, R336). -/
def execQctlWrite (q : QueueId) (w : RegWrite) (s : State) : Host.Outcome State Fault Refusal :=
  ownerWrite w.master (writeQctl q w.value) s

/-- FOCTL_GO (spec/19 R376): only under the conditions of R368; in a quiescent point it waits for the resume (R377). -/
def execFoctlGo (w : RegWrite) (s : State) : Host.Outcome State Fault Refusal :=
  let f : HalfId := if w.value.getLsbD 1 then 1 else 0
  ownerWrite w.master (fun s =>
    if !w.value.getLsbD 0 then s
    else if anyQuiet s then s.modHalf f fun h => { h with dueGo := true }
    else failOver f s) s

/-! ## Turnout registers -/

/-- A turnout. -/
def State.turnout (s : State) (n : TurnoutId) : Turnout := s.turnouts[n.val]

/-- A turnout changed. -/
def modTurnout (n : TurnoutId) (f : Turnout → Turnout) (s : State) : State :=
  { s with turnouts := s.turnouts.set n.val (f (s.turnout n)) }

/-- The slot size in bytes (spec/04 R63). -/
def Turnout.slot (t : Turnout) : Nat := t.slsz.toNat * 65536

/-- The slot count. -/
def Turnout.slots (t : Turnout) : Nat := 2 ^ t.lgn.toNat

/-- The bytes of the window. -/
def Turnout.size (t : Turnout) : Nat := t.slots * t.slot

/-- The BAR2 offset of the window. -/
def Turnout.window (t : Turnout) : Nat := t.wbase.toNat * 2 ^ 20

/-- The PA of slot 0. -/
def Turnout.buffer (t : Turnout) : Nat := t.pbase.toNat * 65536

/-- The size of BAR2 (spec/21 R393). -/
def barSize (s : State) : Nat := 2 ^ (30 + s.dev.barLg)

/-- The address in rec: PA[43:6] or VA[26:6] (spec/04 R63). -/
def Turnout.recBytes (t : Turnout) : Nat := t.recAddr.toNat * 64

/-- A write of en = 1 is accepted (spec/04 R63). -/
def turnoutOk (s : State) (t : Turnout) : Bool :=
  decide (1 ≤ t.lgn.toNat) && decide (t.lgn.toNat ≤ 8) && t.slsz != 0 &&
    decide (t.window + t.size ≤ barSize s) && decide (8 * t.feo.toNat < t.slot) &&
    decide (t.buffer + t.size ≤ dramC s) &&
    (if t.ws then decide (t.recBytes % 2 ^ 21 < sliceSize) && decide (t.recBytes < 2 ^ 27)
     else decide (t.recBytes < dramC s))

/-- TOCTL_WRITE (spec/04 R63). Pending marks stand while the turnout is disabled, and an accepted write of en = 1 clears
them (DESIGN CHOICE, notes/assumptions/63.md). A write of en = 1 to a turnout that is enabled is accepted as it stands, with
no new check (DESIGN CHOICE, notes/assumptions/80.md). -/
def execToctlWrite (n : TurnoutId) (w : RegWrite) (s : State) : Host.Outcome State Fault Refusal :=
  ownerWrite w.master (fun s =>
    let v := w.value
    let t := s.turnout n
    let t := if t.en then t
      else { t with feo := v.extractLsb' 32 24, slsz := v.extractLsb' 16 16, lgn := v.extractLsb' 0 4 }
    let ok := t.en || turnoutOk s t
    modTurnout n (fun _ =>
      if v.getLsbD 63 then { t with en := ok, cfg := !ok, pending := if t.en then t.pending else [] }
      else { t with en := false }) s) s

/-- A write of TOWIN, TOBUF or TOREC, which is ignored while the turnout is enabled (spec/04 R63). -/
def turnoutField (n : TurnoutId) (f : Turnout → Turnout) (s : State) : State :=
  if (s.turnout n).en then s else modTurnout n f s

/-- A write of a turnout register but TOCTL (spec/04 R63). -/
def turnoutReg (n : TurnoutId) (off : Nat) (v : Word) (s : State) : State :=
  match off with
  | 0x08 => turnoutField n (fun t => { t with wbase := v.extractLsb' 20 17 }) s
  | 0x10 => turnoutField n (fun t => { t with pbase := v.extractLsb' 16 28 }) s
  | 0x18 => turnoutField n (fun t => { t with ws := v.getLsbD 63, recAddr := v.extractLsb' 6 38 }) s
  | 0x20 => modTurnout n (fun t =>
      { t with ovf := v.extractLsb' 48 16, perr := t.perr && !v.getLsbD 1
               rerr := t.rerr && !v.getLsbD 0 }) s
  | _ => s

/-! ## The other registers of BAR0 -/

/-- A write of a register of a queue but QCTL (spec/17 R331). -/
def queueReg (q : QueueId) (off : Nat) (v : Word) (s : State) : State :=
  match off with
  | 0x00 => writeQbase q v s
  | 0x18 => if (s.queue q).en then s else s.modQueue q fun x => { x with tl := v }
  | _ => s

/-- The page-request ring of a half described anew: vector 64 + h is raised as its berr becomes 1 (spec/03 R416). -/
def setPrq (h : HalfId) (r : RingReg) (s : State) : State :=
  let t := s.modHalf h fun x => { x with prq := r }
  if r.berr && !(s.half h).prq.berr then raiseIrq (ownerFn s) ⟨64 + h.val, by omega⟩ t else t

/-- A write of a ring register of a half (spec/03 R56, R416). -/
def ringReg (h : HalfId) (off : Nat) (v : Word) (s : State) : State :=
  match off with
  | 0x00 => s.modHalf h fun x => { x with pool := ringBase s 8 v x.pool }
  | 0x08 => s.modHalf h fun x => { x with pool := poolCtl s v x.pool }
  | 0x10 => setPrq h (ringBase s 32 v (s.half h).prq) s
  | 0x18 => setPrq h (headCtl s v (s.half h).prq) s
  | _ => s

/-- A write of CSAVE (spec/18 R363): base is kept while a slot is used. -/
def csaveReg (k : CoreId) (v : Word) (s : State) : State :=
  s.modCore k fun x =>
    { x with
      csaveBase := if x.saved.toList.all (·.isNone) then v.extractLsb' 21 23 else x.csaveBase
      csaveEn := v.getLsbD 8 }

/-- A write of a sluice register (spec/20 R385). -/
def sluiceReg (c : CtxId) (k : Nat) (v : Word) (s : State) : State :=
  s.modCtx c fun x => { x with sluice := x.sluice.setIfInBounds k (v.extractLsb' 0 8) }

/-- PWRCFG.lim as it acts and reads (spec/20 R389). -/
def clampLim (v : BitVec 8) : BitVec 8 :=
  if v.toNat < 10 then 10 else if 150 < v.toNat then 150 else v

/-- A dword of MEASD (spec/21 R397). -/
def measdReg (i : Nat) (v : Word) (s : State) : State :=
  s.modDev fun d =>
    let old := (d.boot.measd >>> (64 * i)).setWidth 64
    { d with boot := { d.boot with measd := d.boot.measd ^^^ ((old ^^^ v).setWidth 512 <<< (64 * i)) } }

/-- OWNCTL written as a register (spec/21 R398): by any master its own candidacy bit and claim, by the owner hbto, to, ho
and rel. -/
def ownctlReg (m : Master) (v : Word) (s : State) : State :=
  let s := modOwner (setCand m (v.getLsbD (12 + (masterCode m).toNat))) s
  let s := if owns s m then
      let s := setHandover (v.getLsbD 9) (v.extractLsb' 10 2) (modOwner (fun o => { o with hbto := v.extractLsb' 4 4 }) s)
      if v.getLsbD 8 then election s else s
    else s
  if v.getLsbD 3 then claim (masterCode m) s else s

/-- The function whose MSI-X table a master reaches (spec/21 R393, notes/assumptions/6.md). -/
def tableFn (s : State) (m : Master) : Fin 2 := if s.dev.straps.dualh && m == .fn1 then 1 else 0

/-- A dword of an MSI-X table written; an entry that is unmasked sends what was pending (spec/21 R396,
notes/assumptions/6.md). -/
def msixReg (fn : Fin 2) (i : Nat) (v : Word) (s : State) : State :=
  if h : i / 2 < 66 then
    let f := s.dev.fns[fn.val]
    let old := f.msix[i / 2]
    let new := if i % 2 = 0 then (old >>> 64 <<< 64) ||| v.setWidth 128
      else (old.setWidth 64).setWidth 128 ||| (v.setWidth 128 <<< 64)
    let send := !new.getLsbD 96 && f.pba.getLsbD (i / 2)
    let pba := if send then f.pba &&& ~~~(1#66 <<< (i / 2)) else f.pba
    let s := s.modDev fun d => { d with fns := d.fns.set fn.val { msix := f.msix.set (i / 2) new, pba := pba } }
    if send then { s with msixLog := s.msixLog ++ [⟨fn, i / 2⟩] } else s
  else s

/-- A write of a device-wide register by its offset from 0x10_0000 (spec/03 R52, spec/13 R266, spec/16
R323, spec/20 R389, spec/21 R399). -/
def deviceReg (off : Nat) (v : Word) (s : State) : State :=
  match off with
  | 0x0008 => s.modDev fun d => { d with asidtab := v.extractLsb' 12 32 }
  | 0x3000 => s.modDev fun d => { d with fo :=
      { d.fo with thr := v.extractLsb' 32 16, win := v.extractLsb' 16 16, foen := v.getLsbD 0 } }
  | 0x3010 => s.modHalf 0 fun h => { h with unc := h.unc && !v.getLsbD 32 }
  | 0x3018 => s.modHalf 1 fun h => { h with unc := h.unc && !v.getLsbD 32 }
  | 0x5000 => s.modDev fun d => { d with bswt := v.extractLsb' 0 16 }
  | 0x9200 => s.modDev fun d => { d with lim := clampLim (v.extractLsb' 0 8) }
  | 0x9300 => s.modHalf 0 fun h => { h with samp := ringBase s 32 v h.samp }
  | 0x9308 => s.modHalf 0 fun h => { h with samp := headCtl s v h.samp }
  | 0x9310 => s.modHalf 1 fun h => { h with samp := ringBase s 32 v h.samp }
  | 0x9318 => s.modHalf 1 fun h => { h with samp := headCtl s v h.samp }
  | 0xC018 => s.modDev fun d => { d with boot := { d.boot with outbase := v.extractLsb' 12 52 } }
  | 0xC020 => s.modDev fun d => { d with boot :=
      { d.boot with len4k := v.extractLsb' 44 20, pa := v.extractLsb' 12 32 } }
  | 0xC030 => s.modDev fun d => { d with boot := { d.boot with measIdx := v.extractLsb' 0 2 } }
  | _ => s

/-- A write of a register that stands in a block of like ones, by its offset from 0x10_0000. -/
def blockReg (off : Nat) (v : Word) (s : State) : State :=
  if 0x100 ≤ off ∧ off < 0x140 then ringReg (Fin.ofNat 2 ((off - 0x100) / 0x20)) (off % 0x20) v s
  else if 0x1000 ≤ off ∧ off < 0x2000 then
    turnoutReg (Fin.ofNat 64 ((off - 0x1000) / 0x40)) (off % 0x40) v s
  else if 0x4000 ≤ off ∧ off < 0x4100 ∧ off % 16 = 0 then
    (if anyEnabled s then s
     else s.modCasc (Fin.ofNat 16 ((off - 0x4000) / 16)) fun g => { g with tqbase := baseField v })
  else if 0x5100 ≤ off ∧ off < 0x5300 then
    s.modQueue (Fin.ofNat 64 ((off - 0x5100) / 8)) fun q => { q with wt := v.extractLsb' 0 8 }
  else if 0x6000 ≤ off ∧ off < 0x7000 then
    queueReg (Fin.ofNat 64 ((off - 0x6000) / 0x40)) (off % 0x40) v s
  else if 0x8000 ≤ off ∧ off < 0x8200 then csaveReg (Fin.ofNat 64 ((off - 0x8000) / 8)) v s
  else if 0xA000 ≤ off ∧ off < 0xC000 then
    sluiceReg (Fin.ofNat 128 ((off - 0xA000) / 0x40)) (off % 0x40 / 8) v s
  else if 0xC040 ≤ off ∧ off < 0xC080 then measdReg ((off - 0xC040) / 8) v s
  else deviceReg off v s

/-- A write of a register of BAR0 that has no step of its own, by its access type (spec/00 R8): offsets
without a register, and registers that are read-only, ignore it. -/
def barReg (m : Master) (off : Nat) (v : Word) (s : State) : State :=
  if off % 8 ≠ 0 then s
  else if 0xF0_0000 ≤ off ∧ off < 0xF0_0420 then msixReg (tableFn s m) ((off - 0xF0_0000) / 8) v s
  else if 0x10_0000 ≤ off ∧ off < 0x11_0000 then blockReg (off - 0x10_0000) v s
  else s

/-- REGISTER_WRITE (spec/00 R8, spec/21 R397). -/
def execRegisterWrite (off : Nat) (w : RegWrite) (s : State) : Host.Outcome State Fault Refusal :=
  if off = 0x10_C000 then .next (ownctlReg w.master w.value s)
  else ownerWrite w.master (barReg w.master off w.value) s

/-! ## Turnout windows -/

/-- The enabled turnout whose window holds an offset: where windows overlap, the lowest-numbered (spec/04
R64). -/
def turnoutAt (s : State) (off : Nat) : Option TurnoutId :=
  (List.finRange 64).find? fun n =>
    let t := s.turnout n
    t.en && decide (t.window ≤ off) && decide (off < t.window + t.size)

/-- Where a turnout's ring record lies (spec/04 R63); none while its half is fenced (spec/19 R377). -/
def turnoutRec (s : State) (t : Turnout) : Option Nat :=
  if t.ws then
    let a := t.recBytes
    match xlateSlice s false (Fin.ofNat 64 (a / 2 ^ 21)) (a % 2 ^ 21) 0 with
    | .ok k => some k
    | _ => none
  else some t.recBytes

/-- A slot is held (spec/04 R64). -/
def slotHeld (t : Turnout) (r : ObjRec) (j : Nat) : Bool :=
  decide ((BitVec.ofNat 64 j - r.w3).toNat % t.slots < (r.w1 - r.w3).toNat)

/-- The slots that a write of n bytes at a window offset touches. -/
def slotsOf (t : Turnout) (o n : Nat) : List Nat :=
  (List.range t.slots).filter fun j => decide (j * t.slot < o + n) && decide (o < (j + 1) * t.slot)

/-- The window offset of the frame-end dword of a slot. -/
def frameEnd (t : Turnout) (j : Nat) : Nat := j * t.slot + 8 * t.feo.toNat

/-- A write touches a range of 8 bytes. -/
def touches8 (o n a : Nat) : Bool := decide (o < a + 8) && decide (a < o + n)

/-- A write covers a range of 8 bytes. -/
def covers8 (o n a : Nat) : Bool := decide (o ≤ a) && decide (a + 8 ≤ o + n)

/-- Pending slots published in slot order (spec/04 R65): what is left pending, how many were published. -/
def publishSlots (slots : Nat) : Nat → Nat → List Nat → List Nat × Nat
  | 0, _, l => (l, 0)
  | f + 1, tail, l =>
    if l.contains (tail % slots) then
      let r := publishSlots slots f (tail + 1) (l.filter fun j => j != tail % slots)
      (r.1, r.2 + 1)
    else (l, 0)

/-- The half whose island holds the turnouts (spec/19 R368). -/
def turnoutHalf : HalfId := 0

/-- The publication: both counters of the ring advance, and the release is at system scope (spec/04
R65, spec/15 R299, R308). -/
def publish (n : TurnoutId) (k : Nat) (s : State) : State :=
  let t := s.turnout n
  let r := objRead s.mem k
  let p := publishSlots t.slots 256 r.w1.toNat t.pending
  if p.2 = 0 then s
  else
    let add := BitVec.ofNat 64 p.2
    let s := putWord (k + 0x18) (r.w0 + add) (putWord (k + 0x20) (r.w1 + add) s)
    stampRelease k (.half turnoutHalf) 5 (halfTime s turnoutHalf)
      (modTurnout n (fun t => { t with pending := p.1, pub := t.pub + BitVec.ofNat 16 p.2 }) s)

/-- A dropped write is counted (spec/04 R63). -/
def countOvf (t : Turnout) : Turnout :=
  { t with ovf := if t.ovf = 0xFFFF#16 then t.ovf else t.ovf + 1 }

/-- A write that a turnout takes (spec/04 R64, R65). -/
def turnoutTake (n : TurnoutId) (o : Nat) (data : List Byte) (s : State) : State :=
  let t := s.turnout n
  let len := data.length
  if t.size < o + len then modTurnout n countOvf s
  else
    match turnoutRec s t with
    | none => s
    | some k =>
      let r := objRead s.mem k
      if (r.hdr.extractLsb' 0 4).toNat ≠ 2 ∨ r.lgn ≠ t.lgn.toNat then
        modTurnout n (fun t => { t with rerr := true }) s
      else if (slotsOf t o len).any (slotHeld t r) then modTurnout n countOvf s
      else
        let js := (slotsOf t o len).filter fun j => touches8 o len (frameEnd t j)
        let whole := js.filter fun j => covers8 o len (frameEnd t j)
        let s := { s with mem := memPutBytes s.mem (t.buffer + o) data }
        let s := modTurnout n (fun t =>
          { t with perr := t.perr || decide (whole.length < js.length)
                   pending := t.pending ++ whole.filter fun j => !t.pending.contains j }) s
        if whole.isEmpty then s else publish n k s

/-- The turnouts' ring records in a fenced half make the writes wait (spec/19 R377). -/
def turnoutWaits (s : State) (n : TurnoutId) : Bool :=
  (s.turnout n).ws && s.dev.fo.fenced == some (Fin.ofNat 2 ((s.turnout n).recBytes / 2 ^ 26))

/-- TURNOUT_WRITE: a write that begins in the window of an enabled turnout (spec/04 R64, R65). -/
def execTurnoutWrite (w : BarWrite) (s : State) : Host.Outcome State Fault Refusal :=
  match turnoutAt s w.off with
  | none => .next s
  | some n =>
    if turnoutWaits s n then .next s
    else .next (turnoutTake n (w.off - (s.turnout n).window) w.data s)

/-- Data returned to the host. -/
def answerRead (l : List Byte) (s : State) : State := { s with reads := s.reads ++ [l] }

/-- TURNOUT_READ (spec/04 R64): the bytes of the slots, or all ones for a read that crosses the window
end. -/
def execTurnoutRead (r : BarRead) (s : State) : Host.Outcome State Fault Refusal :=
  match turnoutAt s r.off with
  | none => .next s
  | some n =>
    let t := s.turnout n
    let o := r.off - t.window
    if t.size < o + r.len then .next (answerRead (List.replicate r.len 255) s)
    else .next (answerRead (memBytes s.mem (t.buffer + o) r.len) s)

/-! ## The aperture -/

/-- The bytes that a read of the aperture returns (spec/21 R394). -/
def apertureBytes (s : State) (o n : Nat) : List Byte :=
  (List.range n).map fun i => if o + i < dramC s then memRead s.mem (o + i) else 255

/-- BAR2_ACCESS: an access that falls in no enabled window goes to the PA of its offset (spec/21 R394). -/
def execBar2Access (a : BarAccess) (s : State) : Host.Outcome State Fault Refusal :=
  match a with
  | .write w =>
    if (turnoutAt s w.off).isSome || decide (barSize s < w.off + w.data.length) then .next s
    else .next { s with mem := memPutBytes s.mem w.off (w.data.take (dramC s - w.off)) }
  | .read r =>
    if (turnoutAt s r.off).isSome || decide (barSize s < r.off + r.len) then .next s
    else .next (answerRead (apertureBytes s r.off r.len) s)

/-- The first engine command of a context that is active. -/
def ctxCommand (s : State) (c : CtxId) : Option Nat :=
  (s.core (coreOf c)).active.findIdx? fun a => a.ctx == c

/-- OUTBOUND_READ_TIMEOUT: the read that the L stream, or else an engine command, of a context makes of the
outbound window returns all ones, and no trap is raised (spec/21 R395). Where neither can go on it is a read of the part
that ends so: a packet, a page of a free pool or a cache line that the next turn reads. -/
def execOutboundReadTimeout (c : CtxId) (s : State) : Host.Outcome State Fault Refusal :=
  let s' := { s with lostRead := true }
  let r := if canRun s c then streamTurn .l c s' else (false, s')
  let r := orElse r fun s =>
    match ctxCommand s c with
    | some n => (true, engineComplete (coreOf c) n s)
    | none => (false, s)
  .next (if r.1 then { r.2 with lostRead := false } else s')

end Sys2Proof.Machine
end

