-- ==== Sys2Proof/Machine/Boot.lean ====
section
/-! DEFINITION. Resets, measured start and attestation (spec/21 R393, R400 to R404). -/

namespace Sys2Proof.Machine

/-! ## Bytes and measurements -/

/-- n bytes of a number, the least significant first. -/
def natBytes : Nat → Nat → List Byte
  | 0, _ => []
  | n + 1, v => BitVec.ofNat 8 v :: natBytes n (v / 256)

/-- A digest of 64 bytes. -/
def digest (l : List Byte) : List Byte := natBytes 64 (Config.shake256 l).toNat

/-- MEASi extended by data (spec/21 R403). -/
def extendMeas (i : Nat) (data : List Byte) (b : Boot) : Boot :=
  let old := natBytes 64 (b.meas[i]?.getD 0).toNat
  { b with meas := b.meas.setIfInBounds i (Config.shake256 (old ++ digest data)) }

/-- The boot registers changed. -/
def modBoot (f : Boot → Boot) (s : State) : State := s.modDev fun d => { d with boot := f d.boot }

/-! ## Images -/

/-- The bytes of a list from an offset on. -/
def slice (l : List Byte) (off n : Nat) : List Byte := (l.drop off).take n

/-- A little-endian field of a list. -/
def field (l : List Byte) (off n : Nat) : Nat := bytesNat (slice l off n)

/-- The microwords of a patch image: a count of 0 in its 8 bits stands for 256 (spec/17 R330,
notes/assumptions/52.md). -/
def patchNw (l : List Byte) : Nat := if field l 0 1 = 0 then 256 else field l 0 1

/-- The match entries of a patch image. -/
def patchNm (l : List Byte) : Nat := field l 1 1

/-- Where the match entries begin. -/
def patchMatchAt (l : List Byte) : Nat := 0x10 + 16 * patchNw l

/-- Where the public key begins. -/
def patchKeyAt (l : List Byte) : Nat := patchMatchAt l + 8 * patchNm l

/-- The match entries (spec/17 R330). -/
def patchMatches (l : List Byte) : List MatchReg :=
  (List.range (patchNm l)).map fun j =>
    let v := field l (patchMatchAt l + 8 * j) 8
    ⟨BitVec.ofNat 12 v, BitVec.ofNat 8 (v / 2 ^ 12)⟩

/-- A patch image verifies (spec/17 R330). -/
def patchOk (keyHash : BitVec 512) (l : List Byte) : Bool :=
  let at_ := patchKeyAt l
  let pk := slice l at_ 1952
  decide (patchNm l ≤ 64) && decide (l.length = at_ + 1952 + 3309) && Config.shake256 pk == keyHash &&
    Config.mldsaVerify pk (l.take (at_ + 1952)) (slice l (at_ + 1952) 3309) &&
    (patchMatches l).all fun m => decide (m.pra.toNat < patchNw l)

/-- The patch RAM and the match table loaded from an image (spec/17 R330): match registers beyond nm are
invalid, microwords beyond nw stay. -/
def loadPatch (l : List Byte) (h : Half) : Half :=
  let n := patchNw l
  { h with
    matches_ := patchMatches l
    patchRam := ((List.range n).map fun i => BitVec.ofNat 96 (field l (0x10 + 16 * i) 12)) ++
      h.patchRam.drop n
    cpVer := BitVec.ofNat 32 (field l 4 4) }

/-- The image loaded into both command processors in one step. -/
def loadPatches (l : List Byte) (s : State) : State :=
  { s with halves := s.halves.map (loadPatch l) }

/-! ## Resets -/

/-- Memory after a full reset (spec/21 R400): host memory as it was, and in main memory and the slices
values that nothing fixes. -/
def resetMemory (s : State) : List Host.Cell :=
  (Config.lostMemory s.freeCtr).foldl
    (fun m (t : Nat × Byte) => if t.1 < hostBase then memWrite m t.1 t.2 else m)
    (s.mem.filter fun b => isHost b.1)

/-- A full reset (spec/21 R400): straps and fuses stay, and so does what is not of the part. -/
def fullReset (s : State) : State :=
  { State.reset with
    mem := resetMemory s
    dev := { Device.reset with straps := s.dev.straps }
    agenda := s.agenda, cur := s.cur, freeCtr := s.freeCtr + 1, msixLog := s.msixLog
    reads := s.reads }

/-- FULL_RESET (spec/21 R400): RSTCTL.full is the owner's (R397). -/
def execFullReset (cause : ResetCause) (s : State) : Host.Outcome State Fault Refusal :=
  match cause with
  | .powerOn | .fundamental => .next (fullReset s)
  | .rstctl w => ownerWrite w.master (fun s => if w.value.getLsbD 0 then fullReset s else s) s

/-- FUNCTION_LEVEL_RESET (spec/21 R400): the configuration space and the MSI-X table of one function; the
size of BAR2 is in that of function 0 (notes/assumptions/6.md). -/
def execFunctionLevelReset (fn : Fin 2) (s : State) : Host.Outcome State Fault Refusal :=
  if fn = 1 ∧ !s.dev.straps.dualh then .next s
  else
    .next (s.modDev fun d =>
      { d with fns := d.fns.set fn.val PcieFn.reset, barLg := if fn = 0 then 0 else d.barLg })

/-- RESIZABLE_BAR_WRITE: 2^lg GiB (spec/21 R393). -/
def execResizableBarWrite (lg : Nat) (s : State) : Host.Outcome State Fault Refusal :=
  .next (if lg ≤ 7 then s.modDev fun d => { d with barLg := lg } else s)

/-! ## Measured start -/

/-- The IDKEY area (spec/21 R404). -/
def idkeyArea (seed : BitVec 256) : BitVec 65536 :=
  let pk := (Config.mldsaPublic seed).take 1952
  let cert := Config.certificate.take 6136
  BitVec.ofNat 65536 (bytesNat pk + cert.length * 2 ^ (8 * 0x800) + bytesNat cert * 2 ^ (8 * 0x808))

/-- The boot ROM (spec/21 R401, R403, R404): MEAS0 takes the ROM version and the key hash, and the identity
key is formed. -/
def bootRom (s : State) : State :=
  let st := s.dev.straps
  let data := natBytes 8 st.romVersion.toNat ++ natBytes 64 st.keyHash.toNat
  modBoot (fun b => { extendMeas 0 data b with phase := 1, idkey := idkeyArea st.seed }) s

/-- DRAM_TRAINING_DONE (spec/21 R401). -/
def execDramTrainingDone (ok : Bool) (s : State) : Host.Outcome State Fault Refusal :=
  .next (if ok && s.dev.boot.phase == 1 then modBoot (fun b => { b with phase := 2 }) s else s)

/-- A byte of the package: at or above C ones are read, as by BAR2 (spec/21 R394). -/
def packageByte (s : State) (a : Nat) : Byte := if a < dramC s then memRead s.mem a else 255

/-- Bytes of the package. -/
def packageBytes (s : State) (pa off n : Nat) : List Byte :=
  (List.range n).map fun i => packageByte s (pa + off + i)

/-- A field of the package. -/
def packageField (s : State) (pa off n : Nat) : Nat := bytesNat (packageBytes s pa off n)

/-- An image that lies in the package (spec/21 R402). -/
def imageIn (off n len : Nat) : Bool := decide (0x100 ≤ off) && decide (off + n ≤ len - 5261)

/-- Verification of a package: the code of the first failure (spec/21 R402). -/
def verifyPackage (s : State) (pa len4k : Nat) : Option (BitVec 8) :=
  let f := packageField s pa
  let len := f 4 4
  if f 0 4 ≠ 0x50525142 ∨ 4096 * len4k < len ∨ len < 0x100 + 5261 ∨
      !((packageBytes s pa 0x48 0xB8).all fun b => b == 0) ∨
      !imageIn (f 0x28 8) (f 0x30 8) len ∨ !imageIn (f 0x38 8) (f 0x40 8) len then some 1
  else
    let pk := packageBytes s pa (len - 5261) 1952
    if Config.shake256 pk ≠ s.dev.straps.keyHash then some 2
    else if !Config.mldsaVerify pk (packageBytes s pa 0 (len - 3309)) (packageBytes s pa (len - 3309) 3309)
    then some 3
    else if !patchOk s.dev.straps.keyHash (packageBytes s pa (f 0x28 8) (f 0x30 8)) then some 4
    else none

/-- The runtime copied to main memory (spec/21 R402). -/
def copyRuntime (l : List Byte) (at_ : Nat) (s : State) : State :=
  { s with mem := memPutBytes s.mem at_ (l.take (dramC s - at_)) }

/-- TVEC of all 128 contexts (spec/21 R402). -/
def setTvec (v : Word) (s : State) : State :=
  { s with ctxs := s.ctxs.map fun (x : Ctx) => { x with trap := { x.trap with tvec := addrField v } } }

/-- A verified package loaded and measured (spec/21 R402, R403). -/
def loadPackage (pa : Nat) (s : State) : State :=
  let f := packageField s pa
  let len := f 4 4
  let patch := packageBytes s pa (f 0x28 8) (f 0x30 8)
  let runtime := packageBytes s pa (f 0x38 8) (f 0x40 8)
  let head := packageBytes s pa 0 0x100 ++ packageBytes s pa (len - 5261) 1952
  let tvec := BitVec.ofNat 64 (f 0x10 8 + f 0x20 8)
  let pver := BitVec.ofNat 32 (f 8 4)
  let s := modBoot (fun b => extendMeas 3 runtime (extendMeas 2 patch (extendMeas 1 head b))) s
  let s := loadPatches patch (setTvec tvec (copyRuntime runtime (f 0x18 8) s))
  modBoot (fun b => { b with phase := 5, err := 0, pver := pver }) s

/-- BOOTCTL.go: in phase 2 or 6 the verification begins, and otherwise nothing does (spec/21 R401, R402, R405). -/
def bootGo (s : State) : State :=
  if s.dev.boot.phase = 2 ∨ s.dev.boot.phase = 6 then modBoot (fun b => { b with phase := 3, bad := false }) s else s

/-- A start that has failed with a code (spec/21 R401). -/
def bootFail (code : BitVec 8) (s : State) : State := modBoot (fun b => { b with phase := 6, err := code }) s

/-- The phases of a start that end as time passes (spec/21 R401, R402): in phase 0 the boot ROM runs, in phase 3 the
package is verified, in phase 4 it is loaded. Uncorrectable data of the package come before every other failure (DESIGN
CHOICE, notes/assumptions/48.md). -/
def bootStep (s : State) : State :=
  let b := s.dev.boot
  let pa := b.pa.toNat * 4096
  match b.phase.toNat with
  | 0 => bootRom s
  | 3 =>
    if b.bad then bootFail 5 s
    else
      match verifyPackage s pa b.len4k.toNat with
      | some code => bootFail code s
      | none => modBoot (fun b => { b with phase := 4 }) s
  | 4 => if b.bad then bootFail 5 s else loadPackage pa s
  | _ => s

/-- BOOTCTL_GO: the register written, with its go (spec/21 R399, R402). -/
def execBootctlGo (w : RegWrite) (s : State) : Host.Outcome State Fault Refusal :=
  ownerWrite w.master (fun s =>
    let s := modBoot (fun b =>
      { b with len4k := w.value.extractLsb' 44 20, pa := w.value.extractLsb' 12 32 }) s
    if w.value.getLsbD 0 then bootGo s else s) s

/-- MEASEXT_GO: MEAS5 to MEAS7 take the bytes of MEASD (spec/21 R399, R403). -/
def execMeasextGo (w : RegWrite) (s : State) : Host.Outcome State Fault Refusal :=
  ownerWrite w.master (fun s =>
    let idx := w.value.extractLsb' 0 2
    modBoot (fun b =>
      let b := { b with measIdx := idx }
      if w.value.getLsbD 8 then extendMeas (5 + min idx.toNat 2) (natBytes 64 b.measd.toNat) b else b) s) s

/-! ## Attestation -/

/-- The signed part of an attestation report, 0x280 bytes (spec/21 R404). -/
def reportHead (s : State) (time : Word) (p : Pkt) : List Byte :=
  let nonce := [p.words[1], p.words[2], p.words[3], p.words[4]].flatMap fun w => natBytes 8 w.toNat
  let vers := s.halves.toList.flatMap fun h => natBytes 4 h.cpVer.toNat
  let meas := s.dev.boot.meas.toList.flatMap fun m => natBytes 64 m.toNat
  natBytes 4 0x54525142 ++ natBytes 4 1 ++ natBytes 16 s.dev.straps.serial.toNat ++ vers ++ nonce ++ meas ++
    natBytes 8 time.toNat ++ List.replicate 56 0

/-- The report buffer (spec/21 R404): the report, and zero after it. -/
def reportBytes (s : State) (time : Word) (p : Pkt) : List Byte :=
  let head := reportHead s time p
  head ++ natBytes 3309 (bytesNat (Config.mldsaSign s.dev.straps.seed head))

/-- ATTEST: the report is released at system scope (spec/17 R338, R344, spec/21 R404). -/
def execAttest (q : QueueId) (s : State) : Host.Outcome State Fault Refusal :=
  match beginning s q 0x23 with
  | none => .next s
  | some p =>
    let t := cpTime s q
    .next (cpDone q p.index (cpWrite q p.words[5] 4096 5 (bytesNat (reportBytes s t p)) s) fun s _ =>
      endPkt q p.index s)

end Sys2Proof.Machine
end

