-- ==== Sys2Proof/Machine/Patch.lean ====
section
/-! DEFINITION. Patches of the command processors (spec/17 R329, R330). -/

namespace Sys2Proof.Machine

/-- The microword that the sequencer of a half fetches at a ROM address (spec/17 R329): that of the patch RAM which a valid
match register names for it, else that of the control store. -/
def fetchMicroword (h : Half) (rom : BitVec 12) : BitVec 96 :=
  match h.matches_.find? fun m => m.rom == rom with
  | some m => (h.patchRam[m.pra.toNat]?).getD 0
  | none => Config.controlStore rom

/-- PATCH: the packet begins, and the command processors go to their quiescent point (spec/17 R330). Its
image lies at an address that is 64-aligned (R338). -/
def execPatch (q : QueueId) (s : State) : Host.Outcome State Fault Refusal :=
  match beginning s q 0x22 with
  | none => .next s
  | some p =>
    if p.words[1].toNat % 64 ≠ 0 then .next (queueError q 1 p.index s)
    else .next (beginPkt q p.index s)

/-- The PATCH that is under way: the lowest-numbered queue that has begun one. -/
def openPatch (s : State) : Option (QueueId × Pkt) :=
  (List.finRange 64).findSome? fun q =>
    let x := s.queue q
    if x.st = .error ∨ x.st = .disabled ∨ x.st = .draining ∨ heldQueue s q then none
    else (x.pkts.find? fun p => p.begun && p.ty == 0x22).map fun p => (q, p)

/-- A command processor that can reach a quiescent point: its half is in service. -/
def cpPresent (s : State) (h : HalfId) : Bool :=
  !(s.half h).cpFatal && !(s.half h).struck && s.dev.fo.fenced != some h && s.dev.fo.fold != some h

/-- Every command processor in service has stopped. -/
def allQuiet (s : State) : Bool :=
  (List.finRange 2).all fun h => (s.half h).cpQuiet || !cpPresent s h

/-- The image of a PATCH, as long as its length field says. -/
def patchImage (q : QueueId) (p : Pkt) (s : State) : State × CpGot (List Byte) :=
  let n := p.words[2].toNat
  if 0x10 + 16 * 256 + 8 * 255 + 1952 + 3309 < n then (s, .err 10)
  else
    let r := partBytes (s.queue q).home none (s.queue q).asid (n / 4096 + 2) p.words[1] n s
    (r.1, ofGot r.2)

/-- The image verified, measured and swapped in, or error code 10 (spec/17 R330, spec/21 R403). -/
def applyPatch (q : QueueId) (p : Pkt) (s : State) : State :=
  cpDone q p.index (patchImage q p s) fun s l =>
    if patchOk s.dev.straps.keyHash l then
      endPkt q p.index (loadPatches l (modBoot (extendMeas 4 l) s))
    else queueError q 10 p.index s

/-- A failover trigger that came during a quiescent point acts after the resume (spec/19 R370). -/
def dueTriggers (s : State) : State :=
  (List.finRange 2).foldl (fun s h =>
    let x := s.half h
    let s := s.modHalf h fun x => { x with due := false, dueGo := false }
    let s := if x.due then trigger h s else s
    if x.dueGo then failOver h s else s) s

/-- The command processors resume: what was latched is served (spec/17 R330). -/
def resumeCps (s : State) : State :=
  let s := { s with halves := s.halves.map fun (h : Half) => { h with cpQuiet := false } }
  dueTriggers (serveLatched s)

/-- PATCH_QUIESCE: the command processor of a half stops; once all have stopped the image is swapped in and
they resume (spec/17 R330). When the PATCH is gone meanwhile, they resume without it. -/
def execPatchQuiesce (h : HalfId) (s : State) : Host.Outcome State Fault Refusal :=
  match openPatch s with
  | none => .next (if anyQuiet s then resumeCps s else s)
  | some (q, p) =>
    if !cpPresent s h then .next s
    else
      let s := s.modHalf h fun x => { x with cpQuiet := true }
      if allQuiet s then .next (resumeCps (applyPatch q p s)) else .next s

end Sys2Proof.Machine
end

