-- ==== Sys2Proof/Machine/Power.lean ====
section
/-! DEFINITION. Operating points, balance between tiers, droop, power and temperature limits, and samples
(spec/20 R378 to R391, spec/18 R364). -/

namespace Sys2Proof.Machine

/-! ## Operating points -/

/-- The slower of two points: the one with the higher number (spec/20 R378, R391). -/
def slower (a b : BitVec 2) : BitVec 2 := if a.toNat < b.toNat then b else a

/-- The point that a cascade is to run at: the slowest of its ceiling, the power manager's choice and the
thermal limit (spec/20 R378, R386, R387, R391). -/
def pointOf (s : State) (g : CascId) : BitVec 2 :=
  let x := s.casc g
  slower (slower x.opMax x.powerMax) (if (s.half (halfOfCasc g)).hot then 1 else 0)

/-- CASCOP_WRITE (spec/20 R379, R389). -/
def execCascopWrite (g : CascId) (w : RegWrite) (s : State) : Host.Outcome State Fault Refusal :=
  ownerWrite w.master (fun s => s.modCasc g fun x => { x with opMax := w.value.extractLsb' 0 2 }) s

/-- A change of operating point by a part of one step (spec/20 R379): down, the clock hops and then the
rail ramps; up, the rail ramps and then the clock hops, unless it may no longer be so fast. -/
def opStep (target : BitVec 2) (x : Casc) : Casc :=
  match x.ramp with
  | some p =>
    if p.toNat < x.opCur.toNat ∧ target.toNat ≤ p.toNat then { x with opCur := p, hop := true, ramp := none }
    else { x with ramp := none }
  | none =>
    if x.opCur.toNat < target.toNat then
      { x with opCur := x.opCur + 1, hop := true, ramp := some (x.opCur + 1) }
    else if target.toNat < x.opCur.toNat then { x with ramp := some (x.opCur - 1) }
    else x

/-- OPERATING_POINT_STEP (spec/20 R379). -/
def execOperatingPointStep (g : CascId) (s : State) : Host.Outcome State Fault Refusal :=
  .next (if (s.casc g).hold then s else s.modCasc g (opStep (pointOf s g)))

/-! ## Holds -/

/-- CLOCK_HOP: the clock is held while its source changes (spec/18 R364). -/
def execClockHop (g : CascId) (s : State) : Host.Outcome State Fault Refusal :=
  .next (s.modCasc g fun x => { x with hop := true })

/-- An event that was latched, delivered (spec/18 R364). -/
def deliverLatched (s : State) : Latched → State
  | .preempt c => preempt c s
  | .error e region => detectedError e region s
  | .answer c gen ok => pageAnswer c gen ok s
  | .wake key => wakeKey key s
  | .lost c va => uncorrectable c (oldest (s.ctx c)).epoch va s
  | .recall c e => if (s.ctx c).bank = .running ∧ (regionOf (s.ctx c) e).isSome then discard c e s else s

/-- What a hold has latched is delivered in arrival order once the clock runs (spec/18 R364). -/
def endHold (g : CascId) (s : State) : State :=
  if (s.casc g).hold then s
  else
    let l := (s.casc g).latched
    l.foldl deliverLatched (s.modCasc g fun x => { x with latched := [] })

/-- CLOCK_HOLD_END (spec/18 R364). -/
def execClockHoldEnd (g : CascId) (s : State) : Host.Outcome State Fault Refusal :=
  .next (endHold g (s.modCasc g fun x => { x with hop := false }))

/-- The droop level of a depth in mV below the target (spec/20 R383). -/
def droopLevel (mv : Nat) : Nat := if 70 < mv then 100 else if 50 ≤ mv then 50 else if 40 < mv then 25 else 0

/-- The droop of a cascade is the largest of its tiers (spec/20 R383). -/
def settleDroop (g : CascId) (s : State) : State :=
  let d := (List.finRange 4).foldl (fun n t => max n (s.core (coreAt g t)).droop) 0
  s.modCasc g fun x => { x with droop := d }

/-- DROOP_DETECT (spec/20 R383). -/
def execDroopDetect (k : CoreId) (mv : Nat) (s : State) : Host.Outcome State Fault Refusal :=
  .next (settleDroop (cascOfCore k)
    (s.modCore k fun x => { x with droop := max x.droop (droopLevel mv) }))

/-- DROOP_RELEASE: a hold ends above -40 mV and leaves the stretch; the stretch ends at -20 mV (spec/20
R383). -/
def execDroopRelease (k : CoreId) (s : State) : Host.Outcome State Fault Refusal :=
  .next (endHold (cascOfCore k) (settleDroop (cascOfCore k)
    (s.modCore k fun x => { x with droop := if x.droop = 100 then 50 else 0 })))

/-! ## Balance -/

/-- The deviations of a report in the order of the tiers. -/
def deviations (r : TierReport) : Vector Int 4 := #v[r.t0, r.t1, r.t2, r.t3]

/-- The filler budget of a tier in the aclk of a window: that of the operator whose context last issued on it (spec/20
R381). -/
def fillBudget (s : State) (k : CoreId) : Nat := 4 * (s.core k).fbud.toNat

/-- Throttle first applies on a cascade when an operator of its co-issue set sets thr (spec/16 R317, spec/20 R382). -/
def throttleFirst (s : State) (g : CascId) : Bool :=
  (cascCtxs g).any fun c => coIssues s c && (s.ctx c).work.any fun w => w.disp.thr

/-- A core has a running context. -/
def coreRuns (s : State) (k : CoreId) : Bool :=
  (s.ctx (ctxIn k 0)).bank == .running || (s.ctx (ctxIn k 1)).bank == .running

/-- No work item or task of a core is left: its banks hold none, and none of it is evicted. -/
def coreEnded (s : State) (k : CoreId) : Bool :=
  ([ctxIn k 0, ctxIn k 1].all fun c => (s.ctx c).bank == .empty || (s.ctx c).bank == .filler) &&
    (s.core k).saved.toList.all (·.isNone)

/-- A core issues filler (spec/13 R264, spec/20 R381): a bank runs filler, or the core is retired and the items that it held
have ended. -/
def issuesFiller (s : State) (k : CoreId) : Bool :=
  (s.ctx (ctxIn k 0)).bank == .filler || (s.ctx (ctxIn k 1)).bank == .filler ||
    (coreRetired s k && coreEnded s k)

/-- A light tier may have balance filler (spec/20 R381): as much as it needs without a running context, else within its
budget. -/
def fillRoom (s : State) (g : CascId) (t : Fin 4) : Nat :=
  if coreRuns s (coreAt g t) then min 64 (fillBudget s (coreAt g t) - (s.casc g).spent[t.val]) else 64

/-- Balance filler of a tier in the 64 aclk before a report (spec/20 R380, R381): FILLC counts an aclk once, whatever it
issues filler for. -/
def fillTier (g : CascId) (r : TierReport) (s : State) (t : Fin 4) : State :=
  let k := coreAt g t
  let n := fillRoom s g t
  let count := if issuesFiller s k then 0 else n
  if 15 < (deviations r)[t.val] then
    (s.modCore k fun x => { x with fillc := x.fillc + BitVec.ofNat 64 count }).modCasc g fun x =>
      { x with spent := x.spent.set t.val (x.spent[t.val] + if coreRuns s k then n else 0) }
  else s

/-- The tier with the highest deviation: the light one (spec/20 R380). -/
def lightTier (r : TierReport) : Fin 4 :=
  (List.finRange 4).foldl (fun m t => if (deviations r)[m.val] < (deviations r)[t.val] then t else m) 0

/-- 1 µs has passed since a moment. -/
def sinceUs (now : Word) (t : Option Word) : Bool := t.any fun u => decide (1000 ≤ (now - u).toNat)

/-- A condition that holds since a moment. -/
def track (holds : Bool) (now : Word) (t : Option Word) : Option Word :=
  if holds then some (t.getD now) else none

/-- The deviations recorded (spec/20 R380). -/
def recordTiers (now : Word) (r : TierReport) (x : Casc) : Casc :=
  { x with
    imb := (deviations r).map fun d => BitVec.ofInt 16 d
    over_ := Vector.ofFn fun i => track (decide (15 < (deviations r)[i.val].natAbs)) now x.over_[i.val]
    safe := track ((deviations r).toList.all fun d => decide (d.natAbs ≤ 8)) now x.safe }

/-- The throttle stretch after a report (spec/20 R380): the moments of what moved it begin again. -/
def throttle (now : Word) (may : Bool) (x : Casc) : Casc :=
  if may && x.over_.toList.any (sinceUs now) then
    { x with step := min 4 (x.step + 1), over_ := x.over_.map fun t => t.map fun _ => now }
  else if sinceUs now x.safe then { x with step := x.step - 1, safe := some now }
  else x

/-- The evaluation of a report (spec/20 R380 to R382). -/
def balance (g : CascId) (r : TierReport) (s : State) : State :=
  let now := s.dev.time
  let first := throttleFirst s g
  let s := s.modCasc g (recordTiers now r)
  let s := if first then s else (List.finRange 4).foldl (fillTier g r) s
  let light := lightTier r
  s.modCasc g (throttle now (first || fillRoom s g light == 0))

/-- BALANCE_EVAL (spec/20 R380). -/
def execBalanceEval (g : CascId) (r : TierReport) (s : State) : Host.Outcome State Fault Refusal :=
  .next (if (s.casc g).hold then s else balance g r s)

/-! ## Power and temperature -/

/-- A cascade of a list, which one a free value says (spec/20 R386). -/
def anyOf (s : State) (l : List CascId) : Option CascId :=
  l[(Config.freeValue s.freeCtr).toNat % l.length]?

/-- 1 ms has passed since a moment. -/
def sinceMs (now : Word) (t : Option Word) : Bool := t.any fun u => decide (1000000 ≤ (now - u).toNat)

/-- The mean power noted, with the moment since which it has stayed below 95 % of the limit (spec/20 R386). -/
def notePower (mw : Nat) (low : Bool) (d : Device) : Device :=
  { d with mw := BitVec.ofNat 32 mw, lowSince := track low d.time d.lowSince }

/-- POWER_LIMIT_EVAL: the mean of a millisecond in mW against PWRCFG.lim; which cascade has the highest
estimate, and which is raised, the spec leaves open, and a point is raised again after a further millisecond (spec/20
R386, R389, notes/assumptions/49.md). -/
def powerEval (mw : Nat) (s : State) : State :=
  let lim := 1000 * s.dev.lim.toNat
  let s := s.modDev (notePower mw (decide (100 * mw < 95 * lim)))
  let all := List.finRange 16
  if lim < mw then
    match anyOf s (all.filter fun g => pointOf s g != 3) with
    | none => s
    | some g =>
      let p := pointOf s g + 1
      ((s.modCasc g fun x => { x with powerMax := p }).modDev fun d => { d with hits := d.hits + 1 }).bumpFree
  else if sinceMs s.dev.time s.dev.lowSince then
    match anyOf s (all.filter fun g => decide ((s.casc g).opMax.toNat < (s.casc g).powerMax.toNat)) with
    | none => s
    | some g =>
      ((s.modCasc g fun x => { x with powerMax := x.powerMax - 1 }).modDev fun d =>
        { d with lowSince := some d.time }).bumpFree
  else s

/-- POWER_LIMIT_EVAL as a step of the part. -/
def execPowerLimitEval (mw : Nat) (s : State) : Host.Outcome State Fault Refusal := .next (powerEval mw s)

/-- THERMAL_LIMIT: the junction temperature in 1/8 °C (spec/20 R387). -/
def execThermalLimit (h : HalfId) (temp : Int) (s : State) : Host.Outcome State Fault Refusal :=
  .next (s.modHalf h fun x =>
    { x with temp := BitVec.ofInt 12 temp
             hot := if 115 * 8 < temp then true else if temp < 110 * 8 then false else x.hot })

/-- THERMTRIP: at 125 °C everything stops (spec/20 R387). -/
def execThermtrip (h : HalfId) (s : State) : Host.Outcome State Fault Refusal :=
  .next ((s.modHalf h fun x => { x with trip := true, hot := true, temp := 1000 }).modDev fun d =>
    { d with stopped := true })

/-! ## Samples -/

/-- The st field of a sample (spec/20 R390). -/
def sampleState : BankState → Nat
  | .running => 0
  | .waiting => 1
  | .filler => 2
  | .empty => 3
  | .faulted => 4
  | .trap => 5
  | .halted => 6
  | .ending => 7

/-- The sample record of a core (spec/20 R390): the power estimate is a free value. -/
def sampleRecord (s : State) (k : CoreId) : Nat :=
  let x := s.core k
  let g := s.casc (cascOfCore k)
  let y := s.ctx (ctxIn k x.lastBank)
  let t := tierOfCore k
  let d0 := (x.lastPc[x.lastBank.val].extractLsb' 0 48).toNat + k.val * 2 ^ 48 + x.lastBank.val * 2 ^ 54 +
    sampleState (bankState y) * 2 ^ 55 + y.id.queue.val * 2 ^ 58
  let d2 := y.id.tag.toNat + g.opCur.toNat * 2 ^ 32 + g.step * 2 ^ 34
  let mw := (Config.freeValue s.freeCtr).extractLsb' 0 16
  let d3 := if x.psamp.pw then mw.toNat + g.imb[t.val].toNat * 2 ^ 16 else 0
  d0 + (halfTime s (halfOfCore k)).toNat * 2 ^ 64 + d2 * 2 ^ 128 + d3 * 2 ^ 192

/-- A sample is due (spec/20 R390). -/
def sampleDue (s : State) (k : CoreId) : Bool :=
  let x := s.core k
  x.psamp.en && !(s.casc (cascOfCore k)).hold && decide (2 ^ (x.psamp.lgper.toNat + 10) ≤ x.sinceSample)

/-- A sample written at tail of the sample ring of the half, or counted as lost (spec/20 R390). -/
def takeSample (k : CoreId) (s : State) : State :=
  let h := halfOfCore k
  let r := (s.half h).samp
  let v := sampleRecord s k
  let s := (s.modCore k fun x => { x with sinceSample := 0 }).bumpFree
  if !ringOk s r 32 || ringFull r then
    s.modHalf h fun x =>
      { x with sampDrop := if x.sampDrop = 0xFFF#12 then x.sampDrop else x.sampDrop + 1 }
  else
    (ringPush r v s).modHalf h fun x => { x with samp := { x.samp with tail := x.samp.tail + 1 } }

/-- PC_SAMPLE (spec/20 R390). -/
def execPcSample (k : CoreId) (s : State) : Host.Outcome State Fault Refusal :=
  .next (if sampleDue s k then takeSample k s else s)

end Sys2Proof.Machine
end

