-- ==== Sys2Proof/Machine/Dispatch.lean ====
section
/-! DEFINITION. The dispatch of an instruction, or of a step of the part that has no instruction word, to
its meaning. -/

namespace Sys2Proof.Machine

/-- What an instruction or a step of the part does. -/
def exec (i : Instr) (s : State) : Host.Outcome State Fault Refusal :=
  match i with
  | .add o => Sys2Proof.Machine.execAdd o s
  | .sub o => Sys2Proof.Machine.execSub o s
  | .mul o => Sys2Proof.Machine.execMul o s
  | .mulhS o => Sys2Proof.Machine.execMulhS o s
  | .mulhN o => Sys2Proof.Machine.execMulhN o s
  | .divS o => Sys2Proof.Machine.execDivS o s
  | .divN o => Sys2Proof.Machine.execDivN o s
  | .remS o => Sys2Proof.Machine.execRemS o s
  | .remN o => Sys2Proof.Machine.execRemN o s
  | .minS o => Sys2Proof.Machine.execMinS o s
  | .minN o => Sys2Proof.Machine.execMinN o s
  | .maxS o => Sys2Proof.Machine.execMaxS o s
  | .maxN o => Sys2Proof.Machine.execMaxN o s
  | .and o => Sys2Proof.Machine.execAnd o s
  | .or o => Sys2Proof.Machine.execOr o s
  | .xor o => Sys2Proof.Machine.execXor o s
  | .andn o => Sys2Proof.Machine.execAndn o s
  | .shl o => Sys2Proof.Machine.execShl o s
  | .shrN o => Sys2Proof.Machine.execShrN o s
  | .shrS o => Sys2Proof.Machine.execShrS o s
  | .rot o => Sys2Proof.Machine.execRot o s
  | .sltS o => Sys2Proof.Machine.execSltS o s
  | .sltN o => Sys2Proof.Machine.execSltN o s
  | .seq o => Sys2Proof.Machine.execSeq o s
  | .sne o => Sys2Proof.Machine.execSne o s
  | .clz o => Sys2Proof.Machine.execClz o s
  | .ctz o => Sys2Proof.Machine.execCtz o s
  | .popc o => Sys2Proof.Machine.execPopc o s
  | .sextB o => Sys2Proof.Machine.execSextB o s
  | .sextH o => Sys2Proof.Machine.execSextH o s
  | .sextW o => Sys2Proof.Machine.execSextW o s
  | .zextB o => Sys2Proof.Machine.execZextB o s
  | .zextH o => Sys2Proof.Machine.execZextH o s
  | .zextW o => Sys2Proof.Machine.execZextW o s
  | .addi o => Sys2Proof.Machine.execAddi o s
  | .andi o => Sys2Proof.Machine.execAndi o s
  | .ori o => Sys2Proof.Machine.execOri o s
  | .xori o => Sys2Proof.Machine.execXori o s
  | .shli o => Sys2Proof.Machine.execShli o s
  | .shriN o => Sys2Proof.Machine.execShriN o s
  | .shriS o => Sys2Proof.Machine.execShriS o s
  | .sltiS o => Sys2Proof.Machine.execSltiS o s
  | .sltiN o => Sys2Proof.Machine.execSltiN o s
  | .li o => Sys2Proof.Machine.execLi o s
  | .lih o => Sys2Proof.Machine.execLih o s
  | .adr o => Sys2Proof.Machine.execAdr o s
  | .beq o => Sys2Proof.Machine.execBeq o s
  | .bne o => Sys2Proof.Machine.execBne o s
  | .bltS o => Sys2Proof.Machine.execBltS o s
  | .bgeS o => Sys2Proof.Machine.execBgeS o s
  | .bltN o => Sys2Proof.Machine.execBltN o s
  | .bgeN o => Sys2Proof.Machine.execBgeN o s
  | .j o => Sys2Proof.Machine.execJ o s
  | .jal o => Sys2Proof.Machine.execJal o s
  | .jr o => Sys2Proof.Machine.execJr o s
  | .jalr o => Sys2Proof.Machine.execJalr o s
  | .loop o => Sys2Proof.Machine.execLoop o s
  | .loopT o => Sys2Proof.Machine.execLoopT o s
  | .endloop o => Sys2Proof.Machine.execEndloop o s
  | .brkloop o => Sys2Proof.Machine.execBrkloop o s
  | .lidx o => Sys2Proof.Machine.execLidx o s
  | .bfAny o => Sys2Proof.Machine.execBfAny o s
  | .bfNany o => Sys2Proof.Machine.execBfNany o s
  | .bfAll o => Sys2Proof.Machine.execBfAll o s
  | .bfNall o => Sys2Proof.Machine.execBfNall o s
  | .bfCeq o => Sys2Proof.Machine.execBfCeq o s
  | .bfCne o => Sys2Proof.Machine.execBfCne o s
  | .bfCge o => Sys2Proof.Machine.execBfCge o s
  | .bfClt o => Sys2Proof.Machine.execBfClt o s
  | .fcnt o => Sys2Proof.Machine.execFcnt o s
  | .csrr o => Sys2Proof.Machine.execCsrr o s
  | .csrw o => Sys2Proof.Machine.execCsrw o s
  | .csrs o => Sys2Proof.Machine.execCsrs o s
  | .csrc o => Sys2Proof.Machine.execCsrc o s
  | .nop o => Sys2Proof.Machine.execNop o s
  | .commit o => Sys2Proof.Machine.execCommit o s
  | .guardMax o => Sys2Proof.Machine.execGuardMax o s
  | .guardSsq o => Sys2Proof.Machine.execGuardSsq o s
  | .trapi o => Sys2Proof.Machine.execTrapi o s
  | .ebreak o => Sys2Proof.Machine.execEbreak o s
  | .rett o => Sys2Proof.Machine.execRett o s
  | .done o => Sys2Proof.Machine.execDone o s
  | .fence o => Sys2Proof.Machine.execFence o s
  | .ldV o => Sys2Proof.Machine.execLdV o s
  | .ldVs o => Sys2Proof.Machine.execLdVs o s
  | .ldVx o => Sys2Proof.Machine.execLdVx o s
  | .ldBc o => Sys2Proof.Machine.execLdBc o s
  | .ldQsc o => Sys2Proof.Machine.execLdQsc o s
  | .lds o => Sys2Proof.Machine.execLds o s
  | .gatA o => Sys2Proof.Machine.execGatA o s
  | .acq o => Sys2Proof.Machine.execAcq o s
  | .waitw o => Sys2Proof.Machine.execWaitw o s
  | .ringwf o => Sys2Proof.Machine.execRingwf o s
  | .ringfree o => Sys2Proof.Machine.execRingfree o s
  | .tlwait o => Sys2Proof.Machine.execTlwait o s
  | .eset o => Sys2Proof.Machine.execEset o s
  | .efire o => Sys2Proof.Machine.execEfire o s
  | .eclr o => Sys2Proof.Machine.execEclr o s
  | .cbload o => Sys2Proof.Machine.execCbload o s
  | .kwaitL o => Sys2Proof.Machine.execKwaitL o s
  | .ksigL o => Sys2Proof.Machine.execKsigL o s
  | .vadd o => Sys2Proof.Machine.execVadd o s
  | .vsub o => Sys2Proof.Machine.execVsub o s
  | .vaddSat o => Sys2Proof.Machine.execVaddSat o s
  | .vsubSat o => Sys2Proof.Machine.execVsubSat o s
  | .vmul o => Sys2Proof.Machine.execVmul o s
  | .vmulh o => Sys2Proof.Machine.execVmulh o s
  | .vmla o => Sys2Proof.Machine.execVmla o s
  | .vmlaW o => Sys2Proof.Machine.execVmlaW o s
  | .vmulW o => Sys2Proof.Machine.execVmulW o s
  | .vabs o => Sys2Proof.Machine.execVabs o s
  | .vneg o => Sys2Proof.Machine.execVneg o s
  | .vmin o => Sys2Proof.Machine.execVmin o s
  | .vmax o => Sys2Proof.Machine.execVmax o s
  | .vand o => Sys2Proof.Machine.execVand o s
  | .vor o => Sys2Proof.Machine.execVor o s
  | .vxor o => Sys2Proof.Machine.execVxor o s
  | .vandn o => Sys2Proof.Machine.execVandn o s
  | .vshl o => Sys2Proof.Machine.execVshl o s
  | .vshr o => Sys2Proof.Machine.execVshr o s
  | .vrshr o => Sys2Proof.Machine.execVrshr o s
  | .vclz o => Sys2Proof.Machine.execVclz o s
  | .vpopc o => Sys2Proof.Machine.execVpopc o s
  | .vavg o => Sys2Proof.Machine.execVavg o s
  | .vcmp o => Sys2Proof.Machine.execVcmp o s
  | .vsel o => Sys2Proof.Machine.execVsel o s
  | .vdot4 o => Sys2Proof.Machine.execVdot4 o s
  | .vfadd o => Sys2Proof.Machine.execVfadd o s
  | .vfsub o => Sys2Proof.Machine.execVfsub o s
  | .vfmul o => Sys2Proof.Machine.execVfmul o s
  | .vfma o => Sys2Proof.Machine.execVfma o s
  | .vfnma o => Sys2Proof.Machine.execVfnma o s
  | .vfmin o => Sys2Proof.Machine.execVfmin o s
  | .vfmax o => Sys2Proof.Machine.execVfmax o s
  | .vfabs o => Sys2Proof.Machine.execVfabs o s
  | .vfneg o => Sys2Proof.Machine.execVfneg o s
  | .vfcmp o => Sys2Proof.Machine.execVfcmp o s
  | .vfrcp o => Sys2Proof.Machine.execVfrcp o s
  | .vfrsq o => Sys2Proof.Machine.execVfrsq o s
  | .vfsqrt o => Sys2Proof.Machine.execVfsqrt o s
  | .vfexp2 o => Sys2Proof.Machine.execVfexp2 o s
  | .vflog2 o => Sys2Proof.Machine.execVflog2 o s
  | .vftanh o => Sys2Proof.Machine.execVftanh o s
  | .vfsig o => Sys2Proof.Machine.execVfsig o s
  | .vfclass o => Sys2Proof.Machine.execVfclass o s
  | .vcvt o => Sys2Proof.Machine.execVcvt o s
  | .vnarrow o => Sys2Proof.Machine.execVnarrow o s
  | .vwiden o => Sys2Proof.Machine.execVwiden o s
  | .vrqs o => Sys2Proof.Machine.execVrqs o s
  | .vperm o => Sys2Proof.Machine.execVperm o s
  | .vslideup o => Sys2Proof.Machine.execVslideup o s
  | .vslidedn o => Sys2Proof.Machine.execVslidedn o s
  | .vzip o => Sys2Proof.Machine.execVzip o s
  | .vunzip o => Sys2Proof.Machine.execVunzip o s
  | .vbcast o => Sys2Proof.Machine.execVbcast o s
  | .vredsum o => Sys2Proof.Machine.execVredsum o s
  | .vredmax o => Sys2Proof.Machine.execVredmax o s
  | .vredmin o => Sys2Proof.Machine.execVredmin o s
  | .vscan o => Sys2Proof.Machine.execVscan o s
  | .pand o => Sys2Proof.Machine.execPand o s
  | .por o => Sys2Proof.Machine.execPor o s
  | .pxor o => Sys2Proof.Machine.execPxor o s
  | .pandn o => Sys2Proof.Machine.execPandn o s
  | .pnot o => Sys2Proof.Machine.execPnot o s
  | .pfirst o => Sys2Proof.Machine.execPfirst o s
  | .ptest o => Sys2Proof.Machine.execPtest o s
  | .pmov o => Sys2Proof.Machine.execPmov o s
  | .vmov o => Sys2Proof.Machine.execVmov o s
  | .vli o => Sys2Proof.Machine.execVli o s
  | .viota o => Sys2Proof.Machine.execViota o s
  | .vdup o => Sys2Proof.Machine.execVdup o s
  | .vclr o => Sys2Proof.Machine.execVclr o s
  | .mma o => Sys2Proof.Machine.execMma o s
  | .mzero o => Sys2Proof.Machine.execMzero o s
  | .mwr o => Sys2Proof.Machine.execMwr o s
  | .mrd o => Sys2Proof.Machine.execMrd o s
  | .mdrain o => Sys2Proof.Machine.execMdrain o s
  | .kwaitC o => Sys2Proof.Machine.execKwaitC o s
  | .ksigC o => Sys2Proof.Machine.execKsigC o s
  | .stV o => Sys2Proof.Machine.execStV o s
  | .stVs o => Sys2Proof.Machine.execStVs o s
  | .stVx o => Sys2Proof.Machine.execStVx o s
  | .sts o => Sys2Proof.Machine.execSts o s
  | .rel o => Sys2Proof.Machine.execRel o s
  | .ringwe o => Sys2Proof.Machine.execRingwe o s
  | .ringpub o => Sys2Proof.Machine.execRingpub o s
  | .setw o => Sys2Proof.Machine.execSetw o s
  | .tlsig o => Sys2Proof.Machine.execTlsig o s
  | .amo o => Sys2Proof.Machine.execAmo o s
  | .red o => Sys2Proof.Machine.execRed o s
  | .vred o => Sys2Proof.Machine.execVred o s
  | .tpost o => Sys2Proof.Machine.execTpost o s
  | .tjoin o => Sys2Proof.Machine.execTjoin o s
  | .grais o => Sys2Proof.Machine.execGrais o s
  | .esetS o => Sys2Proof.Machine.execEsetS o s
  | .efireS o => Sys2Proof.Machine.execEfireS o s
  | .eclrS o => Sys2Proof.Machine.execEclrS o s
  | .cbloadS o => Sys2Proof.Machine.execCbloadS o s
  | .kwaitS o => Sys2Proof.Machine.execKwaitS o s
  | .ksigS o => Sys2Proof.Machine.execKsigS o s
  | .engineCommandStart core => Sys2Proof.Machine.execEngineCommandStart core s
  | .engineCommandComplete core n => Sys2Proof.Machine.execEngineCommandComplete core n s
  | .arrivalWordWrite core n => Sys2Proof.Machine.execArrivalWordWrite core n s
  | .regionRetire c => Sys2Proof.Machine.execRegionRetire c s
  | .regionOverrun c => Sys2Proof.Machine.execRegionOverrun c s
  | .detectedError e => Sys2Proof.Machine.execDetectedError e s
  | .checksumCompare core n upset => Sys2Proof.Machine.execChecksumCompare core n upset s
  | .trapEntry c => Sys2Proof.Machine.execTrapEntry c s
  | .pageWalk c va acc => Sys2Proof.Machine.execPageWalk c va acc s
  | .pageFault c => Sys2Proof.Machine.execPageFault c s
  | .pageRequestWrite half => Sys2Proof.Machine.execPageRequestWrite half s
  | .preemptRequest c => Sys2Proof.Machine.execPreemptRequest c s
  | .evict c => Sys2Proof.Machine.execEvict c s
  | .restore c => Sys2Proof.Machine.execRestore c s
  | .bankSwitch core => Sys2Proof.Machine.execBankSwitch core s
  | .gangForm half => Sys2Proof.Machine.execGangForm half s
  | .gangStart casc => Sys2Proof.Machine.execGangStart casc s
  | .taskPop c => Sys2Proof.Machine.execTaskPop c s
  | .taskRefill casc => Sys2Proof.Machine.execTaskRefill casc s
  | .weirDrain half n => Sys2Proof.Machine.execWeirDrain half n s
  | .postedAck c n => Sys2Proof.Machine.execPostedAck c n s
  | .reductionApply c => Sys2Proof.Machine.execReductionApply c s
  | .deferredEffectApply c n => Sys2Proof.Machine.execDeferredEffectApply c n s
  | .joinPostRetry casc => Sys2Proof.Machine.execJoinPostRetry casc s
  | .waiterWake key => Sys2Proof.Machine.execWaiterWake key s
  | .waitwPoll c => Sys2Proof.Machine.execWaitwPoll c s
  | .waitwTimeout c => Sys2Proof.Machine.execWaitwTimeout c s
  | .icacheRefill core line => Sys2Proof.Machine.execIcacheRefill core line s
  | .turnoutWrite w => Sys2Proof.Machine.execTurnoutWrite w s
  | .turnoutRead r => Sys2Proof.Machine.execTurnoutRead r s
  | .bar2Access a => Sys2Proof.Machine.execBar2Access a s
  | .outboundReadTimeout c => Sys2Proof.Machine.execOutboundReadTimeout c s
  | .notifyWrite n => Sys2Proof.Machine.execNotifyWrite n s
  | .packetFetch q => Sys2Proof.Machine.execPacketFetch q s
  | .packetPoll q => Sys2Proof.Machine.execPacketPoll q s
  | .launch q => Sys2Proof.Machine.execLaunch q s
  | .graph q => Sys2Proof.Machine.execGraph q s
  | .signal q => Sys2Proof.Machine.execSignal q s
  | .waitTl q => Sys2Proof.Machine.execWaitTl q s
  | .waitMem q => Sys2Proof.Machine.execWaitMem q s
  | .waitMemReread q => Sys2Proof.Machine.execWaitMemReread q s
  | .waitMemTimeout q => Sys2Proof.Machine.execWaitMemTimeout q s
  | .write q => Sys2Proof.Machine.execWrite q s
  | .fencePacket q => Sys2Proof.Machine.execFencePacket q s
  | .inval q => Sys2Proof.Machine.execInval q s
  | .invalComplete q => Sys2Proof.Machine.execInvalComplete q s
  | .pageResp q => Sys2Proof.Machine.execPageResp q s
  | .patch q => Sys2Proof.Machine.execPatch q s
  | .patchQuiesce half => Sys2Proof.Machine.execPatchQuiesce half s
  | .attest q => Sys2Proof.Machine.execAttest q s
  | .queueCfgWrite q => Sys2Proof.Machine.execQueueCfgWrite q s
  | .queueCfgEnable q => Sys2Proof.Machine.execQueueCfgEnable q s
  | .queueCfgDisable q => Sys2Proof.Machine.execQueueCfgDisable q s
  | .queueCfgReset q => Sys2Proof.Machine.execQueueCfgReset q s
  | .opCard q => Sys2Proof.Machine.execOpCard q s
  | .cond q => Sys2Proof.Machine.execCond q s
  | .loopn q => Sys2Proof.Machine.execLoopn q s
  | .signalCard q => Sys2Proof.Machine.execSignalCard q s
  | .waitCard q => Sys2Proof.Machine.execWaitCard q s
  | .waitCardTimeout q => Sys2Proof.Machine.execWaitCardTimeout q s
  | .join q => Sys2Proof.Machine.execJoin q s
  | .endCard q => Sys2Proof.Machine.execEndCard q s
  | .operatorComplete op => Sys2Proof.Machine.execOperatorComplete op s
  | .memcfgWrite w => Sys2Proof.Machine.execMemcfgWrite w s
  | .toctlWrite n w => Sys2Proof.Machine.execToctlWrite n w s
  | .qctlWrite q w => Sys2Proof.Machine.execQctlWrite q w s
  | .tqctlWrite casc w => Sys2Proof.Machine.execTqctlWrite casc w s
  | .registerWrite off w => Sys2Proof.Machine.execRegisterWrite off w s
  | .ownctlClaim m => Sys2Proof.Machine.execOwnctlClaim m s
  | .ownctlRelease m => Sys2Proof.Machine.execOwnctlRelease m s
  | .ownctlHandover m target => Sys2Proof.Machine.execOwnctlHandover m target s
  | .ownctlCandidate m set => Sys2Proof.Machine.execOwnctlCandidate m set s
  | .ownhbWrite m => Sys2Proof.Machine.execOwnhbWrite m s
  | .heartbeatExpiry => Sys2Proof.Machine.execHeartbeatExpiry s
  | .handoverTimeout => Sys2Proof.Machine.execHandoverTimeout s
  | .fullReset cause => Sys2Proof.Machine.execFullReset cause s
  | .functionLevelReset fn => Sys2Proof.Machine.execFunctionLevelReset fn s
  | .dramTrainingDone ok => Sys2Proof.Machine.execDramTrainingDone ok s
  | .bootctlGo w => Sys2Proof.Machine.execBootctlGo w s
  | .measextGo w => Sys2Proof.Machine.execMeasextGo w s
  | .failoverTrigger half => Sys2Proof.Machine.execFailoverTrigger half s
  | .foctlGo w => Sys2Proof.Machine.execFoctlGo w s
  | .adoption => Sys2Proof.Machine.execAdoption s
  | .islandWatchdogExpiry half => Sys2Proof.Machine.execIslandWatchdogExpiry half s
  | .cascopWrite casc w => Sys2Proof.Machine.execCascopWrite casc w s
  | .operatingPointStep casc => Sys2Proof.Machine.execOperatingPointStep casc s
  | .clockHop casc => Sys2Proof.Machine.execClockHop casc s
  | .clockHoldEnd casc => Sys2Proof.Machine.execClockHoldEnd casc s
  | .balanceEval casc r => Sys2Proof.Machine.execBalanceEval casc r s
  | .droopDetect core mv => Sys2Proof.Machine.execDroopDetect core mv s
  | .droopRelease core => Sys2Proof.Machine.execDroopRelease core s
  | .powerLimitEval mw => Sys2Proof.Machine.execPowerLimitEval mw s
  | .thermalLimit half temp => Sys2Proof.Machine.execThermalLimit half temp s
  | .thermtrip half => Sys2Proof.Machine.execThermtrip half s
  | .pcSample core => Sys2Proof.Machine.execPcSample core s
  | .resizableBarWrite lgGiB => Sys2Proof.Machine.execResizableBarWrite lgGiB s
  | .islandHealthLoss half cause => Sys2Proof.Machine.execIslandHealthLoss half cause s

end Sys2Proof.Machine
end

