-- ==== Sys2Proof/Machine/Fetch.lean ====
section
/-! DEFINITION. Instruction fetch and the turn of a front (spec/12 R223, R224, spec/02 R37, R38). -/

namespace Sys2Proof.Machine

/-- What a fetch gives: a word; a fault of the fetch; or nothing yet. -/
inductive Fetched
  | word (w : Word)
  | fault (cause : Nat) (tval : Word) (pe : Bool)
  | hold
  deriving DecidableEq, Repr

/-- The cached line at a key. -/
def cachedLine (k : Core) (line : Nat) : Option ICacheLine := k.icache.find? fun t => t.line == line

/-- The 8 bytes at a key through the instruction cache of a core, filled on a miss (spec/12 R224). Of rewritten code a word is
the old one while its line stays cached, and the new one once the line is fetched again (DESIGN CHOICE,
notes/assumptions/80.md). -/
def readCode (k : CoreId) (key : Nat) (s : State) : State × Word :=
  let line := key - key % 64
  match cachedLine (s.core k) line with
  | some t => (s, t.data.extractLsb' (8 * (key % 64)) 64)
  | none =>
    let d := memLineRead (readView s line 64) line
    (icachePut k { line := line, data := d } s, d.extractLsb' (8 * (key % 64)) 64)

/-- The word at the front's place (spec/12 R224). -/
def fetch (c : CtxId) (s : State) : State × Fetched :=
  let x := s.ctx c
  match xlate (actFor c x.reg.epoch s) c .fetch x.regs.pc with
  | (s, .ok key) =>
    let r := readCode (coreOf c) key s
    (r.1, .word r.2)
  | (s, .fault cause tval pe) => (s, .fault cause tval pe)
  | (s, .hold) => (s, .hold)

/-- A fault of a fetch: a page request carries its fetch bit (spec/12 R224, spec/03 R61). -/
def fetchFault (c : CtxId) (cause : Nat) (tval : Word) (pe : Bool) (s : State) : State :=
  let x := s.ctx c
  raiseFault c x.reg.epoch { faultRec cause tval x.pos pe with fetch := true } s

/-- The front of a context may decode: its bank runs, its region is open, and no fault has been found in what
it runs ahead of (spec/02 R38, spec/12 R223, spec/13 R252). -/
def frontOpen (s : State) (c : CtxId) : Bool :=
  let x := s.ctx c
  canRun s c && x.reg.closed.isNone && x.reg.fault.isNone && x.older.all fun r => r.fault.isNone

/-- What the core keeps of the instruction that the front of a bank decodes (spec/20 R390). -/
def noteDecode (c : CtxId) (s : State) : State :=
  let pc := (s.ctx c).regs.pc
  s.modCore (coreOf c) fun k => { k with lastPc := k.lastPc.set (bankOf c).val pc }

/-- The front of a context has issued an instruction between two states: it has passed it, closed its region with
it, or left its handler with it (spec/18 R359). -/
def hasIssued (i : Instr) (x y : Ctx) : Bool :=
  x.pos != y.pos || x.reg.closed.isSome != y.reg.closed.isSome ||
    match i with
    | .rett _ => x.trap.inh && !y.trap.inh && y.bank == .running
    | _ => false

/-- What the core keeps of a bank whose front has issued: the bank, and the filler budget of its operator (spec/20 R381,
R390). -/
def noteIssue (c : CtxId) (i : Instr) (s t : State) : State :=
  if hasIssued i (s.ctx c) (t.ctx c) then
    t.modCore (coreOf c) fun k =>
      { k with lastBank := bankOf c, fbud := (((s.ctx c).work).map fun w => w.disp.fbud).getD 0 }
  else t

/-- A word decoded at the front's place: a legal one is executed, another is an illegal instruction with its
address in TVAL (spec/02 R37, R38). -/
def runWord (w : Word) (s : State) : Host.Outcome State Fault Refusal :=
  match decode w with
  | .ok i =>
    match exec i s with
    | .next t => .next (noteIssue s.cur i s t)
    | o => o
  | .error _ => frontFault 1 s.me.regs.pc s

/-- The turn of a front: fetch, decode, execute. -/
def frontTurn (c : CtxId) (lag : Bool) (s : State) : Host.Outcome State Fault Refusal :=
  let s := { s with cur := c, lag := lag }
  if frontOpen s c then
    match fetch c s with
    | (s, .word w) => runWord w (noteDecode c s)
    | (s, .fault cause tval pe) => .next (fetchFault c cause tval pe s)
    | (s, .hold) => .next s
  else .next s

/-- The front of a context has gone on between two states: it has passed an instruction, closed its region,
found a fault or left what it was running. -/
def frontMoved (c : CtxId) (s t : State) : Bool :=
  let x := s.ctx c
  let y := t.ctx c
  x.pos != y.pos || x.epochs != y.epochs || x.bank != y.bank || x.reg.closed.isSome != y.reg.closed.isSome ||
    x.reg.fault.isSome != y.reg.fault.isSome

end Sys2Proof.Machine
end

