-- ==== Sys2Proof/Machine/Clock.lean ====
section
/-! DEFINITION. The passing of time: the counters, the length of regions and what a context waits for
(spec/00 R6, spec/06 R111, spec/10 R195, spec/13 R255, spec/16 R319, R322, spec/20 R381 to R385). -/

namespace Sys2Proof.Machine

/-! ## What a context waits for -/

/-- The front of a context can go on. -/
def frontGoes (s : State) (c : CtxId) : Bool :=
  match frontTurn c true s with
  | .next t => frontMoved c s t
  | _ => false

/-- A stream of a context has something that could go on. -/
def streamGoes (s : State) (c : CtxId) : Bool :=
  (orderedTurn .l c s).1 || (orderedTurn .c c s).1 || (orderedTurn .s c s).1 ||
    ((s.core (coreOf c)).mmaRun.any fun m => m.ctx == c)

/-- The context is in Waiting: its front and the oldest instruction of every stream are blocked (spec/16
R319). -/
def stuck (s : State) (c : CtxId) : Bool :=
  !(queued (s.ctx c)).isEmpty && !streamGoes s c && !frontGoes s c

/-- The MAT instruction at the head of the C stream waits for the lease, which the other bank holds (spec/10 R194,
R195). -/
def waitsLease (s : State) (c : CtxId) : Bool :=
  let x := s.ctx c
  (x.q.c.head?.any fun e => isMat e.instr && !behindFault x e) && !(takeLease c s).1

/-- A source names a queue with nothing to pop. -/
def emptySource (e : QEntry) (code : BitVec 6) (x : Ctx) : Bool :=
  match takeSrc e code x with
  | .empty => true
  | _ => false

/-- The latch queues have an entry of its own region for an `mma`. -/
def poppable (e : QEntry) (x : Ctx) : Bool :=
  (x.q.qa.head?.any fun t => t.epoch == e.epoch) && x.q.qb.head?.any fun t => t.epoch == e.epoch

/-- Whether an instruction that does not complete waits for what QSTALL counts (spec/06 R111): a queue, a latch slot, room
in an engine queue or in the reduction buffer. -/
def queueWait (e : QEntry) (x : Ctx) : Perform → Bool
  | .wait _ =>
    match e.instr with
    | .mma _ => !poppable e x
    | .mzero _ => false
    | .mwr o => emptySource e o.v x
    | .mrd o | .mdrain o => !dstRoom o.v x
    | _ => true
  | .park _ => true
  | .held _ =>
    match e.instr with
    | .red _ | .vred _ => decide (64 ≤ x.sync.red.length)
    | _ => false
  | _ => false

/-- An instruction of a stream, tried, waits for what QSTALL counts. -/
def entryStalls (s : State) (c : CtxId) (e : QEntry) : Bool :=
  !behindFault (s.ctx c) e &&
    (headOf false e.instr).any fun t => queueWait e (s.ctx c) (t.2.2 c e (actFor c e.epoch s))

/-- The head of a stream waits for what QSTALL counts, and neither for its tokens nor for its gap nor for the lease. -/
def headStalls (s : State) (c : CtxId) (st : Stream) : Bool :=
  let x := s.ctx c
  match (x.q.get st).head? with
  | some e =>
    (e.begun || ((headOf false e.instr).any fun t => mayBegin x st t.2.1 e) && !signalStuck s c st) &&
      !(st == .c && waitsLease s c) && entryStalls s c e
  | none => false

/-- The instruction that the front would decode. -/
def frontInstr (s : State) (c : CtxId) : Option Instr :=
  match (fetch c s).2 with
  | .word w =>
    match decode w with
    | .ok i => some i
    | .error _ => none
  | _ => none

/-- The stream to which the front would append an instruction now: of the CSR writes only those of FPC go to one, and a
commit point waits first for the older region (spec/12 R240, spec/13 R252). -/
def appendsTo (x : Ctx) (i : Instr) : Option Stream :=
  let st := (headOf false i).map (·.1)
  match i with
  | .csrw o | .csrs o | .csrc o => if csrNamed o = .fpc ∧ x.older.isNone then st else none
  | .guardMax _ | .guardSsq _ => if x.older.isNone then st else none
  | _ => st

/-- The front waits to append to a full stream queue (spec/06 R111). -/
def appendStalls (s : State) (c : CtxId) : Bool :=
  let x := s.ctx c
  ([Stream.l, .c, .s].any fun st => decide (32 ≤ (x.q.get st).length)) && frontOpen s c &&
    ((frontInstr s c).bind (appendsTo x)).any fun st => decide (32 ≤ (x.q.get st).length)

/-- An aclk counts in QSTALL (spec/06 R111). -/
def qStalls (s : State) (c : CtxId) : Bool :=
  (s.ctx c).q.parked.any (entryStalls s c) || headStalls s c .l || headStalls s c .c || headStalls s c .s ||
    appendStalls s c

/-! ## The length of a region -/

/-- An acquire (spec/14 R277). -/
def isAcquire : Instr → Bool
  | .acq _ | .waitw _ | .ringwf _ | .ringwe _ | .tlwait _ => true
  | _ => false

/-- The oldest uncompleted instruction of a region, with its stream. -/
def oldestOf (x : Ctx) (e : Nat) : Option (Stream × QEntry) :=
  let mine := fun (st : Stream) =>
    ((x.q.get st).filter fun t => decide (t.epoch ≤ e)).map fun t => (st, t)
  let l := mine .l ++ mine .c ++ mine .s ++
    (x.q.parked.filter fun t => decide (t.epoch ≤ e)).map fun t => (t.st, t)
  l.foldl (fun (b : Option (Stream × QEntry)) t =>
    match b with
    | none => some t
    | some u => if t.2.pos < u.2.pos then some t else b) none

/-- The oldest uncompleted instruction of a region is an acquire that waits on its object, and nothing of the
region is in a buffer (spec/13 R255). -/
def acquireWaits (s : State) (c : CtxId) (e : Nat) : Bool :=
  let x := s.ctx c
  match oldestOf x e with
  | some (st, t) =>
    isAcquire t.instr && (waiterOf s c st).isSome &&
      !((s.core (coreOf c)).mmaRun.any fun m => m.ctx == c && decide (m.pos < t.pos)) &&
      !((s.half (halfOf c)).weir.any fun w => w.ctx == c && !w.committed && w.epoch == e) &&
      !(x.sync.red.any fun r => r.epoch == e) &&
      !((s.core (coreOf c)).active.any fun a => a.ctx == c && a.cmd.epoch == e && !a.dead)
  | none => false

/-- The part as it would be with no half fenced. -/
def unfenced (s : State) : State := s.modDev fun d => { d with fo := { d.fo with fenced := none } }

/-- A turn would move something on but for the fence. -/
def fenceStops (f : State → Moved) (s : State) : Bool := (f (unfenced s)).1 && !(f s).1

/-- An engine command of a region starts, or goes on, but for the fence (spec/19 R371). -/
def fencedCommand (s : State) (c : CtxId) (e : Nat) : Bool :=
  let k := coreOf c
  let starts := fun (i : Fin 4) (s : State) => ((tryStart k i s).isSome, s)
  let ends := fun (n : Nat) (s : State) =>
    let t := engineComplete k n s
    ((t.core k).active != (s.core k).active, t)
  ((List.finRange 4).any fun i => (engSlot k i).1 == c && fenceStops (starts i) s &&
      (engQ (s.ctx c) (engSlot k i).2).head?.any fun q => q.epoch == e) ||
    ((s.core k).active.zipIdx.any fun t => t.1.ctx == c && t.1.cmd.epoch == e && fenceStops (ends t.2) s)

/-- An instruction or an engine command of the oldest region of a context waits because its address lies in the window of
the fenced half (spec/19 R371). -/
def fenceWaits (s : State) (c : CtxId) : Bool :=
  let x := s.ctx c
  let e := (oldest x).epoch
  let head := fun (st : Stream) =>
    ((x.q.get st).head?.filter fun t => t.epoch == e).any fun t => fenceStops (headTurn false st c t) s
  s.dev.fo.fenced.isSome && (head .l || head .c || head .s ||
    ((x.q.parked.filter fun t => t.epoch == e).any fun t => fenceStops (parkedTurn c t) s) || fencedCommand s c e)

/-- The length of the oldest region counts (spec/13 R255, spec/19 R371). -/
def lengthCounts (s : State) (c : CtxId) : Bool :=
  (s.ctx c).bank == .running && !acquireWaits s c (oldest (s.ctx c)).epoch && !fenceWaits s c

/-- The oldest region of a context has become longer. -/
def lengthen (n : Nat) (x : Ctx) : Ctx :=
  match x.older with
  | some r => { x with older := some { r with len := r.len + n } }
  | none => { x with reg := { x.reg with len := x.reg.len + n } }

/-! ## aclk -/

/-- The counters of a context after n aclk (spec/05 R90, spec/06 R111, spec/10 R195, spec/16 R322, spec/20 R385); a region
that has become too long raises its overrun (spec/13 R255). -/
def tickCtx (n : Nat) (c : CtxId) (s : State) : State :=
  let run := (s.ctx c).bank == .running
  let len := lengthCounts s c
  let lease := run && waitsLease s c
  let stall := run && qStalls s c
  let wait := run && stuck s c
  let refused := refusals n (s.core (coreOf c)) c
  let s := s.modCtx c fun x =>
    let y := if len then lengthen n x else x
    { y with
      cnt := { y.cnt with
        lwait := if lease then y.cnt.lwait + BitVec.ofNat 32 n else y.cnt.lwait
        bkstall := y.cnt.bkstall + BitVec.ofNat 64 refused
        qstall := if stall then y.cnt.qstall + BitVec.ofNat 64 n else y.cnt.qstall }
      waited := if wait then y.waited + n else 0
      sinceDeq := y.sinceDeq.map fun k => min 255 (k + n) }
  if run && overlong s c then overrun c s else s

/-- The counters of a core after n aclk, and the grants of its banks (spec/05 R89, spec/12 R242, R246, spec/20 R381, R390). -/
def tickCore (n : Nat) (k : CoreId) (s : State) : State :=
  let fill := issuesFiller s k
  let next := (s.core k).cycle + BitVec.ofNat 64 n
  let fresh := next.toNat / 1024 != (s.core k).cycle.toNat / 1024
  let s := s.modCore k fun x =>
    { (bankRun n x (0, 0)).1 with
      cycle := next
      fillc := if fill then x.fillc + BitVec.ofNat 64 n else x.fillc
      sinceSample := x.sinceSample + n }
  if fresh then s.modCasc (cascOfCore k) fun g => { g with spent := g.spent.set (tierOfCore k).val 0 }
  else s

/-- n aclk of a cascade whose clock is not held (spec/00 R6, spec/18 R364, spec/20 R389). -/
def tick (g : CascId) (n : Nat) (s : State) : State :=
  if (s.casc g).hold then s
  else
    let s := (cascCtxs g).foldl (fun s c => tickCtx n c s) s
    let s := (List.finRange 4).foldl (fun s t => tickCore n (coreAt g t) s) s
    s.modCasc g fun x =>
      { x with
        thrCount := if 0 < x.step then x.thrCount + BitVec.ofNat 64 n else x.thrCount
        droopCount := if 0 < x.droop then x.droopCount + BitVec.ofNat 32 n else x.droopCount }

/-- Nanoseconds on the reference clock (spec/15 R308): a start goes on with its next phase (spec/21 R401), unless THERMTRIP
has stopped the part (spec/20 R387). -/
def passNs (n : Nat) (s : State) : State :=
  let s := s.modDev fun d => { d with time := d.time + BitVec.ofNat 64 n }
  if 0 < n ∧ !s.dev.stopped then bootStep s else s

/-- The stretch of the period of a cascade in percent: the larger of the throttle stretch and the droop stretch (spec/20
R383). -/
def stretch (g : Casc) : Nat := max (25 * g.step) g.droop

/-- The aclk that a cascade makes in 10 ns at its operating point, under its stretch, with what is left of an aclk in
percent of its nominal period (spec/20 R378, R383). -/
def aclkIn (g : Casc) : Nat × Nat :=
  let p := g.phase + 100 * (4 - g.opCur.toNat)
  (p / (100 + stretch g), p % (100 + stretch g))

/-- 10 ns of a cascade. -/
def passCasc (g : CascId) (s : State) : State :=
  if (s.casc g).hold then s
  else
    let r := aclkIn (s.casc g)
    tick g r.1 (s.modCasc g fun x => { x with phase := r.2 })

/-- 10 ns, when nothing else happens: each cascade makes the aclk of its operating point. -/
def passTime (s : State) : State := (List.finRange 16).foldl (fun s g => passCasc g s) (passNs 10 s)

end Sys2Proof.Machine
end

