-- ==== Sys2Proof/Machine/Idle.lean ====
section
/-! DEFINITION. What happens next while the schedule names nothing: the work of the current context, of its
core and of what it has on its way (notes/assumptions/1.md), and the turns that the schedule names. -/

namespace Sys2Proof.Machine

/-- A change that moves something on. -/
def moved (b : Bool) (f : State → State) (s : State) : Moved := if b then (true, f s) else (false, s)

/-- The array makes a K step, or completes (spec/10 R199). -/
def arrayTurn (k : CoreId) (s : State) : Moved :=
  let t := mmaTurn k s
  moved ((s.core k).mmaRun.isSome && (s.core k).mmaRun != (t.core k).mmaRun) (fun _ => t) s

/-- The streams, the array, the oldest region and its fault. -/
def contextTurn (c : CtxId) (s : State) : Moved :=
  if !canRun s c then (false, s)
  else
    orElse (orderedTurn .l c s) fun s =>
    orElse (orderedTurn .c c s) fun s =>
    orElse (orderedTurn .s c s) fun s =>
    orElse (arrayTurn (coreOf c) s) fun s =>
    orElse (moved (retireDue s c) (tryRetire c) s) fun s =>
    moved (faultDue (s.ctx c)) (takeFault c) s

/-- The front of a context. -/
def frontIdle (c : CtxId) (s : State) : Moved :=
  if frontOpen s c then
    match frontTurn c s.lag s with
    | .next t => moved (frontMoved c s t) (fun _ => t) s
    | _ => (false, s)
  else (false, s)

/-- The first of a list of turns that moves something on. -/
def firstOf : List (State → Moved) → State → Moved
  | [], s => (false, s)
  | f :: fs, s => orElse (f s) (firstOf fs)

/-- A completed engine command, or an entry placed, or none. -/
def engineTurn (k : CoreId) (s : State) : Moved :=
  let starts := fun (s : State) =>
    let t := engineStart k s
    moved ((t.core k).active.length != (s.core k).active.length ||
      (t.ctx (ctxIn k 0)).engL.length != (s.ctx (ctxIn k 0)).engL.length ||
      (t.ctx (ctxIn k 0)).engS.length != (s.ctx (ctxIn k 0)).engS.length ||
      (t.ctx (ctxIn k 1)).engL.length != (s.ctx (ctxIn k 1)).engL.length ||
      (t.ctx (ctxIn k 1)).engS.length != (s.ctx (ctxIn k 1)).engS.length) (fun _ => t) s
  let ends := fun (n : Nat) (s : State) =>
    let t := engineComplete k n s
    moved ((t.core k).active != (s.core k).active) (fun _ => t) s
  let lands := fun (n : Nat) (s : State) =>
    let t := arrivalWrite k n s
    moved ((t.core k).arrivals.length != (s.core k).arrivals.length) (fun _ => t) s
  firstOf (starts :: (List.range (s.core k).active.length).map ends ++
    (List.range (s.core k).arrivals.length).map lands) s

/-- What a context has on its way (spec/11 R209, R211, spec/05 R100, spec/14 R278). -/
def travelTurn (c : CtxId) (s : State) : Moved :=
  let posted := fun (s : State) =>
    let t := postedAck c 0 s
    moved ((t.ctx c).sync.posted.length != (s.ctx c).sync.posted.length) (fun _ => t) s
  let reds := fun (s : State) =>
    let t := reductionApply c s
    moved ((t.ctx c).sync.red != (s.ctx c).sync.red) (fun _ => t) s
  let effect := fun (n : Nat) (s : State) => moved (deferredReady s c n) (deferredApply c n) s
  let drain := fun (s : State) =>
    match drainNext s (halfOf c) with
    | some n => (true, weirDrain (halfOf c) n s)
    | none => (false, s)
  firstOf (posted :: reds :: drain :: (List.range (s.ctx c).sync.deferred.length).map effect) s

/-- A comparison of checksums with no upset (spec/10 R193). -/
def checkTurn (k : CoreId) (s : State) : Moved :=
  moved (!(s.core k).checks.isEmpty) (checksumCompare k 0 ⟨false, 0, 0, 0⟩) s

/-- The waiters of a record or word on which the context waits evaluate their conditions again, in the order of
the grants (spec/14 R279). -/
def wakeTurn (c : CtxId) (s : State) : Moved :=
  firstOf ((s.waiters.filter fun w => w.ctx == c).map fun w s => wakeAll (waitersOf s w.key) s) s

/-- What happens when the schedule names nothing. -/
def idle (s : State) : State :=
  let c := s.cur
  let k := coreOf c
  let held := (s.casc (cascOf c)).hold
  let now := fun (f : State → Moved) (s : State) => if held then (false, s) else f s
  let r := firstOf [contextTurn c, frontIdle c, now (checkTurn k), now (engineTurn k), travelTurn c,
    now (wakeTurn c)] s
  if r.1 then r.2 else passTime r.2

/-! ## The turns that the schedule names -/

/-- A step of the part that goes on after THERMTRIP: the I/O islands and the host link stay powered (spec/20
R387), for resets and for ownership. -/
def islandStep : Instr → Bool
  | .fullReset _ | .functionLevelReset _ | .resizableBarWrite _ | .ownctlClaim _ | .ownctlRelease _
  | .ownctlHandover _ _ | .ownctlCandidate _ _ | .ownhbWrite _ | .heartbeatExpiry | .handoverTimeout => true
  | _ => false

/-- A step of the part, which no instruction word stands for. -/
def isPartStep (i : Instr) : Bool := (encode i).isNone

/-- A step of the part taken in its turn. -/
def eventTurn (i : Instr) (s : State) : Host.Outcome State Fault Refusal :=
  if !isPartStep i then .fault .notAStep
  else if s.dev.stopped && !islandStep i then .next s
  else exec i s

/-- A turn of a stream of a context that can go on; what it starts stays under way. -/
def streamStep (c : CtxId) (f : State → State) (s : State) : State :=
  if s.dev.stopped || !canRun s c then s else f { s with lag := true }

/-- A turn that lets a stream complete out of its order, which a page fault of the younger region bars (spec/18 R358). -/
def looseStep (c : CtxId) (f : State → State) (s : State) : State :=
  streamStep c (fun s => if pageWaits (s.ctx c) then s else f s) s

/-- A turn of the schedule (notes/assumptions/1.md); after THERMTRIP only TIME and the islands go on (spec/20
R387). -/
def runTurn (t : Turn) (s : State) : Host.Outcome State Fault Refusal :=
  match t with
  | .event i => eventTurn i s
  | .front c lag => if s.dev.stopped then .next s else frontTurn c lag s
  | .stream c st => .next (streamStep c (fun s => (orderedTurn st c s).2) s)
  | .head c st => .next (looseStep c (fun s => (pastTurn st c s).2) s)
  | .begin c st => .next (looseStep c (beginTurn st c) s)
  | .aside c st => .next (looseStep c (asideTurn st c) s)
  | .land c n => .next (looseStep c (landLine c n) s)
  | .sample k n => .next (if s.dev.stopped || (s.casc (cascOfCore k)).hold then s else sampleCmd k n s)
  | .kstep k => .next (if s.dev.stopped || (s.casc (cascOfCore k)).hold then s else mmaTurn k s)
  | .ns n => .next (passNs n s)
  | .aclk g n => .next (if s.dev.stopped then s else tick g n s)

/-- The turn when the schedule names nothing. -/
def idleTurn (s : State) : Host.Outcome State Fault Refusal :=
  .next (if s.dev.stopped then passNs 10 s else idle s)

end Sys2Proof.Machine
end

