-- ==== Sys2Proof/Machine/Step.lean ====
section
/-! DEFINITION. One step of the part. -/

namespace Sys2Proof.Machine

/-- A turn after which a read of the outbound window may still have to end in its timeout (spec/21 R395). -/
def keepsLost : Turn → Bool
  | .event (.outboundReadTimeout _) => true
  | _ => false

/-- What a turn leaves: the reads of the outbound window after it find their data. -/
def afterTurn (keep : Bool) : Host.Outcome State Fault Refusal → Host.Outcome State Fault Refusal
  | .next s => .next (if keep then s else { s with lostRead := false })
  | o => o

/-- One step: the next turn of the schedule, or what happens when it names nothing
(notes/assumptions/1.md). -/
def step (s : State) : Host.Outcome State Fault Refusal :=
  match s.agenda with
  | t :: ts => afterTurn (keepsLost t) (runTurn t { s with agenda := ts })
  | [] => afterTurn false (idleTurn s)

/-- The state with an instruction word where the next step fetches it: the current context runs, its heap
triple maps its place to a line of main memory, and the schedule gives it its turn
(notes/assumptions/8.md). -/
def State.withFetchWord (s : State) (_nbits w : Nat) : State :=
  let c := s.cur
  let x := s.ctx c
  let key := 0x10000 + x.regs.pc.toNat % 64 / 8 * 8
  let heap : Heap := ⟨x.regs.pc, 8, BitVec.ofNat 64 key - x.regs.pc⟩
  let s := { s with mem := memPutNat s.mem key 8 (w % 2 ^ 64), agenda := [.front c s.lag] }
  let s := s.modDev fun d => { d with stopped := false }
  let s := s.modCasc (cascOf c) fun g => { g with hop := false, droop := 0 }
  let s := s.modCore (coreOf c) fun k => { k with icache := k.icache.filter fun t => t.line != 0x10000 }
  s.modCtx c fun x =>
    { x with
      bank := .running
      heap := heap
      reg := { x.reg with closed := none, fault := none }
      older := x.older.map fun r => { r with fault := none } }

end Sys2Proof.Machine
end

