-- ==== Sys2Proof/Safety.lean ====
section
/-! DEFINITION. What the statements about runs speak of: the invariants of the state, when the front and a
stream act at once, and what an instruction leaves as it was. -/

namespace Sys2Proof.Machine

/-! ## Invariants -/

/-- Memory is in its canonical form. -/
abbrev Memory.wf (m : List Host.Cell) : Bool := memWf m

/-- The state's memory is in its canonical form, so that equal memories are equal data. -/
def State.memOk (s : State) : Prop := Memory.wf s.mem = true

/-! ## When an instruction acts at once -/

/-- No instruction on its way writes a register of a list (spec/12 R223). -/
def registersFree (s : State) (rs : List (BitVec 5)) : Prop := rs.any (busyS s.me) = false

/-- Nothing that the context has outstanding has found a fault. -/
def noFault (x : Ctx) : Prop := x.reg.fault = none ∧ (x.older.all fun r => r.fault.isNone) = true

/-- An instruction that the front appends to a stream is tried at once and is not held back (spec/02 R27, R28,
spec/06 R104, R105, spec/15 R302, spec/20 R385): nothing of the stream is before it and it does not lag, the
registers it captures are free, the gap of its sluice register has passed, the tokens it waits on are present and
the channels it signals have room. -/
def streamFree (s : State) (st : Stream) (t : Tok) (rs : List (BitVec 5)) : Prop :=
  s.lag = false ∧ streamClear s s.cur st = true ∧ (st = .l → s.me.reads = []) ∧ registersFree s rs ∧ noFault s.me ∧
    sluiceOpen s.me (streamSluice st) = true ∧ tokReady s.me st t = true ∧ tokRoom s.me st t = true

/-! ## Frames -/

/-- Only the acting context has changed. -/
def onlyMe (s t : State) : Prop := t = s.modCtx s.cur fun _ => t.me

/-- Every byte of memory reads as before. -/
def memorySame (s t : State) : Prop := ∀ a, memRead t.mem a = memRead s.mem a

/-- Every scalar register but one reads as before. -/
def scalarsSame (x y : Ctx) (d : BitVec 5) : Prop := ∀ r, r ≠ d → readS y r = readS x r

/-- What an F instruction may change of a context: its program counter, a scalar register, and the count of
what the front has passed. -/
def frontKept (x y : Ctx) : Prop :=
  y = { x with
    regs := { x.regs with pc := y.regs.pc, s := y.regs.s }
    pos := x.pos + 1
    reg := { x.reg with count := x.reg.count + 1 } }

/-- An F instruction has completed: the acting context goes on at an address, one scalar register has taken a
value (a write to s0 is discarded, spec/12 R227), and nothing else has changed in the part. -/
def frontWrote (s t : State) (d : BitVec 5) (v pc : Word) : Prop :=
  onlyMe s t ∧ frontKept s.me t.me ∧ t.me.regs.pc = pc ∧ readS t.me d = (if d = 0 then 0 else v) ∧
    scalarsSame s.me t.me d ∧ memorySame s t

/-- An F instruction has completed: the acting context goes on at an address, and nothing else has changed in
the part. -/
def frontWent (s t : State) (pc : Word) : Prop :=
  onlyMe s t ∧ frontKept s.me t.me ∧ t.me.regs.pc = pc ∧ (∀ r, readS t.me r = readS s.me r) ∧ memorySame s t

/-! ## The loop stack -/

/-- A position of the loop stack is its top: the highest valid one (spec/12 R229). -/
def topAt (f : FrontCk) (i : Fin 6) : Prop :=
  f.loops[i.val].valid = true ∧ ∀ j : Fin 6, i < j → f.loops[j.val].valid = false

/-- A position is the one just above the top, or the bottom of an empty stack (spec/12 R229, R230). -/
def aboveTop (f : FrontCk) (i : Fin 6) : Prop :=
  (∀ j : Fin 6, i ≤ j → f.loops[j.val].valid = false) ∧
    (i.val = 0 ∨ ∃ j : Fin 6, j.val + 1 = i.val ∧ f.loops[j.val].valid = true)

/-- The front part of a checkpoint with one position of the loop stack replaced. -/
def withLoop (f : FrontCk) (i : Fin 6) (l : LoopEntry) : FrontCk := { f with loops := f.loops.set i.val l }

/-- An F instruction has completed that also changes the loop stack or the rotation bases: the acting context
has a front state and goes on at an address; every register and all the rest of the part are as before. -/
def loopWent (s t : State) (f : FrontCk) (pc : Word) : Prop :=
  t = s.modCtx s.cur fun x =>
    { x with
      front := f, regs := { x.regs with pc := pc }, pos := x.pos + 1
      reg := { x.reg with count := x.reg.count + 1 } }

/-! ## Commit points -/

/-- What the front has passed at a commit point, before a region begins behind it: the next instruction's
address, its count, and the open region, which is closed (spec/13 R250, R252). -/
def closedAt (how : Closing) (x : Ctx) : Ctx :=
  { x with
    regs := { x.regs with pc := x.regs.pc + 8 }
    pos := x.pos + 1
    reg := { x.reg with count := x.reg.count + 1, closed := some how, next := x.regs.pc + 8 } }

/-- The front has passed a commit point and runs ahead of the region that it closed: a region begins at the
next instruction with the front state as it stands (spec/13 R250, R252). -/
def ranAhead (how : Closing) (time : Word) (x : Ctx) : Ctx :=
  let y := closedAt how x
  { y with
    older := some y.reg
    reg := Region.fresh (x.epochs + 1) (x.regs.pc + 8) x.front time
    epochs := x.epochs + 1 }

/-! ## Faults -/

/-- The front has found a fault in its open region (spec/18 R356): it is recorded with its cause, its value and
its place, and when it is due the trap is taken. -/
def frontTraps (s t : State) (cause : Nat) (tval : Word) : Prop :=
  t = raiseFault s.cur s.me.reg.epoch
    { cause := cause, tval := tval, pos := s.me.pos, fetch := false, pe := false } s

end Sys2Proof.Machine
end

