-- ==== Sys2Proof/Claims.lean ====
section
/-! DEFINITION. The tables of the spec in the terms of the statements: for each instruction of a table, its
operands and the value that the table gives. -/

namespace Sys2Proof.Machine

/-! ## Scalar instructions (spec/12 R235 to R239) -/

/-- 1 or 0. -/
def oneIf (b : Bool) : Word := if b then 1 else 0

/-- The field of 64 bits congruent to an integer. -/
def word (n : Int) : Word := BitVec.ofInt 64 n

/-- The number of the first bits of a list that are clear. -/
def clearRun (l : List Bool) : Nat := (l.takeWhile fun b => !b).length

/-- The bits of a word from bit 0 on. -/
def bitsUp (a : Word) : List Bool := (List.range 64).map fun i => a.getLsbD i

/-- The ALU table of spec/12 R235: sD from a = s[sA] and b = s[sB], exact and then cut to 64 bits. -/
def aluRow : Instr → Option (SR × (Word → Word → Word))
  | .add o => some (o, fun a b => word (a.toInt + b.toInt))
  | .sub o => some (o, fun a b => word (a.toInt - b.toInt))
  | .mul o => some (o, fun a b => word (a.toInt * b.toInt))
  | .mulhS o => some (o, fun a b => word (a.toInt * b.toInt / 2 ^ 64))
  | .mulhN o => some (o, fun a b => word ((a.toNat : Int) * b.toNat / 2 ^ 64))
  | .divS o => some (o, fun a b => if b = 0 then word (-1) else word (a.toInt.tdiv b.toInt))
  | .divN o => some (o, fun a b => if b = 0 then word (-1) else word ((a.toNat : Int) / b.toNat))
  | .remS o => some (o, fun a b => if b = 0 then a else word (a.toInt.tmod b.toInt))
  | .remN o => some (o, fun a b => if b = 0 then a else word ((a.toNat : Int) % b.toNat))
  | .minS o => some (o, fun a b => word (min a.toInt b.toInt))
  | .minN o => some (o, fun a b => word (min (a.toNat : Int) b.toNat))
  | .maxS o => some (o, fun a b => word (max a.toInt b.toInt))
  | .maxN o => some (o, fun a b => word (max (a.toNat : Int) b.toNat))
  | .and o => some (o, fun a b => a &&& b)
  | .or o => some (o, fun a b => a ||| b)
  | .xor o => some (o, fun a b => a ^^^ b)
  | .andn o => some (o, fun a b => a &&& ~~~b)
  | .shl o => some (o, fun a b => word (a.toInt * 2 ^ (b.toNat % 64)))
  | .shrN o => some (o, fun a b => word ((a.toNat : Int) / 2 ^ (b.toNat % 64)))
  | .shrS o => some (o, fun a b => word (a.toInt / 2 ^ (b.toNat % 64)))
  | .rot o => some (o, fun a b =>
      word ((a.toNat / 2 ^ (b.toNat % 64) + a.toNat * 2 ^ (64 - b.toNat % 64) : Nat) : Int))
  | .sltS o => some (o, fun a b => oneIf (decide (a.toInt < b.toInt)))
  | .sltN o => some (o, fun a b => oneIf (decide (a.toNat < b.toNat)))
  | .seq o => some (o, fun a b => oneIf (decide (a = b)))
  | .sne o => some (o, fun a b => oneIf (decide (a ≠ b)))
  | .clz o => some (o, fun a _ => word (clearRun (bitsUp a).reverse))
  | .ctz o => some (o, fun a _ => word (clearRun (bitsUp a)))
  | .popc o => some (o, fun a _ => word ((bitsUp a).filter id).length)
  | .sextB o => some (o, fun a _ => word (a.setWidth 8).toInt)
  | .sextH o => some (o, fun a _ => word (a.setWidth 16).toInt)
  | .sextW o => some (o, fun a _ => word (a.setWidth 32).toInt)
  | .zextB o => some (o, fun a _ => word (a.setWidth 8).toNat)
  | .zextH o => some (o, fun a _ => word (a.setWidth 16).toNat)
  | .zextW o => some (o, fun a _ => word (a.setWidth 32).toNat)
  | _ => none

/-- The ALUI table of spec/12 R236: sD from the PC and a = s[sA], with imm the sign-extended immediate and c its
six low bits. -/
def aluiRow : Instr → Option (SI × (Word → Word → Word))
  | .addi o => some (o, fun _ a => word (a.toInt + o.imm.toInt))
  | .andi o => some (o, fun _ a => a &&& word o.imm.toInt)
  | .ori o => some (o, fun _ a => a ||| word o.imm.toInt)
  | .xori o => some (o, fun _ a => a ^^^ word o.imm.toInt)
  | .shli o => some (o, fun _ a => word (a.toInt * 2 ^ (o.imm.toNat % 64)))
  | .shriN o => some (o, fun _ a => word ((a.toNat : Int) / 2 ^ (o.imm.toNat % 64)))
  | .shriS o => some (o, fun _ a => word (a.toInt / 2 ^ (o.imm.toNat % 64)))
  | .sltiS o => some (o, fun _ a => oneIf (decide (a.toInt < o.imm.toInt)))
  | .sltiN o => some (o, fun _ a => oneIf (decide (a.toNat < (word o.imm.toInt).toNat)))
  | .li o => some (o, fun _ _ => word o.imm.toInt)
  | .lih o => some (o, fun _ a => word ((o.imm.toNat % 2 ^ 28 * 2 ^ 36 + a.toNat % 2 ^ 36 : Nat) : Int))
  | .adr o => some (o, fun pc _ => word (pc.toInt + o.imm.toInt))
  | _ => none

/-- The branches of spec/12 R237: their operands and their conditions. -/
def branchRow : Instr → Option (SB × (Word → Word → Bool))
  | .beq o => some (o, fun a b => decide (a = b))
  | .bne o => some (o, fun a b => decide (a ≠ b))
  | .bltS o => some (o, fun a b => decide (a.toInt < b.toInt))
  | .bgeS o => some (o, fun a b => decide (b.toInt ≤ a.toInt))
  | .bltN o => some (o, fun a b => decide (a.toNat < b.toNat))
  | .bgeN o => some (o, fun a b => decide (b.toNat ≤ a.toNat))
  | _ => none

/-- The address a number of 8-byte slots from another (spec/02 R22). -/
def slotsFrom (pc : Word) (off : Int) : Word := word (pc.toInt + 8 * off)

/-- The flag branches of spec/12 R239: their operands and their conditions on the flag register and s[sA]. -/
def flagRow : Instr → Option (FB × (Flag → Word → Bool))
  | .bfAny o => some (o, fun f _ => f.any)
  | .bfNany o => some (o, fun f _ => !f.any)
  | .bfAll o => some (o, fun f _ => f.all)
  | .bfNall o => some (o, fun f _ => !f.all)
  | .bfCeq o => some (o, fun f a => decide (f.count = a.toNat))
  | .bfCne o => some (o, fun f a => decide (f.count ≠ a.toNat))
  | .bfCge o => some (o, fun f a => decide (a.toNat ≤ f.count))
  | .bfClt o => some (o, fun f a => decide (f.count < a.toNat))
  | _ => none

/-- The trip count of a temporal level of the loop table of what the context runs; none when the level is absent
or spatial (spec/12 R230). -/
def temporalTrips (x : Ctx) (lvl : Nat) : Option Word32 :=
  match x.work with
  | none => none
  | some w =>
    if w.disp.temporal[lvl]? = some true then (w.disp.trips[lvl]?).map (BitVec.ofNat 32) else none

/-- The count with which `loop` or `loop.t` enters its loop (spec/12 R230). -/
def loopEnters (x : Ctx) : Instr → Option (SL × Word32)
  | .loop o => some (o, (readS x o.sa).setWidth 32)
  | .loopT o => (temporalTrips x o.lvl.toNat).map fun n => (o, n)
  | _ => none

/-- The register that `loop` reads. -/
def loopReads : Instr → List (BitVec 5)
  | .loop o => [o.sa]
  | _ => []

/-! ## Control and status registers (spec/12 R240 to R246) -/

/-- A field of a register: its lowest bit, its width and its value. -/
def bitsAre (v : Word) (lo w : Nat) (n : Nat) : Prop := v.toNat / 2 ^ lo % 2 ^ w = n

/-- What a control and status register reads as, field by field: FPC (spec/07 R133), RVB and RPB (spec/08
R145), the identity registers and counters (spec/12 R242), the trap registers (R243), the heap registers
(R244), the guard and replay registers (R245), LEASE (spec/10 R195), BKSTALL (spec/05 R90), QSTALL (spec/06
R111), FILLC and PSAMP (spec/12 R246). Where a register has one field the whole value is given. -/
def csrSays (s : State) (c : CtxId) (r : Csr) (v : Word) : Prop :=
  let x := s.ctx c
  let k := s.core (coreOf c)
  match r with
  | .fpc => v.toNat = x.fpc.toNat
  | .rvb => v.toNat = x.front.rvb.toNat
  | .rpb => v.toNat = x.front.rpb.toNat
  | .time => v.toNat = max (halfTime s (halfOf c)).toNat x.cnt.clamp.toNat
  | .cycle => v = k.cycle
  | .ctxinfo => bitsAre v 32 32 x.id.gen.toNat ∧ bitsAre v 20 12 0 ∧ bitsAre v 19 1 x.id.sys.toNat ∧
      bitsAre v 18 1 x.id.task.toNat ∧ bitsAre v 16 2 x.id.cls.toNat ∧ bitsAre v 14 2 0 ∧
      bitsAre v 8 6 x.id.queue.val ∧ bitsAre v 7 1 0 ∧ bitsAre v 6 1 (c.val % 2) ∧ bitsAre v 0 6 (c.val / 2)
  | .opinfo => bitsAre v 51 13 0 ∧ bitsAre v 50 1 x.id.rx.toNat ∧ bitsAre v 49 1 x.id.fb.toNat ∧
      bitsAre v 48 1 x.id.gd.toNat ∧ bitsAre v 32 16 x.id.card.toNat ∧ bitsAre v 0 32 x.id.tag.toNat
  | .tvec => v = x.trap.tvec
  | .tcause => v = x.trap.tcause
  | .tpc => v = x.trap.tpc
  | .tval => v = x.trap.tval
  | .tscr0 => v = x.trap.tscr0
  | .tscr1 => v = x.trap.tscr1
  | .tstat => v.toNat = 2 * x.trap.kind.toNat + x.trap.inh.toNat
  | .heapb => v = x.heap.base
  | .heapl => v = x.heap.len
  | .heapo => v = x.heap.off
  | .gtol => v.toNat = x.front.gtol.toNat
  | .gres => v.toNat = x.cnt.gres.toNat
  | .gfail => v.toNat = (gfailOf s x).toNat
  | .rplcnt => x.cnt.att < 8 →
      bitsAre v 32 32 x.cnt.rplTotal.toNat ∧ bitsAre v 3 29 0 ∧ bitsAre v 0 3 x.cnt.att
  | .regmax => v.toNat = max k.regmax.toNat 1024
  | .replaymax => v.toNat = if k.replaymax = 0 then 1 else k.replaymax.toNat
  | .lease => k.used ≤ 64 → bitsAre v 32 32 x.cnt.lwait.toNat ∧ bitsAre v 16 16 0 ∧
      bitsAre v 15 1 (k.lease == some (bankOf c)).toNat ∧ bitsAre v 7 8 0 ∧
      bitsAre v 0 7 (if k.lease = some (bankOf c) then k.used else 0)
  | .bkstall => v = x.cnt.bkstall
  | .qstall => v = x.cnt.qstall
  | .fillc => v = k.fillc
  | .psamp => bitsAre v 8 56 0 ∧ bitsAre v 4 4 k.psamp.lgper.toNat ∧ bitsAre v 2 2 0 ∧
      bitsAre v 1 1 k.psamp.pw.toNat ∧ bitsAre v 0 1 k.psamp.en.toNat

/-- What a register reads as after a write of a value: bits that fall on fields that are not written are
ignored (spec/12 R240); REGMAX and REPLAYMAX act and read by R245. -/
def csrKept (r : Csr) (old v : Word) : Word :=
  match r with
  | .rvb => v &&& 0x1F
  | .rpb => v &&& 0x7
  | .tvec | .tpc => v &&& 0x0000_FFFF_FFFF_FFF8#64
  | .tcause => v &&& 0xF
  | .gtol => v &&& 0xFFFF_FFFF
  | .lease => (v &&& 0xFFFF_FFFF_0000_0000#64) ||| (old &&& 0xFFFF_FFFF)
  | .regmax => if (v &&& 0xFFFF_FFFF).toNat < 1024 then 1024 else v &&& 0xFFFF_FFFF
  | .replaymax => if v &&& 0x7 = 0 then 1 else v &&& 0x7
  | .psamp => v &&& 0xF3
  | .tval | .tscr0 | .tscr1 | .bkstall | .qstall | .fillc => v
  | _ => old

/-- The CSR writes: their operands, and the value that they write from the old one and s[sa] (spec/12 R240). -/
def csrWrites : Instr → Option (SI × (Word → Word → Word))
  | .csrw o => some (o, fun _ a => a)
  | .csrs o => some (o, fun old a => old ||| a)
  | .csrc o => some (o, fun old a => old &&& ~~~a)
  | _ => none

/-! ## What the front waits for (spec/12 R223, R239, R240) -/

/-- The registers that an instruction of the front reads or writes, and on which it waits while a stream instruction has
still to write them. -/
def frontRegs : Instr → List (BitVec 5)
  | .jal o => [o.sd]
  | .jr o => [o.sa]
  | .jalr o => [o.sa, o.sd]
  | .loop o | .brkloop o | .lidx o => [o.sa]
  | .bfCeq o | .bfCne o | .bfCge o | .bfClt o => [o.sa]
  | .fcnt o => [o.sd]
  | .csrr o => [o.sd]
  | .csrw o | .csrs o | .csrc o => [o.sa, o.sd]
  | .li o | .adr o => [o.sd]
  | .clz o | .ctz o | .popc o | .sextB o | .sextH o | .sextW o | .zextB o | .zextH o | .zextW o => [o.sa, o.sd]
  | i =>
    match aluRow i, aluiRow i, branchRow i with
    | some (o, _), _, _ => [o.sa, o.sb, o.sd]
    | _, some (o, _), _ => [o.sa, o.sd]
    | _, _, some (o, _) => [o.sa, o.sb]
    | _, _, _ => []

/-- The flag register that an instruction of the front reads. -/
def frontFlag : Instr → Option (Fin 4)
  | .fcnt o => some ⟨o.f.toNat, o.f.isLt⟩
  | i => (flagRow i).map fun r => ⟨r.1.f.toNat, r.1.f.isLt⟩

/-- The register that a CSR instruction names may be read or written so at the level of the context. -/
def csrAllowed (s : State) : Instr → Prop
  | .csrr o => ∃ r, csrOf (o.imm.toNat % 4096) = some r ∧ csrAccess r s.me.id.sys ≠ .none
  | .csrw o | .csrs o | .csrc o => ∃ r, csrOf (o.imm.toNat % 4096) = some r ∧ csrAccess r s.me.id.sys = .rw
  | _ => True

/-! ## Guards (spec/13 R268) -/

/-- The f32 lanes of a register whose predicate bits are set. -/
def guardTaken (v : VReg) (p : PReg) : List Nat :=
  ((List.range 128).filter fun j => p.getLsbD j).map fun j => (v.extractLsb' (32 * j) 32).toNat

/-- The magnitude of an f32 pattern. -/
def magF32 (n : Nat) : Nat := n % 2 ^ 31

/-- The result of `guard.max`: the canonical NaN when a lane is a NaN, else the largest magnitude, 0 for no
lane. Magnitudes of patterns that are no NaN rise with the values. -/
def guardMaxOf (l : List Nat) : Nat :=
  if l.any fun n => 0x7F80_0000 < magF32 n then 0x7FC0_0000 else (l.map magF32).foldl max 0

end Sys2Proof.Machine
end

