-- ==== Sys2Proof/ClaimsVector.lean ====
section
/-! DEFINITION. The tables of the vector and matrix chapters in the terms of the statements (spec/08, spec/09,
spec/10). -/

namespace Sys2Proof.Machine

/-! ## How a stream instruction runs -/

/-- The acting context once the front has handed an instruction to a stream: the front has stepped over it, and
the accesses that follow are made for the open region (spec/02 R22, R23, spec/03 R60). -/
def handed (s : State) : Ctx :=
  { s.me with
    regs := { s.me.regs with pc := s.me.regs.pc + 8 }
    pos := s.me.pos + 1
    reg := { s.me.reg with count := s.me.reg.count + 1 }
    acting := s.me.reg.epoch }

/-- The tokens of an instruction and its dequeue, when it has completed (spec/02 R27, R28, spec/20 R385). -/
def tokensDone (s : State) (st : Stream) (t : Tok) (x : Ctx) : Ctx :=
  tokGive s.me.reg.epoch st t (tokTaken s.me.reg.epoch st t x)

/-- A C instruction has completed: only the acting context has changed, and it is what the effect left, with the
tokens taken and given. -/
def ranC (s t : State) (tok : Tok) (y : Ctx) : Prop := t = s.setCtx s.cur (tokensDone s .c tok y)

/-! ## Element-wise results -/

/-- What an instruction does that writes one vector register or one queue entry: its operands, its sources in
the order of its fields, the scalar register that it reads, its element width, and the value of element j
from its sources, the old destination, the scalar, and the predicate bit of the element. -/
structure VecRow where
  o : VX
  srcs : List (BitVec 6)
  sa : BitVec 5
  w : Nat
  f : List VReg → VReg → Word → Bool → Nat → Nat

/-- Element j of source i of a list of sources. -/
def at_ (w : Nat) (vs : List VReg) (i j : Nat) : Nat := elem w j (vs[i]?.getD 0)

/-- An active element takes a value; another keeps the old one, which is 0 for a pushed entry (spec/08 R148). -/
def masked (w : Nat) (old : VReg) (p : Bool) (j x : Nat) : Nat := if p then x else elem w j old

/-- A row of two sources whose active elements are a function of the elements a and b and of the old element d. -/
def row2 (o : VX) (f : Nat → Nat → Nat → Nat) : VecRow :=
  let w := tyWidth o.ty
  { o := o, srcs := [o.va, o.vb], sa := 0, w := w
    f := fun vs old _ p j => masked w old p j (f (at_ w vs 0 j) (at_ w vs 1 j) (elem w j old)) }

/-- A row of one source. -/
def row1 (o : VX) (f : Nat → Nat) : VecRow :=
  let w := tyWidth o.ty
  { o := o, srcs := [o.va], sa := 0, w := w, f := fun vs old _ p j => masked w old p j (f (at_ w vs 0 j)) }

/-- A row without a source: an active element is a function of the scalar and of j. -/
def row0 (o : VX) (sa : BitVec 5) (f : Word → Nat → Nat) : VecRow :=
  let w := tyWidth o.ty
  { o := o, srcs := [], sa := sa, w := w, f := fun _ old s p j => masked w old p j (f s j) }

/-- wrap(x, T) as a field (spec/00 R10). -/
def wr (t : Ty) (x : Int) : Nat := wrapN (tyWidth t) x

/-- wrap(x, T), or sat(x, T) where imm14[12] is set (spec/08 R155). -/
def wrs (o : VX) (x : Int) : Nat :=
  if o.imm.getLsbD 12 then satN (tySigned o.ty) (tyWidth o.ty) x else wrapN (tyWidth o.ty) x

/-- The count of a shift (spec/08 R156). -/
def shiftBy (o : VX) (b : Nat) : Nat := if o.imm.getLsbD 13 then o.imm.toNat % 64 else min b 63

/-- A shift: by a register or by an immediate, which makes vb no source (spec/08 R156). -/
def rowShift (o : VX) (f : Int → Nat → Nat) : VecRow :=
  let w := tyWidth o.ty
  { o := o, srcs := if o.imm.getLsbD 13 then [o.va] else [o.va, o.vb], sa := 0, w := w
    f := fun vs old _ p j => masked w old p j (f (tyVal o.ty (at_ w vs 0 j)) (shiftBy o (at_ w vs 1 j))) }

/-- The bits of a field from bit 0 on. -/
def fieldBits (w x : Nat) : List Bool := (List.range w).map x.testBit

/-- `vdot4` (spec/08 R158). -/
def rowDot (o : VX) : VecRow :=
  { o := o, srcs := [o.va, o.vb], sa := 0, w := 32
    f := fun vs old _ p j => masked 32 old p j <|
      let tb := tyOfCode (o.imm.extractLsb' 0 4)
      let sg := tySigned o.ty || tySigned tb
      let m := fun q => tyVal o.ty (at_ 8 vs 0 (4 * j + q)) * tyVal tb (at_ 8 vs 1 (4 * j + q))
      let x := (if sg then sextI 32 (elem 32 j old) else (elem 32 j old : Int)) + (m 0 + m 1 + m 2 + m 3)
      if o.imm.getLsbD 12 then satN sg 32 x else wrapN 32 x }

/-- `vsel` writes every element; its predicate selects (spec/08 R160). -/
def rowSel (o : VX) : VecRow :=
  let w := tyWidth o.ty
  { o := o, srcs := [o.va, o.vb], sa := 0, w := w
    f := fun vs _ _ p j => if p then at_ w vs 0 j else at_ w vs 1 j }

/-- The VINT instructions that write one register (spec/08 R155, R156, R158, R160). -/
def vintRow : Instr → Option VecRow
  | .vadd o => some (row2 o fun a b _ => wr o.ty (tyVal o.ty a + tyVal o.ty b))
  | .vsub o => some (row2 o fun a b _ => wr o.ty (tyVal o.ty a - tyVal o.ty b))
  | .vaddSat o => some (row2 o fun a b _ => satN (tySigned o.ty) (tyWidth o.ty) (tyVal o.ty a + tyVal o.ty b))
  | .vsubSat o => some (row2 o fun a b _ => satN (tySigned o.ty) (tyWidth o.ty) (tyVal o.ty a - tyVal o.ty b))
  | .vmul o => some (row2 o fun a b _ => wrs o (tyVal o.ty a * tyVal o.ty b))
  | .vmulh o => some (row2 o fun a b _ => wr o.ty (tyVal o.ty a * tyVal o.ty b / 2 ^ tyWidth o.ty))
  | .vmla o => some (row2 o fun a b d => wrs o (tyVal o.ty d + tyVal o.ty a * tyVal o.ty b))
  | .vabs o => some (row1 o fun a => wrs o |tyVal o.ty a|)
  | .vneg o => some (row1 o fun a => wrs o (-tyVal o.ty a))
  | .vmin o => some (row2 o fun a b _ => if tyVal o.ty b < tyVal o.ty a then b else a)
  | .vmax o => some (row2 o fun a b _ => if tyVal o.ty a < tyVal o.ty b then b else a)
  | .vand o => some (row2 o fun a b _ => a &&& b)
  | .vor o => some (row2 o fun a b _ => a ||| b)
  | .vxor o => some (row2 o fun a b _ => a ^^^ b)
  | .vandn o => some (row2 o fun a b _ => a &&& (2 ^ tyWidth o.ty - 1 - b))
  | .vshl o => some (rowShift o fun a c => wrs o (a * 2 ^ c))
  | .vshr o => some (rowShift o fun a c => wr o.ty (a / 2 ^ c))
  | .vrshr o => some (rowShift o fun a c => wr o.ty ((2 * a + 2 ^ c) / 2 ^ (c + 1)))
  | .vclz o => some (row1 o fun a => clearRun (fieldBits (tyWidth o.ty) a).reverse)
  | .vpopc o => some (row1 o fun a => (fieldBits (tyWidth o.ty) a).count true)
  | .vavg o => some (row2 o fun a b _ => wr o.ty ((tyVal o.ty a + tyVal o.ty b + 1) / 2))
  | .vsel o => some (rowSel o)
  | .vdot4 o => some (rowDot o)
  | _ => none

/-- imm14 sign-extended (spec/08 R163). -/
def immWide (o : VX) : Int := o.imm.toInt

/-- The register moves (spec/08 R163). -/
def vmiscRow : Instr → Option VecRow
  | .vmov o => some (row1 o fun a => a)
  | .vli o => some (row0 o 0 fun _ _ => wr o.ty (immWide o))
  | .viota o => some (row0 o 0 fun _ j => wr o.ty (j + immWide o))
  | .vdup o => some (row0 o (o.imm.setWidth 5) fun s _ => s.toNat % 2 ^ tyWidth o.ty)
  | .vclr o => some (row0 o 0 fun _ _ => 0)
  | _ => none

/-- A permutation of two sources: an active element is a function of the sources as sequences of E elements. -/
def rowPerm (o : VX) (f : (Nat → Nat) → (Nat → Nat) → Nat → Nat → Nat) : VecRow :=
  let w := tyWidth o.ty
  { o := o, srcs := [o.va, o.vb], sa := 0, w := w
    f := fun vs old _ p j => masked w old p j (f (at_ w vs 0) (at_ w vs 1) (4096 / w) j) }

/-- The permutations that write one register (spec/09 R178, R179, R181). -/
def vpermRow : Instr → Option VecRow
  | .vperm o => some (rowPerm o fun a b n j =>
      let i := b j + o.imm.toNat % 1024
      if i < n then a i else 0)
  | .vslideup o => some (rowPerm o fun a b n j =>
      let c := o.imm.toNat % 2048
      if c ≤ j then a (j - c) else b (n - c + j))
  | .vslidedn o => some (rowPerm o fun a b n j =>
      let c := o.imm.toNat % 2048
      if j + c < n then a (j + c) else b (j + c - n))
  | .vbcast o => some
      { o := o, srcs := [o.va], sa := 0, w := tyWidth o.ty
        f := fun vs old _ p j => masked (tyWidth o.ty) old p j (at_ (tyWidth o.ty) vs 0 (o.imm.toNat % 1024)) }
  | _ => none

/-- A legal instruction that writes one register or pushes one entry completes with the values of its row: when
it is handed to an empty C stream with its sources at hand and room in its destination, the destination takes a
register whose element j is the row's, and nothing else changes but what taking the sources and the tokens
does. -/
def vecCompletes (s : State) (i : Instr) (r : VecRow) : Prop :=
  ∀ vs x, checkInstr i = none → streamFree s .c r.o.tok [r.sa] →
    let e := capture .c i r.sa 0 0 s.me
    takeSrcs e r.srcs (handed s) = .ok vs x → dstRoom r.o.vd x = true →
    ∃ t R, exec i s = .next t ∧ ranC s t r.o.tok (putDst e r.o.vd R x) ∧
      ∀ j, j < 4096 / r.w →
        elem r.w j R = r.f vs (dstOld e r.o.vd x) e.a ((govern e r.o.pred x).getLsbD j) j

/-! ## Groups of registers -/

/-- What an instruction does that writes a group of registers: its operands, its sources, the element width of
the group, its length k, and the value of lane q of register r from the sources, the old register and the
context. -/
structure GroupRow where
  o : VX
  srcs : List (BitVec 6)
  w : Nat
  k : Nat
  f : List VReg → (Nat → VReg) → VReg → (Nat → Bool) → Nat → Nat → Nat

/-- Lane q of register r of a widening: source element j = k q + r where its predicate bit is set, the old lane
elsewhere (spec/08 R149). -/
def widened (w k : Nat) (old : VReg) (p : Nat → Bool) (r q x : Nat) : Nat :=
  if p (k * q + r) then x else elem w q old

/-- The instructions that write groups of registers but set no flag (spec/08 R157, spec/09 R180). -/
def groupRow : Instr → Option GroupRow
  | .vmulW o =>
      let w := tyWidth o.ty
      some { o := o, srcs := [o.va, o.vb], w := 32, k := 32 / w
             f := fun vs _ old p r q => widened 32 (32 / w) old p r q
               (let j := 32 / w * q + r
                wrapN 32 (tyVal o.ty (at_ w vs 0 j) * tyVal o.ty (at_ w vs 1 j))) }
  | .vmlaW o =>
      let w := tyWidth o.ty
      some { o := o, srcs := [o.va, o.vb], w := 32, k := 32 / w
             f := fun vs _ old p r q => widened 32 (32 / w) old p r q
               (let j := 32 / w * q + r
                let t := if tySigned o.ty then sextI 32 (elem 32 q old) else (elem 32 q old : Int)
                let y := t + tyVal o.ty (at_ w vs 0 j) * tyVal o.ty (at_ w vs 1 j)
                if o.imm.getLsbD 12 then satN (tySigned o.ty) 32 y else wrapN 32 y) }
  | .vzip o =>
      let w := tyWidth o.ty
      some { o := o, srcs := [o.va, o.vb], w := w, k := 2
             f := fun vs _ _ _ r q =>
               let i := r * (4096 / w) + q
               if i % 2 = 0 then at_ w vs 0 (i / 2) else at_ w vs 1 (i / 2) }
  | .vunzip o =>
      let w := tyWidth o.ty
      some { o := o, srcs := [], w := w, k := 2
             f := fun _ g _ _ r q =>
               let i := 2 * q + r
               if i < 4096 / w then elem w i (g 0) else elem w (i - 4096 / w) (g 1) }
  | _ => none

/-- A legal instruction that writes a group completes with the values of its row. -/
def groupCompletes (s : State) (i : Instr) (r : GroupRow) : Prop :=
  ∀ vs x, checkInstr i = none → streamFree s .c r.o.tok [] →
    let e := capture .c i 0 0 0 s.me
    takeSrcs e r.srcs (handed s) = .ok vs x →
    ∃ t R, exec i s = .next t ∧ ranC s t r.o.tok (writeGroup e r.o.vd R r.k x) ∧
      ∀ n q, n < r.k → q < 4096 / r.w →
        elem r.w q (R n) =
          r.f vs (readGroup e r.o.va x) (oldGroup e r.o.vd x n)
            (fun j => (govern e r.o.pred x).getLsbD j) n q

/-! ## Predicates -/

/-- What an instruction does that writes a predicate: its operands, its sources, its element count, and bit j
from the sources, the predicates that va and vb name, the governing predicate and the mode. -/
structure PredRow where
  o : VX
  srcs : List (BitVec 6)
  n : Nat
  f : List VReg → (Nat → Bool) → (Nat → Bool) → (Nat → Bool) → Nat → Bool

/-- The element count of VPRED: 1,024 for .b (spec/08 R161). -/
def predLen (o : VX) : Nat := if o.ty = .b then 1024 else 4096 / tyWidth o.ty

/-- A VPRED row: bit j is a function of the bits of P, pa and pb. -/
def rowPred (o : VX) (f : Bool → Bool → Bool) : PredRow :=
  { o := o, srcs := [], n := predLen o, f := fun _ p a b j => p j && f (a j) (b j) }

/-- The comparison of two integers by a condition code (spec/08 R159). -/
def holdsI (c : Nat) (a b : Int) : Bool :=
  match c with
  | 0 => decide (a = b)
  | 1 => decide (a ≠ b)
  | 2 => decide (a < b)
  | 3 => decide (a ≤ b)
  | 4 => decide (b < a)
  | _ => decide (b ≤ a)

/-- The instructions that write a predicate (spec/08 R159, R161; spec/09 R173). -/
def predRow : Instr → Option PredRow
  | .vcmp o => some
      { o := o, srcs := [o.va, o.vb], n := 4096 / tyWidth o.ty
        f := fun vs p _ _ j => p j &&
          holdsI (o.imm.toNat % 8) (tyVal o.ty (at_ (tyWidth o.ty) vs 0 j)) (tyVal o.ty (at_ (tyWidth o.ty) vs 1 j)) }
  | .vfcmp o => some
      { o := o, srcs := [o.va, o.vb], n := 4096 / tyWidth o.ty
        f := fun vs p _ _ j => p j &&
          fcond (o.imm.toNat % 8) (fvalIn o.ty (at_ (tyWidth o.ty) vs 0 j)) (fvalIn o.ty (at_ (tyWidth o.ty) vs 1 j)) }
  | .pand o => some (rowPred o fun a b => a && b)
  | .por o => some (rowPred o fun a b => a || b)
  | .pxor o => some (rowPred o fun a b => xor a b)
  | .pandn o => some (rowPred o fun a b => a && !b)
  | .pnot o => some (rowPred o fun a _ => !a)
  | .pmov o => some (rowPred o fun a _ => a)
  | .pfirst o => some
      { o := o, srcs := [], n := predLen o
        f := fun _ p a _ j => p j && a j && (List.range j).all fun i => !(p i && a i) }
  | _ => none

/-- A legal instruction that writes a predicate completes: every bit of pd is written, bit j by its row below the
element count and 0 above. -/
def predCompletes (s : State) (i : Instr) (r : PredRow) : Prop :=
  ∀ vs x, checkInstr i = none → streamFree s .c r.o.tok [] →
    let e := capture .c i 0 0 0 s.me
    takeSrcs e r.srcs (handed s) = .ok vs x →
    ∃ t R, exec i s = .next t ∧ ranC s t r.o.tok (putPred e r.o.vd R x) ∧
      ∀ j, j < 1024 → R.getLsbD j = (decide (j < r.n) &&
        r.f vs (fun j => (govern e r.o.pred x).getLsbD j) (fun j => (predOf e r.o.va x).getLsbD j)
          (fun j => (predOf e r.o.vb x).getLsbD j) j)

/-! ## Floating results -/

/-- What a floating instruction does that writes one register: its operands, its sources, its element width, and
the value and the flags of an active element in a rounding mode. -/
structure FloatRow where
  o : VX
  srcs : List (BitVec 6)
  f : Rm → Nat → Nat → Nat → Nat × FFlags

/-- An exact value, or one of the special results, delivered in the type: rounded once, with overflow by
spec/07 R136 and subnormal results by R137. -/
def rounded (o : VX) (rm : Rm) (v : FVal × FFlags) : Nat × FFlags :=
  deliver o.ty rm (o.imm.getLsbD 12) v.1 v.2

/-- The floating instructions (spec/09 R170 to R172, R174, R175). -/
def floatRow : Instr → Option FloatRow
  | .vfadd o => some ⟨o, [o.va, o.vb], fun rm a b _ => rounded o rm (sumVals rm [fvalIn o.ty a, fvalIn o.ty b])⟩
  | .vfsub o => some ⟨o, [o.va, o.vb], fun rm a b _ =>
      rounded o rm (sumVals rm [fvalIn o.ty a, (fvalIn o.ty b).negate])⟩
  | .vfmul o => some ⟨o, [o.va, o.vb], fun rm a b _ => rounded o rm (mulVals (fvalIn o.ty a) (fvalIn o.ty b))⟩
  | .vfma o => some ⟨o, [o.va, o.vb, o.vc], fun rm a b c =>
      rounded o rm (fmaVals rm (fvalIn o.ty a) (fvalIn o.ty b) (fvalIn o.ty c))⟩
  | .vfnma o => some ⟨o, [o.va, o.vb, o.vc], fun rm a b c =>
      rounded o rm (fmaVals rm (fvalIn o.ty a).negate (fvalIn o.ty b) (fvalIn o.ty c))⟩
  | .vfmin o => some ⟨o, [o.va, o.vb], fun _ a b _ =>
      let x := fvalIn o.ty a
      let y := fvalIn o.ty b
      (if x.isNan || y.isNan then nanOf o.ty else exactCode o.ty (if lessZ y x then y else x), .none)⟩
  | .vfmax o => some ⟨o, [o.va, o.vb], fun _ a b _ =>
      let x := fvalIn o.ty a
      let y := fvalIn o.ty b
      (if x.isNan || y.isNan then nanOf o.ty else exactCode o.ty (if lessZ x y then y else x), .none)⟩
  | .vfabs o => some ⟨o, [o.va], fun _ a _ _ =>
      (match fvalIn o.ty a with
       | .nan => nanOf o.ty
       | .inf _ => infOf o.ty false
       | .fin _ m e => exactCode o.ty (.fin false m e), .none)⟩
  | .vfneg o => some ⟨o, [o.va], fun _ a _ _ =>
      (match fvalIn o.ty a with
       | .nan => nanOf o.ty
       | v => exactCode o.ty v.negate, .none)⟩
  | .vfclass o => some ⟨o, [o.va], fun _ a _ _ => (classCode o.ty a, .none)⟩
  | .vfrcp o => some ⟨o, [o.va], fun rm a _ _ => specialCode .rcp o.ty rm a⟩
  | .vfrsq o => some ⟨o, [o.va], fun rm a _ _ => specialCode .rsq o.ty rm a⟩
  | .vfsqrt o => some ⟨o, [o.va], fun rm a _ _ => sqrtCode o.ty rm a⟩
  | .vfexp2 o => some ⟨o, [o.va], fun rm a _ _ => specialCode .exp2 o.ty rm a⟩
  | .vflog2 o => some ⟨o, [o.va], fun rm a _ _ => specialCode .log2 o.ty rm a⟩
  | .vftanh o => some ⟨o, [o.va], fun rm a _ _ => specialCode .tanh o.ty rm a⟩
  | .vfsig o => some ⟨o, [o.va], fun rm a _ _ => specialCode .sig o.ty rm a⟩
  | .vcvt o => some ⟨o, [o.va], fun rm a _ _ => convertOf o.ty (tyOfCode (o.imm.extractLsb' 0 4)) rm o a⟩
  | _ => none
where
  /-- One element of a conversion (spec/09 R175). -/
  convertOf (td ts : Ty) (rm : Rm) (o : VX) (a : Nat) : Nat × FFlags :=
    if tyInt td && tyInt ts then
      (if o.imm.getLsbD 12 then satN (tySigned td) (tyWidth td) (tyVal ts a) else wrapN (tyWidth td) (tyVal ts a), .none)
    else convertTo td rm (o.imm.getLsbD 12) (fvalOf ts a)

/-- The rounding mode of a context, FPC[1:0] (spec/07 R133). -/
def modeOf (x : Ctx) : Rm := rmOf (x.fpc.toNat % 4)

/-- A flag is among the flags of FPC that a list of results raises (spec/07 R133): FPC[6] nv, [5] dz, [4] of, [3]
uf, [2] nx. -/
def raisedBits (l : List FFlags) : Nat :=
  (l.any (·.nv)).toNat * 64 + (l.any (·.dz)).toNat * 32 + (l.any (·.ovf)).toNat * 16 +
    (l.any (·.unf)).toNat * 8 + (l.any (·.nx)).toNat * 4

/-- The flags of the elements below n that a predicate governs, as bits of FPC. -/
def raisedBy (n : Nat) (p : PReg) (f : Nat → Nat × FFlags) : Nat :=
  raisedBits (((List.range n).filter fun j => p.getLsbD j).map fun j => (f j).2)

/-- A context but for FPC has come from another, and FPC keeps every flag that it held or that is raised; what a
discard would restore FPC from is kept with the open regions (spec/07 R133, R134, spec/13 R256). -/
def flagged (y x : Ctx) (bits : Nat) : Prop :=
  y.fpc.toNat = (x.fpc.toNat ||| bits) ∧
    y = { x with fpc := y.fpc, older := y.older, reg := y.reg } ∧
    y.reg = { x.reg with cIn := y.reg.cIn } ∧
    (y.older.map fun r => { r with cIn := none }) = (x.older.map fun r => { r with cIn := none })

/-- A legal floating instruction completes: the active elements take the rounded values of its row in the mode
of FPC, and FPC keeps every flag that it held or that an active element raises. -/
def floatCompletes (s : State) (i : Instr) (r : FloatRow) : Prop :=
  ∀ vs x, checkInstr i = none → streamFree s .c r.o.tok [] →
    let e := capture .c i 0 0 0 s.me
    takeSrcs e r.srcs (handed s) = .ok vs x → dstRoom r.o.vd x = true →
    let w := tyWidth r.o.ty
    let p := govern e r.o.pred x
    let f := fun j => r.f (modeOf x) (at_ w vs 0 j) (at_ w vs 1 j) (at_ w vs 2 j)
    ∃ t R y, exec i s = .next t ∧ ranC s t r.o.tok y ∧
      flagged y (putDst e r.o.vd R x) (raisedBy (4096 / w) p f) ∧
      ∀ j, j < 4096 / w → elem w j R = masked w (dstOld e r.o.vd x) (p.getLsbD j) j ((f j).1 % 2 ^ w)

/-- One element of `vcvt`, `vnarrow` or `vwiden`, from its source field (spec/09 R175, R176). -/
def converted (o : VX) (rm : Rm) (a : Nat) : Nat × FFlags :=
  floatRow.convertOf o.ty (tyOfCode (o.imm.extractLsb' 0 4)) rm o a

/-- The source width of a conversion. -/
def fromWidth (o : VX) : Nat := tyWidth (tyOfCode (o.imm.extractLsb' 0 4))

/-- `vnarrow`: element j of vd converts lane j / k of register va + j mod k (spec/09 R176). -/
def narrowCompletes (s : State) (o : VX) : Prop :=
  checkInstr (.vnarrow o) = none → streamFree s .c o.tok [] → dstRoom o.vd s.me = true →
    let e := capture .c (.vnarrow o) 0 0 0 s.me
    let x := handed s
    let w := tyWidth o.ty
    let k := fromWidth o / w
    let p := govern e o.pred x
    let f := fun j => converted o (modeOf x) (elem (fromWidth o) (j / k) (readGroup e o.va x (j % k)))
    ∃ t R y, exec (.vnarrow o) s = .next t ∧ ranC s t o.tok y ∧
      flagged y (putDst e o.vd R x) (raisedBy (4096 / w) p f) ∧
      ∀ j, j < 4096 / w → elem w j R = masked w (dstOld e o.vd x) (p.getLsbD j) j ((f j).1 % 2 ^ w)

/-- `vwiden`: element j of va goes to lane j / k of register vd + j mod k (spec/08 R149, spec/09 R176). -/
def widenCompletes (s : State) (o : VX) : Prop :=
  ∀ vs x, checkInstr (.vwiden o) = none → streamFree s .c o.tok [] →
    let e := capture .c (.vwiden o) 0 0 0 s.me
    takeSrcs e [o.va] (handed s) = .ok vs x →
    let w := tyWidth o.ty
    let k := w / fromWidth o
    let p := govern e o.pred x
    let f := fun j => converted o (modeOf x) (at_ (fromWidth o) vs 0 j)
    ∃ t R y, exec (.vwiden o) s = .next t ∧ ranC s t o.tok y ∧
      flagged y (writeGroup e o.vd R k x) (raisedBy (4096 / fromWidth o) p f) ∧
      ∀ n q, n < k → q < 4096 / w →
        elem w q (R n) = widened w k (oldGroup e o.vd x n) (fun j => p.getLsbD j) n q ((f (k * q + n)).1 % 2 ^ w)

/-- `vrqs`: element j of vd is requantised from lane j / k of registers j mod k of its three groups (spec/09
R177); where k is 1 its sources may be queue entries. -/
def requantCompletes (s : State) (o : VX) : Prop :=
  ∀ vs x, checkInstr (.vrqs o) = none → streamFree s .c o.tok [] →
    let e := capture .c (.vrqs o) 0 0 0 s.me
    let w := tyWidth o.ty
    let k := 32 / w
    takeSrcs e (if k = 1 then [o.va, o.vb, o.vc] else []) (handed s) = .ok vs x → dstRoom o.vd x = true →
    let lane := fun i code j =>
      elem 32 (j / k) (if k = 1 then vs[i]?.getD 0 else readGroup e code x (j % k))
    let f := fun j =>
      let c := lane 2 o.vc j
      satN (tySigned o.ty) w
        (rshrUp (sextI 32 (lane 0 o.va j) * sextI 32 (lane 1 o.vb j)) (31 + c % 32) + sextI 16 (c / 2 ^ 16))
    ∃ t R, exec (.vrqs o) s = .next t ∧ ranC s t o.tok (putDst e o.vd R x) ∧
      ∀ j, j < 4096 / w →
        elem w j R = masked w (dstOld e o.vd x) ((govern e o.pred x).getLsbD j) j (f j)

/-! ## Reductions (spec/09 R182, R183) -/

/-- What a reduction does: its operands, the width of its result, and the result from the mode, the active
elements of va in ascending order and element 0 of vb. -/
structure RedRow where
  o : VX
  w : Nat
  f : Rm → List Nat → VReg → Nat × FFlags

/-- The reductions. -/
def redRow : Instr → Option RedRow
  | .vredsum o => some ⟨o, 32, fun rm l b =>
      if tyInt o.ty then
        let n := (if tySigned o.ty then sextI 32 (elem 32 0 b) else (elem 32 0 b : Int)) + (l.map (tyVal o.ty)).sum
        (if o.imm.getLsbD 12 then satN (tySigned o.ty) 32 n else wrapN 32 n, .none)
      else
        let v := sumVals rm (fvalOf .f32 (elem 32 0 b) :: l.map (fvalIn o.ty))
        deliver .f32 rm (o.imm.getLsbD 12) v.1 v.2⟩
  | .vredmax o => some ⟨o, tyWidth o.ty, fun _ l b => (l.foldl (pickElem o.ty true)
      (if tyInt o.ty then elem (tyWidth o.ty) 0 b else exactCode o.ty (fvalIn o.ty (elem (tyWidth o.ty) 0 b))), .none)⟩
  | .vredmin o => some ⟨o, tyWidth o.ty, fun _ l b => (l.foldl (pickElem o.ty false)
      (if tyInt o.ty then elem (tyWidth o.ty) 0 b else exactCode o.ty (fvalIn o.ty (elem (tyWidth o.ty) 0 b))), .none)⟩
  | _ => none

/-- A legal reduction completes: its result in element 0 of vd, and 0 in every other element. -/
def redCompletes (s : State) (i : Instr) (r : RedRow) : Prop :=
  ∀ vs x, checkInstr i = none → streamFree s .c r.o.tok [] →
    let e := capture .c i 0 0 0 s.me
    takeSrcs e [r.o.va, r.o.vb] (handed s) = .ok vs x → dstRoom r.o.vd x = true →
    let w := tyWidth r.o.ty
    let l := ((List.range (4096 / w)).filter fun j => (govern e r.o.pred x).getLsbD j).map fun j => at_ w vs 0 j
    let v := r.f (modeOf x) l (vs[1]?.getD 0)
    ∃ t y, exec i s = .next t ∧ ranC s t r.o.tok y ∧
      flagged y (putDst e r.o.vd (BitVec.ofNat 4096 (v.1 % 2 ^ r.w)) x) (raisedBits [v.2])

/-- `vscan` completes: over an integer type an active element takes the sum of element 0 of vb and of the active
elements up to it; over f32 the register and the flags are those of the exact prefix sums, each rounded once. -/
def scanCompletes (s : State) (o : VX) : Prop :=
  ∀ vs x, checkInstr (.vscan o) = none → streamFree s .c o.tok [] →
    let e := capture .c (.vscan o) 0 0 0 s.me
    takeSrcs e [o.va, o.vb] (handed s) = .ok vs x → dstRoom o.vd x = true →
    let w := tyWidth o.ty
    let p := govern e o.pred x
    let old := dstOld e o.vd x
    let r := scanReg .f32 (modeOf x) (o.imm.getLsbD 12) p (vs[0]?.getD 0) (vs[1]?.getD 0) old
    ∃ t R y, exec (.vscan o) s = .next t ∧ ranC s t o.tok y ∧
      flagged y (putDst e o.vd R x) (if o.ty = .f32 then raisedBits [r.2] else 0) ∧
      (if o.ty = .f32 then R = r.1
       else ∀ j, j < 4096 / w → elem w j R = masked w old (p.getLsbD j) j
         (wrs o (tyVal o.ty (at_ w vs 1 0) +
           (((List.range (j + 1)).filter fun i => p.getLsbD i).map fun i => tyVal o.ty (at_ w vs 0 i)).sum)))

/-! ## Flags -/

/-- The result of `ptest` over n elements (spec/08 R162). -/
def testOf (n : Nat) (p a : PReg) : Flag :=
  let act := (List.range n).filter fun j => p.getLsbD j
  let c := act.countP fun j => a.getLsbD j
  { any := decide (0 < c), all := decide (c = act.length), none := decide (c = 0), count := c }

/-- `ptest` completes: its result waits for the front with its flag register and its place. -/
def testCompletes (s : State) (o : VX) : Prop :=
  checkInstr (.ptest o) = none → streamFree s .c o.tok [] →
    let e := capture .c (.ptest o) 0 0 0 s.me
    let x := handed s
    let v := testOf (predLen o) (govern e o.pred x) (predOf e o.va x)
    ∃ t, exec (.ptest o) s = .next t ∧
      ranC s t o.tok { x with
        ptests := x.ptests ++ [{ pos := s.me.pos, epoch := s.me.reg.epoch, f := Fin.ofNat 4 o.vd.toNat, val := v }] }

/-! ## The matrix engine (spec/10) -/

/-- The instruction is legal at the level of the context (spec/02 R37, spec/10 R196). -/
def legalHere (s : State) (i : Instr) : Prop := checkInstr i = none ∧ levelCheck s.me.id.sys i = none

/-- The context may begin a MAT instruction: its bank holds the lease, or nobody does (spec/10 R194). -/
def leaseOpen (s : State) : Prop :=
  (s.core (coreOf s.cur)).lease = none ∨ (s.core (coreOf s.cur)).lease = some (bankOf s.cur)

/-- A write of a tile by the open region finds its slot: the region has written the tile before, or a slot is free
(spec/10 R190, R192). -/
def slotReady (s : State) (z : Nat) : Prop :=
  (∀ i, slotOf s.me z = some i → i < 16) ∧
    if hasSlot s.me s.me.reg.epoch z then (slotOf s.me z).isSome else ∃ n : Fin 16, (s.core (coreOf s.cur)).slots[n.val] = none

/-- A MAT instruction that writes a tile has completed: the tile holds a slot with its new values, every other
slot is as before, and the rest of the part is too but for the lease and its count, the map of the tile, and what y
says of the acting context. -/
def tileWritten (s t : State) (tok : Tok) (z : Nat) (new : Tile) (y : Ctx) : Prop :=
  let k := coreOf s.cur
  (∃ n : Fin 16, slotOf t.me z = some n.val ∧ (t.core k).slots[n.val] = some new ∧
    ∀ m : Fin 16, m ≠ n → (t.core k).slots[m.val] = (s.core k).slots[m.val]) ∧
  t.me = tokensDone s .c tok y ∧
  t = { s with ctxs := s.ctxs.set s.cur.val t.me, cores := s.cores.set k.val (t.core k) } ∧
  t.core k = { s.core k with
    slots := (t.core k).slots, lease := (t.core k).lease, used := (t.core k).used, checks := (t.core k).checks }

/-- A context but for the map entry of a tile and what its region notes of it has come from another. -/
def mappedFrom (y x : Ctx) : Prop :=
  y = { x with
    mat := { x.mat with map := y.mat.map, trapMap := y.mat.trapMap }, reg := y.reg, older := y.older } ∧
  y.reg = { x.reg with tiles := y.reg.tiles } ∧
  (y.older.map fun r => { r with tiles := [] }) = (x.older.map fun r => { r with tiles := [] })

/-- Tile new is tile old with the rows from `first` on, n of them, written from registers and their marks cleared
(spec/10 R201). -/
def rowsWritten (new old : Tile) (first n : Nat) (src : Nat → VReg) : Prop :=
  new.rsum = old.rsum ∧ ∀ i : Fin 64,
    if first ≤ i.val ∧ i.val < first + n then
      new.rows[i.val] = src (i.val - first) ∧ new.marks[i.val] = 0
    else new.rows[i.val] = old.rows[i.val] ∧ new.marks[i.val] = old.marks[i.val]

/-- The value of element [i][n] after the first g groups of an `mma` (spec/10 R199): they are added in ascending
order to the old value, or to 0 where acc = 0. -/
def mmaValue (o : MX) (a : QaEntry) (b : QbEntry) (old : Tile) (g i n : Nat) : Nat :=
  (List.range g).foldl (fun c g => groupElemNew o a b g i n c)
    (if o.flags.getLsbD 2 then elem 32 n (old.row i) else 0)

/-- The row sum that rs adds to entry i of the sidecar (spec/10 R199). -/
def mmaRowSum (o : MX) (a : QaEntry) (i : Nat) : Int :=
  ((List.range (groupCount o)).map fun g => groupRowSum o a g i).sum

/-- The tile after an `mma` (spec/10 R199): the elements with i < M and n < N, and their marks, which a clamp of
any group sets; the row sums; everything else unchanged. -/
def mmaWritten (o : MX) (a : QaEntry) (b : QbEntry) (old new : Tile) : Prop :=
  (∀ i n, i < 64 → n < 128 → elem 32 n (new.row i) =
    if i < shapeM o ∧ n < shapeN o then mmaValue o a b old (groupCount o) i n else elem 32 n (old.row i)) ∧
  (∀ i n, i < 64 → n < 128 → (new.mark i).getLsbD n =
    if i < shapeM o ∧ n < shapeN o then
      (o.flags.getLsbD 2 && (old.mark i).getLsbD n) ||
        (List.range (groupCount o)).any fun g => groupClamps o a b g i n (mmaValue o a b old g i n)
    else (old.mark i).getLsbD n) ∧
  (∀ i, i < 64 → new.side i =
    if i < shapeM o then
      let from_ := if o.flags.getLsbD 2 then sextI 32 (old.side i) else 0
      wrapN 32 (from_ + if o.flags.getLsbD 1 then mmaRowSum o a i else 0)
    else old.side i)

/-- The number of the registers that `mdrain` writes (spec/10 R203). -/
def drainCount (o : MX) : Nat := if o.flags.getLsbD 4 then (matRows o * 128 * tyWidth o.aty + 4095) / 4096 else matRows o

/-- What `mdrain` writes to register r (spec/10 R203): a row, or its requantised elements in order. -/
def drained (o : MX) (t : Tile) (m c : VReg) (r : Nat) (v : VReg) : Prop :=
  if o.flags.getLsbD 4 then
    let w := tyWidth o.aty
    ∀ j, j < 4096 / w → elem w j v =
      (let e := r * (4096 / w) + j
       if e / 128 < matRows o then
         let x := sextI 32 (elem 32 (e % 128) (t.row (matFirst o + e / 128)))
         let k := elem 32 (e % 128) c
         satN (tySigned o.aty) w (rshrUp (x * sextI 32 (elem 32 (e % 128) m)) (31 + k % 32) + sextI 16 (k / 2 ^ 16))
       else 0)
  else v = t.row (matFirst o + r)

/-- A group of n registers written, or one entry pushed (spec/10 R198). -/
def groupPut (e : QEntry) (code : BitVec 6) (n : Nat) (f : Nat → VReg) (x : Ctx) : Ctx :=
  if n = 1 then putDst e code (f 0) x else writeGroup e code f n x

end Sys2Proof.Machine
end

