-- ==== Sys2Proof/ClaimsMemory.lean ====
section
/-! DEFINITION. The L and S streams and the engine queues in the terms of the statements (spec/03 to spec/06,
spec/11, spec/14). -/

namespace Sys2Proof.Machine

/-! ## Common -/

/-- The state in which an instruction that the front has just handed to an empty stream takes effect. -/
def began (s : State) : State := s.setCtx s.cur (handed s)

/-- The lines of a list of keys. -/
def linesOfKeys (keys : List Nat) : List Nat := keys.map fun k => k - k % 64

/-- The cores but for the accesses at their banks and the banks' pointers (spec/05 R89). -/
def coresSame (u t : State) : Prop := ∀ k, t.core k = { u.core k with
  now := (t.core k).now, taken := (t.core k).taken, served := (t.core k).served, bankPtr := (t.core k).bankPtr }

/-- The banks of its own slice have granted the line accesses of a request of a context at a port, or grant them in the
aclk under way (spec/05 R87 to R89): none of the request is presented still, and those not yet granted are in banks of
their own, of which each has nothing else presented and grants nothing in this aclk but reads of the same row. The
request is that of the instruction at a place in program order, and `keys` lie in its lines. -/
def banksGrant (s : State) (c : CtxId) (port : Fin 8) (acc : BankAcc) (pos : Nat) (keys : List Nat) : Prop :=
  let k := s.core (coreOf c)
  let mine := fun (u : BankUse) => u.by_ = some c ∧ u.port = port ∧ u.req = some pos
  let own := fun l => ∃ a ∈ keys, isSlice a = true ∧ sliceCore l = (coreOf c).val ∧ l = a - a % 64
  let left := fun l => own l ∧ ∀ u ∈ k.served, mine u → u.line ≠ l
  (∀ l, own l → ∀ u ∈ k.now, ¬ mine u) ∧ (∀ l m, left l → left m → bankOfKey l = bankOfKey m → l = m) ∧
    ∀ l, left l → (∀ u ∈ k.now, bankOfKey u.line ≠ bankOfKey l) ∧
      ∀ u ∈ k.taken, bankOfKey u.line = bankOfKey l → u.acc = .read ∧ acc = .read ∧ u.line = l

/-- What an access that reads leaves (spec/05 R89, spec/15 R301): when one of the context's own posted writes concerns a
line that it reads, all of them land first; accesses come before the banks. Everything else but the context's own state
is as the translation left it, u; y is the context that it leaves. -/
def readDone (s u t : State) (lines : List Nat) (y : Ctx) : Prop :=
  let c := s.cur
  let x := u.ctx c
  let own := x.sync.posted.any fun p => lines.contains p.w.line
  y = { x with sync := { x.sync with posted := if own then [] else x.sync.posted } } ∧
  t.mem = (if own then x.sync.posted.foldl (fun m p => memLine m p.w) u.mem else u.mem) ∧
  t = { u with mem := t.mem, ctxs := u.ctxs.set c.val (t.ctx c), cores := t.cores } ∧ coresSame u t

/-! ## Token counters (spec/06 R114) -/

/-- The stream of `kwait` (false) and `ksig` (true), and their operands. -/
def tokenRow : Instr → Option (Stream × Bool × SY)
  | .kwaitL o => some (.l, false, o)
  | .ksigL o => some (.l, true, o)
  | .kwaitC o => some (.c, false, o)
  | .ksigC o => some (.c, true, o)
  | .kwaitS o => some (.s, false, o)
  | .ksigS o => some (.s, true, o)
  | _ => none

/-! ## Loads (spec/06 R120 to R126) -/

/-- The loads whose elements have addresses of their own, and the address of element j (spec/06 R120). -/
def elementLoad : Instr → Option (MM × (QEntry → Ctx → Nat → Int))
  | .ldVs o => some (o, fun e _ j => e.a.toInt + o.off.toInt + j * e.b.toInt)
  | .ldVx o => some (o, fun e x j =>
      let k := 32 / tyWidth o.ty
      e.a.toInt + o.off.toInt + sextI 32 (elem 32 (j / k) (readGroup e o.vi x (j % k))))
  | .ldBc o => some (o, fun e _ _ => e.a.toInt + o.off.toInt)
  | _ => none

/-- The active elements of an instruction in ascending order (spec/06 R120). -/
def activeLanes (t : Ty) (p : PReg) : List Nat := (List.range (4096 / tyWidth t)).filter fun j => p.getLsbD j

/-- The bytes of an element in memory. -/
def bytesOf (t : Ty) : Nat := if tyWidth t = 4 then 1 else tyWidth t / 8

/-- The key of an element in a list of checked accesses. -/
def keyOf (ks : List (Nat × Nat)) (j : Nat) : Nat := (ks.lookup j).getD 0

/-- What memory holds for element j of a type at a key: a 4-bit element lies in the low half of its byte when j is
even and in the high half when j is odd (spec/02 R36). -/
def elementAt (m : List Host.Cell) (w k j : Nat) : Nat :=
  if w = 4 then (memRead m k).toNat / 16 ^ (j % 2) % 16 else memNat m k (w / 8)

/-- The base and the stride of a strided access are multiples of the element size (spec/06 R121, spec/11 R219). -/
def strideOk (o : MM) (e : QEntry) : Prop :=
  (e.a.toInt + o.off.toInt) % (bytesOf o.ty) = 0 ∧ e.b.toInt % (bytesOf o.ty) = 0

/-- A latch queue takes an entry at once: no earlier pusher of it is outstanding and a slot is free (spec/06
R109). -/
def slotFree (s : State) (b : Bool) : Prop :=
  parkedSame s.me b s.me.pos = false ∧ pusherBefore s s.cur b s.me.pos = false ∧ latchRoom s.me b = true

/-- Byte b of row i of a latch entry at a pitch of bytes. -/
def latchByte (d : Nat) (pitch i b : Nat) : Byte := BitVec.ofNat 8 (d / 2 ^ (8 * (pitch * i + b)))

/-- The byte of row i that the rows read from memory give, if the row is read. -/
def rowByte (m : List Host.Cell) (l : List (Nat × List Part)) (i b : Nat) : Option Byte :=
  (l.lookup i).map fun ps => memRead m (partKey ps b)

/-- The address of row i of a latch load (spec/06 R122). -/
def rowAddr (o : MM) (e : QEntry) (i : Nat) : Word := word (e.a.toInt + o.off.toInt + i * e.b.toInt)

/-- The rows of a latch load that its predicate selects. -/
def rowsOf (o : MM) (e : QEntry) (x : Ctx) (n : Nat) : List (Nat × Word) :=
  ((List.range n).filter fun i => (govern e o.pred x).getLsbD i).map fun i => (i, rowAddr o e i)

/-- The base and the stride of a latch load are multiples of 64 (spec/06 R122, R126). -/
def rowsAligned (a : Int) (e : QEntry) : Prop := a % 64 = 0 ∧ e.b.toInt % 64 = 0

/-- The rows of `gat.a`: row i is read when its predicate bit is set and its index lies from 0 up to the limit, 0
meaning 65,536 (spec/06 R126). -/
def gatherRows (o : MM) (e : QEntry) (x : Ctx) : List (Nat × Word) :=
  (List.range 64).filterMap fun i =>
    let n := sextI 32 (elem 32 i (readGroup e o.vi x 0))
    if (govern e o.pred x).getLsbD i = true ∧ 0 ≤ n ∧ n < (if o.off.toNat = 0 then 65536 else o.off.toNat) then
      some (i, word (e.a.toInt + n * e.b.toInt))
    else none

/-- A qa entry holds rows: 64 bytes each, a mask bit clear where a byte was read, and everything else a structural
zero (spec/06 R115, R116); its scales and its region are those of the context (R117). -/
def qaHolds (a : QaEntry) (m : List Host.Cell) (l : List (Nat × List Part)) (x : Ctx) : Prop :=
  a.scales = x.stage.a ∧ a.epoch = x.reg.epoch ∧ ∀ i b, i < 64 → b < 64 →
    latchByte a.data.toNat 64 i b = (rowByte m l i b).getD 0 ∧
      a.mask.getLsbD (64 * i + b) = (rowByte m l i b).isNone

/-- A qb entry of k rows of w-bit elements holds rows (spec/06 R115, R116). -/
def qbHolds (q : QbEntry) (k w : Nat) (m : List Host.Cell) (l : List (Nat × List Part)) (x : Ctx) : Prop :=
  q.scales = x.stage.b ∧ q.epoch = x.reg.epoch ∧ q.k = k ∧ q.width = w ∧
    ∀ i b, i < k → b < 8192 / k →
      let v := if b < 16 * w then rowByte m l i b else none
      latchByte q.data.toNat (8192 / k) i b = v.getD 0 ∧ q.mask.getLsbD (8192 / k * i + b) = v.isNone

/-- The bytes of a scalar access: 8 for .b (spec/06 R124, spec/11 R216). -/
def scalarLen (t : Ty) : Nat := if t = .b then 8 else tyWidth t / 8

/-- The value of a scalar load: sign-extended for a signed type, else zero-extended (spec/06 R124). -/
def scalarOf (t : Ty) (n : Nat) : Word := if tySigned t then word (sextI (tyWidth t) n) else word n

/-! ## Stores (spec/11 R207 to R219) -/

/-- The stores whose elements have addresses of their own (spec/11 R218). -/
def elementStore : Instr → Option (MM × (QEntry → Ctx → Nat → Int))
  | .stVs o => some (o, fun e _ j => e.a.toInt + o.off.toInt + j * e.b.toInt)
  | .stVx o => some (o, fun e x j =>
      let k := 32 / tyWidth o.ty
      e.a.toInt + o.off.toInt + sextI 32 (elem 32 (j / k) (readGroup e o.vi x (j % k))))
  | _ => none

/-- What element j of a store writes: its address, its key and its value. -/
abbrev ElemOut : Type := Nat × Word × Nat

/-- The lines that the elements of a store write (spec/11 R218). -/
def storedLines (w : Nat) (v : VReg) (l : List ElemOut) : List (Word × LineWrite) := elemLines w v l

/-- A line write touches a byte. -/
def touchesByte (w : LineWrite) (a : Nat) : Bool :=
  decide (w.line ≤ a) && decide (a < w.line + 64) &&
    (w.mask.getLsbD (2 * (a - w.line)) || w.mask.getLsbD (2 * (a - w.line) + 1))

/-- The lines of a store that land in memory at once: those of the own slice, and what a request to other slices
has beyond 64 packets (spec/11 R207, R209). -/
def landing (c : CtxId) (ls : List (Word × LineWrite)) : List LineWrite :=
  (ownLines c ls ++ (farLines c ls).take ((farLines c ls).length - 64)).map (·.2)

/-- A store of lines finds everything free (spec/11 R207 to R213, spec/05 R89, R100): no reduction and no earlier store of
the context that is still to go out concerns the bytes, the banks of the own slice grant its lines, the posted table
has room, and so has the weir buffer. -/
def storeFree (u : State) (c : CtxId) (pos e : Nat) (ls : List (Word × LineWrite)) : Prop :=
  ((ownLines c ls ++ farLines c ls).any fun l => redHits (u.ctx c) l.2 || unsentHits (u.ctx c) l.2) = false ∧
    banksGrant u c (portS c) .write pos ((ownLines c ls).map (·.2.line)) ∧
    postRoom (u.ctx c) (farLines c ls).length = true ∧
    weirRoom u c e (newLines u c e (weirLines ls)) = .ok

/-- What a store of lines leaves (spec/11 R207 to R210): every byte of memory outside the lines that land is as
before, and those lines are applied; the lines for other slices are posted in order; the lines for main memory and
the host are in the weir buffer of the half, uncommitted; the region notes what it has sent; and everything else but the context's own state is as the
translation left it, u. y is the context that it leaves. -/
def storeDoneAt (s u t : State) (ls : List (Word × LineWrite)) (y : Ctx) : Prop :=
  let c := s.cur
  let x := u.ctx c
  let e := s.me.reg.epoch
  (∀ a, ((landing c ls).all fun w => !touchesByte w a) = true → memRead t.mem a = memRead u.mem a) ∧
  t.mem = (landing c ls).foldl memLine u.mem ∧
  y = { noteSent e ((ownLines c ls ++ farLines c ls).map (·.2)) x with
    sync := { x.sync with
      seq := x.sync.seq + 1
      posted := x.sync.posted ++ ((farLines c ls).drop ((farLines c ls).length - 64)).map fun l =>
        ⟨l.2, l.1, x.sync.seq + 1, e, ctxOp x⟩ } } ∧
  (t.half (halfOf c)).weir = ((weirLines ls).foldl
    (fun h l => weirPut { x with sync := { x.sync with seq := x.sync.seq + 1 } } c e false (runOf x e) l.1 l.2 h)
    (u.half (halfOf c))).weir ∧
  t = { u with
    mem := t.mem, ctxs := u.ctxs.set c.val (t.ctx c), cores := t.cores
    halves := u.halves.set (halfOf c).val (t.half (halfOf c)) } ∧
  coresSame u t ∧
  t.half (halfOf c) = { u.half (halfOf c) with weir := (t.half (halfOf c)).weir }

end Sys2Proof.Machine
end

