-- ==== Sys2Proof/ClaimsSync.lean ====
section
/-! DEFINITION. Streams, engine queues, synchronisation, atomics and tasks in the terms of the statements
(spec/02, spec/04 to spec/06, spec/14). -/

namespace Sys2Proof.Machine

/-! ## Handing over (spec/06 R104, R105) -/

/-- The scalar registers that the front captures with an instruction, in the order of its fields; s0 where it
captures none (spec/06 R105). -/
def captures : Instr → BitVec 5 × BitVec 5 × BitVec 5
  | .vdup o => (o.imm.setWidth 5, 0, 0)
  | .ldV o | .ldVs o | .ldVx o | .ldBc o | .ldQsc o | .lds o | .gatA o | .stV o | .stVs o | .stVx o => (o.sa, o.sb, 0)
  | .sts o => (o.sa, 0, o.v.setWidth 5)
  | .eset o | .efire o | .eclr o | .cbload o | .esetS o | .efireS o | .eclrS o | .cbloadS o => (o.sa, 0, 0)
  | .acq o | .ringfree o | .rel o | .ringwe o | .ringpub o | .vred o | .tpost o | .tjoin o => (o.sa, 0, 0)
  | .waitw o | .ringwf o | .tlwait o | .setw o | .tlsig o | .red o => (o.sa, o.sb, 0)
  | .grais o => (0, o.sb, 0)
  | _ => (0, 0, 0)

/-- The scalar register that an instruction writes from its stream and that the front waits for. -/
def laterWrites : Instr → BitVec 5
  | .mrd o => o.sd
  | .ringwe o | .tpost o | .grais o => o.sd
  | _ => 0

/-- The stream that an instruction is handed to (spec/02 R23); none for what the front executes and for what it hands
over at a commit point. -/
def handedTo : Instr → Option Stream
  | .csrw _ | .csrs _ | .csrc _ | .guardMax _ | .guardSsq _ | .amo _ => none
  | i => (headOf false i).map (·.1)

/-! ## Engine queues (spec/04 R75, R76) -/

/-- The engine instructions: their stream and their fields. -/
def engineRow : Instr → Option (Stream × E)
  | .eset o | .efire o | .eclr o | .cbload o => some (.l, o)
  | .esetS o | .efireS o | .eclrS o | .cbloadS o => some (.s, o)
  | _ => none

/-- A template is another with one field patched by a value (spec/04 R79): the field that fsel names for its kind is
replaced, or raised by the value, and wrapped to its width; every other bit stays. -/
def patchesTo (o : E) (v : Word) (old new : BitVec 1024) : Prop :=
  ∃ p, tmplField (tKind old) o.fsel.toNat = some p ∧
    (new.extractLsb' p.1 p.2).toNat =
      ((if o.mode = 1 then (old.extractLsb' p.1 p.2).toNat else 0) + v.toNat) % 2 ^ p.2 ∧
    ∀ i, i < 1024 → ¬ (p.1 ≤ i ∧ i < p.1 + p.2) → new.getLsbD i = old.getLsbD i

/-- What the counters of a context lose as a command starts (spec/04 R76): each by one for each time it is named. -/
def tokensStarted (o : E) (x y : Ctx) : Prop :=
  ∀ j : Fin 16, y.tok.k[j.val] = x.tok.k[j.val] - ((engNeeds o).filter fun n => n.toNat == j.val).length

/-- A latch entry of n rows holds the rows of a COPY at a pitch in bytes (spec/04 R70, R71): the bytes of each row at the
place of its index, and a structural zero where the row has no source and where there is no row. -/
def latchRowsHeld (data : Nat) (mask : Nat → Bool) (n pitch : Nat) (m : List Host.Cell) (a : ActiveCmd) : Prop :=
  let e := cpE a.tmpl
  ∀ i b, i < n → b < pitch →
    match a.rows.find? fun r => r.i1 == i with
    | some r => latchByte data pitch i b = (rowBytes m a r)[b]?.getD 0 ∧
        mask (pitch * i + b) = decide (¬ (r.lo * e ≤ b ∧ b < r.hi * e))
    | none => latchByte data pitch i b = 0 ∧ mask (pitch * i + b) = true

/-- A latch entry holds the bytes that entry n of a WINDOW reads (spec/04 R73). -/
def windowHeld (e : QaEntry) (s : State) (a : ActiveCmd) (n : Nat) : Prop :=
  ∀ i k, i < 64 → k < 64 →
    match windowAddr a.tmpl (n / wNk a.tmpl) (n % wNk a.tmpl) i k with
    | none => latchByte e.data.toNat 64 i k = 0 ∧ e.mask.getLsbD (64 * i + k) = true
    | some va => ∀ key, sliceByte s a.ctx va = .ok key →
        latchByte e.data.toNat 64 i k = memRead s.mem key ∧ e.mask.getLsbD (64 * i + k) = false

/-! ## Claims (spec/14 R281, R285, R286) -/

/-- What an acquire with a claim does at its record: when it is free for it, the word that it changes and the new
value, the value of its claim, and the scope of its acquire. -/
structure ClaimRow where
  st : Stream
  o : SY
  obj : ObjKind
  side : Side
  kind : ClaimKind
  free : State → ObjRec → Prop
  off : Nat
  new : CtxId → Word32 → ObjRec → Word
  val : ObjRec → Nat
  scope : Nat

/-- `acq`, `ringwf` and `ringwe` (spec/14 R285, R286). -/
def claimRow : Instr → Option ClaimRow
  | .acq o => some
      { st := .l, o := o, obj := .lock, side := .none, kind := .lock, free := fun u r => lockFree u r.w0 = true
        off := 0x18, new := fun c g _ => word (2 ^ 63 + c.val * 2 ^ 32 + g.toNat), val := fun _ => 0
        scope := scopeNat o.scope }
  | .ringwf o => some
      { st := .l, o := o, obj := .ring, side := .consumer, kind := .consume, free := fun _ r => r.w1 ≠ r.w2
        off := 0x28, new := fun _ _ r => r.w2 + 1, val := fun r => r.w2.toNat, scope := scopeNat o.scope }
  | .ringwe o => some
      { st := .s, o := o, obj := .ring, side := .producer, kind := .produce
        free := fun _ r => (r.w0 - r.w3).toNat < 2 ^ (r.hdr.toNat / 256 % 32)
        off := 0x18, new := fun _ _ r => r.w0 + 1, val := fun r => r.w0.toNat, scope := 4 }
  | _ => none

/-- The deposit address that an acquire uses: only `ringwf` has one (spec/14 R286). -/
def depositOf (i : Instr) (e : QEntry) (u : State) : Got (Option Nat) :=
  match i with
  | .ringwf o => depositKey o u.cur e u
  | _ => .ok none

/-- The clamp of TIME after an acquire of a record at a scope (spec/15 R308): the latest of the old one and the TIMEs
of the releases that it synchronises with. -/
def clampAfter (u : State) (c : CtxId) (key scope : Nat) : Word :=
  let ts := (u.stamps.filter fun t => t.key == key && synchronises t scope c).map fun t => t.time.toNat
  word (ts.foldl max (u.ctx c).cnt.clamp.toNat)

/-- Nobody waits at a key, and the stream of a context waits nowhere. -/
def nobodyWaits (u : State) (c : CtxId) (st : Stream) (key : Nat) : Prop :=
  u.waiters.all (fun w => w.key != key && !(w.ctx == c && w.stream == st)) = true

/-! ## Releases (spec/14 R278, R285 to R290) -/

/-- What a release leaves to take effect after retirement: the claim that it ends, the effect from its record, its
captured value and the value of the claim, whether it waits for every earlier write of its context or for those of
the record's range, and its scope. -/
structure ReleaseRow where
  st : Stream
  o : SY
  obj : ObjKind
  side : Side
  kind : Option ClaimKind
  eff : Ctx → State → Word → Nat → Nat → Deferred
  bound : Bool
  all : Bool
  scope : ObjRec → Nat

/-- The releases that name a record. -/
def releaseRow : Instr → Option ReleaseRow
  | .rel o => some
      { st := .s, o := o, obj := .lock, side := .none, kind := none, eff := fun x _ _ k _ => .rel k x.id.gen
        bound := true, all := false, scope := fun _ => scopeNat o.scope }
  | .ringpub o => some
      { st := .s, o := o, obj := .ring, side := .producer, kind := some .produce, eff := fun _ _ _ k v => .ringpub k v
        bound := true, all := false, scope := fun _ => scopeNat o.scope }
  | .ringfree o => some
      { st := .l, o := o, obj := .ring, side := .consumer, kind := some .consume
        eff := fun _ _ _ k v => .ringfree k v, bound := false, all := false, scope := fun _ => 4 }
  | .setw o =>
    if o.imm.getLsbD 23 then some
      { st := .s, o := o, obj := .arrival, side := .none, kind := none, eff := fun _ _ b k _ => .setw (k + 0x18) b
        bound := true, all := false, scope := fun _ => scopeNat o.scope }
    else none
  | .tlsig o => some
      { st := .s, o := o, obj := .timeline, side := .none, kind := none, eff := fun _ _ b k _ => .tlsig k b
        bound := false, all := true, scope := fun r => if r.w1.getLsbD 63 then 5 else scopeNat o.scope }
  | .tjoin o => some
      { st := .s, o := o, obj := .join, side := .none, kind := none
        eff := fun x u _ k _ => .tjoin k (opNumber x) (asidOf u x) x.id.fb
        bound := false, all := true, scope := fun _ => scopeNat o.scope }
  | _ => none

/-- The instructions that use a record: their stream, their fields, the kind of the record and their side of a
ring. -/
def recordRow : Instr → Option (Stream × SY × ObjKind × Side)
  | .acq o => some (.l, o, .lock, .none)
  | .ringwf o => some (.l, o, .ring, .consumer)
  | .ringfree o => some (.l, o, .ring, .consumer)
  | .tlwait o => some (.l, o, .timeline, .none)
  | .rel o => some (.s, o, .lock, .none)
  | .ringwe o => some (.s, o, .ring, .producer)
  | .ringpub o => some (.s, o, .ring, .producer)
  | .tlsig o => some (.s, o, .timeline, .none)
  | .tjoin o => some (.s, o, .join, .none)
  | _ => none

/-- The condition of `waitw` by its subop on the word and the operand (spec/14 R288). -/
def waitHolds (c : Nat) (word v : Word) : Bool :=
  match c with
  | 0 => decide (word = v)
  | 1 => decide (word ≠ v)
  | 2 => decide (v.toNat ≤ word.toNat)
  | 3 => decide (word.toNat < v.toNat)
  | _ => decide (0 ≤ (word - v).toInt)

/-! ## Atomics (spec/05 R96 to R101) -/

/-- The new value that a home computes from the old one and the operand of a width (spec/05 R96,
R99). -/
def atomicOf (op w old x : Nat) : Nat :=
  match op with
  | 0 => wrapN w (old + x)
  | 1 => wrapN w (min (sextI w old) (sextI w x))
  | 2 => wrapN w (max (sextI w old) (sextI w x))
  | 3 => min old x
  | 4 => max old x
  | 5 => old &&& x
  | 6 => old ||| x
  | 7 => old ^^^ x
  | 8 => x
  | _ => rneF32 (sumVals .rne [fvalOf .f32 old, fvalOf .f32 x]).1

/-- The width of an atomic (spec/05 R97). -/
def atomicWidth (o : SY) : Nat := if o.imm.toNat / 2 ^ 22 = 0 then 32 else 64

/-- The address of an atomic: s[sa] + 4 x sext(off, 11) (spec/05 R97). -/
def atomicAddr (o : SY) (a : Word) : Word := word (a.toInt + 4 * (o.imm.setWidth 11).toInt)

/-- The value that `amo` stores (spec/05 R99). -/
def amoStores (o : SY) (old sb sd : Nat) : Nat :=
  let w := atomicWidth o
  if o.subop.toNat = 9 then (if old = sb % 2 ^ w then sd % 2 ^ w else old) else atomicOf o.subop.toNat w old (sb % 2 ^ w)

/-- The value that `amo` returns (spec/05 R99): sign-extended for add, min.s and max.s of a word. -/
def amoReturns (o : SY) (old : Nat) : Word :=
  if atomicWidth o = 32 ∧ o.subop.toNat ≤ 2 then word (sextI 32 old) else word old

end Sys2Proof.Machine
end

