-- ==== Sys2Proof/ClaimsHost.lean ====
section
/-! DEFINITION. Words in which the statements about packets, cards and the device are put. -/

namespace Sys2Proof

open Machine

/-- A context has entered its handler with a cause, a value and an address (spec/18 R357). -/
def trapped (x y : Ctx) (cause : Nat) (tval tpc : Word) : Prop :=
  y.trap.tcause = BitVec.ofNat 64 cause ∧ y.trap.tval = tval ∧ y.trap.tpc = addrField tpc ∧ y.trap.inh = true ∧
    y.id.sys = true ∧ y.regs.pc = x.trap.tvec

/-- The item of a bank has ended: the bank runs nothing, or filler for the rest of its gang (spec/16 R314, R318). -/
def itemEnded (t : State) (c : CtxId) : Prop :=
  ((t.ctx c).bank = .empty ∨ (t.ctx c).bank = .filler) ∧ (t.ctx c).work = none

/-- A gang of a unit has been formed on a half and reserved on a cascade (spec/16 R314 to R316, spec/17 R348, R349): its items
go to the live tiers in ascending order, in the dispatch set of the unit, its operator has them no longer, and each of a
guarded operator has its fallback entry; no context and no byte of memory changes. -/
def gangFormed (s t : State) (h : HalfId) (u : Unit_) (g : CascId) : Prop :=
  let o := u.op
  let its := gangItems s u h g
  let kept := fun (l : List Item) => l.filter fun i => !its.contains i
  ∃ k p, (t.casc g).gangs = (s.casc g).gangs ++ [k] ∧ k.op = o.id ∧ k.num = s.opCount + 1 ∧
    t.opCount = s.opCount + 1 ∧ k.disp = unitDisp u ∧ k.items.map (·.1) = liveTiers s g ∧
    k.items.filterMap (·.2) =
      (its.take (liveTiers s g).length).map (fun i => { i with res := i.res || o.disp.gd }) ∧
    t.op o.id = some p ∧ p.lastCasc[h.val] = some g ∧
    p.fbUsed[h.val] =
      o.fbUsed[h.val] + (if o.disp.gd ∧ ¬ u.fb then (its.filter fun i => !i.res).length else 0) ∧
    (u.fb = false → p.restart ++ p.pending = kept (o.restart ++ o.pending) ∧ p.fallback = o.fallback) ∧
    (u.fb = true → p.fallback = kept o.fallback ∧ p.restart = o.restart ∧ p.pending = o.pending) ∧
    (∀ n ∈ liveTiers s g, (t.core (coreAt g n)).shadow = some (unitDisp u)) ∧ t.ctxs = s.ctxs ∧ t.mem = s.mem

/-- An operator of the real-time class comes before another (spec/16 R320): by its deadline, then by its queue, then by its
launch. -/
def dueBefore (o p : Operator) : Prop :=
  let d := (o.deadline - p.deadline).toInt
  d < 0 ∨ d = 0 ∧ (o.queue.val < p.queue.val ∨ o.queue = p.queue ∧ o.id < p.id)

/-- The work item of a gang has begun in a bank (spec/12 R227, R229, spec/16 R312, R318): at the entry, with the argument
block in s1 and the linear index in s3, a new generation and its spatial indices in the loop stack. -/
def itemBegun (s t : State) (c : CtxId) (d : Dispatch) (it : Item) : Prop :=
  let y := t.ctx c
  y.bank = .running ∧ y.regs.pc = d.entry ∧ readS y 1 = d.args ∧ readS y 2 = 0 ∧
    readS y 3 = BitVec.ofNat 64 it.lin ∧ y.id.gen = (s.ctx c).id.gen + 1 ∧ y.id.sys = false ∧ y.id.task = false ∧
    y.id.cls = d.cls ∧ y.id.queue = d.queue ∧ y.id.card = d.card ∧ y.id.tag = d.tag ∧ y.id.fb = it.fb ∧
    y.heap = d.heap ∧ y.front.loops = startLoops d it.idx ∧ y.front.rvb = 0 ∧ y.front.rpb = 0 ∧
    y.fpc = 0 ∧ y.trap.tvec = (s.ctx c).trap.tvec ∧ y.cnt.clamp = halfTime s (halfOf c) ∧
    ∀ b, areaKey c ≤ b → b < areaKey c + 0x2000 → memRead t.mem b = 0

/-- A reserved gang can start at once in given banks (spec/16 R316 to R318, R322): the clock of its cascade runs, nothing
resumes before it or has to make way, each of its tiers has its bank, an empty one, and it has no template image. -/
def gangFree (s : State) (g : CascId) (k : Gang) (bank : Fin 4 → CtxId) : Prop :=
  (s.casc g).hold = false ∧ coIssueOk s g k.disp k.disp.cur true = true ∧ conflicts s g k.disp k.disp.cur = [] ∧
    resumesFirst s g k.disp = false ∧ (s.op k.op).isSome = true ∧ k.disp.tcnt = 0 ∧ (k.items.map (·.1)).Nodup ∧
    (∃ m ∈ k.items, m.2.isSome = true) ∧
    ∀ m ∈ k.items, bankChoice s g m.1 k.disp.cls.toNat = some (bank m.1) ∧ (s.ctx (bank m.1)).bank = .empty

/-- A queue has completed a packet: it has it no longer, and but for its state nothing else of it changed. -/
def pktEnded (x y : Queue) (p : Pkt) : Prop :=
  y = { x with st := y.st, pkts := x.pkts.filter fun t => t.index != p.index }

/-- A queue has entered its error state with a code at a packet (spec/17 R337). -/
def errored (x : Queue) (code : Nat) (index : Word32) : Prop :=
  x.st = .error ∧ x.ecode.toNat = code ∧ x.epkt = index ∧ x.pkts = []

/-- Every queue but one is as it was. -/
def queuesSame (s t : State) (q : QueueId) : Prop := ∀ r, r ≠ q → t.queue r = s.queue r

/-- A packet of a queue in a state, with a property. -/
def hasPkt (s : State) (q : QueueId) (index : Word32) (f : Pkt → Prop) : Prop :=
  ∃ p, p ∈ (s.queue q).pkts ∧ p.index = index ∧ p.begun = true ∧ f p

/-- A card can be dequeued: the budget is not spent, it can be read, and its kind is one of the table (spec/17
R351). -/
def cardThere (s : State) (q : QueueId) (c : Card) (va : Word) (w : Vector Word 16) : Prop :=
  0 < c.graph.budget ∧ (∃ u n, cpRead q va 128 s = (u, .ok n) ∧ w = dwords 16 n) ∧
    1 ≤ w[0].toNat % 16 ∧ w[0].toNat % 16 ≤ 7

/-- A walk has gone on from a card to the one at an address, with loop counts and async operators as given (spec/17
R351). -/
def walkedTo (t : State) (q : QueueId) (c : Card) (va : Word) (w : Vector Word 16)
    (loops : List (Word × Nat)) (async : List Nat) : Prop :=
  hasPkt t q c.pkt.index fun p => p.delay = 0 ∧ p.graph = some
    { c.graph with
      card := va, words := some w, budget := c.graph.budget - 1, loops := loops, asyncOps := async
      waitOp := none }

/-- A queue of a timeline target with bit 63 set (spec/17 R342). -/
def queueNamed (v : Word) : QueueId := Fin.ofNat 64 (v.toNat % 64)

/-- No command processor is at a quiescent point. -/
def noQuiet (s : State) : Prop := ∀ h : HalfId, (s.half h).cpQuiet = false

/-- A timeline after a value for it has come (spec/14 R289, spec/17 R340): it only advances. -/
def advanced (old v : Word) : Word := if 0 < (v - old).toInt then v else old

end Sys2Proof
end

