-- ==== Sys2Proof/Certificates/Slice0/Obligations.lean ====
section
/-! DEFINITION. The statements for the provers. -/

open Sys2Proof Sys2Proof.Machine

/-- Every step from a state whose memory is in canonical form leaves memory in canonical form: addresses strictly rising
and no byte listed that an unlisted one reads as. The bytes are those of the address space of spec/03 R45 to R47.
The model's choice: the form itself, as a list of bytes, and that an unlisted byte reads 0 (entry 4). -/
def Obligations.StepKeepsMemoryCanonical : Prop :=
  ∀ s t, s.memOk → step s = .next t → t.memOk

/-- The memory after reset is in canonical form (spec/21 R400). The model's choice: that an unlisted byte reads 0 (entry
4). -/
def Obligations.ResetMemoryCanonical : Prop := State.reset.memOk

/-- Decoding the word of a well-formed instruction gives the instruction back, with every operand at every value that
the encoding admits (spec/02 R21 to R37). The model's choice: which bits must be zero where the rules leave a doubt
(entries 16, 17). -/
def Obligations.DecodeOfEncode : Prop :=
  ∀ (i : Instr) (w : Word), i.wellFormed = true → encode i = some w → decode w = .ok i

/-- Words of each format of R24 decode to the instructions that they stand for: those of the worked examples of spec/02,
spec/04, spec/05, spec/06, spec/08 to spec/12 and spec/15, and for SJ and FB `jal s1` forward 16 slots and `bf.cge
f2, s7` forward 5, written out from the fields of R24 and the codes of R36. -/
def Obligations.WordsDecode : Prop :=
  decode 0x0400_0A63_8000_0000#64 = .ok (.add ⟨5, 6, 7⟩) ∧
  decode 0x0801_1270_0000_0003#64 = .ok (.shli ⟨9, 7, 3⟩) ∧
  decode 0x0C00_085F_FFFF_FFFD#64 = .ok (.beq ⟨4, 5, -3⟩) ∧
  decode 0x1000_4200_0000_0010#64 = .ok (.jal ⟨1, 0, 16⟩) ∧
  decode 0x1801_8078_0000_0005#64 = .ok (.bfCge ⟨0, 7, 2, 5⟩) ∧
  decode 0x1400_8011_0000_0000#64 = .ok (.endloop ⟨0, 2, 1, 0, 0⟩) ∧
  decode 0x1C00_0800_0000_0010#64 = .ok (.csrr ⟨4, 0, 0x010⟩) ∧
  decode 0x2000_4000_0000_0000#64 = .ok (.commit ⟨0, 0, 0⟩) ∧
  decode 0x4200_3C06_2000_0200#64 = .ok (.ldV ⟨⟨true, false, false, false⟩, .b, 0, 6, 4, 0, 0, 0x200⟩) ∧
  decode 0x9C00_0000_0000_0023#64 = .ok (.kwaitC ⟨Tok.none, 0, 0, 0, .context, 0, 0x23⟩) ∧
  decode 0x5003_FC04_2001_0000#64 = .ok (.efire ⟨Tok.none, 3, 63, 0, 2, 1, 0, 0, 0, 0⟩) ∧
  decode 0x8400_E814_0420_C000#64 = .ok (.vfma ⟨Tok.none, .f32, 0, 20, 1, 2, 3, 0⟩) ∧
  decode 0x9800_3E20_0000_0007#64 = .ok (.mma ⟨Tok.none, 31, .n8, .s8, .z 0, 0, 0, 0, 7⟩) ∧
  decode 0xC080_48D4_2140_0040#64 = .ok (.stVs ⟨⟨false, false, true, false⟩, .s16, 3, 20, 4, 5, 0, 0x40⟩) ∧
  decode 0xC800_8070_4000_0000#64 = .ok (.ringpub ⟨Tok.none, 0, 7, 0, .device, 0, 0⟩)

/-- A step whose turn is a front's fetches, decodes and executes (spec/02 R22, R37, R38, spec/12 R223, R224): exec of
the instruction that the word stands for, in the state that the fetch leaves with the core's note of the place; a
word that is no instruction is a fault with cause 1 and its address in TVAL; an instruction that has gone on, a
`rett` too, is noted in the core with the filler budget of its operator (spec/20 R381, R390). A step whose turn is a
step of the part is exec of it. Reads of the outbound window after either find their data, but after the time-out of
one (spec/21 R395). The model's choice: the schedule and its turns (entry 1) and when the filler budget of a core
changes (entry 50). -/
def Obligations.StepRunsDecoded : Prop :=
  ∀ s ts,
    (∀ c lag u w, s.agenda = .front c lag :: ts → s.dev.stopped = false →
      let r := { s with agenda := ts, cur := c, lag := lag }
      frontOpen r c = true → fetch c r = (u, .word w) →
      let v := u.modCore (coreOf c) fun k => { k with lastPc := k.lastPc.set (bankOf c).val (u.ctx c).regs.pc }
      let left := fun (i : Instr) (t : State) => (∃ o, i = .rett o) ∧ (v.ctx c).trap.inh = true ∧ (t.ctx c).trap.inh = false ∧
        (t.ctx c).bank = .running
      let noted := fun (i : Instr) (t y : State) =>
        ((t.ctx c).pos = (v.ctx c).pos ∧ (t.ctx c).reg.closed.isSome = (v.ctx c).reg.closed.isSome ∧ ¬ left i t → y = t) ∧
        ((t.ctx c).pos ≠ (v.ctx c).pos ∨ (t.ctx c).reg.closed.isSome ≠ (v.ctx c).reg.closed.isSome ∨ left i t →
          y = t.modCore (coreOf c) fun k =>
          { k with lastBank := bankOf c, fbud := (((v.ctx c).work).map fun w => w.disp.fbud).getD 0 })
      (∀ i t, decode w = .ok i → exec i v = .next t → ∃ y, noted i t y ∧ step s = .next { y with lostRead := false }) ∧
      (∀ e, decode w = .error e →
        ∃ t, frontTraps v t 1 (v.ctx c).regs.pc ∧ step s = .next { t with lostRead := false })) ∧
    (∀ i t, s.agenda = .event i :: ts → encode i = none → s.dev.stopped = false →
      exec i { s with agenda := ts } = .next t →
      ((∀ c, i ≠ .outboundReadTimeout c) → step s = .next { t with lostRead := false }) ∧
      ((∃ c, i = .outboundReadTimeout c) → step s = .next t))

/-- Every instruction and every step of the part has a next state: nothing stops the machine. The model's choice: that a
wait is a next state (entry 1). -/
def Obligations.EveryInstructionGoesOn : Prop := ∀ i s, ∃ t, exec i s = .next t

/-- An ALU instruction (spec/12 R235) gives sd the result of the table from sa and sb, goes to the next slot, and
changes nothing else. An ALUI instruction (spec/12 R236) gives sd the result of its table from sa, the immediate
and, for `adr`, the PC, and changes nothing else. -/
def Obligations.ScalarResults : Prop :=
  (∀ s i o f, aluRow i = some (o, f) → registersFree s [o.sa, o.sb, o.sd] →
      ∃ t, exec i s = .next t ∧
        frontWrote s t o.sd (f (readS s.me o.sa) (readS s.me o.sb)) (slotsFrom s.me.regs.pc 1)) ∧
  (∀ s i o f, aluiRow i = some (o, f) → registersFree s [o.sa, o.sd] →
      ∃ t, exec i s = .next t ∧
        frontWrote s t o.sd (f s.me.regs.pc (readS s.me o.sa)) (slotsFrom s.me.regs.pc 1))

/-- A branch (spec/02 R22, spec/12 R237) goes to its target when its comparison of sa and sb holds and to the next slot
when it does not, and changes nothing else. A flag branch (spec/12 R239) goes to its target when its flag register
meets the condition; `fcnt` gives sd the number of true elements; nothing else changes. -/
def Obligations.Branches : Prop :=
  (∀ s i o f, branchRow i = some (o, f) → registersFree s [o.sa, o.sb] →
      ∃ t, exec i s = .next t ∧
        frontWent s t (slotsFrom s.me.regs.pc
          (if f (readS s.me o.sa) (readS s.me o.sb) then o.off.toInt else 1))) ∧
  (∀ s, (∀ i o f, flagRow i = some (o, f) → flagWaits s.me ⟨o.f.toNat, o.f.isLt⟩ = false →
        registersFree s [o.sa] →
        ∃ t, exec i s = .next t ∧
          frontWent s t (slotsFrom s.me.regs.pc
            (if f (flagAt s.me ⟨o.f.toNat, o.f.isLt⟩) (readS s.me o.sa) then o.off.toInt else 1))) ∧
      (∀ o, flagWaits s.me ⟨o.f.toNat, o.f.isLt⟩ = false → registersFree s [o.sd] →
        ∃ t, exec (.fcnt o) s = .next t ∧
          frontWrote s t o.sd (BitVec.ofNat 64 (flagAt s.me ⟨o.f.toNat, o.f.isLt⟩).count)
            (slotsFrom s.me.regs.pc 1)))

/-- A jump (spec/12 R238) goes to its target, and `jal` and `jalr` give sd the address of the next slot; nothing else
changes. A register jump to an address that is no multiple of 8 (spec/02 R22) is a fault with cause 3 and the
address in TVAL. -/
def Obligations.Jumps : Prop :=
  (∀ s o,
      (∃ t, exec (.j o) s = .next t ∧ frontWent s t (slotsFrom s.me.regs.pc o.off.toInt)) ∧
      (registersFree s [o.sd] → ∃ t, exec (.jal o) s = .next t ∧
        frontWrote s t o.sd (slotsFrom s.me.regs.pc 1) (slotsFrom s.me.regs.pc o.off.toInt)) ∧
      (registersFree s [o.sa] → (readS s.me o.sa).toNat % 8 = 0 →
        ∃ t, exec (.jr o) s = .next t ∧ frontWent s t (readS s.me o.sa)) ∧
      (registersFree s [o.sa, o.sd] → (readS s.me o.sa).toNat % 8 = 0 →
        ∃ t, exec (.jalr o) s = .next t ∧
          frontWrote s t o.sd (slotsFrom s.me.regs.pc 1) (readS s.me o.sa))) ∧
  (∀ s o, (readS s.me o.sa).toNat % 8 ≠ 0 →
      (registersFree s [o.sa] → ∃ t, exec (.jr o) s = .next t ∧ frontTraps s t 3 (readS s.me o.sa)) ∧
      (registersFree s [o.sa, o.sd] → ∃ t, exec (.jalr o) s = .next t ∧ frontTraps s t 3 (readS s.me o.sa)))

/-- `loop` and `loop.t` (spec/12 R230): a count of 0 goes to the exit; any other pushes a position that is not fixed,
with its count, index 0, body and exit; with position 5 valid that is a fault with cause 1. `loop.t` of a level that
is absent or spatial (spec/12 R230) is a fault with cause 10 and the level in TVAL. -/
def Obligations.LoopsEnter : Prop :=
  (∀ s i o n, loopEnters s.me i = some (o, n) → registersFree s (loopReads i) →
      let exit := slotsFrom s.me.regs.pc (o.imm.toNat + 1)
      (n = 0 → ∃ t, exec i s = .next t ∧ frontWent s t exit) ∧
      (∀ k, n ≠ 0 → aboveTop s.me.front k → ∃ t, exec i s = .next t ∧
        loopWent s t
          (withLoop s.me.front k ⟨true, false, n, 0, slotsFrom s.me.regs.pc 1, exit⟩)
          (slotsFrom s.me.regs.pc 1)) ∧
      (n ≠ 0 → (s.me.front.loops[5]).valid = true → ∃ t, exec i s = .next t ∧
        frontTraps s t 1 s.me.regs.pc)) ∧
  (∀ s o, temporalTrips s.me o.lvl.toNat = none →
      ∃ t, exec (.loopT o) s = .next t ∧ frontTraps s t 10 (o.lvl.setWidth 64))

/-- `endloop` (spec/12 R231) rotates both bases, raises the index of the top and goes to its body while the index is
below the count, and otherwise pops it; with no position, or a fixed top, it is a fault with cause 1. -/
def Obligations.LoopsClose : Prop :=
  ∀ s o,
    (∀ k, topAt s.me.front k → (s.me.front.loops[k.val]).fixed = false →
      let l := s.me.front.loops[k.val]
      let f := { s.me.front with
        rvb := BitVec.ofInt 5 (s.me.front.rvb.toNat - o.vrot.toNat)
        rpb := BitVec.ofInt 3 (s.me.front.rpb.toNat - o.prot.toNat) }
      ∃ t, exec (.endloop o) s = .next t ∧
        (if (l.index + 1).toNat < l.count.toNat then
          loopWent s t (withLoop f k { l with index := l.index + 1 }) l.body
        else loopWent s t (withLoop f k LoopEntry.empty) (slotsFrom s.me.regs.pc 1))) ∧
    ((∀ k, topAt s.me.front k → (s.me.front.loops[k.val]).fixed = true) →
      ∃ t, exec (.endloop o) s = .next t ∧ frontTraps s t 1 s.me.regs.pc)

/-- `brkloop` (spec/12 R232) pops the top and goes to its exit, when sa is 0 or s[sa] is not 0, and falls through
otherwise; with no position, or a fixed top, it is a fault with cause 1; the bases do not change. -/
def Obligations.LoopsBreak : Prop :=
  ∀ s o, registersFree s [o.sa] →
    (o.sa ≠ 0 → readS s.me o.sa = 0 →
      ∃ t, exec (.brkloop o) s = .next t ∧ frontWent s t (slotsFrom s.me.regs.pc 1)) ∧
    (o.sa = 0 ∨ readS s.me o.sa ≠ 0 →
      (∀ k, topAt s.me.front k → (s.me.front.loops[k.val]).fixed = false →
        ∃ t, exec (.brkloop o) s = .next t ∧
          loopWent s t (withLoop s.me.front k LoopEntry.empty) (s.me.front.loops[k.val]).exit) ∧
      ((∀ k, topAt s.me.front k → (s.me.front.loops[k.val]).fixed = true) →
        ∃ t, exec (.brkloop o) s = .next t ∧ frontTraps s t 1 s.me.regs.pc))

/-- `lidx` (spec/12 R233) gives its destination the index or the count of a position, and 0 when the position is
invalid. -/
def Obligations.LoopIndexReads : Prop :=
  ∀ s o, registersFree s [o.sa] → ∀ k : Fin 6, k.val = o.lvl.toNat →
    let l := s.me.front.loops[k.val]
    ∃ t, exec (.lidx o) s = .next t ∧
      frontWrote s t o.sa
        (if l.valid then (if o.imm.getLsbD 0 then l.count else l.index).setWidth 64 else 0)
        (slotsFrom s.me.regs.pc 1)

/-- `nop` goes to the next slot (spec/12 R247); `fence` does so once every earlier instruction of the streams has
completed and, beyond context scope, the posted writes are acknowledged, the committed entries drained and the
reductions of retired regions applied, and waits until then (spec/15 R303). An ALU, ALUI, branch, jump, loop, flag
or CSR instruction of the front waits while a scalar register that it reads or writes is one that an earlier stream
instruction has still to write (spec/12 R223, for the results of spec/05 R99, spec/06 R107, spec/10 R202 and spec/14
R284), and a `bf.*` or `fcnt` while the `ptest` of its flag register has not completed (spec/08 R151, spec/12 R239).
The model's choice: the writes of regions that have not retired (entry 79). -/
def Obligations.FrontWaitsAndFences : Prop :=
  (∀ s o, (∃ t, exec (.nop o) s = .next t ∧ frontWent s t (slotsFrom s.me.regs.pc 1)) ∧
      let x := s.me
      let scope := (o.imm.extractLsb' 0 3).toNat
      let weir := (s.half (halfOf s.cur)).weir.filter fun w => w.ctx == s.cur
      let completed := queued x = [] ∧ cIdle s s.cur = true
      let settled := x.older = none ∧ x.sync.posted = [] ∧ ∀ r ∈ x.sync.red, r.committed = false
      (completed → scope = 0 ∨ (settled ∧ weir = []) →
        ∃ t, exec (.fence o) s = .next t ∧ frontWent s t (slotsFrom x.regs.pc 1)) ∧
      (¬ completed ∨ (scope ≠ 0 ∧ (¬ settled ∨ ∃ w ∈ weir, w.committed = true)) → exec (.fence o) s = .next s)) ∧
  (∀ s i, (∀ r ∈ frontRegs i, busyS s.me r = true → csrAllowed s i → exec i s = .next s) ∧
      (∀ f, frontFlag i = some f → flagWaits s.me f = true → exec i s = .next s))

/-- `csrr` (spec/12 R240, R241) gives sd the value of a CSR that the level may read, and changes nothing else. A CSR
that the level may not access is a fault with cause 2, and a write to a read-only one a fault with cause 1 (spec/12
R241). The model's choice: the cause of a user access to TSTAT (entry 18). -/
def Obligations.CsrReads : Prop :=
  (∀ s o r, csrOf (o.imm.toNat % 4096) = some r → csrAccess r s.me.id.sys ≠ .none → registersFree s [o.sd] →
      (r = .fpc → cIdle s s.cur = true) →
      ∃ t v, exec (.csrr o) s = .next t ∧ csrSays s s.cur r v ∧ frontWrote s t o.sd v (slotsFrom s.me.regs.pc 1)) ∧
  (∀ s o,
      (∀ r, csrOf (o.imm.toNat % 4096) = some r → csrAccess r s.me.id.sys = .none →
        ∀ i ∈ [Instr.csrr o, .csrw o, .csrs o, .csrc o],
          ∃ t, exec i s = .next t ∧ frontTraps s t 2 s.me.regs.pc) ∧
      (∀ r, csrOf (o.imm.toNat % 4096) = some r → csrAccess r s.me.id.sys = .ro →
        ∀ i ∈ [Instr.csrw o, .csrs o, .csrc o], ∃ t, exec i s = .next t ∧ frontTraps s t 1 s.me.regs.pc))

/-- A write of a CSR (spec/12 R240, R241) is a commit point: it waits for the older region; then the register keeps what
it can hold of the new value, sd takes the old one, every other CSR is as it was, and the next region begins behind
it. A write of FPC (spec/12 R240, spec/07 R133, R134) gives it the low seven bits and sd the old value, and it is a
commit point. -/
def Obligations.CsrWrites : Prop :=
  (∀ s i o f r, csrWrites i = some (o, f) → csrOf (o.imm.toNat % 4096) = some r →
      csrAccess r s.me.id.sys = .rw → r ≠ .fpc → registersFree s [o.sa, o.sd] → s.me.older = none →
      (s.core (coreOf s.cur)).used ≤ 64 →
      let old := csrRead s s.cur r
      ∃ t, exec i s = .next t ∧
        csrRead t s.cur r = csrKept r old (f old (readS s.me o.sa)) ∧
        (∀ r', r' ≠ r → csrRead t s.cur r' = csrRead s s.cur r') ∧
        readS t.me o.sd = (if o.sd = 0 then 0 else old) ∧ scalarsSame s.me t.me o.sd ∧
        (t.me = ranAhead .commit (timeOf s s.cur)
          { s.me with trap := t.me.trap, cnt := t.me.cnt, front := t.me.front
                      regs := { s.me.regs with s := t.me.regs.s } }) ∧
        (∀ c, c ≠ s.cur → t.ctx c = s.ctx c) ∧ (∀ k, k ≠ coreOf s.cur → t.core k = s.core k) ∧
        (t.core (coreOf s.cur) = { s.core (coreOf s.cur) with
          regmax := (t.core (coreOf s.cur)).regmax, replaymax := (t.core (coreOf s.cur)).replaymax
          fillc := (t.core (coreOf s.cur)).fillc, psamp := (t.core (coreOf s.cur)).psamp }) ∧
        t = { s with ctxs := t.ctxs, cores := t.cores }) ∧
  (∀ s i o f, csrWrites i = some (o, f) → o.imm.toNat % 4096 = 0 → s.me.older = none →
      streamFree s .c Tok.none [o.sa, o.sd] → (o.sd ≠ 0 → cIdle s s.cur = true) →
      let a := readS s.me o.sa
      let r := s.me.reg
      ∃ t, exec i s = .next t ∧
        t.me.fpc.toNat = (f (s.me.fpc.setWidth 64) a).toNat % 128 ∧
        readS t.me o.sd = (if o.sd = 0 then 0 else s.me.fpc.setWidth 64) ∧ scalarsSame s.me t.me o.sd ∧
        onlyMe s t ∧
        t.me = ranAhead .commit (timeOf s s.cur)
          { s.me with
            fpc := t.me.fpc, regs := { s.me.regs with s := t.me.regs.s }, acting := r.epoch
            sinceDeq := s.me.sinceDeq.set 1 0
            reg := { r with cIn := some (r.cIn.getD ⟨s.me.fpc, s.me.mat.steps⟩) } })

/-- `commit`, `trapi`, `ebreak`, `done` and a `rett` of a fatal trap (spec/12 R247, spec/13 R250, R252, spec/18 R359)
close the region with what they are. A commit point waits while the older region is outstanding (spec/13 R252). -/
def Obligations.CommitPoints : Prop :=
  (∀ s o, s.me.older = none →
      (∃ t, exec (.commit o) s = .next t ∧ t = s.modCtx s.cur (ranAhead .commit (timeOf s s.cur))) ∧
      (∃ t, exec (.trapi o) s = .next t ∧ t = s.modCtx s.cur (closedAt (.trapi o.imm))) ∧
      (∃ t, exec (.ebreak o) s = .next t ∧ t = s.modCtx s.cur (closedAt .ebreak)) ∧
      (∃ t, exec (.done o) s = .next t ∧ t = s.modCtx s.cur (closedAt .done)) ∧
      (s.me.id.sys = true → s.me.trap.fatal = true →
        ∃ t, exec (.rett o) s = .next t ∧ t = s.modCtx s.cur (closedAt .done))) ∧
  (∀ s o, s.me.older.isSome = true →
      (∀ i ∈ [Instr.commit o, .trapi o, .ebreak o, .done o, .guardMax o, .guardSsq o], exec i s = .next s) ∧
      (s.me.id.sys = true → exec (.rett o) s = .next s) ∧
      (∀ i p f r, csrWrites i = some (p, f) → csrOf (p.imm.toNat % 4096) = some r →
        csrAccess r s.me.id.sys = .rw → exec i s = .next s))

/-- `guard.max` and `guard.ssq` (spec/13 R268, R269) reduce the active elements to GRES, by the largest magnitude or the
sum of squares rounded once, and close the region as a guard. -/
def Obligations.GuardResults : Prop :=
  ∀ s o max, ∀ i, i = (if max then Instr.guardMax o else Instr.guardSsq o) → s.me.older = none → o.v.toNat < 48 →
    streamFree s .c Tok.none [] →
    let l := guardTaken (readV s.me s.me.front.rvb (Fin.ofNat 48 o.v.toNat)) (readP s.me s.me.front.rpb o.p)
    ∃ t, exec i s = .next t ∧ onlyMe s t ∧
      t.me = closedAt (.guard max)
        { s.me with
          cnt := { s.me.cnt with gres := t.me.cnt.gres }, acting := s.me.reg.epoch
          sinceDeq := s.me.sinceDeq.set 1 0 } ∧
      (max = true → t.me.cnt.gres.toNat = guardMaxOf l) ∧
      (max = false → t.me.cnt.gres.toNat =
        if l.any fun n => 0x7F80_0000 < magF32 n then 0x7FC0_0000
        else if l = [] then 0
        else (rneF32 (sumVals .rne (l.map fun n => (mulVals (fvalOf .f32 n) (fvalOf .f32 n)).1)).1))

/-- `rett` at system level (spec/18 R359, R360) restores the front, FPC, tokens, flags and staged scales of the trap
frame, goes to TPC at user level with RPLCNT.att 0 in a new region, and gives the trap tiles and the lease back; it
is a commit point that begins only after every handler region has retired: with instructions in the open region it
closes that one and stays where it is, and it waits while an older one is outstanding. `rett` at user level is a
fault with cause 2 (spec/18 R360). -/
def Obligations.RettReturns : Prop :=
  (∀ s o, s.me.id.sys = true → s.me.trap.fatal = false →
      let x := s.me
      let now := timeOf s s.cur
      (x.older.isSome = true → exec (.rett o) s = .next s) ∧
      (x.older = none → x.reg.count ≠ 0 → exec (.rett o) s = .next (s.modCtx s.cur fun x =>
        { x with
          older := some { x.reg with closed := some .commit, next := x.regs.pc }
          reg := Region.fresh (x.epochs + 1) x.regs.pc x.front now
          epochs := x.epochs + 1 })) ∧
      (x.older = none → x.reg.count = 0 → ∀ k, x.trap.frame = some k →
        let tiles := x.mat.trapMap.toList.filterMap id
        ∃ t, exec (.rett o) s = .next t ∧
          t.me = { x with
            regs := { x.regs with pc := x.trap.tpc }
            front := k.front, fpc := k.fpc, tok := k.tok, flags := k.flags, stage := k.stage, ptests := []
            trap := { x.trap with inh := false, fatal := false, unc := false, frame := none }
            id := { x.id with sys := false }
            cnt := { x.cnt with att := 0 }
            mat := { x.mat with trapMap := Vector.replicate 2 none }
            sync := t.me.sync
            reg := Region.fresh (x.epochs + 1) x.trap.tpc k.front now
            epochs := x.epochs + 1 } ∧
          t.me.sync = { x.sync with claims := t.me.sync.claims } ∧
          (∀ c, c ≠ s.cur → t.ctx c = s.ctx c) ∧
          (∀ n : Fin 16, (t.core (coreOf s.cur)).slots[n.val] =
            if n.val ∈ tiles then none else (s.core (coreOf s.cur)).slots[n.val]) ∧
          (t.core (coreOf s.cur)).lease ≠ some (bankOf s.cur) ∧ memorySame s t)) ∧
  (∀ s o, s.me.id.sys = false → ∃ t, exec (.rett o) s = .next t ∧ frontTraps s t 2 s.me.regs.pc)

/-- An instruction of VINT (spec/08 R148, R155 to R158, R160) writes each active element of vd from the elements of its
sources, and keeps or clears the others as the destination says. The same of VMISC (spec/08 R163). -/
def Obligations.VectorIntegerResults : Prop :=
  (∀ s i r, vintRow i = some r → vecCompletes s i r) ∧
  (∀ s i r, vmiscRow i = some r → vecCompletes s i r)

/-- An instruction of VPERM that moves elements (spec/09 R178, R179, R181), and `vrqs` (spec/09 R177), write each active
element of vd. An instruction that writes a group of registers (spec/02 R31, spec/08 R149, R157, spec/09 R180)
writes each active element of each of them. -/
def Obligations.Permutations : Prop :=
  ((∀ s i r, vpermRow i = some r → vecCompletes s i r) ∧ ∀ s o, requantCompletes s o) ∧
  (∀ s i r, groupRow i = some r → groupCompletes s i r)

/-- An instruction of VPRED and a comparison (spec/08 R159, R161, spec/09 R173) write the bits of a predicate; `ptest`
(spec/08 R150, R162) writes its flag register. -/
def Obligations.PredicateResults : Prop :=
  (∀ s i r, predRow i = some r → predCompletes s i r) ∧ ∀ s o, testCompletes s o

/-- An instruction of VFP (spec/09 R170 to R172, R174, R175, spec/07 R135, R136) writes each active element of vd with
the result under the rounding mode of FPC, and FPC accrues its flags. `vnarrow` and `vwiden` (spec/09 R176, R177)
convert each active element between registers and groups. The special functions of VFP (spec/07 R142) on f32
operands: a finite result of `vfrcp` or `vfrsq` lies within one ulp of the exact value and raises nx exactly when it
is not that value; one of `vfexp2` or `vflog2` lies within two ulp, and one of `vftanh` or `vfsig` within four, of
the reference, of more than 128 bits, that the model takes for the exact value. The model's choice: an infinite
operand under `.sat` (entry 19); the special functions take any value within their bound (entry 10). -/
def Obligations.FloatResults : Prop :=
  (∀ s i r, floatRow i = some r → floatCompletes s i r) ∧
  (∀ s o, narrowCompletes s o ∧ widenCompletes s o) ∧
  (∀ rm code, let num := fun (m : Nat) (e : Int) => (m : Rat) * (2 : Rat) ^ e
      let ulp := fun (t : Int) => (2 : Rat) ^ max (t - 23) (-149)
      (∀ neg m e t, fvalIn .f32 code = .fin neg m e → m ≠ 0 → let x := num m e
        (2 : Rat) ^ t * x ≤ 1 → 1 < (2 : Rat) ^ (t + 1) * x → let y := specialCode .rcp .f32 rm code
        y.2.ovf = false → ∃ n k, fvalOf .f32 y.1 = .fin neg n k ∧ |num n k * x - 1| ≤ ulp t * x ∧
          (y.2.nx = true ↔ num n k * x ≠ 1)) ∧
      (∀ m e t, fvalIn .f32 code = .fin false m e → m ≠ 0 → let x := num m e
        (4 : Rat) ^ t * x ≤ 1 → 1 < (4 : Rat) ^ (t + 1) * x → let y := specialCode .rsq .f32 rm code
        ∃ n k, fvalOf .f32 y.1 = .fin false n k ∧ ulp t ≤ num n k ∧ (num n k - ulp t) ^ 2 * x ≤ 1 ∧
          1 ≤ (num n k + ulp t) ^ 2 * x ∧ (y.2.nx = true ↔ num n k ^ 2 * x ≠ 1)) ∧
      (∀ neg m e fn k a, fvalIn .f32 code = .fin neg m e → m ≠ 0 →
        (fn = Special.exp2 ∧ k = 2 ∧ a = exp2Approx neg m e) ∨
          (fn = .log2 ∧ k = 2 ∧ neg = false ∧ log2Approx m e = some a) ∨
          (fn = .tanh ∧ k = 4 ∧ a = tanhApprox neg m e) ∨ (fn = .sig ∧ k = 4 ∧ a = sigApprox neg m e) →
        let y := specialCode fn .f32 rm code
        y.2.ovf = false → withinUlp k a y.1 = true))

/-- `vredsum`, `vredmax`, `vredmin` and `vscan` (spec/09 R182, R183) write the reduction of the active elements. -/
def Obligations.Reductions : Prop := (∀ s i r, redRow i = some r → redCompletes s i r) ∧ ∀ s o, scanCompletes s o

/-- The rounding of an exact value m x 2^e to a multiple k of 2^q (spec/07 R135): a value on the grid is exact; between,
toward zero cuts the magnitude, down and up cut it or raise it by the sign, and nearest takes the nearer multiple,
on a tie the even one; inexact says whether the value changed. -/
def Obligations.RoundingModes : Prop :=
  ∀ rm neg m e q, let r := roundAt rm neg m e q
    (q ≤ e → r = (m * 2 ^ (e - q).toNat, false)) ∧
    (e < q → let d := 2 ^ (q - e).toNat
      r.2 = decide (m % d ≠ 0) ∧
        match rm with
        | .rtz => r.1 = m / d
        | .rdn => r.1 = if neg then (m + d - 1) / d else m / d
        | .rup => r.1 = if neg then m / d else (m + d - 1) / d
        | .rne => 2 * m ≤ 2 * d * r.1 + d ∧ 2 * d * r.1 ≤ 2 * m + d ∧
            (2 * m = 2 * d * r.1 + d ∨ 2 * d * r.1 = 2 * m + d → r.1 % 2 = 0))

/-- `mzero` and `mwr` (spec/10 R189, R191, R200, R201) write rows of a tile, with its columns and checksums, and no
other row. `mrd` and `mdrain` (spec/10 R202, R203) give rows of a tile, or their requantised bytes, to the
destination, with marks and steps. -/
def Obligations.TileTransfers : Prop :=
  (∀ s o, streamFree s .c o.tok [] → leaseOpen s → slotReady s (tileNo o.z) → tileBusy s s.cur (tileNo o.z) = false →
      let old := tileOf s s.cur (tileNo o.z)
      (legalHere s (.mzero o) → ∃ t y, exec (.mzero o) s = .next t ∧ mappedFrom y (handed s) ∧
        tileWritten s t o.tok (tileNo o.z) Tile.zero y) ∧
      (legalHere s (.mwr o) →
        let e := capture .c (.mwr o) 0 0 0 s.me
        (∀ v x, matRows o = 1 → takeSrc e o.v (handed s) = .ok v x →
          ∃ t y new, exec (.mwr o) s = .next t ∧ mappedFrom y x ∧ tileWritten s t o.tok (tileNo o.z) new y ∧
            rowsWritten new old (matFirst o) 1 fun _ => v) ∧
        (matRows o ≠ 1 →
          ∃ t y new, exec (.mwr o) s = .next t ∧ mappedFrom y (handed s) ∧ tileWritten s t o.tok (tileNo o.z) new y ∧
            rowsWritten new old (matFirst o) (matRows o) (readGroup e o.v (handed s))))) ∧
  (∀ s o, streamFree s .c o.tok [o.sd] → leaseOpen s → dstRoom o.v s.me = true →
      let z := tileNo o.z
      let k := coreOf s.cur
      (legalHere s (.mrd o) →
        let e := capture .c (.mrd o) 0 0 0 s.me
        let old := tileOf s s.cur z
        let n := stepCount s s.cur z
        let f := fun r => if o.flags.getLsbD 1 then mrdSide old else old.row (matFirst o + r)
        ∃ t m, exec (.mrd o) s = .next t ∧
          t.me = tokensDone s .c o.tok (writeS o.sd (BitVec.ofNat 64 n)
            (if o.v2 = 0 then groupPut e o.v (matRows o) f (handed s)
             else putPred e o.v2 m (groupPut e o.v (matRows o) f (handed s)))) ∧
          (∀ j, j < 1024 → m.getLsbD j =
            (decide (j / 128 < matRows o) && (old.mark (matFirst o + j / 128)).getLsbD (j % 128))) ∧
          t = { s with ctxs := s.ctxs.set s.cur.val t.me, cores := s.cores.set k.val (t.core k) } ∧
          t.core k = { s.core k with lease := (t.core k).lease, used := (t.core k).used }) ∧
      (legalHere s (.mdrain o) → tileBusy s s.cur z = false →
        let e := capture .c (.mdrain o) 0 0 0 s.me
        let x := handed s
        ∃ t f, exec (.mdrain o) s = .next t ∧
          t.me = tokensDone s .c o.tok (groupPut e o.v (drainCount o) f x) ∧
          (∀ r, r < drainCount o → drained o (tileOf s s.cur z) (readGroup e o.v2 x 0) (readGroup e o.v2 x 1) r (f r)) ∧
          t = { s with ctxs := s.ctxs.set s.cur.val t.me, cores := s.cores.set k.val (t.core k) } ∧
          t.core k = { s.core k with lease := (t.core k).lease, used := (t.core k).used }))

/-- `mma` (spec/10 R188, R193, R199) adds the product of the heads of qa and qb to its tile or replaces it, element by
element, and pops what it does not keep; heads of different K are a fault with cause 10. The model's choice: a group
whose sum is zero adds +0 (entry 39). -/
def Obligations.MatrixProducts : Prop :=
  ∀ s o a b, legalHere s (.mma o) → streamFree s .c o.tok [] → leaseOpen s → slotReady s (tileNo o.z) →
    (s.core (coreOf s.cur)).mmaRun = none → s.me.q.qa.head? = some a → s.me.q.qb.head? = some b →
    a.epoch = s.me.reg.epoch → b.epoch = s.me.reg.epoch →
    (b.k = shapeK o →
      ∃ t y new, exec (.mma o) s = .next t ∧ tileWritten s t o.tok (tileNo o.z) new y ∧
        mmaWritten o a b (tileOf s s.cur (tileNo o.z)) new ∧
        y = { handed s with
          mat := y.mat, reg := y.reg, older := y.older
          q := { s.me.q with
            qa := if o.flags.getLsbD 5 then s.me.q.qa else s.me.q.qa.tail
            qb := if o.flags.getLsbD 6 then s.me.q.qb else s.me.q.qb.tail } } ∧
        y.mat.steps[tileNo o.z]? = some (shapeK o) ∧
        (t.core (coreOf s.cur)).checks.length = (s.core (coreOf s.cur)).checks.length + 1) ∧
    (b.k ≠ shapeK o → ∃ u, exec (.mma o) s =
      .next (raiseFault s.cur s.me.reg.epoch
        { cause := 10, tval := BitVec.ofNat 64 b.k, pos := s.me.pos, fetch := false, pe := false } u) ∧
      u = { s with
        ctxs := s.ctxs.set s.cur.val (handed s)
        cores := s.cores.set (coreOf s.cur).val
          { s.core (coreOf s.cur) with
            lease := some (bankOf s.cur), used := (u.core (coreOf s.cur)).used } })

/-- `ld.vs`, `ld.vx` and `ld.bc` (spec/06 R120, R121): element j of the destination takes the memory at its own address
when it is active, and keeps its old value (0 for a pushed entry) otherwise. `u` is what the translation of the
addresses leaves and `ks` are the keys. `ld.v` to a register or a qv queue (spec/06 R120, R121): the active elements
of a span of 512 bytes. `ps` are the parts of the span that the translation gives. The model's choice: the own
posted writes come first (entry 28). -/
def Obligations.VectorLoads : Prop :=
  (∀ s i o adr u ks, elementLoad i = some (o, adr) → checkInstr i = none → streamFree s .l o.tok [o.sa, o.sb] →
      dstRoom o.v s.me = true → s.lostRead = false →
      let e := capture .l i o.sa o.sb 0 s.me
      let x := handed s
      let w := tyWidth o.ty
      let p := govern e o.pred x
      ((∃ q, i = .ldVs q) → strideOk o e) →
      xlateList s.cur .load (w / 8) ((activeLanes o.ty p).map fun j => (j, word (adr e x j))) (began s) = (u, .ok ks) →
      banksGrant u s.cur (portL s.cur) .read s.me.pos (ks.map (·.2)) →
      ∃ t y R, exec i s = .next t ∧ readDone s u t (linesOfKeys (ks.map (·.2))) y ∧
        t.ctx s.cur = tokensDone s .l o.tok (putDst e o.v R y) ∧
        ∀ j, j < 4096 / w →
          elem w j R = masked w (dstOld e o.v x) (p.getLsbD j) j (elementAt t.mem w (keyOf ks j) j)) ∧
  (∀ s o u ps, checkInstr (.ldV o) = none → vop o.v ≠ .qa → vop o.v ≠ .qb → streamFree s .l o.tok [o.sa, o.sb] →
      dstRoom o.v s.me = true → s.lostRead = false →
      let e := capture .l (.ldV o) o.sa o.sb 0 s.me
      let x := handed s
      let w := tyWidth o.ty
      let p := govern e o.pred x
      vectorSpan s.cur .load o.ty (word (e.a.toInt + o.off.toInt)) (activeLanes o.ty p) (began s) = (u, .ok ps) →
      let keys := (activeLanes o.ty p).map fun j => partKey ps (j * w / 8)
      banksGrant u s.cur (portL s.cur) .read s.me.pos keys →
      ∃ t y R, exec (.ldV o) s = .next t ∧ readDone s u t (linesOfKeys keys) y ∧
        t.ctx s.cur = tokensDone s .l o.tok (putDst e o.v R y) ∧
        ∀ j, j < 4096 / w →
          elem w j R = masked w (dstOld e o.v x) (p.getLsbD j) j (elementAt t.mem w (partKey ps (j * w / 8)) j))

/-- `ld.v` to qa or qb and `gat.a` (spec/06 R115 to R117, R122, R126): one entry is pushed, with the bytes of the rows
that are read and structural zeros elsewhere. `lds` and `ld.qsc` (spec/06 R123, R124): a scalar register takes the
extended value; a staging buffer takes the bytes of its scales. The model's choice: the own posted writes come first
(entry 28). -/
def Obligations.LatchAndScalarLoads : Prop :=
  (∀ s o u l, streamFree s .l o.tok [o.sa, o.sb] → s.lostRead = false →
      (checkInstr (.ldV o) = none →
        let e := capture .l (.ldV o) o.sa o.sb 0 s.me
        let x := handed s
        rowsAligned (e.a.toInt + o.off.toInt) e →
        (vop o.v = .qa → slotFree s false →
          rowParts s.cur 64 (rowsOf o e x (o.vi.toNat + 1)) (began s) = (u, .ok l) →
          banksGrant u s.cur (portL s.cur) .read s.me.pos (rowsLines l) →
          ∃ t y a, exec (.ldV o) s = .next t ∧ readDone s u t (rowsLines l) y ∧
            t.ctx s.cur = tokensDone s .l o.tok { y with q := { y.q with qa := y.q.qa ++ [a] } } ∧
            qaHolds a t.mem l s.me) ∧
        (vop o.v = .qb → slotFree s true →
          let k := qbK (o.vi.toNat % 4)
          let w := tyWidth o.ty
          rowParts s.cur (16 * w) (rowsOf o e x k) (began s) = (u, .ok l) →
          banksGrant u s.cur (portL s.cur) .read s.me.pos (rowsLines l) →
          ∃ t y b, exec (.ldV o) s = .next t ∧ readDone s u t (rowsLines l) y ∧
            t.ctx s.cur = tokensDone s .l o.tok { y with q := { y.q with qb := y.q.qb ++ [b] } } ∧
            qbHolds b k w t.mem l s.me)) ∧
      (checkInstr (.gatA o) = none → slotFree s false →
        let e := capture .l (.gatA o) o.sa o.sb 0 s.me
        let x := handed s
        rowsAligned e.a.toInt e → gatherKeys s.cur (gatherRows o e x) (began s) = .ok l →
        banksGrant s s.cur 5 .read s.me.pos (rowsLines l) →
        ∃ t y a, exec (.gatA o) s = .next t ∧ readDone s (began s) t (rowsLines l) y ∧
          t.ctx s.cur = tokensDone s .l o.tok { y with q := { y.q with qa := y.q.qa ++ [a] } } ∧
          qaHolds a t.mem l s.me)) ∧
  (∀ s o u, streamFree s .l o.tok [o.sa, o.sb] →
      (∀ k, let e := capture .l (.lds o) o.sa o.sb 0 s.me
        let n := scalarLen o.ty
        checkInstr (.lds o) = none →
        xlateList s.cur .load n [(0, word (e.a.toInt + o.off.toInt))] (began s) = (u, .ok [(0, k)]) →
        banksGrant u s.cur (portL s.cur) .read s.me.pos [k] →
        ∃ t y, exec (.lds o) s = .next t ∧ readDone s u t (linesOfKeys [k]) y ∧
          t.ctx s.cur = tokensDone s .l o.tok (writeS (o.v.setWidth 5)
            (scalarOf o.ty (if u.lostRead && isHost k then 256 ^ n - 1 else memNat t.mem k n)) y)) ∧
      (∀ ps, let e := capture .l (.ldQsc o) o.sa o.sb 0 s.me
        let a := word (e.a.toInt + o.off.toInt)
        let n := if vop o.v = .qb then 512 else 256
        checkInstr (.ldQsc o) = none → a.toNat % 64 = 0 → s.lostRead = false →
        spanParts s.cur .load a n allUsed (began s) = (u, .ok ps) →
        banksGrant u s.cur (portL s.cur) .read s.me.pos (partLines ps) →
        ∃ t y g, exec (.ldQsc o) s = .next t ∧ readDone s u t (partLines ps) y ∧
          t.ctx s.cur = tokensDone s .l o.tok { keepL e.epoch y with stage := g } ∧
          (∀ b, b < n → (if vop o.v = .qb then g.b.extractLsb' (8 * b) 8 else g.a.extractLsb' (8 * b) 8) =
            memRead t.mem (partKey ps b)) ∧
          (if vop o.v = .qb then g.a = y.stage.a else g.b = y.stage.b)))

/-- `st.vs` and `st.vx` (spec/11 R207 to R210, R218, R219): the active elements of the source are stored at their own
addresses, in ascending order; an element in the own slice that no later one overlaps is in memory. `st.v` (spec/11
R218, R219): the active elements of the source at their places in a span of 512 bytes. `sts` (spec/11 R218, R219):
the low bytes of a scalar register are stored; in the own slice they are in memory. The model's choice: one posted
entry for each line (entry 67), and a line around a reduction (entry 72). -/
def Obligations.Stores : Prop :=
  (∀ s i o adr u ks v x, s.memOk → elementStore i = some (o, adr) → checkInstr i = none → streamFree s .s o.tok [o.sa, o.sb] →
      let e := capture .s i o.sa o.sb 0 s.me
      let w := tyWidth o.ty
      let act := activeLanes o.ty (govern e o.pred (handed s))
      takeSrc e o.v (handed s) = .ok v x → ((∃ q, i = .stVs q) → strideOk o e) →
      xlateList s.cur .store (w / 8) (act.map fun j => (j, word (adr e x j))) (began s) = (u, .ok ks) →
      let outs := act.map fun j => (j, word (adr e x j), keyOf ks j)
      let ls := storedLines w v outs
      storeFree u s.cur s.me.pos s.me.reg.epoch ls →
      ∃ t y, exec i s = .next t ∧ storeDoneAt s u t ls y ∧
        t.ctx s.cur = tokensDone s .s o.tok { y with q := x.q } ∧
        ∀ j ∈ act, isSlice (keyOf ks j) = true → sliceCore (keyOf ks j) = (coreOf s.cur).val →
          (∀ i ∈ act, j < i → keyOf ks i ≠ keyOf ks j) → elementAt t.mem w (keyOf ks j) j = elem w j v) ∧
  (∀ s o u ps v x, s.memOk → checkInstr (.stV o) = none → streamFree s .s o.tok [o.sa, o.sb] →
      let e := capture .s (.stV o) o.sa o.sb 0 s.me
      let w := tyWidth o.ty
      let a := word (e.a.toInt + o.off.toInt)
      let act := activeLanes o.ty (govern e o.pred (handed s))
      takeSrc e o.v (handed s) = .ok v x → vectorSpan s.cur .store o.ty a act (began s) = (u, .ok ps) →
      let ls := storedLines w v (act.map fun j => (j, a + BitVec.ofNat 64 (j * w / 8), partKey ps (j * w / 8)))
      storeFree u s.cur s.me.pos s.me.reg.epoch ls →
      ∃ t y, exec (.stV o) s = .next t ∧ storeDoneAt s u t ls y ∧
        t.ctx s.cur = tokensDone s .s o.tok { y with q := x.q } ∧
        ∀ j ∈ act, isSlice (partKey ps (j * w / 8)) = true →
          sliceCore (partKey ps (j * w / 8)) = (coreOf s.cur).val →
          elementAt t.mem w (partKey ps (j * w / 8)) j = elem w j v) ∧
  (∀ s o u k, s.memOk → streamFree s .s o.tok [o.sa, o.v.setWidth 5] → checkInstr (.sts o) = none →
      let a := word ((readS s.me o.sa).toInt + o.off.toInt)
      let n := scalarLen o.ty
      let v := (readS s.me (o.v.setWidth 5)).toNat
      xlateList s.cur .store n [(0, a)] (began s) = (u, .ok [(0, k)]) →
      let ls := [(a &&& 0xFFFF_FFFF_FFFF_FFC0#64, lineOf k n v)]
      storeFree u s.cur s.me.pos s.me.reg.epoch ls →
      ∃ t y, exec (.sts o) s = .next t ∧ storeDoneAt s u t ls y ∧ t.ctx s.cur = tokensDone s .s o.tok y ∧
        (isSlice k = true → sliceCore k = (coreOf s.cur).val → memNat t.mem k n = v % 256 ^ n))

/-- What a translation may change (spec/03 R54 to R60): the TLBs, the count of free values, what the region notes of its
translations, and at a first touch the free pool of the half and memory: the page, the spare one or that of the
first entry of the pool from head on which is aligned and local, becomes zero, and its table entry names it.
Everything else is as before. The model's choice: the entry that leaves a full TLB is a free value (entry 9). -/
def Obligations.TranslationKeeps : Prop :=
  ∀ s c acc va, s.memOk →
    let t := (xlate s c acc va).1
    let h := halfOf c
    let k := coreOf c
    t = { s with
      mem := t.mem, ctxs := s.ctxs.set c.val (t.ctx c), cores := s.cores.set k.val (t.core k)
      halves := s.halves.set h.val (t.half h), freeCtr := t.freeCtr } ∧
    t.core k = { s.core k with tlb := (t.core k).tlb } ∧
    t.half h = { s.half h with tlb := (t.half h).tlb, pool := (t.half h).pool, spare := (t.half h).spare } ∧
    t.ctx c = { s.ctx c with reg := (t.ctx c).reg, older := (t.ctx c).older } ∧
    (t.ctx c).reg = { (s.ctx c).reg with used := (t.ctx c).reg.used } ∧
    ((t.ctx c).older.map fun r => { r with used := [] }) = ((s.ctx c).older.map fun r => { r with used := [] }) ∧
    (t.mem = s.mem ∨
      ∃ entry page, walk s (asidOf s (s.ctx c)) va.toNat = .touch entry ∧
        (∀ a, ¬ (entry ≤ a ∧ a < entry + 8) →
          memRead t.mem a = if (s.half h).spare = none ∧ page ≤ a ∧ a < page + 65536 then 0 else memRead s.mem a) ∧
        memNat t.mem entry 8 = (page + 2 ^ 44 + 128 * h.val + 0x27) % 2 ^ 64 ∧
        (∀ p, (s.half h).spare = some p → page = p ∧ (t.half h).spare = none ∧ (t.half h).pool = (s.half h).pool) ∧
        let r := (s.half h).pool
        let named := fun (i : Nat) => (memWord s.mem
          (ringKey s (r.base.toNat + 8 * ((r.head + BitVec.ofNat 16 i).toNat % ringEntries r)))).toNat % 2 ^ 44
        let usable := fun (p : Nat) =>
          p % 2 ^ 16 = 0 ∧ (localRegion s h).1 ≤ p ∧ p + 2 ^ 16 ≤ (localRegion s h).2
        ((s.half h).spare = none → s.lostRead = false → ∃ n, page = named n ∧ usable page ∧
          (∀ i, i < n → ¬ usable (named i)) ∧ (t.half h).spare = none ∧
          (t.half h).pool = { r with head := r.head + BitVec.ofNat 16 (n + 1) }))

/-- `kwait` and `ksig` (spec/06 R113, R114): a token counter falls or rises by N, and nothing else of the context
changes but its tokens and what a discard would take back; `kwait` begins, which takes its tokens (spec/02 R27), and
waits in its stream while the counter is below N, and `ksig` beyond 15 is a fault with the number of the counter in
TVAL. -/
def Obligations.TokenCounters : Prop :=
  ∀ s i o st up, tokenRow i = some (st, up, o) → checkInstr i = none → streamFree s st o.tok [] →
    (up = true → streamDone s s.cur st = true) →
    let k := o.imm.toNat % 16
    let n := o.imm.toNat / 16 % 16
    let old := s.me.tok.k[k]?.getD 0
    let x := handed s
    ((if up then old + s.me.tok.res[k]?.getD 0 + n ≤ 15 else n ≤ old) →
      ∃ t y, exec i s = .next t ∧ t = s.setCtx s.cur (tokensDone s st o.tok y) ∧
        y = { x with tok := { x.tok with k := y.tok.k }, reg := y.reg, older := y.older } ∧
        y.reg = { x.reg with dk := y.reg.dk } ∧
        (y.older.map fun r => { r with dk := Vector.replicate 16 0 }) =
          (x.older.map fun r => { r with dk := Vector.replicate 16 0 }) ∧
        (∀ j, j < 16 → y.tok.k[j]? = if j = k then some (if up then old + n else old - n) else x.tok.k[j]?)) ∧
    (up = false → old < n → ∃ t, exec i s = .next t ∧
      (t.me.q.get st).map (fun e => (e.instr, e.begun)) = [(i, true)] ∧
      t.me.tok = (tokTake s.me.reg.epoch st o.tok s.me).tok) ∧
    (up = true → 15 < old + s.me.tok.res[k]?.getD 0 + n → exec i s =
      .next (raiseFault s.cur s.me.reg.epoch
        { cause := 9, tval := BitVec.ofNat 64 k, pos := s.me.pos, fetch := false, pe := false } (began s)))

/-- An instruction that the front hands to a stream (spec/02 R23, spec/06 R104, R105): it waits for its scalar registers
and, while 32 instructions are in the queue, for room; behind others, or in a stream that lags, it takes the last
place of the queue with the values that the front captures. The engine instructions (spec/04 R75, R76): a command
takes the last place of its engine queue with its value, the scales staged at its place, and a reservation of the
counter kp; beyond 15 that is a fault with the number of the counter in TVAL. The model's choice: what is captured
at issue (entry 58), and which instructions that wait have begun (entry 80). -/
def Obligations.QueuesAccept : Prop :=
  (∀ s i st, handedTo i = some st → levelCheck s.me.id.sys i = none →
      let (a, b, d) := captures i
      (registersFree s [a, b, d, laterWrites i] → (s.me.q.get st).length < 32 →
        s.lag = true ∨ streamClear s s.cur st = false →
        exec i s = .next (s.modCtx s.cur fun x =>
          { x with
            regs := { x.regs with pc := x.regs.pc + 8 }
            pos := x.pos + 1
            reg := { x.reg with count := x.reg.count + 1 }
            q := x.q.set st (x.q.get st ++
              [{ instr := i, st := st, a := readS x a, b := readS x b, d := readS x d, rvb := x.front.rvb
                 rpb := x.front.rpb, epoch := x.reg.epoch, pos := x.pos, pc := x.regs.pc, stage := none, begun := false
                 aside := false, sample := none }]) })) ∧
      (¬ registersFree s [a, b, d, laterWrites i] ∨ 32 ≤ (s.me.q.get st).length → exec i s = .next s)) ∧
  (∀ s i st o, engineRow i = some (st, o) → checkInstr i = none → streamFree s st o.tok [o.sa] →
      (engQ s.me st).length < 16 →
      let x := handed s
      let k := o.kp.toNat
      let n := s.me.tok.k[k]?.getD 0 + s.me.tok.res[k]?.getD 0 + 1
      let cmd : EngCmd :=
        { instr := i, val := word ((readS s.me o.sa).toInt + o.val.toInt), epoch := s.me.reg.epoch, pos := s.me.pos
          stage := s.me.stage }
      (k = 0 ∨ n ≤ 15 → ∃ t y, exec i s = .next t ∧ t = s.setCtx s.cur (tokensDone s st o.tok y) ∧
        y = (match st with
          | .l => { x with engL := s.me.engL ++ [cmd], tok := { x.tok with res := y.tok.res } }
          | _ => { x with engS := s.me.engS ++ [cmd], tok := { x.tok with res := y.tok.res } }) ∧
        (∀ j, j < 16 → y.tok.res[j]? = (x.tok.res[j]?).map fun r => if j = k ∧ k ≠ 0 then r + 1 else r)) ∧
      (k ≠ 0 → 15 < n → exec i s = .next (raiseFault s.cur s.me.reg.epoch
        { cause := 9, tval := BitVec.ofNat 64 k, pos := s.me.pos, fetch := false, pe := false } (began s))))

/-- `acq`, `ringwf` and `ringwe` on a free record with nobody waiting (spec/14 R281, R285, R286): the word of the record
takes its new value, the claim is listed, `ringwf` deposits and `ringwe` returns the slot, and TIME is clamped
(spec/15 R308); no other byte of memory changes. The same acquires on a record that is not free (spec/14 R279): the
context waits at the home with its TIME, its core's bit in the waiters dword is set, and the instruction keeps its
place. The model's choice: when a lock is free (entry 20), and that newcomers stand behind waiters (entry 30). -/
def Obligations.AcquiresClaim : Prop :=
  (∀ s i R u key d, claimRow i = some R → checkInstr i = none → s.memOk → s.me.bank = .running →
      streamFree s R.st R.o.tok [R.o.sa, R.o.sb, R.o.sd] →
      let c := s.cur
      let a := readS s.me R.o.sa
      syncXlate c R.st .atomic 64 a (began s) = (u, .ok key) →
      let r := objRead u.mem key
      let x := u.ctx c
      let slot := R.val r % 2 ^ (r.hdr.toNat / 256 % 32)
      recOk u c R.obj R.side a r = true → R.free u r → x.sync.claims.length < 16 →
      nextClaim x s.me.reg.epoch R.kind key = none → nobodyWaits u c R.st key →
      depositOf i (capture R.st i R.o.sa R.o.sb 0 s.me) u = .ok d → (∀ k, d = some k → k + 8 ≤ key ∨ key + 64 ≤ k) →
      ∃ t y, exec i s = .next t ∧
        memWord t.mem (key + R.off) = R.new c s.me.id.gen r ∧
        (∀ k, d = some k → memWord t.mem k = word slot) ∧
        (∀ b, ¬ (key + R.off ≤ b ∧ b < key + R.off + 8) → (∀ k, d = some k → ¬ (k ≤ b ∧ b < k + 8)) →
          memRead t.mem b = memRead u.mem b) ∧
        t = { u with
          mem := t.mem, ctxs := u.ctxs.set c.val (t.ctx c), cores := t.cores
          grants := u.grants.filter fun g => g.1 != key } ∧
        coresSame u t ∧
        t.ctx c = tokensDone s R.st R.o.tok (if R.kind = .produce then writeS R.o.sd (word slot) y else y) ∧
        y = countClaim s.me.reg.epoch { x with
          cnt := { x.cnt with clamp := clampAfter u c key R.scope }
          sync := { x.sync with claims := x.sync.claims ++
            [{ kind := R.kind, key := key, val := R.val r, epoch := s.me.reg.epoch, received := true, ending := false
               gen := s.me.id.gen }] } }) ∧
  (∀ s i R u key d, claimRow i = some R → checkInstr i = none → s.memOk → s.me.bank = .running →
      streamFree s R.st R.o.tok [R.o.sa, R.o.sb, R.o.sd] →
      let c := s.cur
      let a := readS s.me R.o.sa
      syncXlate c R.st .atomic 64 a (began s) = (u, .ok key) →
      let r := objRead u.mem key
      recOk u c R.obj R.side a r = true → ¬ R.free u r → (u.ctx c).sync.claims.length < 16 →
      nextClaim (u.ctx c) s.me.reg.epoch R.kind key = none → nobodyWaits u c R.st key →
      (∀ o, i = .acq o → ownsLock c (u.ctx c) r.w0 = false) →
      depositOf i (capture R.st i R.o.sa R.o.sb 0 s.me) u = .ok d →
      ∃ t w, exec i s = .next t ∧ t.waiters = u.waiters ++ [w] ∧
        w.ctx = c ∧ w.stream = R.st ∧ w.key = key ∧ w.since = timeOf u c ∧ w.polled = false ∧
        memWord t.mem (key + 0x38) = memWord u.mem (key + 0x38) ||| (1#64 <<< (coreOf c).val) ∧
        (∀ b, ¬ (key + 0x38 ≤ b ∧ b < key + 0x40) → memRead t.mem b = memRead u.mem b) ∧
        ((t.ctx c).q.get R.st).map (·.instr) = [i] ∧ (t.ctx c).sync.claims = (u.ctx c).sync.claims)

/-- `waitw` on a word or on a record and `tlwait` (spec/14 R288, R289) end at once when their condition holds, with TIME
clamped (spec/15 R308) and nothing else changed; otherwise the context waits at the home. -/
def Obligations.Waits : Prop :=
  ∀ s o u key, streamFree s .l o.tok [o.sa, o.sb] →
    let c := s.cur
    let a := readS s.me o.sa
    let v := readS s.me o.sb
    let ends := fun (i : Instr) (hold : Bool) (at_ home : Nat) (role : WaitRole) =>
      nobodyWaits u c .l home → ((u.ctx c).sync.posted.any fun p => p.w.line == at_ - at_ % 64) = false →
      (hold = true → ∃ t, exec i s = .next t ∧ coresSame u t ∧
        t = { u with cores := t.cores }.setCtx c (tokensDone s .l o.tok
          { u.ctx c with cnt := { (u.ctx c).cnt with clamp := clampAfter u c at_ (scopeNat o.scope) } })) ∧
      (hold = false → ∃ t w, exec i s = .next t ∧ t.waiters = u.waiters ++ [w] ∧ w.ctx = c ∧ w.stream = .l ∧
        w.key = home ∧ w.role = role ∧ w.since = timeOf u c ∧ ((t.ctx c).q.get .l).map (·.instr) = [i])
    (checkInstr (.waitw o) = none →
      (o.imm.getLsbD 23 = false → syncXlate c .l .load 8 a (began s) = (u, .ok key) →
        ends (.waitw o) (waitHolds o.subop.toNat (memWord u.mem key) v) key key .word) ∧
      (o.imm.getLsbD 23 = true → syncXlate c .l .atomic 64 a (began s) = (u, .ok key) →
        recOk u c .arrival .none a (objRead u.mem key) = true →
        ends (.waitw o) (waitHolds o.subop.toNat (memWord u.mem (key + 0x18)) v) (key + 0x18) key .value)) ∧
    (checkInstr (.tlwait o) = none → syncXlate c .l .atomic 64 a (began s) = (u, .ok key) →
      let r := objRead u.mem key
      recOk u c .timeline .none a r = true → nobodyWaits u c .l key →
      (0 ≤ (timelineOf u r - v).toInt → ∃ t, exec (.tlwait o) s = .next t ∧ t = u.setCtx c (tokensDone s .l o.tok
        { u.ctx c with cnt := { (u.ctx c).cnt with
            clamp := clampAfter u c (timelineKey key r) (scopeNat o.scope) } })) ∧
      ((timelineOf u r - v).toInt < 0 → ∃ t w, exec (.tlwait o) s = .next t ∧ t.waiters = u.waiters ++ [w] ∧
        w.ctx = c ∧ w.stream = .l ∧ w.key = key ∧ w.role = .value ∧ w.since = timeOf u c ∧
        ((t.ctx c).q.get .l).map (·.instr) = [.tlwait o]))

/-- `rel`, `ringpub`, `ringfree`, `setw`, `tlsig` and `tjoin` (spec/14 R278, R285 to R290): an effect is left that takes
place after retirement, with its place among the context's writes, and the claim that it ends is marked; memory does
not change. A record that an instruction may not use is a fault with cause 10 and the address of the record in TVAL
(spec/14 R295). -/
def Obligations.ReleasesDefer : Prop :=
  ((∀ s i R u key, releaseRow i = some R → checkInstr i = none → streamFree s R.st R.o.tok [R.o.sa, R.o.sb] →
      let c := s.cur
      let a := readS s.me R.o.sa
      syncXlate c R.st .atomic 64 a (began s) = (u, .ok key) →
      let r := objRead u.mem key
      let x := u.ctx c
      recOk u c R.obj R.side a r = true →
      ∀ k, (∀ kind, R.kind = some kind → openClaim x kind key = k) → (R.kind.isSome = true → k.isSome = true) →
      ∃ t, exec i s = .next t ∧ t = u.setCtx c (tokensDone s R.st R.o.tok
        { x with sync := { x.sync with
            seq := x.sync.seq + 1
            claims := x.sync.claims.map fun q => if R.kind.isSome ∧ some q = k then { q with ending := true } else q
            deferred := x.sync.deferred ++
              [{ eff := R.eff x u (readS s.me R.o.sb) key ((k.map (·.val)).getD 0), epoch := s.me.reg.epoch
                 stream := R.st, base := if R.bound then r.base else 0, len := if R.bound then r.len.toNat else 0
                 all := R.all, scope := R.scope r, retired := false, seq := x.sync.seq + 1, op := ctxOp x
                 clamp := none }] } })) ∧
    (∀ s o u key, checkInstr (.setw o) = none → o.imm.getLsbD 23 = false → streamFree s .s o.tok [o.sa, o.sb] →
      let c := s.cur
      let a := readS s.me o.sa
      syncXlate c .s .store 8 a (began s) = (u, .ok key) →
      let x := u.ctx c
      ∃ t, exec (.setw o) s = .next t ∧ t = u.setCtx c (tokensDone s .s o.tok
        { x with sync := { x.sync with
            seq := x.sync.seq + 1
            deferred := x.sync.deferred ++
              [{ eff := .setw key (readS s.me o.sb), epoch := s.me.reg.epoch, stream := .s, base := a, len := 8
                 all := false, scope := scopeNat o.scope, retired := false, seq := x.sync.seq + 1, op := ctxOp x
                 clamp := none }] } }))) ∧
  (∀ s i st o obj side u key, recordRow i = some (st, o, obj, side) → checkInstr i = none →
      streamFree s st o.tok [o.sa, o.sb, o.sd] →
      let c := s.cur
      let a := readS s.me o.sa
      syncXlate c st .atomic 64 a (began s) = (u, .ok key) → recOk u c obj side a (objRead u.mem key) = false →
      exec i s = .next (raiseFault c s.me.reg.epoch
        { cause := 10, tval := a, pos := s.me.pos, fetch := false, pe := false } u))

/-- `amo` once everything before it has retired (spec/05 R99): memory takes the new value, sd the old one, the region of
the `amo` retires with it and the next one begins behind it; no other byte of memory changes. `amo` waits while a
region before it is outstanding, and closes its own region first when that holds anything; else it closes its region
with itself and goes down the S stream, which may lag (spec/02 R23, spec/05 R99). `red` and `vred` (spec/05 R100,
R101): one request with its operation and its items is held until its region retires; memory does not change. The
model's choice: `red` and `amo` take an operand in sb (entry 16). -/
def Obligations.AtomicsTakeEffect : Prop :=
  (∀ s o u k, checkInstr (.amo o) = none → s.memOk → s.me.older = none → s.me.reg.count = 0 →
      streamFree s .s o.tok [] →
      let c := s.cur
      let n := atomicWidth o / 8
      amoKey c n (atomicAddr o (readS s.me o.sa))
        (s.setCtx c { closedAt .commit s.me with acting := s.me.reg.epoch }) = (u, .ok k) →
      ((u.ctx c).sync.posted.any fun p => p.w.line == k - k % 64) = false → bytesBehind u c k n = false →
      let old := memNat u.mem k n
      let x := u.ctx c
      ∃ t, exec (.amo o) s = .next t ∧
        memNat t.mem k n = amoStores o old (readS s.me o.sb).toNat (readS s.me o.sd).toNat ∧
        (∀ b, ¬ (k ≤ b ∧ b < k + n) → memRead t.mem b = memRead u.mem b) ∧
        readS (t.ctx c) o.sd = (if o.sd = 0 then 0 else amoReturns o old) ∧ scalarsSame x (t.ctx c) o.sd ∧
        (t.ctx c).regs = { x.regs with s := (t.ctx c).regs.s } ∧ x.regs.pc = s.me.regs.pc + 8 ∧
        (t.ctx c).reg = { Region.fresh (x.epochs + 1) (s.me.regs.pc + 8) x.front (timeOf t c) with
          dch := (t.ctx c).reg.dch } ∧
        (t.ctx c).older = none ∧ (t.ctx c).epochs = x.epochs + 1 ∧ (t.ctx c).cnt.att = 0 ∧
        (t.ctx c).front = x.front ∧ (t.ctx c).fpc = x.fpc ∧ (t.ctx c).trap = x.trap ∧ (t.ctx c).q = x.q ∧
        (∀ c', c' ≠ c → t.ctx c' = u.ctx c')) ∧
  (∀ s o, (s.me.older.isSome = true → exec (.amo o) s = .next s) ∧
      (s.me.older = none → s.me.reg.count ≠ 0 →
        exec (.amo o) s = .next (s.modCtx s.cur fun x =>
          { x with
            older := some { x.reg with closed := some .commit, next := x.regs.pc }
            reg := Region.fresh (x.epochs + 1) x.regs.pc x.front (timeOf s s.cur)
            epochs := x.epochs + 1 })) ∧
      (s.me.older = none → s.me.reg.count = 0 → s.lag = true →
        exec (.amo o) s = .next (s.modCtx s.cur fun x =>
          { closedAt .commit x with
            q := x.q.set .s (x.q.s ++ [capture .s (.amo o) o.sa o.sb o.sd x]) }))) ∧
  (∀ s o u,
      let c := s.cur
      let w := atomicWidth o
      let a := atomicAddr o (readS s.me o.sa)
      let x := u.ctx c
      let req := fun items => (⟨ctxOp x, o.subop.toNat, decide (w = 64), o.imm.getLsbD 21, items, s.me.reg.epoch, false, x.sync.seq + 1⟩ : RedReq)
      x.sync.red.length < 64 →
      (∀ k, checkInstr (.red o) = none → streamFree s .s o.tok [o.sa, o.sb] →
        amoKey c (w / 8) a (began s) = (u, .ok k) →
        ∃ t, exec (.red o) s = .next t ∧ t = u.setCtx c (tokensDone s .s o.tok
          { x with sync := { x.sync with
              seq := x.sync.seq + 1, red := x.sync.red ++ [req [(k, (readS s.me o.sb).toNat % 2 ^ w)]] } })) ∧
      (∀ v y ps, checkInstr (.vred o) = none → streamFree s .s o.tok [o.sa] →
        let e := capture .s (.vred o) o.sa 0 0 s.me
        let act := activeLanes .n32 (govern e (o.imm.extractLsb' 11 4) (handed s))
        takeSrc e (o.imm.extractLsb' 15 6) (handed s) = .ok v y → vredSpan c a act (began s) = (u, .ok ps) →
        ∃ t, exec (.vred o) s = .next t ∧ t = u.setCtx c (tokensDone s .s o.tok
          { x with
            q := y.q
            sync := { x.sync with
              seq := x.sync.seq + 1
              red := x.sync.red ++ [req (act.map fun j => (partKey ps (4 * j), elem 32 j v))] } })))

/-- `tpost` (spec/14 R291 to R293): the record is read, an entry goes to the chip, to the spill ring or nowhere, and sd
says which; it may be popped once its region has retired. `grais` (spec/14 R294): sd takes the old trip count of
level 0, the count rises at once and the new indices are dealt after retirement; with n = 0 nothing rises, and
beyond 2^32 - 1 items sd takes all ones. The model's choice: a spilled entry is no bytes of memory (entry 37). -/
def Obligations.TasksPost : Prop :=
  (∀ s o u key, checkInstr (.tpost o) = none → streamFree s .s o.tok [o.sa, o.sd] →
      let c := s.cur
      let a := readS s.me o.sa
      syncXlate c .s .load 32 a (began s) = (u, .ok key) →
      let x := u.ctx c
      (x.sync.posted.any fun p => p.w.line == key - key % 64) = false → bytesBehind u c key 32 = false →
      let d := fun n => memWord u.mem (key + 8 * n)
      let good := (d 0).toNat < 2 ^ 48 ∧ (d 0).toNat % 8 = 0 ∧ (d 3).toNat ≤ 2
      let g := postTarget c (o.imm.toNat % 4)
      let q := refill 64 (u.casc g)
      let spill := 2 ^ (min q.tqLgsz.toNat 12 + 4)
      let st := if q.spill = [] ∧ q.tasks.length < 64 then 1 else if q.tqEn = true ∧ q.spill.length < spill then 2 else 0
      let task : TaskEntry :=
        { op := opNumber x, fb := x.id.fb, code := d 0, frame := d 1, join := d 2, cur := (d 3).setWidth 2, owner := c
          epoch := s.me.reg.epoch, seq := x.sync.seq + 2, ready := false }
      (good → ∃ t y, exec (.tpost o) s = .next t ∧
        t.ctx c = tokensDone s .s o.tok (writeS o.sd (word st) y) ∧
        y = { x with sync := { x.sync with seq := y.sync.seq, deferred := y.sync.deferred } } ∧
        t = { u with ctxs := u.ctxs.set c.val (t.ctx c), cores := t.cores, cascs := u.cascs.set g.val (t.casc g) } ∧
        coresSame u t ∧
        t.casc g = (if st = 1 then { q with tasks := q.tasks ++ [task] }
          else if st = 2 then { q with spill := q.spill ++ [task], tqTail := q.tqTail + 1 } else q) ∧
        (if st = 0 then y.sync.deferred = x.sync.deferred
         else ∃ r, y.sync.deferred = x.sync.deferred ++ [r] ∧ r.eff = .tpost ∧ r.seq = task.seq ∧
           r.epoch = s.me.reg.epoch ∧ r.retired = false)) ∧
      (¬ good → exec (.tpost o) s = .next (raiseFault c s.me.reg.epoch
        { cause := 10, tval := a, pos := s.me.pos, fetch := false, pe := false } u))) ∧
  (∀ s o p, checkInstr (.grais o) = none → streamFree s .s o.tok [o.sb, o.sd] → raisable s s.me = some p →
      let c := s.cur
      let n := (readS s.me o.sb).toNat % 2 ^ 32
      let old := p.disp.trips.headD 0
      let items := (old + n) * (((p.disp.trips.zip p.disp.temporal).drop 1).filter fun t => !t.2).foldl (fun m t => m * t.1) 1
      let x := handed s
      (n = 0 ∨ 2 ^ 32 - 1 < items → ∃ t, exec (.grais o) s = .next t ∧
        t = s.setCtx c (tokensDone s .s o.tok (writeS o.sd (if n = 0 then word old else BitVec.allOnes 64) x))) ∧
      (n ≠ 0 → items ≤ 2 ^ 32 - 1 → ∃ t, exec (.grais o) s = .next t ∧
        t = (s.modOp p.id fun q => { q with
            disp := { q.disp with trips := q.disp.trips.modify 0 (· + n) }
            fbDisp := q.fbDisp.map fun d => { d with trips := d.trips.modify 0 (· + n) } }).setCtx c
          (tokensDone s .s o.tok (writeS o.sd (word old)
            { x with sync := { x.sync with
                seq := x.sync.seq + 1
                deferred := x.sync.deferred ++
                  [{ eff := .grais p.id s.me.id.fb n old, epoch := s.me.reg.epoch, stream := .s, base := 0, len := 0, all := false
                     scope := 4, retired := false, seq := x.sync.seq + 1, op := ctxOp x, clamp := none }] } }))))

/-- Taking a trap (spec/18 R354, R357): the frame and the trap registers are written, the context goes to system level
at TVEC with a handler region and RPLCNT.att 0; scalar, vector and predicate registers, every other context and
memory are as before. A trap of a context at system level, or without a handler, enters none: the operator is
aborted and its queue enters the error state with code 5 (spec/18 R355); one by uncorrectable data is noted in its
half (spec/13 R266). The model's choice: when RELSTAT.unc is set (entry 36). -/
def Obligations.TrapsSave : Prop :=
  (∀ s c cause tpc tval kind, (s.ctx c).id.sys = false → (s.ctx c).trap.tvec ≠ 0 → cause ≤ 13 →
      let x := s.ctx c
      let t := takeTrap c cause tpc tval kind s
      t.ctx c = { x with
        trap := { x.trap with
          tcause := BitVec.ofNat 64 cause, tpc := tpc &&& 0x0000_FFFF_FFFF_FFF8#64, tval := tval, kind := kind
          inh := true, fatal := decide (cause = 4 ∨ cause = 5 ∨ cause = 6 ∨ cause = 11), resume := x.reg.epoch
          unc := decide (cause = 11), frame := some ⟨x.front, x.fpc, x.tok, x.flags, x.stage⟩ }
        id := { x.id with sys := true }
        cnt := { x.cnt with att := 0 }
        regs := { x.regs with pc := x.trap.tvec }
        reg := Region.fresh (x.epochs + 3) x.trap.tvec x.front (timeOf s c)
        older := none, epochs := x.epochs + 3, bank := .running, preq := none } ∧
      (∀ c', c' ≠ c → t.ctx c' = s.ctx c') ∧ t.mem = s.mem ∧
      t.halves = s.halves) ∧
  (∀ s c cause tpc tval kind id o, (s.ctx c).id.sys = true ∨ (s.ctx c).trap.tvec = 0 →
      ctxOp (s.ctx c) = some id → s.op id = some o → (s.queue o.queue).st ≠ .error → (s.queue o.queue).st ≠ .draining →
      let t := takeTrap c cause tpc tval kind s
      (t.queue o.queue).st = .error ∧ (t.queue o.queue).ecode = 5 ∧ (t.queue o.queue).epkt = o.pkt ∧
        (cause = 11 ∨ (s.ctx c).trap.unc = true → (t.half (halfOf c)).unc = true))

/-- A fault that the front finds with nothing before it (spec/13 R257, spec/18 R354, R356, R357): its region is
discarded and the handler is entered, with the cause and the value, TPC at the start of the region and the front as
it was there; scalar, vector and predicate registers are as the attempt left them. The model's choice: when a fault
is taken at once (entry 26). -/
def Obligations.FaultsRestart : Prop :=
  ∀ s t cause tval, frontTraps s t cause tval → s.me.older = none → queued s.me = [] → s.me.reg.fault = none →
    s.me.reg.bad = false → s.me.id.sys = false → s.me.trap.tvec ≠ 0 → cause ≤ 13 → cause ≠ 4 → cause ≠ 5 → cause ≠ 6 →
    let x := s.me
    let y := t.ctx s.cur
    y.trap.tcause = BitVec.ofNat 64 cause ∧ y.trap.tval = tval ∧
      y.trap.tpc = x.reg.start &&& 0x0000_FFFF_FFFF_FFF8#64 ∧ y.trap.kind = false ∧ y.trap.inh = true ∧
      y.id.sys = true ∧ y.regs = { x.regs with pc := x.trap.tvec } ∧ y.cnt.att = 0 ∧
      (y.trap.frame.map (·.front)) = some x.reg.front ∧
      (y.trap.frame.map (·.fpc)) = some ((x.reg.cIn.map (·.fpc)).getD x.fpc) ∧
      (∀ w ∈ (t.half (halfOf s.cur)).weir, ¬ (w.ctx = s.cur ∧ w.committed = false ∧ x.reg.epoch ≤ w.epoch)) ∧
      (∀ c, c ≠ s.cur → t.ctx c = s.ctx c) ∧
      (x.reg.undo = [] → (s.waiters.all fun w => w.ctx != s.cur) = true → t.mem = s.mem)

/-- ENGINE_COMMAND_START (spec/04 R75, R76, R79 to R81): the head of the queue whose turn it is leaves it, the round
moves on, and the counters that it consumes fall. A `cbload` and an `efire` become active, an `efire` with its
template read and its field patched in its copy alone; `eset` patches the stored template, `eclr` leaves 128 zero
bytes for it, and every other byte of memory is as it was. A field that the kind of the template does not have is a
fault with cause 10 and the number of the template in TVAL. ENGINE_COMMAND_COMPLETE (spec/04 R70, R71, R73, R74,
R76, R77, R83), once the banks have granted the line accesses of a command (spec/05 R89): a `cbload` copies its
bytes to its codebooks; a COPY to a slice writes the bytes that its rows give, and one to DRAM enters its lines into
the weir buffer; one with lq = 1 and each entry of a WINDOW push a latch entry. A command that is done is active no
longer and gives its counter, and its arrival word is written, or due once its payload has drained.
ARRIVAL_WORD_WRITE (spec/04 R74): once nothing of its payload is left in the weir buffer, the arrival word is
written. The model's choice: the own posted writes come first (entry 28), and a command that is not sampled reads as
it completes (entry 56); the corners of templates and addresses (entry 80). -/
def Obligations.EngineCommands : Prop :=
  (∀ s k q qs kind o fromS, let i := (s.core k).engPtr
      let (c, st) := engSlot k i
      let x := s.ctx c
      let h := actFor c q.epoch (flushPosted c s)
      let old := tmplRead s.mem c o.tmpl.toNat
      let at_ := tmplKey c o.tmpl.toNat
      let started := fun (t : State) => (t.core k).engPtr = i + 1 ∧ tokensStarted o x (t.ctx c)
      coreHeld s k = false → (s.core k).active.length < 8 → engQ x st = q :: qs → engFields q.instr = some (kind, o, fromS) →
      sluiceOpen x (engSluice st) = true → engTokens o x = true →
      ((regionOf x q.epoch).all fun r => r.fault.isSome) = false →
      (∀ u a, startCmd c q kind o fromS (setUsed c q [] h) = .active u a →
        ∃ t, exec (.engineCommandStart k) s = .next t ∧ started t ∧
          (t.core k).active = (u.core k).active ++ [{ a with used := cmdUsed c q u }] ∧
          engQ (t.ctx c) st = qs ∧ t.mem = u.mem ∧ a.cmd = q ∧
          (kind = .fire → if o.fsel = 63 then a.tmpl = tmplRead h.mem c o.tmpl.toNat
            else patchesTo o q.val (tmplRead h.mem c o.tmpl.toNat) a.tmpl)) ∧
      (s.memOk → undoCount x < 16 → x.sync.posted = [] →
        let wrote := fun (t : State) => ∃ y, exec (.engineCommandStart k) s = .next t ∧ (t.core k).engPtr = i + 1 ∧
          engQ (t.ctx c) st = qs ∧ tokensStarted o x y ∧
          (∀ j : Fin 16, o.kp.toNat ≠ j.val → (t.ctx c).tok.k[j.val] = y.tok.k[j.val]) ∧
          (o.kp ≠ 0 → (t.ctx c).tok.k[o.kp.toNat] = y.tok.k[o.kp.toNat] + 1) ∧
          ∀ b, ¬ (at_ ≤ b ∧ b < at_ + 128) → memRead t.mem b = memRead s.mem b
        (kind = .clear → ∃ t, wrote t ∧ ∀ n, n < 128 → memRead t.mem (at_ + n) = 0) ∧
        (kind = .set → ∀ p, tmplField (tKind old) o.fsel.toNat = some p →
          ∃ t, wrote t ∧ patchesTo o q.val old (tmplRead t.mem c o.tmpl.toNat))) ∧
      (kind = .set ∨ kind = .fire ∧ o.fsel ≠ 63 → x.sync.posted = [] → tmplField (tKind old) o.fsel.toNat = none →
        x.older = none → q.epoch = x.reg.epoch → (∀ e ∈ queued x, q.pos ≤ e.pos) → x.reg.bad = false →
        x.id.sys = false → x.trap.tvec ≠ 0 →
        ∃ t, exec (.engineCommandStart k) s = .next t ∧ trapped x (t.ctx c) 10 (o.tmpl.setWidth 64) x.reg.start)) ∧
  (∀ s k n a kind o fromS, let c := a.ctx
      let x := s.ctx c
      s.memOk → coreHeld s k = false → (s.core k).active[n]? = some a → cmdStruck s a = false →
      s.lostRead = false → a.sample = none → windowBusy s k n a = false → cmdFenced s a = false → arrivalHeld s a = false →
      cmdWaits s k a = false → x.sync.posted = [] → a.dead = false → x.id.gen = a.gen → k = coreOf c →
      engFields a.cmd.instr = some (kind, o, fromS) →
      let completes := fun (f : State → Prop) => ∃ t, exec (.engineCommandComplete k n) s = .next t ∧ f t
      let ended := fun (t : State) => (t.core k).active = (s.core k).active.eraseIdx n ∧
        (o.kp ≠ 0 → (t.ctx c).tok.k[o.kp.toNat] = x.tok.k[o.kp.toNat] + 1)
      let arrived := fun (m : List Host.Cell) (t : State) =>
        (cpAw a.tmpl = false → t.mem = m) ∧
        (cpAw a.tmpl = true → ∀ key, sliceByte s c (tAwaddr a.tmpl) = .ok key →
          t.mem = memPutNat m key 8 (tAwval a.tmpl).toNat)
      (∀ src dst, kind = .book → pushes a = false →
        (∃ i1 lo hi odd dva, a.rows = [⟨i1, lo, hi, odd, [src], dva, [dst]⟩]) → src.len = dst.len → dst.off = 0 →
        completes fun t => ended t ∧ (∀ i, i < dst.len → memRead t.mem (dst.key + i) = memRead s.mem (src.key + i)) ∧
          (∀ b, ¬ (dst.key ≤ b ∧ b < dst.key + dst.len) → memRead t.mem b = memRead s.mem b)) ∧
      (kind ≠ .book → pushes a = false → selfMeet (planDst a.rows) = false →
        ((planDst a.rows).any fun p => (planSrc a.rows).any (partsMeet p)) = false →
        let outs := copyOuts s.mem a
        let ls := outLines outs
        (anyDram (planDst a.rows) = false → completes fun t => ended t ∧
          arrived (outs.foldl (fun m w => memWrite m w.2.1 w.2.2) s.mem) t) ∧
        (anyDram (planDst a.rows) = true → a.late = false → ls ≠ [] →
          weirRoom s c a.cmd.epoch (newLines s c a.cmd.epoch ls) = .ok → completes fun t => ended t ∧ t.mem = s.mem ∧
          (t.half (halfOf c)).weir = (ls.foldl (fun h l => weirPut
            { x with sync := { x.sync with seq := x.sync.seq + 1 } } c a.cmd.epoch false (cmdRun a) l.1 l.2 h)
            (s.half (halfOf c))).weir ∧
          (cpAw a.tmpl = false → (t.core k).arrivals = (s.core k).arrivals) ∧
          (cpAw a.tmpl = true → ∀ key, sliceByte s c (tAwaddr a.tmpl) = .ok key →
            (t.core k).arrivals = (s.core k).arrivals ++
              [{ ctx := c, gen := a.gen, op := a.op, epoch := a.cmd.epoch, lines := ls.map fun l => l.2.line
                 addr := key, val := tAwval a.tmpl }]))) ∧
      (∀ b, kind = .fire → fillsTo a = some b → pusherBefore s c b a.cmd.pos = false → latchRoom x b = true →
        (tKind a.tmpl = 1 → a.pushed = 0 → (a.rows.map (·.i1)).Nodup →
          (∀ r ∈ a.rows, r.lo ≤ r.hi ∧ r.hi ≤ cpExt a.tmpl 0 ∧ (rowBytes s.mem a r).length = cpExt a.tmpl 0 * cpE a.tmpl) →
          (b = (cpDst a.tmpl).getLsbD 0) → completes fun t => ended t ∧ arrived s.mem t ∧
            (b = false → cpExt a.tmpl 0 * cpE a.tmpl ≤ 64 → (∀ r ∈ a.rows, r.i1 < 64) →
              ∃ e, (t.ctx c).q.qa = x.q.qa ++ [e] ∧ e.scales = a.cmd.stage.a ∧ e.epoch = a.cmd.epoch ∧
                latchRowsHeld e.data.toNat e.mask.getLsbD 64 64 s.mem a) ∧
            (b = true → let m := cpExt a.tmpl 1
              (m = 16 ∨ m = 32 ∨ m = 64 ∨ m = 128) → cpExt a.tmpl 0 * cpE a.tmpl ≤ 8192 / m → (∀ r ∈ a.rows, r.i1 < m) →
              ∃ e, (t.ctx c).q.qb = x.q.qb ++ [e] ∧ e.scales = a.cmd.stage.b ∧ e.epoch = a.cmd.epoch ∧ e.k = m ∧
                e.width = 8 * cpE a.tmpl ∧ latchRowsHeld e.data.toNat e.mask.getLsbD m (8192 / m) s.mem a)) ∧
        (tKind a.tmpl = 2 → completes fun t =>
          (∃ e, (t.ctx c).q.qa = x.q.qa ++ [e] ∧ e.scales = a.cmd.stage.a ∧ e.epoch = a.cmd.epoch ∧
            windowHeld e s a a.pushed) ∧
          (tmplPushes a.tmpl ≤ a.pushed + 1 → ended t ∧ arrived s.mem t) ∧
          (a.pushed + 1 < tmplPushes a.tmpl → t.mem = s.mem ∧
            (t.core k).active = (s.core k).active.set n { a with pushed := a.pushed + 1 })))) ∧
  (∀ s k n d, s.memOk → coreHeld s k = false → (s.core k).arrivals[n]? = some d → struckAt s d.addr = false →
      homeShut s d.addr = false →
      ((s.half (halfOf d.ctx)).weir.all fun w =>
        !(w.ctx == d.ctx && w.epoch == d.epoch && d.lines.contains w.w.line)) = true →
      ∃ t, exec (.arrivalWordWrite k n) s = .next t ∧ memWord t.mem d.addr = d.val ∧
        (∀ b, ¬ (d.addr ≤ b ∧ b < d.addr + 8) → memRead t.mem b = memRead s.mem b) ∧
        t = { s with mem := t.mem, cores := t.cores } ∧
        ∀ j, t.core j = { s.core j with
          now := (t.core j).now
          arrivals := if j = k then (s.core k).arrivals.eraseIdx n else (s.core j).arrivals })

/-- REGION_RETIRE (spec/13 R250, R251, R268 to R270, spec/14 R278, spec/12 R247): an older region that is complete
retires: its writes become committed, its reductions and effects may reach their homes, the attempts start again
from 0, and the registers and memory do not change. Of a region at which the front is held, `commit` and a guard
that passes let the next region begin; `trapi` and `ebreak` take their traps at the next instruction; `done` ends
the item; a guard above its limit drops the region, counts a failure and gives the item to the fallback list; a
guard that is not the metric of its operator is a fault with cause 10. REGION_OVERRUN, TRAP_ENTRY and PAGE_FAULT
(spec/13 R255, spec/18 R354 to R358, spec/03 R61): an oldest region that is too long is a fault with cause 8 and its
length in TVAL; a fault that waited is taken; a page fault parks the bank, and its request waits to be written. The
model's choice: when a recorded fault is taken (entry 26), and one count of attempts (entry 61). -/
def Obligations.RegionsRetire : Prop :=
  (∀ s c, canRun s c = true → overlong s c = false → let x := s.ctx c
      let retires := fun (f : State → Prop) => ∃ t, exec (.regionRetire c) s = .next t ∧ f t
      let committed := fun (t : State) (e : Nat) =>
        ∀ w ∈ (t.half (halfOf c)).weir, w.ctx = c → w.epoch = e → w.committed = true
      (∀ r, x.older = some r → r.closed.isSome = true → r.fault = none → r.bad = false → leftover s c r.epoch = none →
        regionDone s c r.epoch = true →
        retires fun t => let y := t.ctx c
          y.older = none ∧ y.reg = { x.reg with len := 0 } ∧ y.regs = x.regs ∧ y.cnt.att = 0 ∧ t.mem = s.mem ∧
          committed t r.epoch ∧
          (∀ w ∈ y.sync.red, w.epoch = r.epoch → w.committed = true) ∧
          (∀ d ∈ y.sync.deferred, d.epoch = r.epoch → d.retired = true)) ∧
      (∀ how, x.older = none → x.reg.closed = some how → x.reg.fault = none → x.reg.bad = false →
        leftover s c x.reg.epoch = none → regionDone s c x.reg.epoch = true →
        let goesOn := fun (t : State) => let y := t.ctx c
          y.reg = Region.fresh (x.epochs + 1) x.reg.next x.front (timeOf s c) ∧ y.older = none ∧ y.regs = x.regs ∧
            y.cnt = { x.cnt with att := 0 } ∧ t.mem = s.mem ∧ committed t x.reg.epoch
        let inKernel := x.id.sys = false ∧ x.trap.tvec ≠ 0
        (how = .commit → retires goesOn) ∧
        (∀ imm, how = .trapi imm → inKernel → retires fun t =>
          trapped x (t.ctx c) 12 (imm.setWidth 64) x.reg.next ∧ (t.ctx c).trap.kind = true ∧
            (t.ctx c).regs = { x.regs with pc := x.trap.tvec }) ∧
        (how = .ebreak → inKernel → retires fun t =>
          trapped x (t.ctx c) 13 0 x.reg.next ∧ (t.ctx c).trap.kind = true) ∧
        (how = .done → x.id.sys = false → retires fun t => itemEnded t c ∧
          ((x.work.all fun w => !w.item.res) = true → t.ops = s.ops) ∧
          (∀ w o, x.work = some w → w.item.res = true → s.op w.disp.op = some o →
            t.op w.disp.op = some { o with fbUsed := o.fbUsed.set (halfOf c).val (o.fbUsed[(halfOf c).val] - 1) })) ∧
        (∀ max, how = .guard max → x.id.sys = true ∨ x.id.gd = false ∨
          ((∀ w, x.work = some w → w.disp.met ≠ max) ∧ (x.id.task = true ∨ x.id.fb = true ∨
            fcond 3 (fvalOf .f32 x.cnt.gres.toNat) (fvalOf .f32 x.front.gtol.toNat) = true)) → retires goesOn) ∧
        (∀ max w o, how = .guard max → x.id.sys = false → x.id.gd = true → x.work = some w → w.disp.met ≠ max →
          x.id.task = false → x.id.fb = false →
          fcond 3 (fvalOf .f32 x.cnt.gres.toNat) (fvalOf .f32 x.front.gtol.toNat) = false → s.op w.disp.op = some o →
          retires fun t => itemEnded t c ∧
            (∀ u ∈ (t.half (halfOf c)).weir, u.ctx = c → u.committed = false → u.epoch < x.reg.epoch) ∧
            ∃ p, t.op w.disp.op = some p ∧
              p = { o with gfail := o.gfail + 1, entered := o.entered + 1, fallback := p.fallback } ∧
              { w.item with fb := true, avoid := none, ord := o.entered + 1 } ∈ p.fallback ∧
              ((∀ i ∈ o.fallback, i.ord ≤ o.entered) →
                p.fallback = o.fallback ++ [{ w.item with fb := true, avoid := none, ord := o.entered + 1 }])) ∧
        (∀ max w, how = .guard max → inKernel → x.id.gd = true → x.work = some w → w.disp.met = max → queued x = [] →
          retires fun t => trapped x (t.ctx c) 10 (if max then 2 else 3) x.reg.start))) ∧
  (∀ s c, canRun s c = true → let x := s.ctx c
      x.older = none → x.id.sys = false → x.trap.tvec ≠ 0 → x.reg.bad = false →
      (x.reg.fault = none → regMax (s.core (coreOf c)) < x.reg.len →
        ∃ t, exec (.regionOverrun c) s = .next t ∧ trapped x (t.ctx c) 8 (BitVec.ofNat 64 x.reg.len) x.reg.start) ∧
      (∀ f, x.reg.fault = some f → isPageFault f.cause = false →
        ∃ t, exec (.trapEntry c) s = .next t ∧ trapped x (t.ctx c) f.cause f.tval x.reg.start) ∧
      (∀ f, x.reg.fault = some f → isPageFault f.cause = true →
        ∃ t, exec (.pageFault c) s = .next t ∧ let y := t.ctx c
          y.bank = .faulted ∧ y.preq = some ⟨f.tval, f.cause, f.fetch, f.pe, timeOf s c, false, none⟩ ∧
          y.regs = { x.regs with pc := x.reg.start } ∧ y.id.sys = false ∧ y.trap = x.trap))

/-- DETECTED_ERROR and CHECKSUM_COMPARE (spec/10 R193, spec/13 R258, R261 to R264, R266, spec/18 R356): a detected error
is counted on its half and its core; a core with more than RELCFG.thr of them in a window is retired, and its
cascade is reserved for no gang. Below the limit of replays the region runs again from its start. At the limit the
item of an operator with REEXEC ends and goes to the restart list, and a fallback item back to the fallback list of
its operator; any other takes the trap with cause 11, in the younger of two regions once the older one has retired;
in a handler the operator is aborted. A second error in a region that a first one has discarded, and that has issued
nothing since, is counted only. A comparison that passes is due no longer, and one that fails is such an error.
PAGE_WALK and PAGE_REQUEST_WRITE (spec/03 R54, R55, R61): a walk that finds a leaf leaves it in both TLBs; a page
request is written to the ring of its half, the tail moves on and the bank knows. The model's choice: that an
escalated fallback item goes back to the fallback list (entry 24), what a walk as a step of the part does (entry
41), one count of attempts (entry 61), errors met twice (entry 75) and when RELSTAT.unc is set (entry 36). -/
def Obligations.ErrorsReplay : Prop :=
  (∀ s c k, k = coreOf c → (s.casc (cascOf c)).hold = false →
      let x := s.ctx c
      let fo := s.dev.fo
      let times := (s.core k).errTimes.filter fun t => decide ((s.dev.time - t).toNat < relWindow s)
      let tooMany := fo.thr ≠ 0 ∧ fo.thr.toNat < times.length + 1
      let strikes := fun (i : Instr) (f : State → Prop) => ∃ t, exec i s = .next t ∧ f t ∧
        (t.half (halfOf c)).derr = (s.half (halfOf c)).derr + 1 ∧ (t.core k).errTimes = times ++ [s.dev.time] ∧
        (t.dev.fo.coreret.getLsbD k.val = true ↔ fo.coreret.getLsbD k.val = true ∨ tooMany) ∧
        (fo.coreret.getLsbD k.val = false → tooMany → (t.casc (cascOf c)).gangs = [])
      let reexec := x.id.rx = true ∧ x.id.task = false
      let struck := fun (i : Instr) =>
        (x.cnt.att < replayMax (s.core k) → strikes i fun t => let y := t.ctx c
          y.cnt.att = x.cnt.att + 1 ∧ y.cnt.rplTotal = x.cnt.rplTotal + 1 ∧ y.regs = { x.regs with pc := x.reg.start } ∧
            y.front = x.reg.front) ∧
        (replayMax (s.core k) ≤ x.cnt.att → x.id.sys = false → reexec → ∀ w o, x.work = some w →
          s.op w.disp.op = some o → strikes i fun t => itemEnded t c ∧ ∃ p, t.op w.disp.op = some p ∧
            let again : Item := { w.item with avoid := some (cascOf c), ord := o.entered + 1 }
            (w.item.fb = false → again ∈ p.restart ∧ ((s.casc (cascOf c)).gangs = [] →
              (∀ i ∈ o.restart, i.avoid.isSome = true ∧ i.ord ≤ o.entered) → p.restart = o.restart ++ [again])) ∧
            (w.item.fb = true → again ∈ p.fallback)) ∧
        (replayMax (s.core k) ≤ x.cnt.att → x.id.sys = false → ¬ reexec → x.trap.tvec ≠ 0 →
          strikes i fun t => trapped x (t.ctx c) 11 0 x.reg.start) ∧
        (replayMax (s.core k) ≤ x.cnt.att → x.id.sys = true → ∀ id o, ctxOp x = some id → s.op id = some o →
          (s.queue o.queue).st ≠ .error → strikes i fun t => (t.queue o.queue).ecode = 5 ∧
            ((t.queue o.queue).st = .error ∨ (t.queue o.queue).st = .disabled) ∧ (t.half (halfOf c)).unc = true)
      (x.older = none →
        (∀ b, x.bank = .running → x.cnt.att = 0 ∨ x.reg.count ≠ 0 → struck (.detectedError ⟨c, b, .replay⟩)) ∧
        (∀ n d u, (s.core k).checks[n]? = some d → d.ctx = c → d.epoch = x.reg.epoch → u.hit = true →
          checksumPass { d.due with new := flipBit d.due.new u } = false → struck (.checksumCompare k n u))) ∧
      (∀ r, x.older = some r → r.epoch < x.reg.epoch → x.reg.epoch ≤ x.epochs → x.bank = .running →
        replayMax (s.core k) ≤ x.cnt.att → x.reg.count ≠ 0 → x.id.sys = false → ¬ reexec →
        strikes (.detectedError ⟨c, true, .replay⟩) fun t => let y := t.ctx c
          y.older = some r ∧ y.trap = x.trap ∧ y.bank = .running ∧ y.reg.start = x.reg.start ∧
            (y.reg.fault.map (·.cause)) = some 11) ∧
      (∀ b r, x.bank = .running → regionOf x (errorRegion x b) = some r → 0 < x.cnt.att → r.count = 0 →
        strikes (.detectedError ⟨c, b, .replay⟩) fun t => t.ctx c = x) ∧
      (∀ n d, (s.core k).checks[n]? = some d → checksumPass d.due = true →
        exec (.checksumCompare k n ⟨false, 0, 0, 0⟩) s =
          .next (s.modCore k fun q => { q with checks := q.checks.eraseIdx n }))) ∧
  ((∀ s c va acc e, (s.ctx c).bank = .running → va.toNat < 0x7F00_0000_0000 → inHeap (s.ctx c).heap va = false →
      ((s.core (coreOf c)).tlb.find? fun t => t.hit (asidOf s (s.ctx c)) va.toNat) = none →
      ((s.half (halfOf c)).tlb.find? fun t => t.hit (asidOf s (s.ctx c)) va.toNat) = none →
      walk s (asidOf s (s.ctx c)) va.toNat = .leaf e →
      ∃ t, exec (.pageWalk c va acc) s = .next t ∧ e ∈ (t.core (coreOf c)).tlb ∧ e ∈ (t.half (halfOf c)).tlb ∧
        t.mem = s.mem ∧ (t.ctx c).regs = (s.ctx c).regs) ∧
    (∀ s h q, s.memOk → firstRequest (unwritten s h) = some q → let r := (s.half h).prq
      ringOk s r 32 = true → ringFull r = false → (s.half h).cpQuiet = false →
      let at_ := ringKey s (r.base.toNat + 32 * (r.tail.toNat % ringEntries r))
      ∃ t, exec (.pageRequestWrite h) s = .next t ∧ memNat t.mem at_ 32 = prqRecord s q.ctx q.x q.req % 2 ^ 256 ∧
        (∀ b, ¬ (at_ ≤ b ∧ b < at_ + 32) → memRead t.mem b = memRead s.mem b) ∧
        (t.half h).prq = { r with tail := r.tail + 1 } ∧ (t.ctx q.ctx).regs = (s.ctx q.ctx).regs ∧
        match q.slot with
        | none => (t.ctx q.ctx).preq = some { q.req with written := true }
        | some i => (t.ctx q.ctx).preq = (s.ctx q.ctx).preq ∧ ∀ v, (s.core (coreOf q.ctx)).saved[i]? = some (some v) →
            (t.core (coreOf q.ctx)).saved[i]? =
              some (some { v with ctx := { v.ctx with preq := some { q.req with written := true } } })))

/-- PREEMPT_REQUEST (spec/18 R361): a running, waiting or trapped context of an operator without a partner discards what
has not retired and is halted at the start of its oldest region, with the count of its attempts and the length of
that region kept; one in a handler is to start the handler again, at TVEC.addr with what the trap frame holds; a
faulted one is halted as it stands. Nothing happens to another context. EVICT and RESTORE (spec/16 R321, R322,
spec/18 R362, R363): a halted context moves to a save slot with its tiles and its templates, its bank is empty and
keeps its generation, and memory changes in the place of the slot alone; restored, it runs again with its identity,
and, if its slot was not written, with its registers and all that its checkpoint holds; contexts of lower classes
that the co-issue rule keeps from running beside it are halted; an uncorrectable error in what was saved is a trap
with cause 11. BANK_SWITCH (spec/16 R321, R322): a halted context resumes when the other bank's higher class is
faulted or has waited for the threshold, which marks it as switched, and ordinarily when its bank is free for it,
with the contexts of lower classes halted that the co-issue rule keeps from running beside it. The model's choice:
that a resumption makes room among lower classes (entry 82), what a handler that starts again finds (entry 33), what
a saved context is (entry 37) and the length over a halt (entry 75). -/
def Obligations.Preemption : Prop :=
  (∀ s c, (s.casc (cascOf c)).hold = false → let x := s.ctx c
      ((ctxOp x).bind s.op).all (fun o => o.partner.isNone) = true →
      (x.bank = .running → isEnding x = false →
        ∃ t, exec (.preemptRequest c) s = .next t ∧ let y := t.ctx c
          y.bank = .halted ∧ y.reg.len = (oldest x).len ∧
          (x.trap.inh = false → y.regs = { x.regs with pc := (oldest x).start } ∧ y.front = (oldest x).front) ∧
          (x.trap.inh = true → y.regs = { x.regs with pc := x.trap.tvec } ∧ y.reg.start = x.trap.tvec ∧
            ∀ f, x.trap.frame = some f → frameOf y = f) ∧
          y.cnt = { x.cnt with rplTotal := x.cnt.rplTotal + 1 } ∧ y.id = x.id ∧ y.trap = x.trap ∧
          (∀ d, d ≠ c → t.ctx d = s.ctx d)) ∧
      (x.bank = .faulted → exec (.preemptRequest c) s =
        .next (s.modCtx c fun x => { x with bank := .halted, switched := false, waited := 0 }))) ∧
  ((∀ s c i, s.memOk → evictable s c = true → freeSave (s.core (coreOf c)) = some i →
      let x := s.ctx c
      ∃ t, exec (.evict c) s = .next t ∧
        (t.core (coreOf c)).saved.toList[i]? =
          some (some { bank := bankOf c, ctx := x, tiles := heldTiles s c, area := areaCells s c
                       under := slotCells t (coreOf c) i, bad := false }) ∧
        (t.ctx c).bank = .empty ∧ (t.ctx c).id.gen = x.id.gen ∧ (t.ctx c).work = none ∧
        (∀ b, (∀ a, slotKey s (coreOf c) i = some a → ¬ (a ≤ b ∧ b < a + 2 ^ 18)) → memRead t.mem b = memRead s.mem b) ∧
        t.ctx (otherBank c) = { s.ctx (otherBank c) with switched := false } ∧
        (∀ d, d ≠ c → d ≠ otherBank c → t.ctx d = s.ctx d)) ∧
    (∀ s c i v, heldClock s c = false → nextSaved (s.core (coreOf c)) (bankOf c) = some (i, v) →
      (s.ctx c).bank = .empty → v.tiles.length ≤ ((s.core (coreOf c)).slots.toList.filter (·.isNone)).length →
      (∀ w, v.ctx.work = some w → coIssueOk s (cascOf c) w.disp w.cur true = true) → v.ctx.preq = none →
      ∃ t, exec (.restore c) s = .next t ∧ ((t.core (coreOf c)).saved.toList[i]?).join = none ∧
        (∀ w, v.ctx.work = some w → ∀ d ∈ conflicts s (cascOf c) w.disp w.cur, (t.ctx d).bank = .halted) ∧
        ((∀ w, v.ctx.work = some w → conflicts s (cascOf c) w.disp w.cur = []) →
          (∀ d, d ≠ c → t.ctx d = s.ctx d) ∧ let y := t.ctx c
          (v.bad = false → y.bank = .running ∧ y.id = v.ctx.id ∧ y.work = v.ctx.work ∧
            (slotCells s (coreOf c) i = v.under → y.regs = v.ctx.regs ∧ y.front = v.ctx.front ∧ y.fpc = v.ctx.fpc ∧
              y.trap = v.ctx.trap ∧ y.tok = v.ctx.tok ∧ y.flags = v.ctx.flags ∧ y.stage = v.ctx.stage)) ∧
          (v.bad = true → slotCells s (coreOf c) i = v.under → v.ctx.older = none → v.ctx.id.sys = false →
            v.ctx.trap.tvec ≠ 0 → trapped v.ctx y 11 0 v.ctx.reg.start)))) ∧
  (∀ s k, (s.casc (cascOfCore k)).hold = false → let c := ctxIn k 0
      let x := s.ctx c
      let aside := fun (d : CtxId) => ∃ w, x.work = some w ∧ d ∈ conflicts s (cascOf c) w.disp w.cur
      x.bank = .halted → x.preq = none → (s.ctx (ctxIn k 1)).switched = false → (s.ctx (ctxIn k 1)).bank ≠ .halted →
      (switchDue s c = true → exec (.bankSwitch k) s =
        .next (s.modCtx c fun x => { x with bank := .running, waited := 0, switched := true })) ∧
      (switchDue s c = false → bankFreeFor s c x = true → (∀ d, ¬ aside d) → exec (.bankSwitch k) s =
        .next (s.modCtx c fun x => { x with bank := .running, waited := 0 })) ∧
      (switchDue s c = false → bankFreeFor s c x = true → ∃ t, exec (.bankSwitch k) s = .next t ∧
        (t.ctx c).bank = .running ∧ (t.ctx c).regs = x.regs ∧ ∀ d, aside d → (t.ctx d).bank = .halted) ∧
      (switchDue s c = false → bankFreeFor s c x = false → exec (.bankSwitch k) s = .next s))

/-- GANG_FORM (spec/16 R315, R316, R320, R323, R324): of the real-time operators with items to deal the one with the
earliest deadline has the next gang, on the first cascade in order on which it can be placed, and with it a gang of
its partner, if that has items left; an operator whose own items have no gang has one of its fallback items. With
none of the real-time class the standard class is served, weighted round-robin over its queues: the queue whose turn
it is while its weight lasts, then the next one that has an operator to deal, the oldest launch of a queue first.
With none of these the background class is served round-robin, one gang for each queue in turn. GANG_START (spec/12
R227, R229, spec/16 R312, R318, R324): the items of a gang begin in one step, each in the bank of its tier, and the
tiers without one run filler; the gang that is reserved for the partner of its operator begins in the same step.
TASK_POP and TASK_REFILL (spec/14 R291, R292, spec/16 R325): an idle bank starts the oldest task of its cascade,
with its frame in s2 and its join counter in s3, with the dispatch set of the fallback operator when a fallback item
has posted it; spilled entries come on chip in order. The model's choice: how many gangs a cascade is reserved for,
and that a gang takes its banks as it starts (entry 23); fallback entries (entry 70); the trap registers stay at a
start (entry 35); spilled entries (entry 37); OPINFO.fb of a task (entry 24). -/
def Obligations.GangsAndTasksStart : Prop :=
  (∀ s h o, let u : Unit_ := ⟨o, false⟩
      s.op o.id = some o →
      let forms := fun (f : State → Prop) => ∃ t, exec (.gangForm h) s = .next t ∧ f t
      let x := s.half h
      let first := fun (cls : Nat) => ∃ ps, ((dealable s h cls).filter fun p => p.queue == o.queue) = o :: ps
      let after := fun (q r : QueueId) => (r - (q + 1)).val
      (o ∈ dealable s h 0 → (∀ p ∈ dealable s h 0, p ≠ o → dueBefore o p ∧ ¬ dueBefore p o) →
        (∀ g, chooseCasc s u h = some g → let s' := formOn u h g s
          (pairOf s' o = none → forms fun t => gangFormed s t h u g) ∧
          (∀ r g', pairOf s' o = some r → chooseCasc s' ⟨r, false⟩ (pairHalf s' r) = some g' →
            forms fun t => gangFormed s s' h u g ∧ gangFormed s' t (pairHalf s' r) ⟨r, false⟩ g')) ∧
        (∀ g, chooseCasc s u h = none → chooseCasc s ⟨o, true⟩ h = some g →
          forms fun t => gangFormed s t h ⟨o, true⟩ g)) ∧
      (∀ g, chooseCasc s u h = some g → dealable s h 0 = [] → first 1 → o.partner = none →
        (0 < x.stdLeft → o.queue = x.lastStd → forms fun t => gangFormed s t h u g ∧
          t.half h = { x with stdLeft := x.stdLeft - 1 }) ∧
        (x.stdLeft = 0 → (∀ p ∈ dealable s h 1, after x.lastStd o.queue ≤ after x.lastStd p.queue) →
          forms fun t => gangFormed s t h u g ∧
            t.half h = { x with lastStd := o.queue, stdLeft := max (s.queue o.queue).wt.toNat 1 - 1 })) ∧
      (∀ g, chooseCasc s u h = some g → dealable s h 0 = [] → dealable s h 1 = [] → first 2 → o.partner = none →
        (∀ p ∈ dealable s h 2, after x.lastBg o.queue ≤ after x.lastBg p.queue) →
        forms fun t => gangFormed s t h u g ∧ t.half h = { x with lastBg := o.queue })) ∧
  (∀ s g k bank, (s.casc g).gangs = [k] → gangFree s g k bank →
      let area := fun (c : CtxId) (b : Nat) => areaKey c ≤ b ∧ b < areaKey c + 0x2000
      (k.fb = true ∨ (s.op k.op).bind (pairOf s) = none ∧ pairGang s k = none →
        ∃ t, exec (.gangStart g) s = .next t ∧ (t.casc g).gangs = [] ∧
          (t.half (halfOfCasc g)).gangs = (s.half (halfOfCasc g)).gangs + 1 ∧
          (∀ m ∈ k.items, ∀ it, m.2 = some it → itemBegun s t (bank m.1) k.disp it) ∧
          (∀ m ∈ k.items, m.2 = none → (t.ctx (bank m.1)).bank = .filler) ∧
          (∀ b, (∀ m ∈ k.items, ¬ area (bank m.1) b) → memRead t.mem b = memRead s.mem b)) ∧
      (∀ g' k' bank', k.fb = false → pairGang s k = some (g', k') → g' ≠ g → (s.casc g').gangs = [k'] →
        gangFree s g' k' bank' →
        ∃ t, exec (.gangStart g) s = .next t ∧ (t.casc g).gangs = [] ∧ (t.casc g').gangs = [] ∧
          (∀ m ∈ k.items, ∀ it, m.2 = some it → itemBegun s t (bank m.1) k.disp it) ∧
          (∀ m ∈ k'.items, ∀ it, m.2 = some it → itemBegun s t (bank' m.1) k'.disp it))) ∧
  ((∀ s c q ts o, let g := cascOf c
      (refill 64 (s.casc g)).tasks = q :: ts → q.ready = true → bankIdle s c = true → (s.casc g).hold = false →
      s.op q.op = some o → let d := if q.fb then o.fbDisp.getD o.disp else o.disp
      taskFits s c d q.cur = true → d.tcnt = 0 →
      ∃ t, exec (.taskPop c) s = .next t ∧ let y := t.ctx c
        y.bank = .running ∧ y.regs.pc = q.code ∧ readS y 1 = d.args ∧ (y.work.map (·.disp)) = some d ∧ readS y 2 = q.frame ∧ readS y 3 = q.join ∧
        y.id.gen = (s.ctx c).id.gen + 1 ∧ y.id.task = true ∧ y.id.sys = false ∧ y.front.loops = noLoops ∧
        (t.casc g).tasks = ts ∧ (∀ d, d ≠ c → t.ctx d = s.ctx d)) ∧
    (∀ s g, ∃ t, exec (.taskRefill g) s = .next t ∧ let a := s.casc g
      let b := t.casc g
      b.tasks ++ b.spill = a.tasks ++ a.spill ∧ (b.spill = [] ∨ 64 ≤ b.tasks.length) ∧
        a.tasks.length ≤ b.tasks.length ∧ (∀ j, j ≠ g → t.casc j = s.casc j) ∧ t.ctxs = s.ctxs ∧ t.mem = s.mem))

/-- WEIR_DRAIN and POSTED_ACK (spec/11 R209, R211, R215, spec/19 R369): a committed entry that nothing precedes, or a
posted line, is written under its mask at its home and leaves its list; no other byte changes. One whose home has
been struck is lost: uncorrectable data of its context, with its address in TVAL. The model's choice: the order of a
write and older reductions (entry 29). -/
def Obligations.WritesReachTheirHomes : Prop :=
  ∀ s, s.memOk → let lands := fun (t : State) (w : LineWrite) =>
    (∀ i, i < 64 → w.mask.getLsbD (2 * i) = true → w.mask.getLsbD (2 * i + 1) = true →
      memRead t.mem (w.line + i) = w.data.extractLsb' (8 * i) 8) ∧
    (∀ b, touchesByte w b = false → memRead t.mem b = memRead s.mem b)
    let plain := fun (l : List WeirEntry) => l.map fun e => { e with cont := false, pool := false }
    (∀ h n e, (s.half h).weir[n]? = some e → drainReady s ((s.half h).weir.take n) e = true →
      (struckAt s e.w.line = false → ∃ t, exec (.weirDrain h n) s = .next t ∧ lands t e.w ∧
        t = { s with mem := t.mem, halves := s.halves.set h.val (t.half h) } ∧
        t.half h = { s.half h with weir := (t.half h).weir } ∧
        plain (t.half h).weir = plain ((s.half h).weir.eraseIdx n) ∧
        (((s.half h).weir.all fun u => !u.cont) = true → (t.half h).weir = (s.half h).weir.eraseIdx n)) ∧
      (struckAt s e.w.line = true → let x := s.ctx e.ctx
        x.bank = .running → x.id.gen = e.gen → (s.casc (cascOf e.ctx)).hold = false → x.older = none →
        x.id.sys = false → x.trap.tvec ≠ 0 →
        ∃ t, exec (.weirDrain h n) s = .next t ∧ trapped x (t.ctx e.ctx) 11 e.va x.reg.start)) ∧
    (∀ c n p, (s.ctx c).sync.posted[n]? = some p → homeShut s p.w.line = false →
      (((s.ctx c).sync.posted.take n).all fun q => q.w.line != p.w.line) = true →
      ∃ t, exec (.postedAck c n) s = .next t ∧ lands t p.w ∧
        t = { s with mem := t.mem, ctxs := s.ctxs.set c.val (t.ctx c), cores := t.cores } ∧ coresSame s t ∧
        t.ctx c = { s.ctx c with sync := { (s.ctx c).sync with posted := (s.ctx c).sync.posted.eraseIdx n } })

/-- REDUCTION_APPLY (spec/05 R95 to R101): the oldest committed request of a context is applied, all of it or some of
its elements, each as one read-modify-write at its home, and what has been applied leaves the buffer. An addition of
f32 without `.det` may be merged with others that wait for the same place, in a grouping that is not specified
(spec/05 R96): each addend of it leaves the request that it came from, once, and every other request stays.
DEFERRED_EFFECT_APPLY on a record's word (spec/14 R278, R285 to R289, spec/15 R308): the effect leaves the context's
list, the word of the record takes its value, the claim that it ends is gone, and the release is recorded with its
TIME and scope; no other byte of memory changes. A `tlsig` at the alias of a queue advances the timeline of the
queue. A join counter that reaches 0 makes its post: a task of the continuation record, or a post that is held while
its cascade has no entry free. The items of a `grais` join those that wait, in ascending order of their linear
index, and those of a fallback item join the fallback list. A signal at system scope waits while a committed entry
of its context is left. JOIN_POST_RETRY (spec/14 R290, R291): the oldest held post of a cascade with an entry free
is made of its record. The model's choice: which reductions merge (entry 13) and which elements of one go together
(entry 56) are free values; their order with writes (entry 29); to whom a fallback item adds items (entry 24). -/
def Obligations.EffectsTakePlace : Prop :=
  (∀ s c r, ((s.ctx c).sync.red.find? fun r => r.committed) = some r → effectBefore s c .s r.seq = false →
      writesBefore s c r = false → (r.items.all fun i => !homeShut s i.1) = true →
      let n := if r.wide then 8 else 4
      let word := fun (l : List (Nat × Nat)) (b : Nat) => l.any fun i => decide (i.1 ≤ b) && decide (b < i.1 + n)
      ((r.op = 10 → r.det = true ∨ ∀ d, ∀ q ∈ (s.ctx d).sync.red, q.committed = true → d = c ∧ q.seq = r.seq) →
        ∃ t now, exec (.reductionApply c) s = .next t ∧
          now.Sublist r.items ∧ (r.items ≠ [] → now ≠ []) ∧ (r.items.length ≤ 1 → now = r.items) ∧
          t.mem = now.foldl
            (fun m i => memPutNat m i.1 n (atomicOf r.op (8 * n) (memNat m i.1 n) i.2)) s.mem ∧
          (∀ b, word now b = false → memRead t.mem b = memRead s.mem b) ∧
          t = { s with mem := t.mem, ctxs := s.ctxs.set c.val (t.ctx c), cores := t.cores, freeCtr := t.freeCtr } ∧
          coresSame s t ∧
          t.ctx c = { s.ctx c with sync := { (s.ctx c).sync with red := itemsLeft now r.seq (s.ctx c).sync.red } }) ∧
      (∀ k x, r.op = 10 → r.det = false → r.wide = false → r.items = [(k, x)] →
        (∀ d, ((s.ctx d).sync.red.map (·.seq)).Nodup) →
        ∃ t, ∃ l : List Addend, ∃ free m, exec (.reductionApply c) s = .next t ∧
          (l.map fun a => (a.ctx, a.seq)).Nodup ∧
          (∀ a ∈ l, (a.ctx, a.seq) ≠ (c, r.seq) ∧ ∃ q, q ∈ (s.ctx a.ctx).sync.red ∧ q.committed = true ∧ q.op = 10 ∧
            q.det = false ∧ q.seq = a.seq ∧ (k, a.val) ∈ q.items ∧
            ∀ p ∈ (t.ctx a.ctx).sync.red, p.seq = a.seq →
              p = { q with items := q.items.filter fun i => i.1 != k } ∧ p.items ≠ []) ∧
          (∀ d, ∀ q ∈ (s.ctx d).sync.red, (d, q.seq) ≠ (c, r.seq) → (∀ a ∈ l, (a.ctx, a.seq) ≠ (d, q.seq)) →
            q ∈ (t.ctx d).sync.red) ∧
          memNat t.mem k 4 = atomicOf 10 32 (memNat s.mem k 4) (mergeSum free m (x :: l.map (·.val))) % 2 ^ 32 ∧
          (∀ b, ¬ (k ≤ b ∧ b < k + 4) → memRead t.mem b = memRead s.mem b) ∧
          ∀ q ∈ (t.ctx c).sync.red, q.seq ≠ r.seq)) ∧
  (∀ s c n d, s.memOk → (s.ctx c).sync.deferred[n]? = some d → d.retired = true →
      effectBefore s c d.stream d.seq = false → unacked s c d.seq d.all d.base d.len = false →
      effectReach s d.eff = true →
      let time := match d.clamp with
        | none => timeOf s c
        | some k => BitVec.ofNat 64 (max k.toNat (halfTime s (halfOf c)).toNat)
      let inWeir := ∃ w ∈ (s.half (halfOf c)).weir, w.ctx = c ∧ w.committed = true
      (∀ key v, d.eff = .tlsig key v → d.scope = 5 → inWeir → exec (.deferredEffectApply c n) s = .next s) ∧
      (¬ inWeir ∨ d.scope ≠ 5 ∨ (∀ key v, d.eff ≠ .tlsig key v) →
      let writes := fun (key at_ : Nat) (v : Word) => ∃ t, exec (.deferredEffectApply c n) s = .next t ∧
        memWord t.mem at_ = v ∧ (∀ b, ¬ (at_ ≤ b ∧ b < at_ + 8) → memRead t.mem b = memRead s.mem b) ∧
        (t.ctx c).sync.deferred = (s.ctx c).sync.deferred.eraseIdx n ∧ (t.ctx c).regs = (s.ctx c).regs ∧
        ⟨key, .ctx c, d.scope, time⟩ ∈ t.stamps ∧
        (∀ k, k ∈ (t.ctx c).sync.claims ↔ k ∈ (s.ctx c).sync.claims ∧ claimEffect k ≠ d.eff)
      (∀ key gen, d.eff = .rel key gen → let w := memWord s.mem (key + 0x18)
        w = lockWord c gen → writes key (key + 0x18) (w &&& ~~~(1#64 <<< 63))) ∧
      (∀ key v, d.eff = .ringpub key v → memWord s.mem (key + 0x20) = BitVec.ofNat 64 v →
        writes key (key + 0x20) (BitVec.ofNat 64 (v + 1))) ∧
      (∀ key v, d.eff = .ringfree key v → memWord s.mem (key + 0x30) = BitVec.ofNat 64 v →
        writes key (key + 0x30) (BitVec.ofNat 64 (v + 1))) ∧
      (∀ key v, d.eff = .setw key v → writes key key v) ∧
      (∀ key v, d.eff = .tlsig key v → (memWord s.mem (key + 0x20)).getLsbD 63 = false →
        let w := memWord s.mem (key + 0x18)
        writes key (key + 0x18) (if 0 < (v - w).toInt then v else w)) ∧
      (∀ key v, d.eff = .tlsig key v → (memWord s.mem (key + 0x20)).getLsbD 63 = true →
        let q := queueNamed (memWord s.mem (key + 0x20))
        queueShut s q = false → ∃ t, exec (.deferredEffectApply c n) s = .next t ∧
          t.queue q = { s.queue q with tl := advanced (s.queue q).tl v } ∧ queuesSame s t q ∧ t.mem = s.mem ∧
          (t.ctx c).sync.deferred = (s.ctx c).sync.deferred.eraseIdx n ∧
          ⟨tlKey q, .ctx c, d.scope, time⟩ ∈ t.stamps) ∧
      (∀ key op asid fb, d.eff = .tjoin key op asid fb → memWord s.mem (key + 0x18) ≠ 1 →
        writes key (key + 0x18) (memWord s.mem (key + 0x18) - 1)) ∧
      (∀ key op asid fb, d.eff = .tjoin key op asid fb → memWord s.mem (key + 0x18) = 1 →
        let g := cascOf c
        let p : HeldPost := ⟨op, fb, memWord s.mem (key + 0x20), asid, c⟩
        ∃ t v, exec (.deferredEffectApply c n) s = .next t ∧ memWord v.mem (key + 0x18) = 0 ∧
          (∀ b, ¬ (key + 0x18 ≤ b ∧ b < key + 0x20) → memRead v.mem b = memRead s.mem b) ∧
          v.cascs = s.cascs ∧ v.ops = s.ops ∧ ⟨key, .ctx c, d.scope, time⟩ ∈ t.stamps ∧
          (t.ctx c).sync.deferred = (s.ctx c).sync.deferred.eraseIdx n ∧
          (postRoomAt g s = false → t.mem = v.mem ∧ (t.casc g).held = (s.casc g).held ++ [p]) ∧
          (postRoomAt g s = true → (s.op op).isSome = true → ∀ u r, postRecord p v = (u, .ok r) →
            t.mem = u.mem ∧ let q := refill 64 (u.casc g)
            (t.casc g).tasks ++ (t.casc g).spill = q.tasks ++ q.spill ++ [postTask p r])) ∧
      (d.eff = .tpost → ∃ t, exec (.deferredEffectApply c n) s = .next t ∧ t.mem = s.mem ∧
        ∀ g, (t.casc g).tasks = (s.casc g).tasks.map fun q =>
          if q.owner = c ∧ q.seq = d.seq then { q with ready := true } else q) ∧
      (∀ op fb k first o, d.eff = .grais op fb k first → s.op op = some o →
        ∃ t p, exec (.deferredEffectApply c n) s = .next t ∧ t.mem = s.mem ∧ t.op op = some p ∧
          (fb = false → p.pending.Perm (o.pending ++ raisedItems o.disp false first k) ∧ p.fallback = o.fallback ∧
            (s.dev.fo.fold = none → o.pending.Pairwise (fun a b => a.lin ≤ b.lin) →
              p.pending.Pairwise fun a b => a.lin ≤ b.lin)) ∧
          (fb = true → p.pending = o.pending ∧ ∃ l, p.fallback.Perm (o.fallback ++ l) ∧
            (l.map fun i => { i with ord := 0 }) = raisedItems (o.fbDisp.getD o.disp) true first k ∧
            ((∀ i ∈ o.fallback, i.ord ≤ o.entered) → p.fallback = o.fallback ++ l))))) ∧
  (∀ s g p ps u r, (s.casc g).held = p :: ps → postRoomAt g s = true → cascOf p.by_ = g → (s.op p.op).isSome = true →
      postRecord p (s.modCasc g fun x => { x with held := ps }) = (u, .ok r) →
      ∃ t, exec (.joinPostRetry g) s = .next t ∧ t.mem = u.mem ∧ (t.casc g).held = ps ∧
        let q := refill 64 (u.casc g)
        let e : TaskEntry :=
          { op := p.op, fb := p.fb, code := r.code, frame := r.frame, join := r.join, cur := r.cur.setWidth 2, owner := p.by_
            epoch := 0, seq := 0, ready := true }
        (t.casc g).tasks ++ (t.casc g).spill = q.tasks ++ q.spill ++ [e])

/-- WAITER_WAKE, WAITW_POLL and WAITW_TIMEOUT (spec/14 R279, R288): the one waiter of a key whose condition now holds
completes and leaves its stream; a `waitw` that found the watch table full reads its word again; one whose time has
passed completes without an acquire. ICACHE_REFILL (spec/12 R224, spec/22 R409): a line of main memory enters the
instruction cache of a core as it stands in memory, in place of an older copy. OUTBOUND_READ_TIMEOUT (spec/21 R395):
a scalar load of the outbound window at the head of the L stream completes with all ones, and no trap is raised. The
model's choice: the order of grants (entry 30). -/
def Obligations.WaitersGoOn : Prop :=
  (∀ s w e es st tok perf, (s.ctx w.ctx).q.get w.stream = e :: es → canRun s w.ctx = true → mayGo s w.ctx w.stream = true →
      e.begun = true →
      (∀ u, headOf true e.instr = some (st, tok, perf) → attempt w.stream tok perf w.ctx e s = .done u →
        let goesOn := fun (i : Instr) => exec i s =
          .next (u.modCtx w.ctx fun x => { x with q := x.q.set w.stream (x.q.get w.stream).tail })
        (s.waiters.filter (fun v => v.key == w.key) = [w] → goesOn (.waiterWake w.key)) ∧
        (waiterOf s w.ctx .l = some w → w.stream = .l → w.polled = true → goesOn (.waitwPoll w.ctx))) ∧
      (∀ o u key, waiterOf s w.ctx .l = some w → w.stream = .l → w.role = .word → e.instr = .waitw o → o.tok = Tok.none →
        o.imm.getLsbD 23 = false → behindFault (s.ctx w.ctx) e = false →
        s.waiters = [w] → ((s.ctx w.ctx).sync.posted.all fun p => p.w.line != key - key % 64) = true →
        syncXlate w.ctx .l .load 8 e.a (actFor w.ctx e.epoch s) = (u, .ok key) →
        waitHolds o.subop.toNat (memWord u.mem key) e.b = false →
        let us := o.imm.toNat % 2 ^ 16
        0 < us → us * 1000 ≤ (timeOf s w.ctx).toNat - w.since.toNat →
        ∃ t, exec (.waitwTimeout w.ctx) s = .next t ∧ (t.ctx w.ctx).q.l = es ∧ t.waiters = [] ∧
          (t.ctx w.ctx).cnt = (u.ctx w.ctx).cnt ∧ t.mem = u.mem)) ∧
  (∀ s k line, line % 64 = 0 → line < dramC s →
      ∃ t, exec (.icacheRefill k line) s = .next t ∧
        (t.core k).icache.find? (fun l => l.line == line) = some ⟨line, memLineRead s.mem line⟩ ∧
        t = { s with cores := s.cores.set k.val (t.core k), freeCtr := s.freeCtr + 1 } ∧
        t.core k = { s.core k with icache := (t.core k).icache }) ∧
  (∀ s c o e es u k, canRun s c = true → (s.ctx c).q.parked = [] → (s.ctx c).reads = [] → e.sample = none → (s.ctx c).q.l = e :: es → e.instr = .lds o →
      o.tok = Tok.none → behindFault (s.ctx c) e = false → sluiceOpen (s.ctx c) 0 = true → tySigned o.ty = false →
      let n := scalarLen o.ty
      xlateList c .load n [(0, word (e.a.toInt + o.off.toInt))] (actFor c e.epoch { s with lostRead := true }) =
        (u, .ok [(0, k)]) → isHost k = true → o.v.setWidth 5 ≠ 0 →
      ∃ t, exec (.outboundReadTimeout c) s = .next t ∧ readS (t.ctx c) (o.v.setWidth 5) = word (256 ^ n - 1 : Nat) ∧
        (t.ctx c).q.l = es ∧ (t.ctx c).trap = (u.ctx c).trap ∧ (t.ctx c).reg.fault = (u.ctx c).reg.fault ∧
        t.lostRead = false)

/-- OWNCTL and OWNHB (spec/21 R398, R399): the claim of a free device, at one TIME by priority, and of a handover in
time, the release with its election, the handover, the candidacy and the heartbeat; a write of OWNCTL as a register
sets the candidacy of any master, and hbto, to and ho for the owner. A write of BAR0 by a master that is not the
owner is dropped and counted, up to FFFFH (spec/21 R397, R398). Register writes of the owner (spec/00 R8, spec/03
R48, R49, R52, R56, R416, spec/04 R63, spec/12 R246, spec/13 R266, spec/14 R292, spec/16 R323, spec/17 R331, spec/18
R363, spec/20 R385, R389): the fields of the register take the bits of the value; under another gsz every byte of
main memory keeps its place in its channel; a ring register that describes no ring sets berr, and of the
page-request ring raises vector 64 + h. The model's choice: claims at one TIME (entry 76) and how time-outs are
counted (entry 60), a change of gsz (entry 74), pending marks (entry 63) and the mask bit of a vector (entry 6). -/
def Obligations.Ownership : Prop :=
  (∀ s m target on, let o := s.dev.owner
      let now := s.dev.time
      let becomes := fun (i : Instr) (p : Owner) => exec i s = .next (s.modDev fun d => { d with owner := p })
      let code : Master → BitVec 2 := fun m => match m with | .fn0 => 0 | .fn1 => 1 | .i3c => 2 | .spi => 3
      let elected := ([3, 0, 1, 2] : List (BitVec 2)).find? fun c => o.cand.getLsbD c.toNat && c != o.own
      let afterElection := match elected with
        | some c => { o with ho := false, v := true, own := c, beat := now, claimAt := none }
        | none => { o with ho := false, v := false }
      let mine := o.v = true ∧ o.own = code m
      let inTime := o.ho = true ∧ (now - o.hoFrom).toNat < 100000000
      let rank : BitVec 2 → Nat := fun c => if c = 3 then 0 else c.toNat + 1
      let first := o.v = false ∨ (o.claimAt = some now ∧ rank (code m) < rank o.own)
      let bit : BitVec 4 := 1#4 <<< (code m).toNat
      let candidate : Bool → BitVec 4 := fun on => if on then o.cand ||| bit else o.cand &&& ~~~bit
      (first → becomes (.ownctlClaim m) { o with v := true, own := code m, beat := now, claimAt := some now }) ∧
      (¬ first → inTime → o.target = code m →
        becomes (.ownctlClaim m) { o with ho := false, v := true, own := code m, beat := now, claimAt := none }) ∧
      (¬ first → ¬ (inTime ∧ o.target = code m) → exec (.ownctlClaim m) s = .next s) ∧
      (mine → becomes (.ownctlRelease m) afterElection) ∧
      (mine → becomes (.ownctlHandover m target) { o with ho := true, target := code target, hoFrom := now }) ∧
      (mine → becomes (.ownhbWrite m) { o with beat := now }) ∧
      becomes (.ownctlCandidate m on) { o with cand := candidate on } ∧
      (∀ v : Word, v.getLsbD 8 = false → v.getLsbD 3 = false →
        let p := { o with cand := candidate (v.getLsbD (12 + (code m).toNat)) }
        (¬ mine → becomes (.registerWrite 0x10_C000 ⟨m, v⟩) p) ∧
        (mine → becomes (.registerWrite 0x10_C000 ⟨m, v⟩) { p with
          hbto := v.extractLsb' 4 4, ho := v.getLsbD 9, target := v.extractLsb' 10 2
          hoFrom := if v.getLsbD 9 then now else o.hoFrom })) ∧
      (o.v = true → 2 ^ o.hbto.toNat * 1000000 ≤ (now - o.beat).toNat → becomes .heartbeatExpiry afterElection) ∧
      (o.ho = true → ¬ inTime → becomes .handoverTimeout { o with ho := false })) ∧
  (∀ s w n q g off, owns s w.master = false → off ≠ 0x10_C000 →
      ∀ i ∈ [Instr.memcfgWrite w, .toctlWrite n w, .qctlWrite q w, .tqctlWrite g w, .registerWrite off w,
          .ownctlRelease w.master, .ownhbWrite w.master, .foctlGo w, .cascopWrite g w],
        exec i s = .next (s.modDev fun d => { d with owner := { d.owner with
          ndrop := if d.owner.ndrop.toNat = 65535 then d.owner.ndrop else d.owner.ndrop + 1 } })) ∧
  (∀ s w, owns s w.master = true → let v := w.value
      let dev := fun (i : Instr) (f : Device → Device) => exec i s = .next (s.modDev f)
      dev (.registerWrite 0x10_0008 w) (fun d => { d with asidtab := v.extractLsb' 12 32 }) ∧
      dev (.registerWrite 0x10_3000 w) (fun d => { d with fo :=
        { d.fo with thr := v.extractLsb' 32 16, win := v.extractLsb' 16 16, foen := v.getLsbD 0 } }) ∧
      dev (.registerWrite 0x10_5000 w) (fun d => { d with bswt := v.extractLsb' 0 16 }) ∧
      dev (.registerWrite 0x10_9200 w) (fun d =>
        { d with lim := BitVec.ofNat 8 (max 10 (min 150 (v.toNat % 256))) }) ∧
      dev (.registerWrite 0x10_C018 w) (fun d => { d with boot := { d.boot with outbase := v.extractLsb' 12 52 } }) ∧
      (∀ q : QueueId, exec (.registerWrite (0x10_5100 + 8 * q.val) w) s =
        .next (s.modQueue q fun x => { x with wt := v.extractLsb' 0 8 })) ∧
      (∀ (c : CtxId) (k : Fin 5), exec (.registerWrite (0x10_A000 + 0x40 * c.val + 8 * k.val) w) s =
        .next (s.modCtx c fun x => { x with sluice := x.sluice.set k.val (v.extractLsb' 0 8) })) ∧
      (∀ k : CoreId, exec (.registerWrite (0x10_8000 + 8 * k.val) w) s = .next (s.modCore k fun x =>
        { x with
          csaveBase := if (x.saved.toList.all fun t => t.isNone) then v.extractLsb' 21 23 else x.csaveBase
          csaveEn := v.getLsbD 8 })) ∧
      (s.memOk → ∃ t, exec (.memcfgWrite w) s = .next t ∧ t = { s with dev := t.dev, mem := t.mem } ∧
        t.dev = { s.dev with
          gsz := if s.dev.lock = true ∨ ∃ q : QueueId, (s.queue q).en = true then s.dev.gsz
            else BitVec.ofNat 13 (min (v.toNat / 2 ^ 16 % 2 ^ 13) (dramC s / 2 ^ 25))
          lock := s.dev.lock || v.getLsbD 63 } ∧
        (t.dev.gsz = s.dev.gsz → t.mem = s.mem) ∧
        ((∀ b ∈ s.mem, isDram b.1 = true → b.1 < dramC s) →
          (∀ b, b < dramC s →
            memRead t.mem (channelPa t (channelOf s b) (channelOffset s b)) = memRead s.mem b) ∧
          (∀ b, isDram b = false → memRead t.mem b = memRead s.mem b))) ∧
      (∀ g, (∀ q : QueueId, (s.queue q).en = false) → exec (.tqctlWrite g w) s =
        .next (s.modCasc g fun x => { x with tqEn := v.getLsbD 63, tqLgsz := v.extractLsb' 0 4 })) ∧
      (∀ n : TurnoutId, (s.turnout n).en = false → v.getLsbD 63 = true →
        let t := { s.turnout n with feo := v.extractLsb' 32 24, slsz := v.extractLsb' 16 16, lgn := v.extractLsb' 0 4 }
        let t' := { t with en := turnoutOk s t, cfg := !turnoutOk s t, pending := [] }
        exec (.toctlWrite n w) s = .next { s with turnouts := s.turnouts.set n.val t' }) ∧
      (∀ q : QueueId, let at_ := 0x10_6000 + 0x40 * q.val
        let writes := fun (off : Nat) (f : Queue → Queue) =>
          exec (.registerWrite off w) s = .next (if (s.queue q).en then s else s.modQueue q f)
        writes at_ (fun x => { x with base := v &&& 0x0000_0FFF_FFFF_FFC0#64 }) ∧
          writes (at_ + 0x18) (fun x => { x with tl := v })) ∧
      (∀ n : TurnoutId, let at_ := 0x10_1000 + 0x40 * n.val
        let x := s.turnout n
        let writes := fun (off : Nat) (y : Turnout) =>
          exec (.registerWrite off w) s = .next { s with turnouts := s.turnouts.set n.val y }
        (x.en = false → writes (at_ + 0x08) { x with wbase := v.extractLsb' 20 17 } ∧
          writes (at_ + 0x10) { x with pbase := v.extractLsb' 16 28 } ∧
          writes (at_ + 0x18) { x with ws := v.getLsbD 63, recAddr := v.extractLsb' 6 38 }) ∧
        (x.en = true → ∀ off ∈ [0x08, 0x10, 0x18], exec (.registerWrite (at_ + off) w) s = .next s) ∧
        writes (at_ + 0x20) { x with
          ovf := v.extractLsb' 48 16, perr := x.perr && !v.getLsbD 1, rerr := x.rerr && !v.getLsbD 0 }) ∧
      (∀ h : HalfId, let at_ := 0x10_0100 + 0x20 * h.val
        let x := s.half h
        let checked := fun (size : Nat) (r : RingReg) => { r with berr := !ringOk s r size }
        let based := fun (r : RingReg) => { r with base := v &&& 0x0000_0FFF_FFFF_FFC0#64 }
        let headed := fun (r : RingReg) => { r with head := v.extractLsb' 32 16, lgsz := v.extractLsb' 0 4 }
        let half := fun (off : Nat) (y : Half) =>
          exec (.registerWrite off w) s = .next { s with halves := s.halves.set h.val y }
        let requests := fun (off : Nat) (r : RingReg) => ∃ t, exec (.registerWrite off w) s = .next t ∧
          t.half h = { x with prq := r } ∧
          t.msixLog = s.msixLog ++ (if r.berr && !x.prq.berr &&
            !(s.dev.fns[(ownerFn s).val].msix[64 + h.val]).getLsbD 96 then [⟨ownerFn s, 64 + h.val⟩] else [])
        half at_ { x with pool := checked 8 (based x.pool) } ∧
        half (at_ + 0x08)
          { x with pool := checked 8 { x.pool with tail := v.extractLsb' 16 16, lgsz := v.extractLsb' 0 4 } } ∧
        requests (at_ + 0x10) (checked 32 (based x.prq)) ∧ requests (at_ + 0x18) (checked 32 (headed x.prq)) ∧
        half (0x10_9300 + 0x10 * h.val) { x with samp := checked 32 (based x.samp) } ∧
        half (0x10_9308 + 0x10 * h.val) { x with samp := checked 32 (headed x.samp) }))

/-- BAR2_ACCESS, TURNOUT_WRITE and TURNOUT_READ (spec/21 R394, spec/04 R64, R65): a write or a read of the aperture
outside every window goes to main memory at its offset, with ones beyond it; a write to a window goes to the buffer
of its turnout, and one that fills a frame end publishes the slot; a read of a window returns its bytes. The model's
choice: what of a turnout is checked when (entry 55). -/
def Obligations.HostAccesses : Prop :=
  (∀ s w, s.memOk → turnoutAt s w.off = none → w.off + w.data.length ≤ barSize s → w.off + w.data.length ≤ dramC s →
    ∃ t, exec (.bar2Access (.write w)) s = .next t ∧ t = { s with mem := t.mem } ∧
      (∀ i, i < w.data.length → some (memRead t.mem (w.off + i)) = w.data[i]?) ∧
      (∀ b, b < w.off ∨ w.off + w.data.length ≤ b → memRead t.mem b = memRead s.mem b)) ∧
  (∀ s r, turnoutAt s r.off = none → r.off + r.len ≤ barSize s → exec (.bar2Access (.read r)) s = .next
    { s with reads := s.reads ++
        [(List.range r.len).map fun i => if r.off + i < dramC s then memRead s.mem (r.off + i) else 255] }) ∧
  (∀ s w n k, s.memOk → turnoutAt s w.off = some n → turnoutWaits s n = false → let t0 := s.turnout n
    let o := w.off - t0.window
    let r := objRead s.mem k
    o + w.data.length ≤ t0.size → turnoutRec s t0 = some k → r.hdr.toNat % 16 = 2 → r.lgn = t0.lgn.toNat →
    ((slotsOf t0 o w.data.length).all fun j => !slotHeld t0 r j) = true →
    ((slotsOf t0 o w.data.length).all fun j => !touches8 o w.data.length (frameEnd t0 j)) = true →
    ∃ t, exec (.turnoutWrite w) s = .next t ∧ t.turnout n = t0 ∧
      (∀ i, i < w.data.length → some (memRead t.mem (t0.buffer + o + i)) = w.data[i]?) ∧
      (∀ b, b < t0.buffer + o ∨ t0.buffer + o + w.data.length ≤ b → memRead t.mem b = memRead s.mem b)) ∧
  (∀ s w n k j, s.memOk → turnoutAt s w.off = some n → turnoutWaits s n = false → let t0 := s.turnout n
    let o := w.off - t0.window
    let r := objRead s.mem k
    o + w.data.length ≤ t0.size → turnoutRec s t0 = some k → r.hdr.toNat % 16 = 2 → r.lgn = t0.lgn.toNat →
    slotsOf t0 o w.data.length = [j] → slotHeld t0 r j = false → covers8 o w.data.length (frameEnd t0 j) = true →
    t0.pending = [] → 1 < t0.slots → r.w1.toNat % t0.slots = j → (t0.buffer + o + w.data.length ≤ k ∨ k + 64 ≤ t0.buffer) →
    ∃ t, exec (.turnoutWrite w) s = .next t ∧ memWord t.mem (k + 0x18) = r.w0 + 1 ∧ memWord t.mem (k + 0x20) = r.w1 + 1 ∧
      (t.turnout n).pub = t0.pub + 1 ∧ (t.turnout n).pending = [] ∧
      (⟨k, .half 0, 5, halfTime s 0⟩ : Stamp) ∈ t.stamps) ∧
  (∀ s r n, turnoutAt s r.off = some n → let t0 := s.turnout n
    let o := r.off - t0.window
    exec (.turnoutRead r) s = .next { s with reads := s.reads ++
      [if o + r.len ≤ t0.size then memBytes s.mem (t0.buffer + o) r.len else List.replicate r.len 255] })

/-- NOTIFY_WRITE, PACKET_FETCH and PACKET_POLL (spec/17 R330, R333, R334, spec/19 R375): a notified index that is not
beyond the ring becomes wi, one that is not newer is ignored, one beyond the ring is error code 9, and one that
comes at a quiescent point or while the queue is being adopted is latched; the packet at rd is taken whole, with its
valid bit written back as 0, and rd moves on; a reserved type is error code 1, a privileged one on a queue without
priv is error code 2, and a ring that cannot be read is error code 4. SIGNAL, WRITE and FENCE (spec/17 R335, R340,
R341, spec/15 R306): once what the queue's operators have committed has drained, the timeline advances, the value is
written and the fence is passed; a fence of scope 0 does not wait for the drain, and one of a reserved scope is
error code 1. The model's choice: states and error codes in the corners of the rules (entries 42, 43). -/
def Obligations.PacketsFetched : Prop :=
  (∀ s q, let x := s.queue q
      (∀ n, n.queue = q → s.dev.stopped = false →
        ((s.half x.home).cpQuiet = true ∨ heldQueue s q = true → exec (.notifyWrite n) s = .next
          (s.modHalf x.home fun h => { h with cpLatched := h.cpLatched ++ [.notifyWrite n] })) ∧
        ((s.half x.home).cpQuiet = false → heldQueue s q = false →
          ((n.index - x.wi).toInt ≤ 0 → exec (.notifyWrite n) s = .next s) ∧
          (0 < (n.index - x.wi).toInt → (n.index - x.rd).toNat ≤ 2 ^ x.lgsz.toNat →
            ∃ t, exec (.notifyWrite n) s = .next t ∧ (t.queue q).wi = n.index ∧ (t.queue q).rd = x.rd ∧
              (t.queue q).tl = x.tl ∧ queuesSame s t q ∧ t = { s with queues := t.queues }) ∧
          (0 < (n.index - x.wi).toInt → 2 ^ x.lgsz.toNat < (n.index - x.rd).toNat → x.st ≠ .error → x.st ≠ .draining →
            ∃ t, exec (.notifyWrite n) s = .next t ∧ errored (t.queue q) 9 (servedPkt x)))) ∧
      (s.memOk → mayFetch s q = true → s.lostRead = false →
        let k := ringKey s (pktPa x)
        let w := dwords 8 (memNat s.mem k 64)
        let ty := w[0].toNat / 256 % 256
        let general := 1 ≤ ty ∧ ty ≤ 7
        let privileged := 0x20 ≤ ty ∧ ty ≤ 0x24
        ∀ i ∈ [Instr.packetFetch q, .packetPoll q],
          let fails := fun (code : Nat) => ∃ t, exec i s = .next t ∧ errored (t.queue q) code x.rd
          let taken := ringPlaceOk s (pktPa x) 64 = true ∧ nextQueue s x.home = some q ∧ w[0].getLsbD 0 = true
          (ringPlaceOk s (pktPa x) 64 = true → w[0].getLsbD 0 = false → exec i s = .next s) ∧
          (ringPlaceOk s (pktPa x) 64 = false → nextQueue s x.home = some q → fails 4) ∧
          (taken → ¬ general → ¬ privileged → fails 1) ∧
          (taken → privileged → x.priv = false → fails 2) ∧
          (taken → general ∨ (privileged ∧ x.priv = true) →
            ∃ t, exec i s = .next t ∧
              t.queue q = { x with rd := x.rd + 1, st := (t.queue q).st, pkts := x.pkts ++ [freshPkt x.rd w] } ∧
              memWord t.mem k = w[0] &&& ~~~1#64 ∧
              (∀ b, b < k ∨ k + 8 ≤ b → memRead t.mem b = memRead s.mem b) ∧
              queuesSame s t q ∧ t.ctxs = s.ctxs ∧ t.ops = s.ops))) ∧
  (∀ s q p, let x := s.queue q
      (beginning s q 3 = some p → queueDrained s q = true → noQuiet s →
        ∃ t, exec (.signal q) s = .next t ∧
          t.queue q = { x with
            tl := advanced x.tl p.words[1], st := (t.queue q).st, pkts := x.pkts.filter fun r => r.index != p.index } ∧
          (⟨tlKey q, .half x.home, 5, cpTime s q⟩ : Stamp) ∈ t.stamps ∧ queuesSame s t q ∧ t.mem = s.mem ∧ t.ctxs = s.ctxs) ∧
      (∀ u k, s.memOk → beginning s q 6 = some p → queueDrained s q = true →
        let n := if p.words[3].getLsbD 0 then 8 else 4
        p.words[1].toNat % n = 0 → partXlate x.home none x.asid true p.words[1] s = (u, .ok k) →
        ∃ t, exec (.write q) s = .next t ∧ memNat t.mem k n = p.words[2].toNat % 256 ^ n ∧
          (∀ b, b < k ∨ k + n ≤ b → memRead t.mem b = memRead u.mem b) ∧ pktEnded x (t.queue q) p ∧
          (⟨k, .half x.home, 5, cpTime s q⟩ : Stamp) ∈ t.stamps ∧ queuesSame s t q ∧ t.ctxs = s.ctxs) ∧
      (beginning s q 7 = some p → let scope := p.words[1].toNat % 8
        (scope ≤ 5 → scope = 0 ∨ queueDrained s q = true →
          ∃ t, exec (.fencePacket q) s = .next t ∧ pktEnded x (t.queue q) p ∧ queuesSame s t q ∧
            t = { s with queues := t.queues }) ∧
        (5 < scope → ∃ t, exec (.fencePacket q) s = .next t ∧ errored (t.queue q) 1 p.index)))

/-- LAUNCH and GRAPH (spec/17 R338, R339, R345, R347, R348): the operator of the record runs, with its entry, arguments
and deadline from the record unless the packet gives others; a record that is refused is error code 3, and so is a
misaligned one; a graph begins at its first card with its budget less one, of which 0 stands for 2^32.
OPERATOR_COMPLETE (spec/15 R307, spec/16 R323, spec/17 R335, R350, R351): an operator of which nothing is left to
run, and whose writes, reductions and effects have reached their homes, completes: it is no longer there, a
real-time one past its deadline is counted, and its LAUNCH completes; the walk of a graph whose OP card launched it
goes on to the next card, or no longer counts it among its async operators. The model's choice: error codes in the
corners of the rules (entry 43) and a deadline of 0 (entry 44). -/
def Obligations.PacketsLaunch : Prop :=
  (∀ s q p, let x := s.queue q
      (beginning s q 1 = some p →
        (p.words[1].toNat % 128 ≠ 0 → ∃ t, exec (.launch q) s = .next t ∧ errored (t.queue q) 3 p.index) ∧
        (∀ u n, p.words[1].toNat % 128 = 0 → cpRead q p.words[1] 128 s = (u, .ok n) → let w := dwords 16 n
          (recordOk s w = false → ∃ t, exec (.launch q) s = .next t ∧ errored (t.queue q) 3 p.index) ∧
          (∀ v m l, recordOk s w = true → recBit w 5 = false → cpRead q w[3] 64 u = (v, .ok m) →
            loopLevels (dwords 8 m) = some l →
            let a : LaunchArgs := ⟨q, p.index, p.words[1], p.words[2], p.words[3], false, 0, p.words[0].extractLsb' 32 32⟩
            let o := newOperator v a w none l
            needsFenced v o = false → eligibleOk v o = true → s.op (s.opCount + 1) = none →
            ∃ t y, exec (.launch q) s = .next t ∧ t.op (s.opCount + 1) = some y ∧ t.opCount = s.opCount + 1 ∧
              y.queue = q ∧ y.pkt = p.index ∧ y.state = .running ∧ y.disp.entry = w[2] ∧
              y.disp.args = (if p.words[2] = 0 then w[4] else p.words[2]) ∧
              y.deadline = (if p.words[3] = 0 then w[9] else p.words[3]) ∧ y.disp.heap = ⟨w[5] &&& 0x0000_FFFF_FFFF_FFFF, w[6] &&& 0x0001_FFFF_FFFF_FFFF, w[7]⟩ ∧
              y.disp.asid = x.asid ∧ y.disp.trips = l.trips ∧ y.pending.length = product l.spatial ∧
              hasPkt t q p.index (fun r => r.op = some (s.opCount + 1)) ∧ queuesSame s t q ∧ t.ctxs = s.ctxs))) ∧
      (∀ n u, unreadGraph s q = none → beginning s q 2 = some p → let b := p.words[2].toNat % 2 ^ 32
        let budget := if b = 0 then 2 ^ 32 else b
        let g : GraphSt := ⟨p.words[1], p.words[1], none, budget, [], [], none⟩
        let s1 := beginPkt q p.index (modPkt q p.index (fun r => { r with graph := some g }) s)
        cpRead q p.words[1] 128 s1 = (u, .ok n) → let w := dwords 16 n
        (1 ≤ w[0].toNat % 16 → w[0].toNat % 16 ≤ 7 →
          ∃ t, exec (.graph q) s = .next t ∧
            hasPkt t q p.index (fun r => r.graph = some { g with words := some w, budget := budget - 1 }) ∧
            queuesSame s t q ∧ t.ctxs = s.ctxs ∧ t.ops = s.ops) ∧
        (w[0].toNat % 16 = 0 ∨ 7 < w[0].toNat % 16 →
          ∃ t, exec (.graph q) s = .next t ∧ errored (t.queue q) 8 p.index))) ∧
  (∀ s id o p, s.op id = some o → o.state = .running → opServed s o = true → opIdle s o = true → opSettled s id = true →
      (s.queue o.queue).pkts.find? (fun r => r.index == o.pkt) = some p → p.begun = true →
      (s.queue o.queue).st ≠ .error → (s.queue o.queue).st ≠ .disabled → (s.queue o.queue).st ≠ .draining →
      let late := o.disp.cls = 0 ∧ 0 < (halfTime s o.half - o.deadline).toInt
      let s1 := { s with ops := s.ops.filter fun r => r.id != id }
      let s2 := if late then s1.modHalf o.half fun h => { h with dlmiss := h.dlmiss + 1 } else s1
      let completes := fun (f : State → Prop) => ∃ t, exec (.operatorComplete id) s = .next t ∧ t.op id = none ∧
        queuesSame s t o.queue ∧ t.ctxs = s.ctxs ∧
        (t.half o.half).dlmiss = (s.half o.half).dlmiss + (if late then 1 else 0) ∧ f t
      (p.graph = none → completes fun t => pktEnded (s.queue o.queue) (t.queue o.queue) p ∧ t.mem = s.mem) ∧
      (∀ g v w, p.graph = some g → g.waitOp = some id → g.words = some v → cardThere s2 o.queue ⟨p, g, v⟩ v[1] w →
        completes fun t => walkedTo t o.queue ⟨p, g, v⟩ v[1] w g.loops g.asyncOps) ∧
      (∀ g, p.graph = some g → g.waitOp ≠ some id → completes fun t => t.mem = s.mem ∧
        hasPkt t o.queue p.index fun r => r.graph = some { g with asyncOps := g.asyncOps.filter fun n => n != id }))

/-- WAIT_TL, WAIT_MEM, its reads and its timeout (spec/17 R337, R342, R343): a wait ends once its timeline, of a queue
or of a timeline record, has reached its threshold, or the masked word meets its condition; else the queue waits, on
a failed read with a delay of 250 ns that doubles up to the cap of its class; the timeline of a queue in error is
error code 7, a record of another kind is error code 1, and the timeout is error code 6. The model's choice: states
and error codes in the corners of the rules (entries 42, 43). -/
def Obligations.PacketsWait : Prop :=
  ∀ s q p, let x := s.queue q
    (p.words[1].getLsbD 63 = true → let r := queueNamed p.words[1]
      let due := 0 ≤ ((s.queue r).tl - p.words[2]).toInt
      (beginning s q 4 = some p ∨ (beginning s q 4 = none ∧ openPkt s q 4 = some p)) →
        (due → ∃ t, exec (.waitTl q) s = .next t ∧ pktEnded x (t.queue q) p ∧ queuesSame s t q ∧
          t = { s with queues := t.queues }) ∧
        (¬ due → (s.queue r).st ≠ .error → ∃ t, exec (.waitTl q) s = .next t ∧
          hasPkt t q p.index (fun y => y.tlq = some r) ∧ queuesSame s t q ∧ t = { s with queues := t.queues }) ∧
        (¬ due → (s.queue r).st = .error →
          ∃ t, exec (.waitTl q) s = .next t ∧ errored (t.queue q) 7 p.index)) ∧
    (p.words[1].getLsbD 63 = false → ∀ s1, (beginning s q 4 = some p ∧ s1 = startWait q p.index s) ∨
        (beginning s q 4 = none ∧ openPkt s q 4 = some p ∧ s1 = s) →
      (∀ u g, tlTarget q p.words[1] s1 = (u, .ok g) → let due := 0 ≤ (tlValue u g - p.words[2]).toInt
        let shut := ∃ r, g = .queue r ∧ (u.queue r).st = .error
        (due → ∃ t, exec (.waitTl q) s = .next t ∧ pktEnded x (t.queue q) p ∧ queuesSame s t q ∧ t.mem = u.mem ∧
          t.ctxs = s.ctxs) ∧
        (¬ due → ¬ shut → ∃ t, exec (.waitTl q) s = .next t ∧ hasPkt t q p.index (fun y => ∀ r, g = .queue r → y.tlq = some r) ∧
          queuesSame s t q ∧ t.mem = u.mem ∧ t.ctxs = s.ctxs) ∧
        (¬ due → shut → ∃ t, exec (.waitTl q) s = .next t ∧ errored (t.queue q) 7 p.index)) ∧
      (∀ u v n m, cpRead q p.words[1] 8 s1 = (u, .ok n) → cpRead q (p.words[1] + 0x20) 8 u = (v, .ok m) → n ≠ 4 →
        ∃ t, exec (.waitTl q) s = .next t ∧ errored (t.queue q) 1 p.index) ∧
      (∀ u v u' n m key, cpRead q p.words[1] 8 s1 = (u, .ok n) → cpRead q (p.words[1] + 0x20) 8 u = (v, .ok m) → n = 4 →
        m = 0 → cpKey q false (p.words[1] + 0x18) v = (u', .ok key) → 0 ≤ (memWord u'.mem key - p.words[2]).toInt →
        0x18 ≤ key → ∃ t, exec (.waitTl q) s = .next t ∧ pktEnded x (t.queue q) p)) ∧
    (∀ c, c = p.words[4].toNat % 8 →
      (4 < c → beginning s q 5 = some p → ∃ t, exec (.waitMem q) s = .next t ∧ errored (t.queue q) 1 p.index) ∧
      (c ≤ 4 → ∀ u n, let holds := waitHolds c (BitVec.ofNat 64 n &&& p.words[3]) (p.words[2] &&& p.words[3])
        (beginning s q 5 = some p → p.delay = 0 → cpRead q p.words[1] 8 (startWait q p.index s) = (u, .ok n) →
          (holds = true → ∃ t, exec (.waitMem q) s = .next t ∧ pktEnded x (t.queue q) p ∧ queuesSame s t q ∧
            t.ctxs = s.ctxs) ∧
          (holds = false → ∃ t, exec (.waitMem q) s = .next t ∧
            hasPkt t q p.index (fun y => y.delay = 250 ∧ y.waitFrom = cpTime s q ∧ y.readAt = cpTime s q) ∧
            ((t.queue q).st = .waiting ↔ (x.pkts.head?.map (·.index)) = some p.index) ∧
            queuesSame s t q ∧ t.ctxs = s.ctxs)) ∧
        (openPkt s q 5 = some p → 0 < p.delay → p.delay ≤ (cpTime s q - p.readAt).toNat →
          cpRead q p.words[1] 8 s = (u, .ok n) →
          (holds = true → ∃ t, exec (.waitMemReread q) s = .next t ∧ pktEnded x (t.queue q) p ∧ queuesSame s t q ∧
            t.ctxs = s.ctxs) ∧
          (holds = false → ∃ t, exec (.waitMemReread q) s = .next t ∧
            hasPkt t q p.index (fun y => y.readAt = cpTime s q ∧ y.waitFrom = p.waitFrom ∧ y.delay =
              min (2 * p.delay) (if x.cls = 0 then 2000 else if x.cls = 1 then 64000 else 1000000)) ∧
            queuesSame s t q ∧ t.ctxs = s.ctxs)))) ∧
    (openPkt s q 5 = some p → let us := p.words[4].toNat / 2 ^ 32
      (us ≠ 0 → 1000 * us ≤ (cpTime s q - p.waitFrom).toNat →
        ∃ t, exec (.waitMemTimeout q) s = .next t ∧ errored (t.queue q) 6 p.index) ∧
      (us = 0 ∨ (cpTime s q - p.waitFrom).toNat < 1000 * us → exec (.waitMemTimeout q) s = .next s))

/-- INVAL (spec/03 R59, R60, spec/17 R344): every TLB of the part loses exactly the entries that the packet names by
ASID, page size and range, and every running context of which an outstanding region has used one of them is at the
start of the oldest such region again, without its uncommitted writes; a region that must be discarded and whose
clock is held keeps the packet waiting (spec/18 R364). The packet completes once, outside a fenced half, no
committed write and no engine command that used one of them is left. A reserved page size is error code 1. PAGE_RESP
(spec/03 R62, spec/17 R344, spec/18 R358): an answer of success readies the faulted context of its generation, one
of failure enters the handler with the cause and the address of its request; an answer for another generation, or
for a bank that is not faulted, changes no context, but a halted one keeps it with its request; one that comes while
the clock of its cascade is held is latched (spec/18 R364). The model's choice: a failed answer enters the handler
(entry 32), what a hold latches (entry 59) and the commands that INVAL waits for (entry 76). -/
def Obligations.InvalidationsAndAnswers : Prop :=
  (∀ s q p, let hint := p.words[1].toNat / 2 ^ 12 % 8
      let base := p.words[2].toNat % 2 ^ 32
      let len := p.words[3].toNat % 2 ^ 32
      let meets := fun (u n : Nat) => len = 0 ∨ (base < u + n ∧ u < base + len)
      let named := fun (e : TlbEntry) =>
        (if e.gl = true then p.words[1].getLsbD 9 = true
          else p.words[1].getLsbD 8 = true ∨ e.asid.toNat = p.words[1].toNat % 256) ∧
        (hint = 0 ∨ (e.big = true ∧ hint = 3) ∨ (e.big = false ∧ hint = 4)) ∧
        (if e.big = true then meets (32 * e.vpage) 32 else meets e.vpage 1)
      let hit := fun (r : Region) => ∃ e ∈ r.used, named e
      let struck := fun (c : CtxId) => (s.ctx c).bank = .running ∧ (hit (s.ctx c).reg ∨ ∃ r, (s.ctx c).older = some r ∧ hit r)
      let held := ∃ c, struck c ∧ (s.casc (cascOf c)).hold = true
      (beginning s q 0x20 = some p →
        ((hint = 0 ∨ hint = 3 ∨ hint = 4) → ¬ held → ∃ t, exec (.inval q) s = .next t ∧
          (∀ k e, e ∈ (t.core k).tlb ↔ e ∈ (s.core k).tlb ∧ ¬ named e) ∧
          (∀ h e, e ∈ (t.half h).tlb ↔ e ∈ (s.half h).tlb ∧ ¬ named e) ∧
          (∀ c r, struck c →
            (∀ o, (s.ctx c).older = some o → o.epoch < (s.ctx c).reg.epoch) →
            ((s.ctx c).older = some r ∧ hit r) ∨ (r = (s.ctx c).reg ∧ ∀ o, (s.ctx c).older = some o → ¬ hit o) →
            let y := t.ctx c
            y.regs = { (s.ctx c).regs with pc := r.start } ∧ y.front = r.front ∧ y.reg.count = 0 ∧ y.reg.used = [] ∧
              y.older = (if (s.ctx c).older = some r then none else (s.ctx c).older) ∧
              ∀ w ∈ (t.half (halfOf c)).weir, w.ctx = c → w.committed = false → w.epoch < r.epoch) ∧
          (∀ c, ¬ struck c → t.ctx c = s.ctx c) ∧
          hasPkt t q p.index (fun _ => True) ∧ queuesSame s t q) ∧
        ((hint = 0 ∨ hint = 3 ∨ hint = 4) → held → exec (.inval q) s = .next s) ∧
        (hint ≠ 0 → hint ≠ 3 → hint ≠ 4 → ∃ t, exec (.inval q) s = .next t ∧ errored (t.queue q) 1 p.index)) ∧
      (openPkt s q 0x20 = some p →
        let settled := (∀ h : HalfId, s.dev.fo.fenced ≠ some h → ∀ w ∈ (s.half h).weir, w.committed = true →
            ∀ e ∈ w.used, ¬ named e) ∧
          ∀ k : CoreId, s.dev.fo.fenced ≠ some (halfOfCore k) → ∀ a ∈ (s.core k).active, ∀ e ∈ a.used, ¬ named e
        (settled → ∃ t, exec (.invalComplete q) s = .next t ∧ pktEnded (s.queue q) (t.queue q) p ∧ queuesSame s t q ∧
          t = { s with queues := t.queues }) ∧
        (¬ settled → exec (.invalComplete q) s = .next s))) ∧
  (∀ s q p, beginning s q 0x21 = some p → let w := p.words[1]
      ∀ c, c = ctxIn (Fin.ofNat 64 (w.toNat % 64)) (Fin.ofNat 2 (w.toNat / 64 % 2)) →
      let x := s.ctx c
      let own := x.id.gen.toNat = w.toNat / 2 ^ 32
      ((s.casc (cascOf c)).hold = true → ∃ t, exec (.pageResp q) s = .next t ∧ t.ctxs = s.ctxs ∧ t.mem = s.mem ∧
        (t.casc (cascOf c)).latched =
          (s.casc (cascOf c)).latched ++ [.answer c (w.extractLsb' 32 32) (!w.getLsbD 7)] ∧
        pktEnded (s.queue q) (t.queue q) p) ∧
      ((s.casc (cascOf c)).hold = false →
      (∀ r, own → x.bank = .faulted → x.preq = some r →
        (w.getLsbD 7 = false → ∃ t, exec (.pageResp q) s = .next t ∧ t.ctx c = { x with bank := .running, preq := none } ∧
          pktEnded (s.queue q) (t.queue q) p ∧ (∀ d, d ≠ c → t.ctx d = s.ctx d) ∧ t.mem = s.mem) ∧
        (w.getLsbD 7 = true → x.id.sys = false → x.trap.tvec ≠ 0 → r.cause ≤ 13 →
          ∃ t, exec (.pageResp q) s = .next t ∧ let y := t.ctx c
            y.bank = .running ∧ y.preq = none ∧ y.id.sys = true ∧ y.trap.tcause = BitVec.ofNat 64 r.cause ∧
            y.trap.tval = r.va ∧ y.regs = { x.regs with pc := x.trap.tvec } ∧
            pktEnded (s.queue q) (t.queue q) p ∧ (∀ d, d ≠ c → t.ctx d = s.ctx d) ∧ t.mem = s.mem)) ∧
      (own → x.bank = .halted → ∃ t, exec (.pageResp q) s = .next t ∧ t.ctx c = { x with preq := x.preq.map fun r =>
          { r with answer := some (r.answer.getD (!w.getLsbD 7)) } } ∧ (∀ d, d ≠ c → t.ctx d = s.ctx d) ∧ t.mem = s.mem ∧
        pktEnded (s.queue q) (t.queue q) p) ∧
      (¬ own ∨ (x.bank ≠ .faulted ∧ x.bank ≠ .halted) → ∃ t, exec (.pageResp q) s = .next t ∧ t.ctxs = s.ctxs ∧
        t.mem = s.mem ∧ pktEnded (s.queue q) (t.queue q) p)))

/-- PATCH, its quiescent point and ATTEST (spec/17 R330, R338, R344, spec/21 R403, R404): a half stops while another has
still to stop; when all have stopped an image that verifies is loaded and measured in both and they resume, and one
that does not is error code 10; a report holds its magic, the nonce and the time and is written as a whole. When the
packet is gone because its queue is in error or disabled, the command processors that have stopped resume without
it. The model's choice: hash and signature are opaque (entry 11); nw 0 stands for 256 (entry 52). -/
def Obligations.PatchesAndReports : Prop :=
  (∀ s q p, beginning s q 0x22 = some p →
    (p.words[1].toNat % 64 = 0 → ∃ t, exec (.patch q) s = .next t ∧ hasPkt t q p.index (fun _ => True) ∧
      queuesSame s t q ∧ t = { s with queues := t.queues }) ∧
    (p.words[1].toNat % 64 ≠ 0 → ∃ t, exec (.patch q) s = .next t ∧ errored (t.queue q) 1 p.index)) ∧
  (∀ s h q p, openPatch s = some (q, p) → cpPresent s h = true →
    let s1 := s.modHalf h fun x => { x with cpQuiet := true }
    (allQuiet s1 = false → exec (.patchQuiesce h) s = .next s1) ∧
    (∀ u l, allQuiet s1 = true → (∀ k : HalfId, (s.half k).cpLatched = [] ∧ (s.half k).due = false ∧
        (s.half k).dueGo = false) →
      patchImage q p s1 = (u, .ok l) →
      (patchOk s.dev.straps.keyHash l = true → ∃ t, exec (.patchQuiesce h) s = .next t ∧ noQuiet t ∧
        (∀ k : HalfId, (t.half k).matches_ = patchMatches l ∧ (t.half k).cpVer.toNat = field l 4 4 % 2 ^ 32) ∧
        t.dev.boot = extendMeas 4 l s.dev.boot ∧ pktEnded (s.queue q) (t.queue q) p ∧ queuesSame s t q ∧
        t.ctxs = s.ctxs) ∧
      (patchOk s.dev.straps.keyHash l = false → (s.queue q).st ≠ .draining →
        ∃ t, exec (.patchQuiesce h) s = .next t ∧ noQuiet t ∧ errored (t.queue q) 10 p.index))) ∧
  (∀ s h, openPatch s = none → (∀ k : HalfId, (s.half k).cpLatched = [] ∧ (s.half k).due = false ∧
      (s.half k).dueGo = false) →
    ∃ t, exec (.patchQuiesce h) s = .next t ∧ noQuiet t ∧ t.queues = s.queues ∧ t.ctxs = s.ctxs ∧ t.mem = s.mem) ∧
  (∀ s q p u k, s.memOk → beginning s q 0x23 = some p → p.words[5].toNat % 4096 = 0 →
    partXlate (s.queue q).home none (s.queue q).asid true p.words[5] s = (u, .ok k) →
    ∃ t, exec (.attest q) s = .next t ∧ memNat t.mem k 4 = 0x54525142 ∧
      (∀ i : Fin 4, memWord t.mem (k + 0x20 + 8 * i.val) = p.words[i.val + 1]) ∧
      memWord t.mem (k + 0x240) = cpTime s q ∧
      (∀ b, b < k ∨ k + 4096 ≤ b → memRead t.mem b = memRead u.mem b) ∧
      (⟨k, .half (s.queue q).home, 5, cpTime s q⟩ : Stamp) ∈ t.stamps ∧ pktEnded (s.queue q) (t.queue q) p ∧ queuesSame s t q ∧ t.ctxs = s.ctxs)

/-- QUEUE_CFG and QCTL (spec/17 R331, R336, R337, R344): a queue that is not enabled takes the fields of an image, and
of one that is enabled only en and ie take effect; it is enabled with a ring of 2^4 to 2^16 packets from phase 5 on,
and its packets to come are skipped when it was in error; disabled, it drains while its operators run, and in its
error state it is disabled at once with its packets skipped; a reset leaves the error state. A QUEUE_CFG may name
its own queue, on which ops 1 and 2 are ignored. The model's choice: states in the corners of the rules (entry 42). -/
def Obligations.QueueControl : Prop :=
  ∀ s r, let x := s.queue r
    let fields := fun (v : Word) (x : Queue) =>
      { x with
        priv := v.getLsbD 62, ie := v.getLsbD 61, home := if v.getLsbD 60 then 1 else 0, cls := v.extractLsb' 58 2
        fn := if v.getLsbD 56 then 1 else 0, asid := v.extractLsb' 48 8, lgsz := v.extractLsb' 0 5 }
    (∀ w, owns s w.master = true → x.en = false → w.value.getLsbD 63 = false →
      (x.st ≠ .error → exec (.qctlWrite r w) s = .next (s.modQueue r (fields w.value))) ∧
      (x.st = .error → ∃ t, exec (.qctlWrite r w) s = .next t ∧ queuesSame s t r ∧ t = { s with queues := t.queues } ∧
        t.queue r = { fields w.value x with st := .disabled, rd := x.wi, pkts := [] })) ∧
    (∀ w, owns s w.master = true → x.en = true → let ie := w.value.getLsbD 61
      (w.value.getLsbD 63 = true → exec (.qctlWrite r w) s = .next (s.modQueue r fun y => { y with ie := ie })) ∧
      (w.value.getLsbD 63 = false →
        ∃ t, exec (.qctlWrite r w) s = .next t ∧ queuesSame s t r ∧ t = { s with queues := t.queues } ∧
          (x.st = .error → t.queue r = { x with ie := ie, en := false, st := .disabled, rd := x.wi, pkts := [] }) ∧
          (x.st ≠ .error → queueOps s r ≠ [] → t.queue r =
            { x with ie := ie, en := false, st := .draining, pkts := x.pkts.filter fun k => k.op.isSome }) ∧
          (x.st ≠ .error → queueOps s r = [] → t.queue r =
            { x with ie := ie, en := false, st := .disabled, pkts := [] }))) ∧
    (∀ w, owns s w.master = true → x.en = false → w.value.getLsbD 63 = true →
      (4 ≤ w.value.toNat % 32 → w.value.toNat % 32 ≤ 16 → s.dev.boot.phase = 5 → x.st ≠ .draining →
        ∃ t, exec (.qctlWrite r w) s = .next t ∧ queuesSame s t r ∧ t = { s with queues := t.queues } ∧
          t.queue r = { fields w.value x with
            en := true, st := (t.queue r).st, rd := if x.st = .error then x.wi else x.rd }) ∧
      (w.value.toNat % 32 < 4 ∨ 16 < w.value.toNat % 32 ∨ s.dev.boot.phase ≠ 5 ∨ x.st = .draining →
        exec (.qctlWrite r w) s = .next (s.modQueue r (fields w.value)))) ∧
    (∀ q p, beginning s q 0x24 = some p → r ≠ q → p.words[1].toNat % 64 = r.val →
      let op := p.words[1].toNat / 256 % 4
      let does := fun (i : Instr) (y : QState → Queue) => ∃ t, exec i s = .next t ∧ t.queue r = y (t.queue r).st ∧
        pktEnded (s.queue q) (t.queue q) p ∧ (∀ n, n ≠ r → n ≠ q → t.queue n = s.queue n) ∧
        t = { s with queues := t.queues }
      (op = 0 → x.en = false → does (.queueCfgWrite q) fun _ => fields p.words[3]
        { x with base := p.words[2] &&& 0x0000_0FFF_FFFF_FFC0#64 }) ∧
      (op = 0 → x.en = true → does (.queueCfgWrite q) fun _ => x) ∧
      (op = 1 → x.en = false → x.st ≠ .draining → 4 ≤ x.lgsz.toNat → x.lgsz.toNat ≤ 16 → s.dev.boot.phase = 5 →
        does (.queueCfgEnable q) fun st =>
          { x with en := true, st := st, rd := if x.st = .error then x.wi else x.rd }) ∧
      (op = 2 → x.st = .error →
        does (.queueCfgDisable q) fun _ => { x with en := false, st := .disabled, rd := x.wi, pkts := [] }) ∧
      (op = 2 → x.en = true → x.st ≠ .error → queueOps s r ≠ [] → does (.queueCfgDisable q) fun _ =>
        { x with en := false, st := .draining, pkts := x.pkts.filter fun k => k.op.isSome }) ∧
      (op = 2 → x.en = true → x.st ≠ .error → queueOps s r = [] → does (.queueCfgDisable q) fun _ =>
        { x with en := false, st := .disabled, pkts := [] }) ∧
      (op = 3 → x.st = .error → x.en = true → does (.queueCfgReset q) fun st => { x with rd := x.wi, st := st })) ∧
    (∀ p, beginning s r 0x24 = some p → p.words[1].toNat % 64 = r.val → let op := p.words[1].toNat / 256 % 4
      ∀ i, ((op = 0 ∧ i = .queueCfgWrite r ∧ x.en = true) ∨ (op = 1 ∧ i = .queueCfgEnable r) ∨
          (op = 2 ∧ i = .queueCfgDisable r) ∨ (op = 3 ∧ i = .queueCfgReset r ∧ x.st ≠ .error)) →
        ∃ t, exec i s = .next t ∧ pktEnded x (t.queue r) p ∧ queuesSame s t r ∧ t = { s with queues := t.queues })

/-- Job cards (spec/17 R337, R339, R351, R352): a card acts and the walk goes to the card that it names; COND by its
predicate; LOOPN to its body while its predicate holds and its maximum is not reached, counting, and past it with
its count dropped, and written where the card says; an async OP card is kept until it completes, another is waited
for; a SIGNAL advances a timeline of a queue or of a record; a WAIT waits for such a timeline (that of a queue in
error is error code 7) or, in memory mode, reads its word again with the back-off of WAIT_MEM, and times out with
error code 6; END completes the graph. The model's choice: error codes in the corners of the rules (entry 43). -/
def Obligations.CardsAct : Prop :=
  ∀ s q c w, let i := c.pkt.index
    let v := c.words
    let g := c.graph
    let pred := fun (n : Nat) => waitHolds (v[0].toNat / 16 % 8) (BitVec.ofNat 64 n &&& v[5]) (v[4] &&& v[5])
    (∀ u id, (cardsAt s q 1).head? = some c → nopOf s q < 16 →
      launchOp ⟨q, i, g.card, 0, 0, true, cardNumber g, c.pkt.words[0].extractLsb' 32 32⟩ v s = (u, .ok id) →
      (v[0].getLsbD 4 = false → ∃ t, exec (.opCard q) s = .next t ∧ t.ops = u.ops ∧
        hasPkt t q i (fun p => p.graph = some { g with waitOp := some id })) ∧
      (v[0].getLsbD 4 = true → let u1 := modGraph q i (fun g => { g with asyncOps := g.asyncOps ++ [id] }) u
        cardThere u1 q c v[1] w →
        ∃ t, exec (.opCard q) s = .next t ∧ t.ops = u.ops ∧ walkedTo t q c v[1] w g.loops (g.asyncOps ++ [id]))) ∧
    (∀ u n, (joinedAt s q 2).head? = some c → v[0].toNat / 16 % 8 ≤ 4 → cpRead q v[3] 8 s = (u, .ok n) →
      let next := if pred n then v[1] else v[2]
      cardThere u q c next w → ∃ t, exec (.cond q) s = .next t ∧ walkedTo t q c next w g.loops g.asyncOps) ∧
    (∀ u n, (joinedAt s q 3).head? = some c → v[0].toNat / 16 % 8 ≤ 4 → cpRead q v[3] 8 s = (u, .ok n) →
      let k := loopCount g g.card
      (pred n = true → k < v[6].toNat % 2 ^ 32 → (k = 0 → g.loops.length < 8) →
        let u1 := modGraph q i (setLoopCount g.card (k + 1)) u
        cardThere u1 q c v[1] w → ∃ t, exec (.loopn q) s = .next t ∧
          walkedTo t q c v[1] w ((g.card, k + 1) :: g.loops.filter fun r => r.1 != g.card) g.asyncOps) ∧
      (pred n = false ∨ (v[6].toNat % 2 ^ 32 ≤ k ∧ v[6].getLsbD 32 = false) → v[7] = 0 →
        let u1 := modGraph q i (setLoopCount g.card 0) u
        cardThere u1 q c v[2] w → ∃ t, exec (.loopn q) s = .next t ∧
          walkedTo t q c v[2] w (g.loops.filter fun r => r.1 != g.card) g.asyncOps) ∧
      (∀ u0 key, pred n = false ∨ (v[6].toNat % 2 ^ 32 ≤ k ∧ v[6].getLsbD 32 = false) → v[7] ≠ 0 →
        v[7].toNat % 8 = 0 → partXlate (s.queue q).home none (s.queue q).asid true v[7] u = (u0, .ok key) →
        let u1 := cpRelease (s.queue q).home key 4 { u0 with mem := memPutNat u0.mem key 8 k }
        let u2 := modGraph q i (setLoopCount g.card 0) u1
        cardThere u2 q c v[2] w → ∃ t, exec (.loopn q) s = .next t ∧ t.mem = (cpRead q v[2] 128 u2).1.mem ∧
          (⟨key, .half (s.queue q).home, 4, cpTime s q⟩ : Stamp) ∈ t.stamps ∧
          walkedTo t q c v[2] w (g.loops.filter fun r => r.1 != g.card) g.asyncOps) ∧
      (pred n = true → v[6].toNat % 2 ^ 32 ≤ k → v[6].getLsbD 32 = true →
        ∃ t, exec (.loopn q) s = .next t ∧ errored (t.queue q) 8 i)) ∧
    (∀ r, (joinedAt s q 4).head? = some c → queueDrained s q = true → v[2].getLsbD 63 = true → queueNamed v[2] = r →
      queueShut s r = false → cardThere (tlRaise (s.queue q).home (.queue r) v[3] s) q c v[1] w →
      ∃ t, exec (.signalCard q) s = .next t ∧ walkedTo t q c v[1] w g.loops g.asyncOps ∧
        (t.queue r).tl = advanced (s.queue r).tl v[3] ∧
        (⟨tlKey r, .half (s.queue q).home, 5, cpTime s q⟩ : Stamp) ∈ t.stamps) ∧
    (∀ u key, (joinedAt s q 4).head? = some c → queueDrained s q = true → v[2].getLsbD 63 = false →
      tlTarget q v[2] s = (u, .ok (.record key)) → (memWord u.mem (key + 0x20)).getLsbD 63 = false →
      let old := memWord u.mem (key + 0x18)
      let u1 := if 0 < (v[3] - old).toInt then { u with mem := memPutNat u.mem (key + 0x18) 8 v[3].toNat } else u
      let u2 := cpRelease (s.queue q).home key 5 u1
      cardThere u2 q c v[1] w →
      ∃ t, exec (.signalCard q) s = .next t ∧ walkedTo t q c v[1] w g.loops g.asyncOps ∧
        t.mem = (cpRead q v[1] 128 u2).1.mem ∧
        (⟨key, .half (s.queue q).home, 5, cpTime s q⟩ : Stamp) ∈ t.stamps) ∧
    (∀ r, (cardsAt s q 5).head? = some c → v[0].getLsbD 4 = false → v[0].toNat / 32 % 8 ≤ 4 → v[2].getLsbD 63 = true →
      queueNamed v[2] = r → 0 ≤ ((s.queue r).tl - v[3]).toInt →
      cardThere (if c.pkt.delay = 0 then modPkt q i (fun p => { p with waitFrom := cpTime s q }) s else s) q c v[1] w →
      ∃ t, exec (.waitCard q) s = .next t ∧ walkedTo t q c v[1] w g.loops g.asyncOps) ∧
    (∀ u y, cardsAt s q 5 = [c] → v[0].getLsbD 4 = false → v[0].toNat / 32 % 8 ≤ 4 →
      let now := cpTime s q
      let first := c.pkt.delay = 0
      tlTarget q v[2] (if first then modPkt q i (fun p => { p with waitFrom := now }) s else s) = (u, .ok y) →
      let due := 0 ≤ (tlValue u y - v[3]).toInt
      let shut := ∃ r, y = .queue r ∧ (u.queue r).st = .error
      (due → cardThere u q c v[1] w →
        ∃ t, exec (.waitCard q) s = .next t ∧ walkedTo t q c v[1] w g.loops g.asyncOps) ∧
      (¬ due → ¬ shut → first → ∃ t, exec (.waitCard q) s = .next t ∧ queuesSame s t q ∧
        hasPkt t q i fun p => p.waitFrom = now ∧ p.delay = 250 ∧ ∀ r, y = .queue r → p.tlq = some r) ∧
      (¬ due → ¬ shut → ¬ first → exec (.waitCard q) s = .next s) ∧
      (¬ due → shut → ∃ t, exec (.waitCard q) s = .next t ∧ errored (t.queue q) 7 i)) ∧
    (∀ u n, (cardsAt s q 5).head? = some c → v[0].getLsbD 4 = true → v[0].toNat / 32 % 8 ≤ 4 →
      let now := cpTime s q
      let first := c.pkt.delay = 0
      let s1 := if first then modPkt q i (fun p => { p with waitFrom := now }) s else s
      let holds := waitHolds (v[0].toNat / 32 % 8) (BitVec.ofNat 64 n &&& v[4]) (v[3] &&& v[4])
      (first ∨ c.pkt.delay ≤ (now - c.pkt.readAt).toNat → cpRead q v[2] 8 s1 = (u, .ok n) →
        (holds = true → cardThere u q c v[1] w →
          ∃ t, exec (.waitCard q) s = .next t ∧ walkedTo t q c v[1] w g.loops g.asyncOps) ∧
        (holds = false → ∃ t, exec (.waitCard q) s = .next t ∧ hasPkt t q i fun p => p.readAt = now ∧
          (first → p.waitFrom = now ∧ p.delay = 250) ∧ (¬ first → p.delay = min (2 * c.pkt.delay)
            (if (s.queue q).cls = 0 then 2000 else if (s.queue q).cls = 1 then 64000 else 1000000)))) ∧
      (¬ first → (now - c.pkt.readAt).toNat < c.pkt.delay → cardsAt s q 5 = [c] → exec (.waitCard q) s = .next s)) ∧
    (cardsAt s q 5 = [c] → c.pkt.delay ≠ 0 → let us := v[5].toNat / 2 ^ 32
      (us ≠ 0 → 1000 * us ≤ (cpTime s q - c.pkt.waitFrom).toNat →
        ∃ t, exec (.waitCardTimeout q) s = .next t ∧ errored (t.queue q) 6 i) ∧
      (us = 0 ∨ (cpTime s q - c.pkt.waitFrom).toNat < 1000 * us → exec (.waitCardTimeout q) s = .next s)) ∧
    ((joinedAt s q 6).head? = some c → cardThere s q c v[1] w →
      ∃ t, exec (.join q) s = .next t ∧ walkedTo t q c v[1] w g.loops g.asyncOps) ∧
    ((joinedAt s q 7).head? = some c → ∃ t, exec (.endCard q) s = .next t ∧ pktEnded (s.queue q) (t.queue q) c.pkt ∧
      queuesSame s t q ∧ t = { s with queues := t.queues })

/-- Resets (spec/21 R393, R400): a full reset brings every register to its reset value, keeps straps and fuses and host
memory, and RSTCTL.full makes it for the owner; a function level reset clears the interrupt table and the pending
bits of its function; BAR2 takes a size of 2^0 to 2^7 GiB. Measured start (spec/21 R401, R402, R403): as time passes
the boot ROM measures itself and makes phase 1; trained memory leads to phase 2; BOOTCTL.go begins the verification,
phase 3, in phases 2 and 6; uncorrectable data of the package give code 5; a package that verifies leads to phase 4
and then makes the part ready, with every TVEC at its entry, its patch in both command processors and MEAS1 to MEAS3
extended; one that does not leads to phase 6 with the code; the owner extends MEAS5 to MEAS7 by MEASD. The model's
choice: reset values that the spec does not give (entry 3), memory after a reset (entry 12), the PCIe registers
(entry 6), opaque hash and signature (entry 11) and the corners of measured start (entries 47, 48). -/
def Obligations.StartsAndResets : Prop :=
  (∀ s, let resets := fun (c : ResetCause) => ∃ t, exec (.fullReset c) s = .next t ∧
        t.ctxs = State.reset.ctxs ∧ t.cores = State.reset.cores ∧ t.cascs = State.reset.cascs ∧
        t.halves = State.reset.halves ∧ t.queues = State.reset.queues ∧ t.turnouts = State.reset.turnouts ∧
        t.ops = [] ∧ t.dev = { Device.reset with straps := s.dev.straps } ∧
        (s.memOk → ∀ b, 2 ^ 64 ≤ b → memRead t.mem b = memRead s.mem b)
      resets .powerOn ∧ resets .fundamental ∧
      (∀ w, owns s w.master = true → w.value.getLsbD 0 = true → resets (.rstctl w)) ∧
      (∀ w, owns s w.master = true → w.value.getLsbD 0 = false → exec (.fullReset (.rstctl w)) s = .next s) ∧
      (∀ fn : Fin 2, (fn = 0 ∨ s.dev.straps.dualh = true) → ∃ t, exec (.functionLevelReset fn) s = .next t ∧
        t.dev.fns.toList[fn.val]? = some ⟨Vector.replicate 66 0, 0⟩ ∧
        (∀ g : Fin 2, g ≠ fn → t.dev.fns.toList[g.val]? = s.dev.fns.toList[g.val]?) ∧
        t = { s with dev := { s.dev with fns := t.dev.fns, barLg := t.dev.barLg } }) ∧
      (∀ lg, lg ≤ 7 → exec (.resizableBarWrite lg) s = .next { s with dev := { s.dev with barLg := lg } })) ∧
  ((∀ s ok, exec (.dramTrainingDone ok) s = .next
      (if ok = true ∧ s.dev.boot.phase = 1 then modBoot (fun b => { b with phase := 2 }) s else s)) ∧
    (∀ s w, owns s w.master = true → let v := w.value
      let s1 := modBoot (fun b => { b with len4k := v.extractLsb' 44 20, pa := v.extractLsb' 12 32 }) s
      let ready := s.dev.boot.phase = 2 ∨ s.dev.boot.phase = 6
      (v.getLsbD 0 = false ∨ ¬ ready → exec (.bootctlGo w) s = .next s1) ∧
      (v.getLsbD 0 = true → ready → exec (.bootctlGo w) s =
        .next (modBoot (fun b => { b with phase := 3, bad := false }) s1))) ∧
    (∀ s0 n, 0 < n → let s := s0.modDev fun d => { d with time := d.time + BitVec.ofNat 64 n }
      let b := s0.dev.boot
      let pa := 4096 * b.pa.toNat
      let f := packageField s pa
      let len := f 4 4
      let bytes := packageBytes s pa
      let patch := bytes (f 0x28 8) (f 0x30 8)
      let rom := natBytes 8 s0.dev.straps.romVersion.toNat ++ natBytes 64 s0.dev.straps.keyHash.toNat
      let fails := fun (code : BitVec 8) => passNs n s0 = modBoot (fun b => { b with phase := 6, err := code }) s
      (b.phase = 0 → ∃ t, passNs n s0 = t ∧ t.dev.boot.phase = 1 ∧ t.dev.boot.meas = (extendMeas 0 rom b).meas ∧
        t = modBoot (fun _ => t.dev.boot) s) ∧
      (b.phase = 3 ∨ b.phase = 4 → b.bad = true → fails 5) ∧
      (b.phase = 3 → b.bad = false →
        (∀ code, verifyPackage s pa b.len4k.toNat = some code → fails code) ∧
        (verifyPackage s pa b.len4k.toNat = none → passNs n s0 = modBoot (fun b => { b with phase := 4 }) s)) ∧
      (b.phase = 4 → b.bad = false → ∃ t, passNs n s0 = t ∧
        t.dev.boot.phase = 5 ∧ t.dev.boot.err = 0 ∧ t.dev.boot.pver.toNat = f 8 4 ∧
        (∀ c, (t.ctx c).trap.tvec = BitVec.ofNat 64 (f 0x10 8 + f 0x20 8) &&& 0x0000_FFFF_FFFF_FFF8#64) ∧
        (∀ c, { t.ctx c with trap := { (t.ctx c).trap with tvec := (s0.ctx c).trap.tvec } } = s0.ctx c) ∧
        (∀ h : HalfId, (t.half h).matches_ = patchMatches patch ∧ (t.half h).cpVer.toNat = field patch 4 4) ∧
        t.dev.boot.meas = (extendMeas 3 (bytes (f 0x38 8) (f 0x40 8)) (extendMeas 2 patch
          (extendMeas 1 (bytes 0 0x100 ++ bytes (len - 5261) 1952) b))).meas) ∧
      (b.phase ≠ 0 → b.phase ≠ 3 → b.phase ≠ 4 → passNs n s0 = s)) ∧
    (∀ s w, owns s w.master = true → let v := w.value
      let b := { s.dev.boot with measIdx := v.extractLsb' 0 2 }
      (v.getLsbD 8 = false → exec (.measextGo w) s = .next (modBoot (fun _ => b) s)) ∧
      (v.getLsbD 8 = true → exec (.measextGo w) s = .next
        (modBoot (fun _ => extendMeas (5 + min (v.toNat % 4) 2) (natBytes 64 b.measd.toNat) b) s))))

/-- FAILOVER_TRIGGER, FOCTL_GO and the losses of an island (spec/13 R265, spec/19 R368 to R371, R376, R377): a half that
the other may adopt is fenced, its contexts and evicted contexts are lost with their generations raised, and its
queues are adopted, while what runs on the other half is not disturbed; without that possibility, or once it has
been adopted, it is struck, and its queues enter their error state with code 5; during an adoption a trigger on the
other half strikes both (the model's choice, log entry 77); at a quiescent point the trigger, or the owner's go, is
kept. ADOPTION (spec/19 R370, R372, R375, R376): after the fence the committed writes of the failed half drain and
the others are dropped; the remap folds its slices and gives its queues to the other half; the operators are
settled: one without REEXEC is aborted and counted, and its queue enters its error state; then its fo bit is set,
with the number of adopted queues and the duration in us. The model's choice: the corners of a failover (entry 46),
a trigger during one (entry 77), what waits for the remap (entry 78) and queues that drain (entry 42). -/
def Obligations.Failover : Prop :=
  (∀ s f, let s1 := if retiredCount s f ≤ 8 then s.modHalf f (fun h => { h with cpFatal := true }) else s
      let phase := s.dev.fo.phase.toNat
      let fenced := fun (i : Instr) => ∃ t, exec i s = .next t ∧
        t.dev.fo.phase = 1 ∧ t.dev.fo.src = f ∧ t.dev.fo.fenced = some f ∧ t.dev.fo.nq = 0 ∧
        t.dev.fo.nab = 0 ∧
        (∀ c, halfOf c = f → (t.ctx c).bank = .empty ∧ (t.ctx c).work = none ∧
          ((∀ w ∈ (s.core (coreOf c)).saved.toList, ∀ v, w = some v → v.ctx.id.gen ≠ (s.ctx c).id.gen + 1) →
            (t.ctx c).id.gen = (s.ctx c).id.gen + 1)) ∧
        (∀ k, halfOfCore k = f → (t.core k).active = [] ∧ (t.core k).tlb = [] ∧ (t.core k).saved = Vector.replicate 8 none) ∧
        (∀ c, halfOf c ≠ f → (t.ctx c).bank = (s.ctx c).bank ∧ (t.ctx c).work = (s.ctx c).work ∧
          (t.ctx c).id = (s.ctx c).id) ∧
        (∀ q, t.queue q =
          { s.queue q with adopted := decide ((s.queue q).home = f ∧ (s.queue q).st ≠ .disabled) })
      let struck := fun (l : List HalfId) => ∃ t, exec (.failoverTrigger f) s = .next t ∧
        t.dev.fo.phase = 6 ∧ t.dev.fo.src = f ∧ ∀ h ∈ l, (t.half h).struck = true ∧
          ∀ q, (s.queue q).home = h → (s.queue q).st ≠ .draining → (t.queue q).st = .error
      s.dev.stopped = false →
      (anyQuiet s = true → exec (.failoverTrigger f) s = .next (s.modHalf f fun h => { h with due := true })) ∧
      (anyQuiet s = false →
        (s.dev.fo.foen = false → exec (.failoverTrigger f) s = .next s1) ∧
        (s.dev.fo.foen = true →
          (1 ≤ phase → phase ≤ 4 → s.dev.fo.src = f → exec (.failoverTrigger f) s = .next s1) ∧
          (canAdopt s1 f = true → fenced (.failoverTrigger f)) ∧
          (canAdopt s1 f = false → phase = 0 ∨ 4 < phase → struck [f]) ∧
          (1 ≤ phase → phase ≤ 4 → s.dev.fo.src ≠ f → struck [0, 1]))) ∧
      (∀ w, owns s w.master = true → f = (if w.value.getLsbD 1 then 1 else 0) →
        (w.value.getLsbD 0 = false → exec (.foctlGo w) s = .next s) ∧
        (w.value.getLsbD 0 = true →
          (anyQuiet s = true → exec (.foctlGo w) s = .next (s.modHalf f fun h => { h with dueGo := true })) ∧
          (anyQuiet s = false → canAdopt s f = true → fenced (.foctlGo w)) ∧
          (anyQuiet s = false → canAdopt s f = false → exec (.foctlGo w) s = .next s))) ∧
      (∀ l, ∀ i ∈ [Instr.islandWatchdogExpiry f, .islandHealthLoss f l],
        exec i s = .next (s.modHalf f fun h => { h with islandOk := false }))) ∧
  (∀ s, s.dev.stopped = false → anyQuiet s = false → let f := s.dev.fo.src
      let at_ := fun (n : Nat) => s.dev.fo.phase.toNat = n
      (at_ 1 → exec .adoption s = .next (s.modDev fun d => { d with fo := { d.fo with phase := 2 } })) ∧
      (at_ 2 → ∃ t, exec .adoption s = .next t ∧ t.dev.fo.phase = 3 ∧ (t.half f).weir = [] ∧
        (∀ c, halfOf c = f → (t.ctx c).sync.red = []) ∧
        t.mem = ((s.half f).weir.filter fun w => w.committed).foldl (fun m (w : WeirEntry) => memLine m w.w) s.mem ∧
        (∀ g, g ≠ f → t.half g = s.half g) ∧ t.queues = s.queues) ∧
      (at_ 3 → ∃ t, exec .adoption s = .next t ∧ t.dev.fo.phase = 4 ∧ t.dev.fo.fenced = none ∧ t.dev.fo.fold = some f ∧
        (∀ q, t.queue q = { s.queue q with home := if (s.queue q).home = f then otherHalf f else (s.queue q).home }) ∧
        (∀ k, let part := fun (p : Part) => { p with key := foldKey f p.key }
          t.core k = { s.core k with
            arrivals := (s.core k).arrivals.map fun a => { a with addr := foldKey f a.addr }
            active := (s.core k).active.map fun a =>
              { a with rows := a.rows.map fun r => { r with src := r.src.map part, dst := r.dst.map part } } }) ∧
        t.ops = s.ops.map (foldItems f) ∧ t.mem = s.mem) ∧
      (at_ 4 → s.dev.fo.lost = [] → (∀ h : HalfId, (s.half h).cpLatched = []) → ∃ t, exec .adoption s = .next t ∧
        t.dev.fo.phase = 5 ∧ t.queues = s.queues ∧ t.ctxs = s.ctxs ∧ t.ops = s.ops ∧ t.mem = s.mem) ∧
      (∀ id o, at_ 4 → s.dev.fo.lost = [id] → s.op id = some o → o.disp.rx = false → (∀ h : HalfId, (s.half h).cpLatched = []) →
        (s.queue o.queue).st ≠ .draining → ∃ t, exec .adoption s = .next t ∧ t.dev.fo.phase = 5 ∧
          t.dev.fo.nab = s.dev.fo.nab + 1 ∧ (t.queue o.queue).st = .error) ∧
      (at_ 5 → (s.half f).fo = false → ∃ t, exec .adoption s = .next t ∧ (t.half f).fo = true ∧
        t.dev.fo.nq.toNat = (((List.finRange 64).filter fun q => (s.queue q).adopted).length) ∧
        t.dev.fo.dur.toNat = (s.dev.time - s.dev.fo.started).toNat / 1000 % 2 ^ 32 ∧
        t.queues = s.queues ∧ t.ctxs = s.ctxs) ∧
      (at_ 5 → (s.half f).fo = true → exec .adoption s = .next s))

/-- Operating points and holds of the clock (spec/18 R364, spec/20 R378, R379, R383, R389): the owner sets a ceiling; a
step changes the point by one, down by a hop before the ramp and up by the ramp before the hop; a hop holds the
clock, and its end delivers what it has latched; a droop stretches the clock by its depth and holds it below -70 mV;
a period is the nominal one stretched by the larger of throttle and droop, in percent. The report of a cascade's
tiers (spec/20 R380 to R382): the deviations are recorded, the throttle stretch rises by one step after 1 us of a
tier beyond 15 mV, where filler cannot help, and falls by one after 1 us of all within 8 mV; a light tier issues
filler as its budget allows, which FILLC counts once; all else is as before. Power, temperature and samples (spec/20
R386, R387, R390): a mean beyond the limit slows one cascade by a step, means below 95 percent of it for a
millisecond speed one up by a step, and nothing else; above 115 degrees the half is limited to P1 until it is below
110; at 125 degrees everything stops; a sample that is due is written at the tail of its ring, or counted as lost.
The model's choice: power estimates and the cascade chosen are free values (entry 49); windows and filler (entry
50), what a hold latches (entry 59) and THERMTRIP (entry 51). -/
def Obligations.PowerControl : Prop :=
  (∀ s g, let x := s.casc g
      let cur := x.opCur.toNat
      let goal := (pointOf s g).toNat
      let becomes := fun (i : Instr) (y : Casc) => exec i s = .next (s.modCasc g fun _ => y)
      (∀ w, owns s w.master = true → becomes (.cascopWrite g w) { x with opMax := w.value.extractLsb' 0 2 }) ∧
      (x.opMax.toNat ≤ goal ∧ x.powerMax.toNat ≤ goal) ∧
      (x.hold = false → x.ramp = none →
        (cur < goal → becomes (.operatingPointStep g)
          { x with opCur := x.opCur + 1, hop := true, ramp := some (x.opCur + 1) }) ∧
        (goal < cur → becomes (.operatingPointStep g) { x with ramp := some (x.opCur - 1) }) ∧
        (goal = cur → exec (.operatingPointStep g) s = .next s)) ∧
      (∀ p, x.hold = false → x.ramp = some p →
        (p.toNat < cur → goal ≤ p.toNat → becomes (.operatingPointStep g)
          { x with opCur := p, hop := true, ramp := none }) ∧
        (cur ≤ p.toNat ∨ p.toNat < goal → becomes (.operatingPointStep g) { x with ramp := none })) ∧
      (x.hold = true → exec (.operatingPointStep g) s = .next s) ∧
      becomes (.clockHop g) { x with hop := true } ∧
      (x.latched = [] → becomes (.clockHoldEnd g) { x with hop := false }) ∧
      (∀ c, x.droop < 100 → x.latched = [.preempt c] → cascOf c = g → exec (.clockHoldEnd g) s =
        exec (.preemptRequest c) (s.modCasc g fun x => { x with hop := false, latched := [] })) ∧
      (∀ k mv, cascOfCore k = g →
        let level := if 70 < mv then 100 else if 50 ≤ mv then 50 else if 40 < mv then 25 else 0
        ∃ t, exec (.droopDetect k mv) s = .next t ∧ (t.core k).droop = max (s.core k).droop level ∧
          (t.core k).droop ≤ (t.casc g).droop ∧ (70 < mv → (t.casc g).hold = true) ∧ t.ctxs = s.ctxs ∧ t.mem = s.mem) ∧
      (∀ k, cascOfCore k = g → x.latched = [] → ∃ t, exec (.droopRelease k) s = .next t ∧
        (t.core k).droop = (if (s.core k).droop = 100 then 50 else 0) ∧ t.ctxs = s.ctxs ∧ t.mem = s.mem) ∧
      (x.hold = true → passCasc g s = s) ∧
      (x.hold = false → ∀ k, cascOfCore k = g →
        let p := x.phase + 100 * (4 - cur)
        let q := 100 + max (25 * x.step) x.droop
        ((passCasc g s).casc g).phase = p % q ∧
          ((passCasc g s).core k).cycle = (s.core k).cycle + BitVec.ofNat 64 (p / q))) ∧
  (∀ s g r, (s.casc g).hold = false → let x := s.casc g
      let d := [r.t0, r.t1, r.t2, r.t3]
      ∃ t, exec (.balanceEval g r) s = .next t ∧ let y := t.casc g
        y.imb.toList = d.map (BitVec.ofInt 16) ∧ t.ctxs = s.ctxs ∧ t.mem = s.mem ∧
        (∀ h, h ≠ g → t.casc h = s.casc h) ∧
        (∀ k, t.core k = { s.core k with fillc := (t.core k).fillc }) ∧
        (y.step = x.step ∨ y.step = min 4 (x.step + 1) ∨ y.step = x.step - 1) ∧
        ((∀ v ∈ d, v.natAbs ≤ 15) → y.step ≤ x.step) ∧
        ((∃ v ∈ d, 8 < v.natAbs) → x.step ≤ 4 → x.step ≤ y.step) ∧
        ((∀ v ∈ d, v.natAbs ≤ 8) → ∀ u, x.safe = some u →
          y.step = if 1000 ≤ (s.dev.time - u).toNat then x.step - 1 else x.step) ∧
        (throttleFirst s g = true → (∃ i : Fin 4, ∃ u, x.over_[i.val] = some u ∧ 1000 ≤ (s.dev.time - u).toNat ∧
          15 < (d[i.val]?.getD 0).natAbs) → y.step = min 4 (x.step + 1)) ∧
        (throttleFirst s g = false →
          (coreRuns s (coreAt g (lightTier r)) = false → y.step ≤ x.step) ∧
          ∀ i : Fin 4, (t.core (coreAt g i)).fillc = (s.core (coreAt g i)).fillc +
            BitVec.ofNat 64 (if 15 < d[i.val]?.getD 0 ∧ issuesFiller s (coreAt g i) = false then fillRoom s g i else 0))) ∧
  ((∀ s mw, let lim := 1000 * s.dev.lim.toNat
      ∃ t, exec (.powerLimitEval mw) s = .next t ∧ t.dev.mw = BitVec.ofNat 32 mw ∧ t.ctxs = s.ctxs ∧ t.mem = s.mem ∧
        ((∀ g, t.casc g = s.casc g) ∨ ∃ g, (∀ h, h ≠ g → t.casc h = s.casc h) ∧
          t.casc g = { s.casc g with powerMax := (t.casc g).powerMax }) ∧
        (lim < mw → (∃ g, pointOf s g ≠ 3) → t.dev.hits = s.dev.hits + 1 ∧
          ∃ g, pointOf s g ≠ 3 ∧ (t.casc g).powerMax = pointOf s g + 1) ∧
        (mw ≤ lim → 95 * lim ≤ 100 * mw →
          t.cascs = s.cascs ∧ t.dev.hits = s.dev.hits ∧ t.dev.lowSince = none) ∧
        (100 * mw < 95 * lim →
          ((∀ u, s.dev.lowSince = some u → (s.dev.time - u).toNat < 1000000) →
            t.cascs = s.cascs ∧ t.dev.lowSince = some (s.dev.lowSince.getD s.dev.time)) ∧
          (∀ u, s.dev.lowSince = some u → 1000000 ≤ (s.dev.time - u).toNat →
            (∃ g, (s.casc g).opMax.toNat < (s.casc g).powerMax.toNat) → t.dev.lowSince = some s.dev.time ∧
            ∃ g, (s.casc g).opMax.toNat < (s.casc g).powerMax.toNat ∧
              (t.casc g).powerMax = (s.casc g).powerMax - 1))) ∧
    (∀ s h (temp : Int), exec (.thermalLimit h temp) s = .next (s.modHalf h fun x =>
      { x with
        temp := BitVec.ofInt 12 temp
        hot := if 920 < temp then true else if temp < 880 then false else x.hot })) ∧
    (∀ s g, (s.half (halfOfCasc g)).hot = true → 1 ≤ (pointOf s g).toNat) ∧
    (∀ s h, ∃ t, exec (.thermtrip h) s = .next t ∧ t.dev.stopped = true ∧ (t.half h).trip = true ∧
      (t.half h).hot = true ∧ t.ctxs = s.ctxs ∧ t.queues = s.queues ∧ t.mem = s.mem) ∧
    (∀ s k, let x := s.core k
      let h := halfOfCore k
      let r := (s.half h).samp
      let due := x.psamp.en = true ∧ (s.casc (cascOfCore k)).hold = false ∧
        2 ^ (x.psamp.lgper.toNat + 10) ≤ x.sinceSample
      (¬ due → exec (.pcSample k) s = .next s) ∧
      (due → ringOk s r 32 = false ∨ ringFull r = true → ∃ t, exec (.pcSample k) s = .next t ∧ t.mem = s.mem ∧
        (t.half h).sampDrop.toNat = min 4095 ((s.half h).sampDrop.toNat + 1) ∧ (t.core k).sinceSample = 0) ∧
      (s.memOk → due → ringOk s r 32 = true → ringFull r = false → ∃ t, exec (.pcSample k) s = .next t ∧
        (t.half h).samp = { r with tail := r.tail + 1 } ∧ (t.core k).sinceSample = 0 ∧
        (let at_ := ringKey s (r.base.toNat + 32 * (r.tail.toNat % ringEntries r))
        memNat t.mem at_ 6 = x.lastPc[x.lastBank.val].toNat % 2 ^ 48 ∧ memNat t.mem (at_ + 6) 1 % 64 = k.val ∧
          memNat t.mem (at_ + 6) 1 / 64 % 2 = x.lastBank.val ∧ memWord t.mem (at_ + 8) = halfTime s h ∧
          memNat t.mem (at_ + 16) 4 = (s.ctx (ctxIn k x.lastBank)).id.tag.toNat ∧
          (x.psamp.pw = false → (s.casc (cascOfCore k)).step ≤ 4 → memNat t.mem (at_ + 24) 8 = 0) ∧
          (∀ b, b < at_ ∨ at_ + 32 ≤ b → memRead t.mem b = memRead s.mem b)))))
end

