-- ==== Sys2Proof/Laws/State.lean ====
section
/-! SUPPORT. What each update of the state does to each field, and what the accessors read after it. -/

namespace Sys2Proof.Machine

/-! ## setCtx -/

@[simp] theorem State.setCtx_mem (s : State) (c : CtxId) (x : Ctx) : (s.setCtx c x).mem = s.mem := rfl
@[simp] theorem State.setCtx_cores (s : State) (c : CtxId) (x : Ctx) : (s.setCtx c x).cores = s.cores := rfl
@[simp] theorem State.setCtx_cascs (s : State) (c : CtxId) (x : Ctx) : (s.setCtx c x).cascs = s.cascs := rfl
@[simp] theorem State.setCtx_halves (s : State) (c : CtxId) (x : Ctx) : (s.setCtx c x).halves = s.halves := rfl
@[simp] theorem State.setCtx_queues (s : State) (c : CtxId) (x : Ctx) : (s.setCtx c x).queues = s.queues := rfl
@[simp] theorem State.setCtx_turnouts (s : State) (c : CtxId) (x : Ctx) : (s.setCtx c x).turnouts = s.turnouts := rfl
@[simp] theorem State.setCtx_ops (s : State) (c : CtxId) (x : Ctx) : (s.setCtx c x).ops = s.ops := rfl
@[simp] theorem State.setCtx_opCount (s : State) (c : CtxId) (x : Ctx) : (s.setCtx c x).opCount = s.opCount := rfl
@[simp] theorem State.setCtx_waiters (s : State) (c : CtxId) (x : Ctx) : (s.setCtx c x).waiters = s.waiters := rfl
@[simp] theorem State.setCtx_grants (s : State) (c : CtxId) (x : Ctx) : (s.setCtx c x).grants = s.grants := rfl
@[simp] theorem State.setCtx_stamps (s : State) (c : CtxId) (x : Ctx) : (s.setCtx c x).stamps = s.stamps := rfl
@[simp] theorem State.setCtx_dev (s : State) (c : CtxId) (x : Ctx) : (s.setCtx c x).dev = s.dev := rfl
@[simp] theorem State.setCtx_agenda (s : State) (c : CtxId) (x : Ctx) : (s.setCtx c x).agenda = s.agenda := rfl
@[simp] theorem State.setCtx_cur (s : State) (c : CtxId) (x : Ctx) : (s.setCtx c x).cur = s.cur := rfl
@[simp] theorem State.setCtx_lag (s : State) (c : CtxId) (x : Ctx) : (s.setCtx c x).lag = s.lag := rfl
@[simp] theorem State.setCtx_lostRead (s : State) (c : CtxId) (x : Ctx) : (s.setCtx c x).lostRead = s.lostRead := rfl
@[simp] theorem State.setCtx_freeCtr (s : State) (c : CtxId) (x : Ctx) : (s.setCtx c x).freeCtr = s.freeCtr := rfl
@[simp] theorem State.setCtx_msixLog (s : State) (c : CtxId) (x : Ctx) : (s.setCtx c x).msixLog = s.msixLog := rfl
@[simp] theorem State.setCtx_reads (s : State) (c : CtxId) (x : Ctx) : (s.setCtx c x).reads = s.reads := rfl

/-! ## modCtx -/

@[simp] theorem State.modCtx_mem (s : State) (c : CtxId) (f : Ctx → Ctx) : (s.modCtx c f).mem = s.mem := rfl
@[simp] theorem State.modCtx_cores (s : State) (c : CtxId) (f : Ctx → Ctx) : (s.modCtx c f).cores = s.cores := rfl
@[simp] theorem State.modCtx_cascs (s : State) (c : CtxId) (f : Ctx → Ctx) : (s.modCtx c f).cascs = s.cascs := rfl
@[simp] theorem State.modCtx_halves (s : State) (c : CtxId) (f : Ctx → Ctx) : (s.modCtx c f).halves = s.halves := rfl
@[simp] theorem State.modCtx_queues (s : State) (c : CtxId) (f : Ctx → Ctx) : (s.modCtx c f).queues = s.queues := rfl
@[simp] theorem State.modCtx_turnouts (s : State) (c : CtxId) (f : Ctx → Ctx) : (s.modCtx c f).turnouts = s.turnouts := rfl
@[simp] theorem State.modCtx_ops (s : State) (c : CtxId) (f : Ctx → Ctx) : (s.modCtx c f).ops = s.ops := rfl
@[simp] theorem State.modCtx_opCount (s : State) (c : CtxId) (f : Ctx → Ctx) : (s.modCtx c f).opCount = s.opCount := rfl
@[simp] theorem State.modCtx_waiters (s : State) (c : CtxId) (f : Ctx → Ctx) : (s.modCtx c f).waiters = s.waiters := rfl
@[simp] theorem State.modCtx_grants (s : State) (c : CtxId) (f : Ctx → Ctx) : (s.modCtx c f).grants = s.grants := rfl
@[simp] theorem State.modCtx_stamps (s : State) (c : CtxId) (f : Ctx → Ctx) : (s.modCtx c f).stamps = s.stamps := rfl
@[simp] theorem State.modCtx_dev (s : State) (c : CtxId) (f : Ctx → Ctx) : (s.modCtx c f).dev = s.dev := rfl
@[simp] theorem State.modCtx_agenda (s : State) (c : CtxId) (f : Ctx → Ctx) : (s.modCtx c f).agenda = s.agenda := rfl
@[simp] theorem State.modCtx_cur (s : State) (c : CtxId) (f : Ctx → Ctx) : (s.modCtx c f).cur = s.cur := rfl
@[simp] theorem State.modCtx_lag (s : State) (c : CtxId) (f : Ctx → Ctx) : (s.modCtx c f).lag = s.lag := rfl
@[simp] theorem State.modCtx_lostRead (s : State) (c : CtxId) (f : Ctx → Ctx) : (s.modCtx c f).lostRead = s.lostRead := rfl
@[simp] theorem State.modCtx_freeCtr (s : State) (c : CtxId) (f : Ctx → Ctx) : (s.modCtx c f).freeCtr = s.freeCtr := rfl
@[simp] theorem State.modCtx_msixLog (s : State) (c : CtxId) (f : Ctx → Ctx) : (s.modCtx c f).msixLog = s.msixLog := rfl
@[simp] theorem State.modCtx_reads (s : State) (c : CtxId) (f : Ctx → Ctx) : (s.modCtx c f).reads = s.reads := rfl

/-! ## modCore -/

@[simp] theorem State.modCore_mem (s : State) (k : CoreId) (f : Core → Core) : (s.modCore k f).mem = s.mem := rfl
@[simp] theorem State.modCore_ctxs (s : State) (k : CoreId) (f : Core → Core) : (s.modCore k f).ctxs = s.ctxs := rfl
@[simp] theorem State.modCore_cascs (s : State) (k : CoreId) (f : Core → Core) : (s.modCore k f).cascs = s.cascs := rfl
@[simp] theorem State.modCore_halves (s : State) (k : CoreId) (f : Core → Core) : (s.modCore k f).halves = s.halves := rfl
@[simp] theorem State.modCore_queues (s : State) (k : CoreId) (f : Core → Core) : (s.modCore k f).queues = s.queues := rfl
@[simp] theorem State.modCore_turnouts (s : State) (k : CoreId) (f : Core → Core) : (s.modCore k f).turnouts = s.turnouts := rfl
@[simp] theorem State.modCore_ops (s : State) (k : CoreId) (f : Core → Core) : (s.modCore k f).ops = s.ops := rfl
@[simp] theorem State.modCore_opCount (s : State) (k : CoreId) (f : Core → Core) : (s.modCore k f).opCount = s.opCount := rfl
@[simp] theorem State.modCore_waiters (s : State) (k : CoreId) (f : Core → Core) : (s.modCore k f).waiters = s.waiters := rfl
@[simp] theorem State.modCore_grants (s : State) (k : CoreId) (f : Core → Core) : (s.modCore k f).grants = s.grants := rfl
@[simp] theorem State.modCore_stamps (s : State) (k : CoreId) (f : Core → Core) : (s.modCore k f).stamps = s.stamps := rfl
@[simp] theorem State.modCore_dev (s : State) (k : CoreId) (f : Core → Core) : (s.modCore k f).dev = s.dev := rfl
@[simp] theorem State.modCore_agenda (s : State) (k : CoreId) (f : Core → Core) : (s.modCore k f).agenda = s.agenda := rfl
@[simp] theorem State.modCore_cur (s : State) (k : CoreId) (f : Core → Core) : (s.modCore k f).cur = s.cur := rfl
@[simp] theorem State.modCore_lag (s : State) (k : CoreId) (f : Core → Core) : (s.modCore k f).lag = s.lag := rfl
@[simp] theorem State.modCore_lostRead (s : State) (k : CoreId) (f : Core → Core) : (s.modCore k f).lostRead = s.lostRead := rfl
@[simp] theorem State.modCore_freeCtr (s : State) (k : CoreId) (f : Core → Core) : (s.modCore k f).freeCtr = s.freeCtr := rfl
@[simp] theorem State.modCore_msixLog (s : State) (k : CoreId) (f : Core → Core) : (s.modCore k f).msixLog = s.msixLog := rfl
@[simp] theorem State.modCore_reads (s : State) (k : CoreId) (f : Core → Core) : (s.modCore k f).reads = s.reads := rfl

/-! ## modCasc -/

@[simp] theorem State.modCasc_mem (s : State) (g : CascId) (f : Casc → Casc) : (s.modCasc g f).mem = s.mem := rfl
@[simp] theorem State.modCasc_ctxs (s : State) (g : CascId) (f : Casc → Casc) : (s.modCasc g f).ctxs = s.ctxs := rfl
@[simp] theorem State.modCasc_cores (s : State) (g : CascId) (f : Casc → Casc) : (s.modCasc g f).cores = s.cores := rfl
@[simp] theorem State.modCasc_halves (s : State) (g : CascId) (f : Casc → Casc) : (s.modCasc g f).halves = s.halves := rfl
@[simp] theorem State.modCasc_queues (s : State) (g : CascId) (f : Casc → Casc) : (s.modCasc g f).queues = s.queues := rfl
@[simp] theorem State.modCasc_turnouts (s : State) (g : CascId) (f : Casc → Casc) : (s.modCasc g f).turnouts = s.turnouts := rfl
@[simp] theorem State.modCasc_ops (s : State) (g : CascId) (f : Casc → Casc) : (s.modCasc g f).ops = s.ops := rfl
@[simp] theorem State.modCasc_opCount (s : State) (g : CascId) (f : Casc → Casc) : (s.modCasc g f).opCount = s.opCount := rfl
@[simp] theorem State.modCasc_waiters (s : State) (g : CascId) (f : Casc → Casc) : (s.modCasc g f).waiters = s.waiters := rfl
@[simp] theorem State.modCasc_grants (s : State) (g : CascId) (f : Casc → Casc) : (s.modCasc g f).grants = s.grants := rfl
@[simp] theorem State.modCasc_stamps (s : State) (g : CascId) (f : Casc → Casc) : (s.modCasc g f).stamps = s.stamps := rfl
@[simp] theorem State.modCasc_dev (s : State) (g : CascId) (f : Casc → Casc) : (s.modCasc g f).dev = s.dev := rfl
@[simp] theorem State.modCasc_agenda (s : State) (g : CascId) (f : Casc → Casc) : (s.modCasc g f).agenda = s.agenda := rfl
@[simp] theorem State.modCasc_cur (s : State) (g : CascId) (f : Casc → Casc) : (s.modCasc g f).cur = s.cur := rfl
@[simp] theorem State.modCasc_lag (s : State) (g : CascId) (f : Casc → Casc) : (s.modCasc g f).lag = s.lag := rfl
@[simp] theorem State.modCasc_lostRead (s : State) (g : CascId) (f : Casc → Casc) : (s.modCasc g f).lostRead = s.lostRead := rfl
@[simp] theorem State.modCasc_freeCtr (s : State) (g : CascId) (f : Casc → Casc) : (s.modCasc g f).freeCtr = s.freeCtr := rfl
@[simp] theorem State.modCasc_msixLog (s : State) (g : CascId) (f : Casc → Casc) : (s.modCasc g f).msixLog = s.msixLog := rfl
@[simp] theorem State.modCasc_reads (s : State) (g : CascId) (f : Casc → Casc) : (s.modCasc g f).reads = s.reads := rfl

/-! ## modHalf -/

@[simp] theorem State.modHalf_mem (s : State) (h : HalfId) (f : Half → Half) : (s.modHalf h f).mem = s.mem := rfl
@[simp] theorem State.modHalf_ctxs (s : State) (h : HalfId) (f : Half → Half) : (s.modHalf h f).ctxs = s.ctxs := rfl
@[simp] theorem State.modHalf_cores (s : State) (h : HalfId) (f : Half → Half) : (s.modHalf h f).cores = s.cores := rfl
@[simp] theorem State.modHalf_cascs (s : State) (h : HalfId) (f : Half → Half) : (s.modHalf h f).cascs = s.cascs := rfl
@[simp] theorem State.modHalf_queues (s : State) (h : HalfId) (f : Half → Half) : (s.modHalf h f).queues = s.queues := rfl
@[simp] theorem State.modHalf_turnouts (s : State) (h : HalfId) (f : Half → Half) : (s.modHalf h f).turnouts = s.turnouts := rfl
@[simp] theorem State.modHalf_ops (s : State) (h : HalfId) (f : Half → Half) : (s.modHalf h f).ops = s.ops := rfl
@[simp] theorem State.modHalf_opCount (s : State) (h : HalfId) (f : Half → Half) : (s.modHalf h f).opCount = s.opCount := rfl
@[simp] theorem State.modHalf_waiters (s : State) (h : HalfId) (f : Half → Half) : (s.modHalf h f).waiters = s.waiters := rfl
@[simp] theorem State.modHalf_grants (s : State) (h : HalfId) (f : Half → Half) : (s.modHalf h f).grants = s.grants := rfl
@[simp] theorem State.modHalf_stamps (s : State) (h : HalfId) (f : Half → Half) : (s.modHalf h f).stamps = s.stamps := rfl
@[simp] theorem State.modHalf_dev (s : State) (h : HalfId) (f : Half → Half) : (s.modHalf h f).dev = s.dev := rfl
@[simp] theorem State.modHalf_agenda (s : State) (h : HalfId) (f : Half → Half) : (s.modHalf h f).agenda = s.agenda := rfl
@[simp] theorem State.modHalf_cur (s : State) (h : HalfId) (f : Half → Half) : (s.modHalf h f).cur = s.cur := rfl
@[simp] theorem State.modHalf_lag (s : State) (h : HalfId) (f : Half → Half) : (s.modHalf h f).lag = s.lag := rfl
@[simp] theorem State.modHalf_lostRead (s : State) (h : HalfId) (f : Half → Half) : (s.modHalf h f).lostRead = s.lostRead := rfl
@[simp] theorem State.modHalf_freeCtr (s : State) (h : HalfId) (f : Half → Half) : (s.modHalf h f).freeCtr = s.freeCtr := rfl
@[simp] theorem State.modHalf_msixLog (s : State) (h : HalfId) (f : Half → Half) : (s.modHalf h f).msixLog = s.msixLog := rfl
@[simp] theorem State.modHalf_reads (s : State) (h : HalfId) (f : Half → Half) : (s.modHalf h f).reads = s.reads := rfl

/-! ## modQueue -/

@[simp] theorem State.modQueue_mem (s : State) (q : QueueId) (f : Queue → Queue) : (s.modQueue q f).mem = s.mem := rfl
@[simp] theorem State.modQueue_ctxs (s : State) (q : QueueId) (f : Queue → Queue) : (s.modQueue q f).ctxs = s.ctxs := rfl
@[simp] theorem State.modQueue_cores (s : State) (q : QueueId) (f : Queue → Queue) : (s.modQueue q f).cores = s.cores := rfl
@[simp] theorem State.modQueue_cascs (s : State) (q : QueueId) (f : Queue → Queue) : (s.modQueue q f).cascs = s.cascs := rfl
@[simp] theorem State.modQueue_halves (s : State) (q : QueueId) (f : Queue → Queue) : (s.modQueue q f).halves = s.halves := rfl
@[simp] theorem State.modQueue_turnouts (s : State) (q : QueueId) (f : Queue → Queue) : (s.modQueue q f).turnouts = s.turnouts := rfl
@[simp] theorem State.modQueue_ops (s : State) (q : QueueId) (f : Queue → Queue) : (s.modQueue q f).ops = s.ops := rfl
@[simp] theorem State.modQueue_opCount (s : State) (q : QueueId) (f : Queue → Queue) : (s.modQueue q f).opCount = s.opCount := rfl
@[simp] theorem State.modQueue_waiters (s : State) (q : QueueId) (f : Queue → Queue) : (s.modQueue q f).waiters = s.waiters := rfl
@[simp] theorem State.modQueue_grants (s : State) (q : QueueId) (f : Queue → Queue) : (s.modQueue q f).grants = s.grants := rfl
@[simp] theorem State.modQueue_stamps (s : State) (q : QueueId) (f : Queue → Queue) : (s.modQueue q f).stamps = s.stamps := rfl
@[simp] theorem State.modQueue_dev (s : State) (q : QueueId) (f : Queue → Queue) : (s.modQueue q f).dev = s.dev := rfl
@[simp] theorem State.modQueue_agenda (s : State) (q : QueueId) (f : Queue → Queue) : (s.modQueue q f).agenda = s.agenda := rfl
@[simp] theorem State.modQueue_cur (s : State) (q : QueueId) (f : Queue → Queue) : (s.modQueue q f).cur = s.cur := rfl
@[simp] theorem State.modQueue_lag (s : State) (q : QueueId) (f : Queue → Queue) : (s.modQueue q f).lag = s.lag := rfl
@[simp] theorem State.modQueue_lostRead (s : State) (q : QueueId) (f : Queue → Queue) : (s.modQueue q f).lostRead = s.lostRead := rfl
@[simp] theorem State.modQueue_freeCtr (s : State) (q : QueueId) (f : Queue → Queue) : (s.modQueue q f).freeCtr = s.freeCtr := rfl
@[simp] theorem State.modQueue_msixLog (s : State) (q : QueueId) (f : Queue → Queue) : (s.modQueue q f).msixLog = s.msixLog := rfl
@[simp] theorem State.modQueue_reads (s : State) (q : QueueId) (f : Queue → Queue) : (s.modQueue q f).reads = s.reads := rfl

/-! ## modDev -/

@[simp] theorem State.modDev_mem (s : State) (f : Device → Device) : (s.modDev f).mem = s.mem := rfl
@[simp] theorem State.modDev_ctxs (s : State) (f : Device → Device) : (s.modDev f).ctxs = s.ctxs := rfl
@[simp] theorem State.modDev_cores (s : State) (f : Device → Device) : (s.modDev f).cores = s.cores := rfl
@[simp] theorem State.modDev_cascs (s : State) (f : Device → Device) : (s.modDev f).cascs = s.cascs := rfl
@[simp] theorem State.modDev_halves (s : State) (f : Device → Device) : (s.modDev f).halves = s.halves := rfl
@[simp] theorem State.modDev_queues (s : State) (f : Device → Device) : (s.modDev f).queues = s.queues := rfl
@[simp] theorem State.modDev_turnouts (s : State) (f : Device → Device) : (s.modDev f).turnouts = s.turnouts := rfl
@[simp] theorem State.modDev_ops (s : State) (f : Device → Device) : (s.modDev f).ops = s.ops := rfl
@[simp] theorem State.modDev_opCount (s : State) (f : Device → Device) : (s.modDev f).opCount = s.opCount := rfl
@[simp] theorem State.modDev_waiters (s : State) (f : Device → Device) : (s.modDev f).waiters = s.waiters := rfl
@[simp] theorem State.modDev_grants (s : State) (f : Device → Device) : (s.modDev f).grants = s.grants := rfl
@[simp] theorem State.modDev_stamps (s : State) (f : Device → Device) : (s.modDev f).stamps = s.stamps := rfl
@[simp] theorem State.modDev_agenda (s : State) (f : Device → Device) : (s.modDev f).agenda = s.agenda := rfl
@[simp] theorem State.modDev_cur (s : State) (f : Device → Device) : (s.modDev f).cur = s.cur := rfl
@[simp] theorem State.modDev_lag (s : State) (f : Device → Device) : (s.modDev f).lag = s.lag := rfl
@[simp] theorem State.modDev_lostRead (s : State) (f : Device → Device) : (s.modDev f).lostRead = s.lostRead := rfl
@[simp] theorem State.modDev_freeCtr (s : State) (f : Device → Device) : (s.modDev f).freeCtr = s.freeCtr := rfl
@[simp] theorem State.modDev_msixLog (s : State) (f : Device → Device) : (s.modDev f).msixLog = s.msixLog := rfl
@[simp] theorem State.modDev_reads (s : State) (f : Device → Device) : (s.modDev f).reads = s.reads := rfl

/-! ## bumpFree -/

@[simp] theorem State.bumpFree_mem (s : State) : (s.bumpFree).mem = s.mem := rfl
@[simp] theorem State.bumpFree_ctxs (s : State) : (s.bumpFree).ctxs = s.ctxs := rfl
@[simp] theorem State.bumpFree_cores (s : State) : (s.bumpFree).cores = s.cores := rfl
@[simp] theorem State.bumpFree_cascs (s : State) : (s.bumpFree).cascs = s.cascs := rfl
@[simp] theorem State.bumpFree_halves (s : State) : (s.bumpFree).halves = s.halves := rfl
@[simp] theorem State.bumpFree_queues (s : State) : (s.bumpFree).queues = s.queues := rfl
@[simp] theorem State.bumpFree_turnouts (s : State) : (s.bumpFree).turnouts = s.turnouts := rfl
@[simp] theorem State.bumpFree_ops (s : State) : (s.bumpFree).ops = s.ops := rfl
@[simp] theorem State.bumpFree_opCount (s : State) : (s.bumpFree).opCount = s.opCount := rfl
@[simp] theorem State.bumpFree_waiters (s : State) : (s.bumpFree).waiters = s.waiters := rfl
@[simp] theorem State.bumpFree_grants (s : State) : (s.bumpFree).grants = s.grants := rfl
@[simp] theorem State.bumpFree_stamps (s : State) : (s.bumpFree).stamps = s.stamps := rfl
@[simp] theorem State.bumpFree_dev (s : State) : (s.bumpFree).dev = s.dev := rfl
@[simp] theorem State.bumpFree_agenda (s : State) : (s.bumpFree).agenda = s.agenda := rfl
@[simp] theorem State.bumpFree_cur (s : State) : (s.bumpFree).cur = s.cur := rfl
@[simp] theorem State.bumpFree_lag (s : State) : (s.bumpFree).lag = s.lag := rfl
@[simp] theorem State.bumpFree_lostRead (s : State) : (s.bumpFree).lostRead = s.lostRead := rfl
@[simp] theorem State.bumpFree_msixLog (s : State) : (s.bumpFree).msixLog = s.msixLog := rfl
@[simp] theorem State.bumpFree_reads (s : State) : (s.bumpFree).reads = s.reads := rfl

/-! ## Accessors -/

@[simp] theorem State.modCore_ctx (s : State) (k : CoreId) (f : Core → Core) (i : CtxId) : (s.modCore k f).ctx i = s.ctx i := rfl
@[simp] theorem State.modCasc_ctx (s : State) (g : CascId) (f : Casc → Casc) (i : CtxId) : (s.modCasc g f).ctx i = s.ctx i := rfl
@[simp] theorem State.modHalf_ctx (s : State) (h : HalfId) (f : Half → Half) (i : CtxId) : (s.modHalf h f).ctx i = s.ctx i := rfl
@[simp] theorem State.modQueue_ctx (s : State) (q : QueueId) (f : Queue → Queue) (i : CtxId) : (s.modQueue q f).ctx i = s.ctx i := rfl
@[simp] theorem State.modDev_ctx (s : State) (f : Device → Device) (i : CtxId) : (s.modDev f).ctx i = s.ctx i := rfl
@[simp] theorem State.bumpFree_ctx (s : State) (i : CtxId) : (s.bumpFree).ctx i = s.ctx i := rfl
@[simp] theorem State.setCtx_core (s : State) (c : CtxId) (x : Ctx) (i : CoreId) : (s.setCtx c x).core i = s.core i := rfl
@[simp] theorem State.modCtx_core (s : State) (c : CtxId) (f : Ctx → Ctx) (i : CoreId) : (s.modCtx c f).core i = s.core i := rfl
@[simp] theorem State.modCasc_core (s : State) (g : CascId) (f : Casc → Casc) (i : CoreId) : (s.modCasc g f).core i = s.core i := rfl
@[simp] theorem State.modHalf_core (s : State) (h : HalfId) (f : Half → Half) (i : CoreId) : (s.modHalf h f).core i = s.core i := rfl
@[simp] theorem State.modQueue_core (s : State) (q : QueueId) (f : Queue → Queue) (i : CoreId) : (s.modQueue q f).core i = s.core i := rfl
@[simp] theorem State.modDev_core (s : State) (f : Device → Device) (i : CoreId) : (s.modDev f).core i = s.core i := rfl
@[simp] theorem State.bumpFree_core (s : State) (i : CoreId) : (s.bumpFree).core i = s.core i := rfl
@[simp] theorem State.setCtx_casc (s : State) (c : CtxId) (x : Ctx) (i : CascId) : (s.setCtx c x).casc i = s.casc i := rfl
@[simp] theorem State.modCtx_casc (s : State) (c : CtxId) (f : Ctx → Ctx) (i : CascId) : (s.modCtx c f).casc i = s.casc i := rfl
@[simp] theorem State.modCore_casc (s : State) (k : CoreId) (f : Core → Core) (i : CascId) : (s.modCore k f).casc i = s.casc i := rfl
@[simp] theorem State.modHalf_casc (s : State) (h : HalfId) (f : Half → Half) (i : CascId) : (s.modHalf h f).casc i = s.casc i := rfl
@[simp] theorem State.modQueue_casc (s : State) (q : QueueId) (f : Queue → Queue) (i : CascId) : (s.modQueue q f).casc i = s.casc i := rfl
@[simp] theorem State.modDev_casc (s : State) (f : Device → Device) (i : CascId) : (s.modDev f).casc i = s.casc i := rfl
@[simp] theorem State.bumpFree_casc (s : State) (i : CascId) : (s.bumpFree).casc i = s.casc i := rfl
@[simp] theorem State.setCtx_half (s : State) (c : CtxId) (x : Ctx) (i : HalfId) : (s.setCtx c x).half i = s.half i := rfl
@[simp] theorem State.modCtx_half (s : State) (c : CtxId) (f : Ctx → Ctx) (i : HalfId) : (s.modCtx c f).half i = s.half i := rfl
@[simp] theorem State.modCore_half (s : State) (k : CoreId) (f : Core → Core) (i : HalfId) : (s.modCore k f).half i = s.half i := rfl
@[simp] theorem State.modCasc_half (s : State) (g : CascId) (f : Casc → Casc) (i : HalfId) : (s.modCasc g f).half i = s.half i := rfl
@[simp] theorem State.modQueue_half (s : State) (q : QueueId) (f : Queue → Queue) (i : HalfId) : (s.modQueue q f).half i = s.half i := rfl
@[simp] theorem State.modDev_half (s : State) (f : Device → Device) (i : HalfId) : (s.modDev f).half i = s.half i := rfl
@[simp] theorem State.bumpFree_half (s : State) (i : HalfId) : (s.bumpFree).half i = s.half i := rfl
@[simp] theorem State.setCtx_queue (s : State) (c : CtxId) (x : Ctx) (i : QueueId) : (s.setCtx c x).queue i = s.queue i := rfl
@[simp] theorem State.modCtx_queue (s : State) (c : CtxId) (f : Ctx → Ctx) (i : QueueId) : (s.modCtx c f).queue i = s.queue i := rfl
@[simp] theorem State.modCore_queue (s : State) (k : CoreId) (f : Core → Core) (i : QueueId) : (s.modCore k f).queue i = s.queue i := rfl
@[simp] theorem State.modCasc_queue (s : State) (g : CascId) (f : Casc → Casc) (i : QueueId) : (s.modCasc g f).queue i = s.queue i := rfl
@[simp] theorem State.modHalf_queue (s : State) (h : HalfId) (f : Half → Half) (i : QueueId) : (s.modHalf h f).queue i = s.queue i := rfl
@[simp] theorem State.modDev_queue (s : State) (f : Device → Device) (i : QueueId) : (s.modDev f).queue i = s.queue i := rfl
@[simp] theorem State.bumpFree_queue (s : State) (i : QueueId) : (s.bumpFree).queue i = s.queue i := rfl

@[simp] theorem State.setCtx_ctx_same (s : State) (c : CtxId) (x : Ctx) : (s.setCtx c x).ctx c = x := by
  simp [State.setCtx, State.ctx]

@[simp] theorem State.setCtx_ctx_other (s : State) (c d : CtxId) (x : Ctx) (h : d ≠ c) :
    (s.setCtx c x).ctx d = s.ctx d := by
  have h' : c.val ≠ d.val := fun e => h (Fin.ext e.symm)
  simp [State.setCtx, State.ctx, h']

@[simp] theorem State.modCtx_ctx_same (s : State) (c : CtxId) (f : Ctx → Ctx) :
    (s.modCtx c f).ctx c = f (s.ctx c) := by
  simp [State.modCtx]

@[simp] theorem State.modCtx_ctx_other (s : State) (c d : CtxId) (f : Ctx → Ctx) (h : d ≠ c) :
    (s.modCtx c f).ctx d = s.ctx d := by
  simp [State.modCtx, h]

@[simp] theorem State.modCore_core_same (s : State) (i : CoreId) (f : Core → Core) :
    (s.modCore i f).core i = f (s.core i) := by
  simp [State.modCore, State.core]

@[simp] theorem State.modCore_core_other (s : State) (i j : CoreId) (f : Core → Core) (h : j ≠ i) :
    (s.modCore i f).core j = s.core j := by
  have h' : i.val ≠ j.val := fun e => h (Fin.ext e.symm)
  simp [State.modCore, State.core, h']

@[simp] theorem State.modCasc_casc_same (s : State) (i : CascId) (f : Casc → Casc) :
    (s.modCasc i f).casc i = f (s.casc i) := by
  simp [State.modCasc, State.casc]

@[simp] theorem State.modCasc_casc_other (s : State) (i j : CascId) (f : Casc → Casc) (h : j ≠ i) :
    (s.modCasc i f).casc j = s.casc j := by
  have h' : i.val ≠ j.val := fun e => h (Fin.ext e.symm)
  simp [State.modCasc, State.casc, h']

@[simp] theorem State.modHalf_half_same (s : State) (i : HalfId) (f : Half → Half) :
    (s.modHalf i f).half i = f (s.half i) := by
  simp [State.modHalf, State.half]

@[simp] theorem State.modHalf_half_other (s : State) (i j : HalfId) (f : Half → Half) (h : j ≠ i) :
    (s.modHalf i f).half j = s.half j := by
  have h' : i.val ≠ j.val := fun e => h (Fin.ext e.symm)
  simp [State.modHalf, State.half, h']

@[simp] theorem State.modQueue_queue_same (s : State) (i : QueueId) (f : Queue → Queue) :
    (s.modQueue i f).queue i = f (s.queue i) := by
  simp [State.modQueue, State.queue]

@[simp] theorem State.modQueue_queue_other (s : State) (i j : QueueId) (f : Queue → Queue) (h : j ≠ i) :
    (s.modQueue i f).queue j = s.queue j := by
  have h' : i.val ≠ j.val := fun e => h (Fin.ext e.symm)
  simp [State.modQueue, State.queue, h']

@[simp] theorem State.setCtx_me (s : State) (x : Ctx) : (s.setCtx s.cur x).me = x := by
  simp [State.me]

@[simp] theorem State.modCtx_me (s : State) (f : Ctx → Ctx) : (s.modCtx s.cur f).me = f s.me := by
  simp [State.me]

/-! ## Registers -/

/-- s0 reads as zero (spec/12 R227). -/
@[simp] theorem readS_zero (x : Ctx) : readS x 0 = 0 := rfl

/-- A write to s0 is discarded (spec/12 R227). -/
@[simp] theorem writeS_zero (v : Word) (x : Ctx) : writeS 0 v x = x := rfl

theorem readS_writeS_same (r : BitVec 5) (v : Word) (x : Ctx) (h : r ≠ 0) : readS (writeS r v x) r = v := by
  unfold readS writeS
  rw [if_neg h, if_neg h]
  simp

theorem readS_writeS_other (r q : BitVec 5) (v : Word) (x : Ctx) (h : q ≠ r) :
    readS (writeS r v x) q = readS x q := by
  have h' : r.toNat ≠ q.toNat := fun e => h (BitVec.eq_of_toNat_eq e.symm)
  unfold readS writeS
  by_cases hq : q = 0
  · rw [if_pos hq, if_pos hq]
  · rw [if_neg hq, if_neg hq]
    by_cases hr : r = 0
    · rw [if_pos hr]
    · rw [if_neg hr]
      simp [h']

/-- p0 reads as all ones (spec/08 R146). -/
@[simp] theorem readP_zero (x : Ctx) (b : BitVec 3) : readP x b 0 = BitVec.allOnes 1024 := rfl

/-! ## What the updates of a context leave -/

@[simp] theorem writeS_bank (r : BitVec 5) (v : Word) (x : Ctx) : (writeS r v x).bank = x.bank := by
  unfold writeS; split <;> rfl
@[simp] theorem writeS_front (r : BitVec 5) (v : Word) (x : Ctx) : (writeS r v x).front = x.front := by
  unfold writeS; split <;> rfl
@[simp] theorem writeS_fpc (r : BitVec 5) (v : Word) (x : Ctx) : (writeS r v x).fpc = x.fpc := by
  unfold writeS; split <;> rfl
@[simp] theorem writeS_tok (r : BitVec 5) (v : Word) (x : Ctx) : (writeS r v x).tok = x.tok := by
  unfold writeS; split <;> rfl
@[simp] theorem writeS_flags (r : BitVec 5) (v : Word) (x : Ctx) : (writeS r v x).flags = x.flags := by
  unfold writeS; split <;> rfl
@[simp] theorem writeS_ptests (r : BitVec 5) (v : Word) (x : Ctx) : (writeS r v x).ptests = x.ptests := by
  unfold writeS; split <;> rfl
@[simp] theorem writeS_stage (r : BitVec 5) (v : Word) (x : Ctx) : (writeS r v x).stage = x.stage := by
  unfold writeS; split <;> rfl
@[simp] theorem writeS_trap (r : BitVec 5) (v : Word) (x : Ctx) : (writeS r v x).trap = x.trap := by
  unfold writeS; split <;> rfl
@[simp] theorem writeS_id (r : BitVec 5) (v : Word) (x : Ctx) : (writeS r v x).id = x.id := by
  unfold writeS; split <;> rfl
@[simp] theorem writeS_cnt (r : BitVec 5) (v : Word) (x : Ctx) : (writeS r v x).cnt = x.cnt := by
  unfold writeS; split <;> rfl
@[simp] theorem writeS_heap (r : BitVec 5) (v : Word) (x : Ctx) : (writeS r v x).heap = x.heap := by
  unfold writeS; split <;> rfl
@[simp] theorem writeS_q (r : BitVec 5) (v : Word) (x : Ctx) : (writeS r v x).q = x.q := by
  unfold writeS; split <;> rfl
@[simp] theorem writeS_older (r : BitVec 5) (v : Word) (x : Ctx) : (writeS r v x).older = x.older := by
  unfold writeS; split <;> rfl
@[simp] theorem writeS_epochs (r : BitVec 5) (v : Word) (x : Ctx) : (writeS r v x).epochs = x.epochs := by
  unfold writeS; split <;> rfl
@[simp] theorem writeS_acting (r : BitVec 5) (v : Word) (x : Ctx) : (writeS r v x).acting = x.acting := by
  unfold writeS; split <;> rfl
@[simp] theorem writeS_sync (r : BitVec 5) (v : Word) (x : Ctx) : (writeS r v x).sync = x.sync := by
  unfold writeS; split <;> rfl
@[simp] theorem writeS_engL (r : BitVec 5) (v : Word) (x : Ctx) : (writeS r v x).engL = x.engL := by
  unfold writeS; split <;> rfl
@[simp] theorem writeS_engS (r : BitVec 5) (v : Word) (x : Ctx) : (writeS r v x).engS = x.engS := by
  unfold writeS; split <;> rfl
@[simp] theorem writeS_mat (r : BitVec 5) (v : Word) (x : Ctx) : (writeS r v x).mat = x.mat := by
  unfold writeS; split <;> rfl
@[simp] theorem writeS_preq (r : BitVec 5) (v : Word) (x : Ctx) : (writeS r v x).preq = x.preq := by
  unfold writeS; split <;> rfl
@[simp] theorem writeS_work (r : BitVec 5) (v : Word) (x : Ctx) : (writeS r v x).work = x.work := by
  unfold writeS; split <;> rfl
@[simp] theorem writeS_sluice (r : BitVec 5) (v : Word) (x : Ctx) : (writeS r v x).sluice = x.sluice := by
  unfold writeS; split <;> rfl
@[simp] theorem writeS_sinceDeq (r : BitVec 5) (v : Word) (x : Ctx) : (writeS r v x).sinceDeq = x.sinceDeq := by
  unfold writeS; split <;> rfl
@[simp] theorem writeS_waited (r : BitVec 5) (v : Word) (x : Ctx) : (writeS r v x).waited = x.waited := by
  unfold writeS; split <;> rfl
@[simp] theorem writeS_switched (r : BitVec 5) (v : Word) (x : Ctx) : (writeS r v x).switched = x.switched := by
  unfold writeS; split <;> rfl
@[simp] theorem writeS_reads (r : BitVec 5) (v : Word) (x : Ctx) : (writeS r v x).reads = x.reads := by
  unfold writeS; split <;> rfl
@[simp] theorem writeS_pos (r : BitVec 5) (v : Word) (x : Ctx) : (writeS r v x).pos = x.pos := by
  unfold writeS; split <;> rfl
@[simp] theorem writeS_reg (r : BitVec 5) (v : Word) (x : Ctx) : (writeS r v x).reg = x.reg := by
  unfold writeS; split <;> rfl

@[simp] theorem goTo_bank (a : Word) (x : Ctx) : (goTo a x).bank = x.bank := rfl
@[simp] theorem goTo_front (a : Word) (x : Ctx) : (goTo a x).front = x.front := rfl
@[simp] theorem goTo_fpc (a : Word) (x : Ctx) : (goTo a x).fpc = x.fpc := rfl
@[simp] theorem goTo_tok (a : Word) (x : Ctx) : (goTo a x).tok = x.tok := rfl
@[simp] theorem goTo_flags (a : Word) (x : Ctx) : (goTo a x).flags = x.flags := rfl
@[simp] theorem goTo_ptests (a : Word) (x : Ctx) : (goTo a x).ptests = x.ptests := rfl
@[simp] theorem goTo_stage (a : Word) (x : Ctx) : (goTo a x).stage = x.stage := rfl
@[simp] theorem goTo_trap (a : Word) (x : Ctx) : (goTo a x).trap = x.trap := rfl
@[simp] theorem goTo_id (a : Word) (x : Ctx) : (goTo a x).id = x.id := rfl
@[simp] theorem goTo_cnt (a : Word) (x : Ctx) : (goTo a x).cnt = x.cnt := rfl
@[simp] theorem goTo_heap (a : Word) (x : Ctx) : (goTo a x).heap = x.heap := rfl
@[simp] theorem goTo_q (a : Word) (x : Ctx) : (goTo a x).q = x.q := rfl
@[simp] theorem goTo_older (a : Word) (x : Ctx) : (goTo a x).older = x.older := rfl
@[simp] theorem goTo_epochs (a : Word) (x : Ctx) : (goTo a x).epochs = x.epochs := rfl
@[simp] theorem goTo_acting (a : Word) (x : Ctx) : (goTo a x).acting = x.acting := rfl
@[simp] theorem goTo_sync (a : Word) (x : Ctx) : (goTo a x).sync = x.sync := rfl
@[simp] theorem goTo_engL (a : Word) (x : Ctx) : (goTo a x).engL = x.engL := rfl
@[simp] theorem goTo_engS (a : Word) (x : Ctx) : (goTo a x).engS = x.engS := rfl
@[simp] theorem goTo_mat (a : Word) (x : Ctx) : (goTo a x).mat = x.mat := rfl
@[simp] theorem goTo_preq (a : Word) (x : Ctx) : (goTo a x).preq = x.preq := rfl
@[simp] theorem goTo_work (a : Word) (x : Ctx) : (goTo a x).work = x.work := rfl
@[simp] theorem goTo_sluice (a : Word) (x : Ctx) : (goTo a x).sluice = x.sluice := rfl
@[simp] theorem goTo_sinceDeq (a : Word) (x : Ctx) : (goTo a x).sinceDeq = x.sinceDeq := rfl
@[simp] theorem goTo_waited (a : Word) (x : Ctx) : (goTo a x).waited = x.waited := rfl
@[simp] theorem goTo_switched (a : Word) (x : Ctx) : (goTo a x).switched = x.switched := rfl
@[simp] theorem goTo_reads (a : Word) (x : Ctx) : (goTo a x).reads = x.reads := rfl
@[simp] theorem stepPc_bank (x : Ctx) : (stepPc x).bank = x.bank := rfl
@[simp] theorem stepPc_front (x : Ctx) : (stepPc x).front = x.front := rfl
@[simp] theorem stepPc_fpc (x : Ctx) : (stepPc x).fpc = x.fpc := rfl
@[simp] theorem stepPc_tok (x : Ctx) : (stepPc x).tok = x.tok := rfl
@[simp] theorem stepPc_flags (x : Ctx) : (stepPc x).flags = x.flags := rfl
@[simp] theorem stepPc_ptests (x : Ctx) : (stepPc x).ptests = x.ptests := rfl
@[simp] theorem stepPc_stage (x : Ctx) : (stepPc x).stage = x.stage := rfl
@[simp] theorem stepPc_trap (x : Ctx) : (stepPc x).trap = x.trap := rfl
@[simp] theorem stepPc_id (x : Ctx) : (stepPc x).id = x.id := rfl
@[simp] theorem stepPc_cnt (x : Ctx) : (stepPc x).cnt = x.cnt := rfl
@[simp] theorem stepPc_heap (x : Ctx) : (stepPc x).heap = x.heap := rfl
@[simp] theorem stepPc_q (x : Ctx) : (stepPc x).q = x.q := rfl
@[simp] theorem stepPc_older (x : Ctx) : (stepPc x).older = x.older := rfl
@[simp] theorem stepPc_epochs (x : Ctx) : (stepPc x).epochs = x.epochs := rfl
@[simp] theorem stepPc_acting (x : Ctx) : (stepPc x).acting = x.acting := rfl
@[simp] theorem stepPc_sync (x : Ctx) : (stepPc x).sync = x.sync := rfl
@[simp] theorem stepPc_engL (x : Ctx) : (stepPc x).engL = x.engL := rfl
@[simp] theorem stepPc_engS (x : Ctx) : (stepPc x).engS = x.engS := rfl
@[simp] theorem stepPc_mat (x : Ctx) : (stepPc x).mat = x.mat := rfl
@[simp] theorem stepPc_preq (x : Ctx) : (stepPc x).preq = x.preq := rfl
@[simp] theorem stepPc_work (x : Ctx) : (stepPc x).work = x.work := rfl
@[simp] theorem stepPc_sluice (x : Ctx) : (stepPc x).sluice = x.sluice := rfl
@[simp] theorem stepPc_sinceDeq (x : Ctx) : (stepPc x).sinceDeq = x.sinceDeq := rfl
@[simp] theorem stepPc_waited (x : Ctx) : (stepPc x).waited = x.waited := rfl
@[simp] theorem stepPc_switched (x : Ctx) : (stepPc x).switched = x.switched := rfl
@[simp] theorem stepPc_reads (x : Ctx) : (stepPc x).reads = x.reads := rfl

end Sys2Proof.Machine
end

