-- ==== Sys2Proof/Laws/Banks.lean ====
section
/-! SUPPORT. What the banks of the slices change when accesses are presented to them: the cores, and nothing else. -/

namespace Sys2Proof.Machine

/-- Two states that differ in their cores at most. -/
def OnlyCores (s t : State) : Prop := t = { s with cores := t.cores }

theorem OnlyCores.refl (s : State) : OnlyCores s s := rfl

theorem OnlyCores.trans {s t u : State} (h : OnlyCores s t) (k : OnlyCores t u) : OnlyCores s u := by
  rw [OnlyCores, h] at k
  exact k

theorem OnlyCores.modCore (s : State) (k : CoreId) (f : Core → Core) : OnlyCores s (s.modCore k f) := rfl

/-- The contexts, memory and the halves are as before. -/
theorem OnlyCores.frame {s t : State} (h : OnlyCores s t) :
    t.ctxs = s.ctxs ∧ t.mem = s.mem ∧ t.halves = s.halves ∧ t.lag = s.lag ∧ t.freeCtr = s.freeCtr := by
  rw [h]
  exact ⟨rfl, rfl, rfl, rfl, rfl⟩

theorem presentUses_onlyCores (k : CoreId) (us : List BankUse) (s : State) : OnlyCores s (presentUses k us s) := by
  unfold presentUses
  split
  · exact OnlyCores.refl s
  · exact OnlyCores.modCore s k _

theorem presentFar_onlyCores (acc : BankAcc) (ls : List Nat) (s : State) : OnlyCores s (presentFar acc ls s) := by
  induction ls generalizing s with
  | nil => exact OnlyCores.refl s
  | cons l ls ih => exact (presentUses_onlyCores _ _ s).trans (ih _)

theorem touchBanks_onlyCores (c : CtxId) (port : Fin 8) (acc : BankAcc) (keys : List Nat) (s : State) :
    OnlyCores s (touchBanks c port acc keys s) :=
  (presentUses_onlyCores _ _ s).trans (presentFar_onlyCores _ _ _)

/-- A request at the banks of its slice changes the cores alone, whether it goes on or waits (spec/05 R89). -/
theorem bankGate_onlyCores (c : CtxId) (port : Fin 8) (acc : BankAcc) (pos epoch : Nat) (keys : List Nat) (s : State) :
    OnlyCores s (bankGate c port acc pos epoch keys s).2 := by
  unfold bankGate
  extract_lets
  split
  · exact presentFar_onlyCores _ _ s
  · split
    · exact OnlyCores.refl s
    · split
      · exact (OnlyCores.modCore s _ _).trans (presentFar_onlyCores _ _ _)
      · split
        · exact (OnlyCores.modCore s _ _).trans (presentFar_onlyCores _ _ _)
        · exact presentUses_onlyCores _ _ s

/-- A request that touches no line of the slice of its core goes on at once. -/
theorem bankGate_far (c : CtxId) (port : Fin 8) (acc : BankAcc) (pos epoch : Nat) (keys : List Nat) (s : State)
    (h : linesAt (coreOf c) true (sliceLines keys) = []) :
    bankGate c port acc pos epoch keys s = (true, presentFar acc (linesAt (coreOf c) false (sliceLines keys)) s) := by
  simp [bankGate, h]

end Sys2Proof.Machine
end

