-- ==== Sys2Proof/Laws/Encoding.lean ====
section
/-! SUPPORT. The fields of encoded words: what the decoder reads out of what the encoder has put in. -/

namespace Sys2Proof

open Machine

theorem getTok_bits (t : Tok) : ∀ i : Fin 4,
    (putTok t).getLsbD i.val = (match i with | 0 => t.sn | 1 => t.sp | 2 => t.wn | 3 => t.wp) := by
  obtain ⟨a, b, c, d⟩ := t
  cases a <;> cases b <;> cases c <;> cases d <;> decide

theorem tyOfCode_tyCode (t : Ty) : tyOfCode (tyCode t) = t := by cases t <;> rfl

theorem scopeOf_scopeCode (c : Scope) : scopeOf (scopeCode c) = c := by
  cases c with
  | rsv n => revert n; decide
  | _ => rfl

theorem zop_zopCode (z : ZOp) : zop (zopCode z) = z := by
  cases z with
  | z n => revert n; decide
  | zt n => revert n; decide
  | rsv n => revert n; decide

/-- A field of the low part of two joined parts. -/
theorem extract_low {a b : Nat} (x : BitVec a) (y : BitVec b) (i n : Nat) (h : i + n ≤ b) :
    (x ++ y).extractLsb' i n = y.extractLsb' i n := by
  ext j hj
  simp only [BitVec.getElem_extractLsb', BitVec.getLsbD_append]
  rw [if_pos (by omega)]

/-- A field of the high part of two joined parts. -/
theorem extract_high {a b : Nat} (x : BitVec a) (y : BitVec b) (i n : Nat) (h : b ≤ i) :
    (x ++ y).extractLsb' i n = x.extractLsb' (i - b) n := by
  ext j hj
  simp only [BitVec.getElem_extractLsb', BitVec.getLsbD_append]
  rw [if_neg (by omega)]
  congr 1
  omega

theorem extract_all {a : Nat} (x : BitVec a) : x.extractLsb' 0 a = x := by
  ext j hj
  simp

theorem getLsbD_low {a b : Nat} (x : BitVec a) (y : BitVec b) (i : Nat) (h : i < b) :
    (x ++ y).getLsbD i = y.getLsbD i := by
  rw [BitVec.getLsbD_append, if_pos h]

theorem getLsbD_high {a b : Nat} (x : BitVec a) (y : BitVec b) (i : Nat) (h : b ≤ i) :
    (x ++ y).getLsbD i = x.getLsbD (i - b) := by
  rw [BitVec.getLsbD_append, if_neg (by omega)]

theorem putWord_major (m t f : Nat) (b : BitVec 46) :
    (putWord m t f b).extractLsb' 58 6 = BitVec.ofNat 6 m := by
  unfold putWord
  rw [extract_high _ _ _ _ (by omega), extract_high _ _ _ _ (by omega), extract_high _ _ _ _ (by omega)]
  exact extract_all _

theorem putWord_tok (m t f : Nat) (b : BitVec 46) :
    (putWord m t f b).extractLsb' 54 4 = BitVec.ofNat 4 t := by
  unfold putWord
  rw [extract_high _ _ _ _ (by omega), extract_high _ _ _ _ (by omega), extract_low _ _ _ _ (by omega)]
  exact extract_all _

theorem putWord_fn (m t f : Nat) (b : BitVec 46) :
    (putWord m t f b).extractLsb' 46 8 = BitVec.ofNat 8 f := by
  unfold putWord
  rw [extract_high _ _ _ _ (by omega), extract_low _ _ _ _ (by omega)]
  exact extract_all _

theorem putWord_body (m t f : Nat) (b : BitVec 46) (i n : Nat) (h : i + n ≤ 46) :
    (putWord m t f b).extractLsb' i n = b.extractLsb' i n := by
  unfold putWord
  exact extract_low _ _ _ _ h

theorem getTok_putWord (m f : Nat) (t : Tok) (b : BitVec 46) : getTok (putWord m (putTok t).toNat f b) = t := by
  have h : ∀ i, i < 4 → (putWord m (putTok t).toNat f b).getLsbD (54 + i) = (putTok t).getLsbD i := by
    intro i hi
    unfold putWord
    rw [getLsbD_high _ _ _ (by omega), getLsbD_high _ _ _ (by omega), getLsbD_low _ _ _ (by omega),
      BitVec.ofNat_toNat, BitVec.setWidth_eq]
    congr 1
    omega
  have h0 := h 0 (by omega)
  have h1 := h 1 (by omega)
  have h2 := h 2 (by omega)
  have h3 := h 3 (by omega)
  have g0 := getTok_bits t 0
  have g1 := getTok_bits t 1
  have g2 := getTok_bits t 2
  have g3 := getTok_bits t 3
  simp only [Nat.reduceAdd] at h0 h1 h2 h3
  unfold getTok
  rw [h3, h2, h1, h0]
  obtain ⟨a, b, c, d⟩ := t
  simp_all


theorem getSR_putSR (m f : Nat) (o : SR) : getSR (putSR m f o) = o := by
  unfold getSR putSR
  simp (disch := omega) only [putWord_body]
  show SR.mk ((o.sd ++ o.sa ++ o.sb ++ 0#31).extractLsb' 41 5) ((o.sd ++ o.sa ++ o.sb ++ 0#31).extractLsb'
      36 5) ((o.sd ++ o.sa ++ o.sb ++ 0#31).extractLsb' 31 5) = o
  simp (disch := omega) only [extract_low, extract_high, extract_all, Nat.reduceSub]

theorem getSI_putSI (m f : Nat) (o : SI) : getSI (putSI m f o) = o := by
  unfold getSI putSI
  simp (disch := omega) only [putWord_body]
  show SI.mk ((o.sd ++ o.sa ++ o.imm).extractLsb' 41 5) ((o.sd ++ o.sa ++ o.imm).extractLsb' 36 5) ((o.sd
      ++ o.sa ++ o.imm).extractLsb' 0 36) = o
  simp (disch := omega) only [extract_low, extract_high, extract_all, Nat.reduceSub]

theorem getSB_putSB (m f : Nat) (o : SB) : getSB (putSB m f o) = o := by
  unfold getSB putSB
  simp (disch := omega) only [putWord_body]
  show SB.mk ((o.sa ++ o.sb ++ o.off).extractLsb' 41 5) ((o.sa ++ o.sb ++ o.off).extractLsb' 36 5) ((o.sa
      ++ o.sb ++ o.off).extractLsb' 0 36) = o
  simp (disch := omega) only [extract_low, extract_high, extract_all, Nat.reduceSub]

theorem getSJ_putSJ (m f : Nat) (o : SJ) : getSJ (putSJ m f o) = o := by
  unfold getSJ putSJ
  simp (disch := omega) only [putWord_body]
  show SJ.mk ((o.sd ++ o.sa ++ o.off).extractLsb' 41 5) ((o.sd ++ o.sa ++ o.off).extractLsb' 36 5) ((o.sd
      ++ o.sa ++ o.off).extractLsb' 0 36) = o
  simp (disch := omega) only [extract_low, extract_high, extract_all, Nat.reduceSub]

theorem getSL_putSL (m f : Nat) (o : SL) : getSL (putSL m f o) = o := by
  unfold getSL putSL
  simp (disch := omega) only [putWord_body]
  show SL.mk ((o.sa ++ o.vrot ++ o.prot ++ o.lvl ++ o.imm).extractLsb' 41 5) ((o.sa ++ o.vrot ++ o.prot ++
      o.lvl ++ o.imm).extractLsb' 35 6) ((o.sa ++ o.vrot ++ o.prot ++ o.lvl ++ o.imm).extractLsb' 32 3)
      ((o.sa ++ o.vrot ++ o.prot ++ o.lvl ++ o.imm).extractLsb' 29 3) ((o.sa ++ o.vrot ++ o.prot ++ o.lvl
      ++ o.imm).extractLsb' 0 29) = o
  simp (disch := omega) only [extract_low, extract_high, extract_all, Nat.reduceSub]

theorem getFB_putFB (m f : Nat) (o : FB) : getFB (putFB m f o) = o := by
  unfold getFB putFB
  simp (disch := omega) only [putWord_body]
  show FB.mk ((o.sd ++ o.sa ++ o.f ++ o.off).extractLsb' 41 5) ((o.sd ++ o.sa ++ o.f ++ o.off).extractLsb'
      36 5) ((o.sd ++ o.sa ++ o.f ++ o.off).extractLsb' 34 2) ((o.sd ++ o.sa ++ o.f ++ o.off).extractLsb'
      0 34) = o
  simp (disch := omega) only [extract_low, extract_high, extract_all, Nat.reduceSub]

theorem getSX_putSX (m f : Nat) (o : SX) : getSX (putSX m f o) = o := by
  unfold getSX putSX
  simp (disch := omega) only [putWord_body]
  show SX.mk ((o.v ++ o.p ++ o.imm).extractLsb' 40 6) ((o.v ++ o.p ++ o.imm).extractLsb' 36 4) ((o.v ++ o.p
      ++ o.imm).extractLsb' 0 36) = o
  simp (disch := omega) only [extract_low, extract_high, extract_all, Nat.reduceSub]

theorem getSY_putSY (m f : Nat) (o : SY) : getSY (putSY m f o) = o := by
  unfold getSY putSY
  simp (disch := omega) only [getTok_putWord, putWord_body]
  show SY.mk (o.tok) ((o.sd ++ o.sa ++ o.sb ++ scopeCode o.scope ++ o.subop ++ o.imm).extractLsb' 41 5)
      ((o.sd ++ o.sa ++ o.sb ++ scopeCode o.scope ++ o.subop ++ o.imm).extractLsb' 36 5) ((o.sd ++ o.sa
      ++ o.sb ++ scopeCode o.scope ++ o.subop ++ o.imm).extractLsb' 31 5) (scopeOf ((o.sd ++ o.sa ++ o.sb
      ++ scopeCode o.scope ++ o.subop ++ o.imm).extractLsb' 28 3)) ((o.sd ++ o.sa ++ o.sb ++ scopeCode
      o.scope ++ o.subop ++ o.imm).extractLsb' 24 4) ((o.sd ++ o.sa ++ o.sb ++ scopeCode o.scope ++
      o.subop ++ o.imm).extractLsb' 0 24) = o
  simp (disch := omega) only [extract_low, extract_high, extract_all, Nat.reduceSub, scopeOf_scopeCode]

theorem getVX_putVX (m f : Nat) (o : VX) : getVX (putVX m f o) = o := by
  unfold getVX putVX
  simp (disch := omega) only [getTok_putWord, putWord_body]
  show VX.mk (o.tok) (tyOfCode ((tyCode o.ty ++ o.pred ++ o.vd ++ o.va ++ o.vb ++ o.vc ++
      o.imm).extractLsb' 42 4)) ((tyCode o.ty ++ o.pred ++ o.vd ++ o.va ++ o.vb ++ o.vc ++
      o.imm).extractLsb' 38 4) ((tyCode o.ty ++ o.pred ++ o.vd ++ o.va ++ o.vb ++ o.vc ++
      o.imm).extractLsb' 32 6) ((tyCode o.ty ++ o.pred ++ o.vd ++ o.va ++ o.vb ++ o.vc ++
      o.imm).extractLsb' 26 6) ((tyCode o.ty ++ o.pred ++ o.vd ++ o.va ++ o.vb ++ o.vc ++
      o.imm).extractLsb' 20 6) ((tyCode o.ty ++ o.pred ++ o.vd ++ o.va ++ o.vb ++ o.vc ++
      o.imm).extractLsb' 14 6) ((tyCode o.ty ++ o.pred ++ o.vd ++ o.va ++ o.vb ++ o.vc ++
      o.imm).extractLsb' 0 14) = o
  simp (disch := omega) only [extract_low, extract_high, extract_all, Nat.reduceSub, tyOfCode_tyCode]

theorem getMX_putMX (m f : Nat) (o : MX) : getMX (putMX m f o) = o := by
  unfold getMX putMX
  simp (disch := omega) only [getTok_putWord, putWord_body]
  show MX.mk (o.tok) ((o.shape ++ tyCode o.aty ++ tyCode o.bty ++ zopCode o.z ++ o.v ++ o.v2 ++ o.sd ++
      o.flags).extractLsb' 41 5) (tyOfCode ((o.shape ++ tyCode o.aty ++ tyCode o.bty ++ zopCode o.z ++
      o.v ++ o.v2 ++ o.sd ++ o.flags).extractLsb' 37 4)) (tyOfCode ((o.shape ++ tyCode o.aty ++ tyCode
      o.bty ++ zopCode o.z ++ o.v ++ o.v2 ++ o.sd ++ o.flags).extractLsb' 33 4)) (zop ((o.shape ++ tyCode
      o.aty ++ tyCode o.bty ++ zopCode o.z ++ o.v ++ o.v2 ++ o.sd ++ o.flags).extractLsb' 30 3))
      ((o.shape ++ tyCode o.aty ++ tyCode o.bty ++ zopCode o.z ++ o.v ++ o.v2 ++ o.sd ++
      o.flags).extractLsb' 24 6) ((o.shape ++ tyCode o.aty ++ tyCode o.bty ++ zopCode o.z ++ o.v ++ o.v2
      ++ o.sd ++ o.flags).extractLsb' 18 6) ((o.shape ++ tyCode o.aty ++ tyCode o.bty ++ zopCode o.z ++
      o.v ++ o.v2 ++ o.sd ++ o.flags).extractLsb' 13 5) ((o.shape ++ tyCode o.aty ++ tyCode o.bty ++
      zopCode o.z ++ o.v ++ o.v2 ++ o.sd ++ o.flags).extractLsb' 0 13) = o
  simp (disch := omega) only [extract_low, extract_high, extract_all, Nat.reduceSub, tyOfCode_tyCode, zop_zopCode]

theorem getMM_putMM (m f : Nat) (o : MM) : getMM (putMM m f o) = o := by
  unfold getMM putMM
  simp (disch := omega) only [getTok_putWord, putWord_body]
  show MM.mk (o.tok) (tyOfCode ((tyCode o.ty ++ o.pred ++ o.v ++ o.sa ++ o.sb ++ o.vi ++ o.off).extractLsb'
      42 4)) ((tyCode o.ty ++ o.pred ++ o.v ++ o.sa ++ o.sb ++ o.vi ++ o.off).extractLsb' 38 4) ((tyCode
      o.ty ++ o.pred ++ o.v ++ o.sa ++ o.sb ++ o.vi ++ o.off).extractLsb' 32 6) ((tyCode o.ty ++ o.pred
      ++ o.v ++ o.sa ++ o.sb ++ o.vi ++ o.off).extractLsb' 27 5) ((tyCode o.ty ++ o.pred ++ o.v ++ o.sa
      ++ o.sb ++ o.vi ++ o.off).extractLsb' 22 5) ((tyCode o.ty ++ o.pred ++ o.v ++ o.sa ++ o.sb ++ o.vi
      ++ o.off).extractLsb' 16 6) ((tyCode o.ty ++ o.pred ++ o.v ++ o.sa ++ o.sb ++ o.vi ++
      o.off).extractLsb' 0 16) = o
  simp (disch := omega) only [extract_low, extract_high, extract_all, Nat.reduceSub, tyOfCode_tyCode]

theorem getTok_putE (m a : Nat) (o : E) : getTok (putE m a o) = o.tok := by
  have h : ∀ i, i < 4 → (putE m a o).getLsbD (54 + i) = (putTok o.tok).getLsbD i := by
    intro i hi
    unfold putE
    simp (disch := omega) only [getLsbD_high, getLsbD_low]
    congr 1
    omega
  have h0 := h 0 (by omega)
  have h1 := h 1 (by omega)
  have h2 := h 2 (by omega)
  have h3 := h 3 (by omega)
  have g0 := getTok_bits o.tok 0
  have g1 := getTok_bits o.tok 1
  have g2 := getTok_bits o.tok 2
  have g3 := getTok_bits o.tok 3
  simp only [Nat.reduceAdd] at h0 h1 h2 h3
  unfold getTok
  rw [h3, h2, h1, h0]
  generalize o.tok = t at *
  obtain ⟨a, b, c, d⟩ := t
  simp_all

theorem getE_putE (m a : Nat) (o : E) : getE (putE m a o) = o := by
  unfold getE
  rw [getTok_putE]
  unfold putE
  simp (disch := omega) only [extract_low, extract_high, extract_all, Nat.reduceSub]

theorem putE_major (m a : Nat) (o : E) : (putE m a o).extractLsb' 58 6 = BitVec.ofNat 6 m := by
  unfold putE
  simp (disch := omega) only [extract_low, extract_high, extract_all, Nat.reduceSub]

theorem putE_act (m a : Nat) (o : E) : (putE m a o).extractLsb' 16 2 = BitVec.ofNat 2 a := by
  unfold putE
  simp (disch := omega) only [extract_low, extract_high, extract_all, Nat.reduceSub]

end Sys2Proof
end

