-- ==== Sys2Proof/Laws/Front.lean ====
section
/-! SUPPORT. What the front's shared operations can do: stepping over an instruction, writing a scalar
register, the loop stack. -/

namespace Sys2Proof.Laws.Front

open Sys2Proof.Machine

theorem me_modCtx (s : State) (f : Ctx → Ctx) : (s.modCtx s.cur f).me = f s.me := by
  simp [State.me, State.modCtx, State.setCtx, State.ctx]

theorem frontOp_free (s : State) (rs : List (BitVec 5)) (f : Ctx → Ctx) (h : registersFree s rs) :
    frontOp rs f s = .next (s.modCtx s.cur f) := by
  simp only [frontOp, registersFree] at *; simp [h]

theorem busyS_of_free {s : State} {rs : List (BitVec 5)} {r : BitVec 5} (h : registersFree s rs) (hr : r ∈ rs) :
    busyS s.me r = false := by
  simp only [registersFree, List.any_eq_false] at h; simpa using h r hr

theorem registersFree_mono {s : State} {rs qs : List (BitVec 5)} (h : registersFree s rs)
    (hq : ∀ r ∈ qs, r ∈ rs) : registersFree s qs := by
  simp only [registersFree, List.any_eq_false] at *; exact fun r hr => h r (hq r hr)

theorem onlyMe_modCtx (s : State) (f : Ctx → Ctx) : onlyMe s (s.modCtx s.cur f) := by
  simp only [onlyMe, me_modCtx]; rfl

theorem memorySame_modCtx (s : State) (c : CtxId) (f : Ctx → Ctx) : memorySame s (s.modCtx c f) := fun _ => rfl

theorem frontWrote_goTo (s : State) (d : BitVec 5) (v pc : Word) (f : Ctx → Ctx)
    (hf : f s.me = goTo pc (writeS d v s.me)) : frontWrote s (s.modCtx s.cur f) d v pc := by
  refine ⟨onlyMe_modCtx _ _, ?_, ?_, ?_, ?_, memorySame_modCtx _ _ _⟩
  · simp only [frontKept, me_modCtx, hf, goTo, countOne, writeS]; split <;> rfl
  · simp [me_modCtx, hf, goTo]
  · simp only [me_modCtx, hf, goTo, countOne, writeS, readS]; split <;> simp
  · intro r hr
    simp only [me_modCtx, hf, goTo, countOne, writeS, readS]
    split
    · rfl
    · split
      · rfl
      · have : d.toNat ≠ r.toNat := fun h => hr (BitVec.eq_of_toNat_eq h.symm)
        simp [this]

theorem frontWent_goTo (s : State) (pc : Word) (f : Ctx → Ctx) (hf : f s.me = goTo pc s.me) :
    frontWent s (s.modCtx s.cur f) pc := by
  refine ⟨onlyMe_modCtx _ _, ?_, ?_, ?_, memorySame_modCtx _ _ _⟩
  · simp only [frontKept, me_modCtx, hf]; rfl
  · simp [me_modCtx, hf, goTo]
  · intro r; simp [me_modCtx, hf, goTo, countOne, readS]

theorem loopWent_goTo (s : State) (g : FrontCk) (pc : Word) (f : Ctx → Ctx)
    (hf : f s.me = goTo pc { s.me with front := g }) : loopWent s (s.modCtx s.cur f) g pc := by
  simp only [loopWent]
  exact congrArg (State.setCtx s s.cur) (hf.trans rfl)

theorem slotsFrom_one (pc : Word) : slotsFrom pc 1 = pc + 8 := by
  simp only [slotsFrom, word]
  apply BitVec.eq_of_toInt_eq; simp [BitVec.toInt_add]

theorem slotsFrom_slotTarget {w : Nat} (pc : Word) (off : BitVec w) (h : w ≤ 64) :
    slotsFrom pc off.toInt = slotTarget pc off := by
  simp only [slotsFrom, word, slotTarget]
  apply BitVec.eq_of_toInt_eq
  simp [BitVec.toInt_add, BitVec.toInt_mul, BitVec.toInt_signExtend_of_le h, Int.mul_comm]

/-- The last index at which a test on six positions holds. -/
theorem getLast_filter_six (p : Fin 6 → Bool) (i : Fin 6) (h : p i = true) (hj : ∀ j, i < j → p j = false) :
    ((List.finRange 6).filter p).getLast? = some i := by
  have key : ∀ a b c d e f : Bool, ∀ i : Fin 6,
      (fun j : Fin 6 => #v[a, b, c, d, e, f][j]) i = true →
      (∀ j, i < j → (fun j : Fin 6 => #v[a, b, c, d, e, f][j]) j = false) →
      ((List.finRange 6).filter (fun j : Fin 6 => #v[a, b, c, d, e, f][j])).getLast? = some i := by decide
  have hp : p = fun j : Fin 6 => #v[p 0, p 1, p 2, p 3, p 4, p 5][j] := by
    funext j; fin_cases j <;> rfl
  rw [hp] at h hj ⊢
  exact key _ _ _ _ _ _ i h hj

theorem filter_six_none (p : Fin 6 → Bool) (h : ∀ j, p j = false) :
    ((List.finRange 6).filter p).getLast? = none := by
  simp [h]

theorem loopTop_topAt (f : FrontCk) (i : Fin 6) (h : topAt f i) : loopTop f = some i :=
  getLast_filter_six (fun i => f.loops[i.val].valid) i h.1 h.2

theorem loopTop_none (f : FrontCk) (h : ∀ j : Fin 6, f.loops[j.val].valid = false) : loopTop f = none :=
  filter_six_none (fun i => f.loops[i.val].valid) h

theorem topAt_loopTop (f : FrontCk) (i : Fin 6) (h : loopTop f = some i) : topAt f i := by
  by_cases hn : ∃ j : Fin 6, f.loops[j.val].valid = true
  · have hm : ∃ j, topAt f j := by
      have key : ∀ p : Fin 6 → Bool, (∃ j, p j = true) → ∃ j, p j = true ∧ ∀ k, j < k → p k = false := by
        decide +revert
      exact key (fun i => f.loops[i.val].valid) hn
    obtain ⟨j, hj⟩ := hm
    rw [loopTop_topAt f j hj] at h
    exact Option.some.inj h ▸ hj
  · have : loopTop f = none := loopTop_none f fun j => by simpa using fun h => hn ⟨j, h⟩
    simp [this] at h

theorem loopFree_aboveTop (f : FrontCk) (i : Fin 6) (h : aboveTop f i) : loopFree f = some i := by
  obtain ⟨hi, h0 | ⟨j, hj, hv⟩⟩ := h
  · have : loopTop f = none := loopTop_none f fun j => hi j (by simp [Fin.le_def, h0])
    simp only [loopFree, this]; congr 1; exact Fin.ext h0.symm
  · have : loopTop f = some j := loopTop_topAt f j ⟨hv, fun k hk => hi k (by rw [Fin.lt_def] at hk; rw [Fin.le_def]; omega)⟩
    have hlt : j.val + 1 < 6 := by omega
    simp only [loopFree, this, hlt, dite_true]; congr 1; exact Fin.ext hj

theorem loopFree_full (f : FrontCk) (h : (f.loops[5]).valid = true) : loopFree f = none := by
  have : loopTop f = some 5 := loopTop_topAt f 5 ⟨h, fun j hj => by rw [Fin.lt_def] at hj; have := j.isLt; simp at hj; omega⟩
  simp [loopFree, this]

end Sys2Proof.Laws.Front
end

