-- ==== Sys2Proof/Laws/Mem.lean ====
section
/-! SUPPORT. Memory: every operation keeps the canonical form, and what a read gives after a write. -/

namespace Sys2Proof.Machine

/-- The canonical form in terms of the library's notions. -/
theorem memWf_iff (m : List Host.Cell) :
    memWf m = true ↔ m.Pairwise (fun a b => a.1 < b.1) ∧ ∀ c ∈ m, c.2 ≠ memDefault := by
  induction m with
  | nil => simp [memWf]
  | cons c m ih =>
    obtain ⟨k, b⟩ := c
    cases m with
    | nil => simp [memWf]
    | cons d n =>
      obtain ⟨k', b'⟩ := d
      simp only [memWf, Bool.and_eq_true, decide_eq_true_eq, bne_iff_ne, ih]
      constructor
      · rintro ⟨⟨hk, hb⟩, hp, hn⟩
        refine ⟨List.pairwise_cons.2 ⟨?_, hp⟩, ?_⟩
        · intro a ha
          rcases List.mem_cons.1 ha with rfl | ha
          · exact hk
          · exact lt_trans hk ((List.pairwise_cons.1 hp).1 a ha)
        · intro a ha
          rcases List.mem_cons.1 ha with rfl | ha
          · exact hb
          · exact hn a ha
      · rintro ⟨hp, hn⟩
        have h := List.pairwise_cons.1 hp
        exact ⟨⟨h.1 _ (List.mem_cons_self ..), hn _ (List.mem_cons_self ..)⟩, h.2,
          fun a ha => hn a (List.mem_cons_of_mem _ ha)⟩

/-- The tail of a canonical list is canonical. -/
theorem memWf_tail {c : Host.Cell} {m : List Host.Cell} (h : memWf (c :: m) = true) : memWf m = true := by
  rw [memWf_iff] at *
  exact ⟨(List.pairwise_cons.1 h.1).2, fun a ha => h.2 a (List.mem_cons_of_mem _ ha)⟩

/-- Nothing listed is canonical. -/
@[simp] theorem memWf_nil : memWf [] = true := rfl

theorem memDrop_sublist (m : List Host.Cell) (a : Nat) : (memDrop m a).Sublist m := by
  induction m with
  | nil => simp [memDrop]
  | cons c m ih =>
    obtain ⟨k, b⟩ := c
    simp only [memDrop]
    split
    · exact List.sublist_cons_self ..
    · exact ih.cons_cons _

/-- A part of a canonical list is canonical. -/
theorem memWf_sublist {m n : List Host.Cell} (h : memWf m = true) (s : n.Sublist m) : memWf n = true := by
  rw [memWf_iff] at *
  exact ⟨h.1.sublist s, fun a ha => h.2 a (s.subset ha)⟩

theorem memWf_drop {m : List Host.Cell} (h : memWf m = true) (a : Nat) : memWf (memDrop m a) = true :=
  memWf_sublist h (memDrop_sublist m a)

theorem mem_memPut {m : List Host.Cell} {a : Nat} {v : Byte} {c : Host.Cell} (h : c ∈ memPut m a v) :
    c = (a, v) ∨ c ∈ m := by
  induction m with
  | nil => simpa [memPut] using h
  | cons d m ih =>
    obtain ⟨k, b⟩ := d
    simp only [memPut] at h
    split at h
    · rcases List.mem_cons.1 h with rfl | h
      · exact .inr (List.mem_cons_self ..)
      · exact (ih h).imp id (List.mem_cons_of_mem _)
    · split at h
      · exact (List.mem_cons.1 h).imp id (List.mem_cons_of_mem _)
      · exact List.mem_cons.1 h

theorem memWf_put {m : List Host.Cell} (h : memWf m = true) (a : Nat) {v : Byte} (hv : v ≠ memDefault) :
    memWf (memPut m a v) = true := by
  rw [memWf_iff] at *
  refine ⟨?_, fun c hc => ?_⟩
  · induction m with
    | nil => simp [memPut]
    | cons d m ih =>
      obtain ⟨k, b⟩ := d
      have hp := List.pairwise_cons.1 h.1
      have hm := ih ⟨hp.2, fun c hc => h.2 c (List.mem_cons_of_mem _ hc)⟩
      simp only [memPut]
      split
      · refine List.pairwise_cons.2 ⟨fun c hc => ?_, hm⟩
        rcases mem_memPut hc with rfl | hc
        · assumption
        · exact hp.1 c hc
      · split
        · exact List.pairwise_cons.2 ⟨fun c hc => by have := hp.1 c hc; simp_all, hp.2⟩
        · refine List.pairwise_cons.2 ⟨fun c hc => ?_, h.1⟩
          have hak : a < k := by omega
          rcases List.mem_cons.1 hc with rfl | hc
          · exact hak
          · exact lt_trans hak (hp.1 c hc)
  · rcases mem_memPut hc with rfl | hc
    · exact hv
    · exact h.2 c hc

/-- A write keeps the canonical form. -/
theorem memWf_write {m : List Host.Cell} (h : memWf m = true) (a : Nat) (v : Byte) :
    memWf (memWrite m a v) = true := by
  unfold memWrite
  split
  · exact memWf_drop h a
  · exact memWf_put h a ‹_›

/-- A number written keeps the canonical form. -/
theorem memWf_putNat {m : List Host.Cell} (h : memWf m = true) (a n v : Nat) :
    memWf (memPutNat m a n v) = true := by
  induction n generalizing m a v with
  | zero => exact h
  | succ n ih => exact ih (memWf_write h _ _) _ _

/-- Bytes written keep the canonical form. -/
theorem memWf_putBytes {m : List Host.Cell} (h : memWf m = true) (a : Nat) (l : List Byte) :
    memWf (memPutBytes m a l) = true := by
  induction l generalizing m a with
  | nil => exact h
  | cons b l ih => exact ih (memWf_write h _ _) _

theorem memWf_lineApply {m : List Host.Cell} (h : memWf m = true) (w : LineWrite) (n : Nat) :
    memWf (lineApply m w n) = true := by
  induction n generalizing m with
  | zero => exact h
  | succ n ih =>
    simp only [lineApply]
    split
    · exact ih (memWf_write h _ _)
    · exact ih h

/-- A line write keeps the canonical form. -/
theorem memWf_line {m : List Host.Cell} (h : memWf m = true) (w : LineWrite) :
    memWf (memLine m w) = true := memWf_lineApply h w 64

/-- Clearing a range keeps the canonical form. -/
theorem memWf_zero {m : List Host.Cell} (h : memWf m = true) (a n : Nat) :
    memWf (memZero m a n) = true := memWf_sublist h List.filter_sublist

/-- A list of writes keeps the canonical form when each of them does. -/
theorem memWf_foldl {α : Type} (f : List Host.Cell → α → List Host.Cell)
    (hf : ∀ m a, memWf m = true → memWf (f m a) = true) (l : List α) {m : List Host.Cell}
    (h : memWf m = true) : memWf (l.foldl f m) = true := by
  induction l generalizing m with
  | nil => exact h
  | cons a l ih => exact ih (hf m a h)

/-! ## Reads after writes -/

theorem memRead_lt {m : List Host.Cell} {a : Nat} (h : ∀ c ∈ m, a < c.1) : memRead m a = memDefault := by
  induction m with
  | nil => rfl
  | cons c m ih =>
    obtain ⟨k, b⟩ := c
    have hk := h _ (List.mem_cons_self ..)
    have hne : k ≠ a := by have : a < k := hk; omega
    simp only [memRead, if_neg hne]
    exact ih fun c hc => h c (List.mem_cons_of_mem _ hc)

theorem memRead_drop_same {m : List Host.Cell} (h : memWf m = true) (a : Nat) :
    memRead (memDrop m a) a = memDefault := by
  induction m with
  | nil => rfl
  | cons c m ih =>
    obtain ⟨k, b⟩ := c
    have hp := List.pairwise_cons.1 ((memWf_iff _).1 h).1
    simp only [memDrop]
    split
    · rename_i hk
      exact memRead_lt fun c hc => by have := hp.1 c hc; simp_all
    · rename_i hk
      simp only [memRead, if_neg hk]
      exact ih (memWf_tail h)

theorem memRead_drop_other (m : List Host.Cell) {a b : Nat} (hab : b ≠ a) :
    memRead (memDrop m a) b = memRead m b := by
  induction m with
  | nil => rfl
  | cons c m ih =>
    obtain ⟨k, v⟩ := c
    by_cases hk : k = a
    · have hb : k ≠ b := fun e => hab (e ▸ hk)
      simp only [memDrop, if_pos hk, memRead, if_neg hb]
    · simp [memDrop, memRead, hk, ih]

theorem memRead_put_same (m : List Host.Cell) (a : Nat) (v : Byte) : memRead (memPut m a v) a = v := by
  induction m with
  | nil => simp [memPut, memRead]
  | cons c m ih =>
    obtain ⟨k, b⟩ := c
    simp only [memPut]
    split
    · have hk : k ≠ a := by omega
      simp only [memRead, if_neg hk, ih]
    · split <;> simp [memRead]

theorem memRead_put_other (m : List Host.Cell) {a b : Nat} (v : Byte) (hab : b ≠ a) :
    memRead (memPut m a v) b = memRead m b := by
  have hba : a ≠ b := fun e => hab e.symm
  induction m with
  | nil => simp [memPut, memRead, hba]
  | cons c m ih =>
    obtain ⟨k, d⟩ := c
    simp only [memPut]
    split
    · simp only [memRead, ih]
    · split
      · rename_i hk; subst hk; simp [memRead, hba]
      · simp [memRead, hba]

/-- A byte reads as it was written. -/
theorem memRead_write_same {m : List Host.Cell} (h : memWf m = true) (a : Nat) (v : Byte) :
    memRead (memWrite m a v) a = v := by
  unfold memWrite
  split
  · rename_i hv; rw [hv]; exact memRead_drop_same h a
  · exact memRead_put_same m a v

/-- A write leaves every other byte. -/
theorem memRead_write_other (m : List Host.Cell) {a b : Nat} (v : Byte) (hab : b ≠ a) :
    memRead (memWrite m a v) b = memRead m b := by
  unfold memWrite
  split
  · exact memRead_drop_other m hab
  · exact memRead_put_other m v hab

/-- A number written leaves every byte outside it. -/
theorem memRead_putNat_other (m : List Host.Cell) (a n v : Nat) {b : Nat} (hb : b < a ∨ a + n ≤ b) :
    memRead (memPutNat m a n v) b = memRead m b := by
  induction n generalizing m a v with
  | zero => rfl
  | succ n ih =>
    simp only [memPutNat]
    rw [ih _ _ _ (by omega), memRead_write_other _ _ (by omega)]

/-- Bytes written leave every byte outside them. -/
theorem memRead_putBytes_other (m : List Host.Cell) (a : Nat) (l : List Byte) {b : Nat}
    (hb : b < a ∨ a + l.length ≤ b) : memRead (memPutBytes m a l) b = memRead m b := by
  induction l generalizing m a with
  | nil => rfl
  | cons v l ih =>
    simp only [List.length_cons] at hb
    simp only [memPutBytes]
    rw [ih _ _ (by omega), memRead_write_other _ _ (by omega)]

theorem memNat_congr (m m' : List Host.Cell) (a n : Nat)
    (h : ∀ b, a ≤ b → b < a + n → memRead m b = memRead m' b) : memNat m a n = memNat m' a n := by
  induction n generalizing a with
  | zero => rfl
  | succ n ih =>
    simp only [memNat]
    rw [h a (by omega) (by omega), ih (a + 1) fun b _ _ => h b (by omega) (by omega)]

/-- A number reads as it was written, cut to its bytes. -/
theorem memNat_putNat {m : List Host.Cell} (h : memWf m = true) (a n v : Nat) :
    memNat (memPutNat m a n v) a n = v % 256 ^ n := by
  induction n generalizing m a v with
  | zero => simp [memNat, Nat.mod_one]
  | succ n ih =>
    simp only [memNat, memPutNat]
    rw [ih (memWf_write h _ _), memRead_putNat_other _ _ _ _ (by omega), memRead_write_same h]
    rw [BitVec.toNat_ofNat, pow_succ' (256 : Nat) n, Nat.mod_mul (a := 256)]

theorem lineApply_other (m : List Host.Cell) (w : LineWrite) (n : Nat) (hn : n ≤ 64) {b : Nat}
    (hb : b < w.line ∨ w.line + 64 ≤ b) : memRead (lineApply m w n) b = memRead m b := by
  induction n generalizing m with
  | zero => rfl
  | succ n ih =>
    simp only [lineApply]
    rw [ih _ (by omega)]
    split
    · exact memRead_write_other _ _ (by omega)
    · rfl

/-- A line write leaves every byte of other lines. -/
theorem memRead_line_other (m : List Host.Cell) (w : LineWrite) {b : Nat}
    (hb : b < w.line ∨ w.line + 64 ≤ b) : memRead (memLine m w) b = memRead m b :=
  lineApply_other m w 64 (le_refl _) hb

/-! ## Ranges replaced -/

/-- Bytes listed by their place are canonical and lie in their range. -/
theorem memWf_list (a : Nat) (f : Nat → Byte) (n : Nat) : memWf (memList a f n) = true := by
  rw [memWf_iff]
  refine ⟨List.Pairwise.filter _ ?_, fun c hc => by simpa using (List.mem_filter.1 hc).2⟩
  exact List.pairwise_map.2 (List.pairwise_lt_range.imp fun h => by simpa using h)

theorem memList_range {a n : Nat} {f : Nat → Byte} {c : Host.Cell} (h : c ∈ memList a f n) :
    a ≤ c.1 ∧ c.1 < a + n := by
  obtain ⟨i, hi, rfl⟩ := List.mem_map.1 (List.mem_filter.1 h).1
  have := List.mem_range.1 hi
  exact ⟨by simp, by simpa using this⟩

/-- A range replaced keeps the canonical form. -/
theorem memWf_splice {m l : List Host.Cell} (h : memWf m = true) (hl : memWf l = true) {a n : Nat}
    (hr : ∀ c ∈ l, a ≤ c.1 ∧ c.1 < a + n) : memWf (memSplice m a n l) = true := by
  rw [memWf_iff] at *
  have hm : ∀ c ∈ m, c.2 ≠ memDefault := h.2
  refine ⟨?_, fun c hc => ?_⟩
  · refine List.pairwise_append.2 ⟨List.pairwise_append.2 ⟨h.1.filter _, hl.1, ?_⟩, h.1.filter _, ?_⟩
    · intro c hc d hd
      have h1 := (List.mem_filter.1 hc).2
      have h2 := hr d hd
      simp at h1; omega
    · intro c hc d hd
      have h2 := (List.mem_filter.1 hd).2
      simp at h2
      rcases List.mem_append.1 hc with hc | hc
      · have h1 := (List.mem_filter.1 hc).2
        simp at h1; omega
      · have h1 := hr c hc
        omega
  · rcases List.mem_append.1 hc with hc | hc
    · rcases List.mem_append.1 hc with hc | hc
      · exact hm c (List.mem_filter.1 hc).1
      · exact hl.2 c hc
    · exact hm c (List.mem_filter.1 hc).1

/-- A byte outside a range that is replaced reads as before. -/
theorem memRead_splice_other {m l : List Host.Cell} {a n : Nat} (hr : ∀ c ∈ l, a ≤ c.1 ∧ c.1 < a + n) {b : Nat}
    (hb : b < a ∨ a + n ≤ b) : memRead (memSplice m a n l) b = memRead m b := by
  have skip : ∀ (l r : List Host.Cell), (∀ c ∈ l, c.1 ≠ b) → memRead (l ++ r) b = memRead r b := by
    intro l r hl
    induction l with
    | nil => rfl
    | cons c l ih =>
      have := hl c (List.mem_cons_self ..)
      simp [memRead, this, ih fun c hc => hl c (List.mem_cons_of_mem _ hc)]
  have keep : ∀ (p : Host.Cell → Bool) (m : List Host.Cell), (∀ c, c.1 = b → p c = true) →
      memRead (m.filter p) b = memRead m b := by
    intro p m hp
    induction m with
    | nil => rfl
    | cons c m ih =>
      by_cases hc : c.1 = b
      · simp [hp c hc, memRead, hc]
      · cases h : p c <;> simp [h, memRead, hc, ih]
  have app : ∀ (l r : List Host.Cell), (∀ c ∈ r, c.1 ≠ b) → memRead (l ++ r) b = memRead l b := by
    intro l r hr
    induction l with
    | nil => simpa [memRead] using skip r [] hr
    | cons c l ih => obtain ⟨k, v⟩ := c; simp [memRead, ih]
  unfold memSplice
  rcases hb with hb | hb
  · rw [List.append_assoc, app, keep]
    · intro c hc; simpa [hc] using hb
    · intro c hc
      rcases List.mem_append.1 hc with hc | hc
      · have := hr c hc; omega
      · have := (List.mem_filter.1 hc).2; simp at this; omega
  · rw [skip, keep]
    · intro c hc; simpa [hc] using hb
    · intro c hc
      rcases List.mem_append.1 hc with hc | hc
      · have := (List.mem_filter.1 hc).2; simp at this; omega
      · have := hr c hc; omega

end Sys2Proof.Machine
end

