-- ==== Sys2Proof/Laws/PerInstr.lean ====
section
/-! SUPPORT. Encoding, instruction by instruction: before the checks of the fields, the decoder reads out of
the word of an instruction that instruction. -/

namespace Sys2Proof.Laws.Encoding

open Machine

/-- The decoder gives back what the encoder was given. -/
def Statement (i : Instr) : Prop := ∀ w, encode i = some w → decodeRaw w = .ok i

theorem raw01 (f : Nat) (hf : f < 256) (o : SR) :
    decodeRaw (putSR 0x01 f o) = decodeAlu f (putSR 0x01 f o) := by
  have hm : (putSR 0x01 f o).extractLsb' 58 6 = BitVec.ofNat 6 0x01 := putWord_major _ _ _ _
  have hn : ((putSR 0x01 f o).extractLsb' 46 8).toNat = f := by
    show ((putWord 0x01 0 f _).extractLsb' 46 8).toNat = f
    rw [putWord_fn, BitVec.toNat_ofNat]
    exact Nat.mod_eq_of_lt hf
  have ht : (putSR 0x01 f o).extractLsb' 54 4 = 0 := putWord_tok _ _ _ _
  unfold decodeRaw
  rw [hm, hn]
  show front _ _ = _
  unfold front
  rw [ht]
  rfl

theorem raw02 (f : Nat) (hf : f < 256) (o : SI) :
    decodeRaw (putSI 0x02 f o) = decodeAlui f (putSI 0x02 f o) := by
  have hm : (putSI 0x02 f o).extractLsb' 58 6 = BitVec.ofNat 6 0x02 := putWord_major _ _ _ _
  have hn : ((putSI 0x02 f o).extractLsb' 46 8).toNat = f := by
    show ((putWord 0x02 0 f _).extractLsb' 46 8).toNat = f
    rw [putWord_fn, BitVec.toNat_ofNat]
    exact Nat.mod_eq_of_lt hf
  have ht : (putSI 0x02 f o).extractLsb' 54 4 = 0 := putWord_tok _ _ _ _
  unfold decodeRaw
  rw [hm, hn]
  show front _ _ = _
  unfold front
  rw [ht]
  rfl

theorem raw03 (f : Nat) (hf : f < 256) (o : SB) :
    decodeRaw (putSB 0x03 f o) = decodeBr f (putSB 0x03 f o) := by
  have hm : (putSB 0x03 f o).extractLsb' 58 6 = BitVec.ofNat 6 0x03 := putWord_major _ _ _ _
  have hn : ((putSB 0x03 f o).extractLsb' 46 8).toNat = f := by
    show ((putWord 0x03 0 f _).extractLsb' 46 8).toNat = f
    rw [putWord_fn, BitVec.toNat_ofNat]
    exact Nat.mod_eq_of_lt hf
  have ht : (putSB 0x03 f o).extractLsb' 54 4 = 0 := putWord_tok _ _ _ _
  unfold decodeRaw
  rw [hm, hn]
  show front _ _ = _
  unfold front
  rw [ht]
  rfl

theorem raw04 (f : Nat) (hf : f < 256) (o : SJ) :
    decodeRaw (putSJ 0x04 f o) = decodeJmp f (putSJ 0x04 f o) := by
  have hm : (putSJ 0x04 f o).extractLsb' 58 6 = BitVec.ofNat 6 0x04 := putWord_major _ _ _ _
  have hn : ((putSJ 0x04 f o).extractLsb' 46 8).toNat = f := by
    show ((putWord 0x04 0 f _).extractLsb' 46 8).toNat = f
    rw [putWord_fn, BitVec.toNat_ofNat]
    exact Nat.mod_eq_of_lt hf
  have ht : (putSJ 0x04 f o).extractLsb' 54 4 = 0 := putWord_tok _ _ _ _
  unfold decodeRaw
  rw [hm, hn]
  show front _ _ = _
  unfold front
  rw [ht]
  rfl

theorem raw05 (f : Nat) (hf : f < 256) (o : SL) :
    decodeRaw (putSL 0x05 f o) = decodeLoop f (putSL 0x05 f o) := by
  have hm : (putSL 0x05 f o).extractLsb' 58 6 = BitVec.ofNat 6 0x05 := putWord_major _ _ _ _
  have hn : ((putSL 0x05 f o).extractLsb' 46 8).toNat = f := by
    show ((putWord 0x05 0 f _).extractLsb' 46 8).toNat = f
    rw [putWord_fn, BitVec.toNat_ofNat]
    exact Nat.mod_eq_of_lt hf
  have ht : (putSL 0x05 f o).extractLsb' 54 4 = 0 := putWord_tok _ _ _ _
  unfold decodeRaw
  rw [hm, hn]
  show front _ _ = _
  unfold front
  rw [ht]
  rfl

theorem raw06 (f : Nat) (hf : f < 256) (o : FB) :
    decodeRaw (putFB 0x06 f o) = decodeFbr f (putFB 0x06 f o) := by
  have hm : (putFB 0x06 f o).extractLsb' 58 6 = BitVec.ofNat 6 0x06 := putWord_major _ _ _ _
  have hn : ((putFB 0x06 f o).extractLsb' 46 8).toNat = f := by
    show ((putWord 0x06 0 f _).extractLsb' 46 8).toNat = f
    rw [putWord_fn, BitVec.toNat_ofNat]
    exact Nat.mod_eq_of_lt hf
  have ht : (putFB 0x06 f o).extractLsb' 54 4 = 0 := putWord_tok _ _ _ _
  unfold decodeRaw
  rw [hm, hn]
  show front _ _ = _
  unfold front
  rw [ht]
  rfl

theorem raw07 (f : Nat) (hf : f < 256) (o : SI) :
    decodeRaw (putSI 0x07 f o) = decodeCsr f (putSI 0x07 f o) := by
  have hm : (putSI 0x07 f o).extractLsb' 58 6 = BitVec.ofNat 6 0x07 := putWord_major _ _ _ _
  have hn : ((putSI 0x07 f o).extractLsb' 46 8).toNat = f := by
    show ((putWord 0x07 0 f _).extractLsb' 46 8).toNat = f
    rw [putWord_fn, BitVec.toNat_ofNat]
    exact Nat.mod_eq_of_lt hf
  have ht : (putSI 0x07 f o).extractLsb' 54 4 = 0 := putWord_tok _ _ _ _
  unfold decodeRaw
  rw [hm, hn]
  show front _ _ = _
  unfold front
  rw [ht]
  rfl

theorem raw08 (f : Nat) (hf : f < 256) (o : SX) :
    decodeRaw (putSX 0x08 f o) = decodeSys f (putSX 0x08 f o) := by
  have hm : (putSX 0x08 f o).extractLsb' 58 6 = BitVec.ofNat 6 0x08 := putWord_major _ _ _ _
  have hn : ((putSX 0x08 f o).extractLsb' 46 8).toNat = f := by
    show ((putWord 0x08 0 f _).extractLsb' 46 8).toNat = f
    rw [putWord_fn, BitVec.toNat_ofNat]
    exact Nat.mod_eq_of_lt hf
  have ht : (putSX 0x08 f o).extractLsb' 54 4 = 0 := putWord_tok _ _ _ _
  unfold decodeRaw
  rw [hm, hn]
  show front _ _ = _
  unfold front
  rw [ht]
  rfl

theorem raw10 (f : Nat) (hf : f < 256) (o : MM) :
    decodeRaw (putMM 0x10 f o) = decodeLdv f (putMM 0x10 f o) := by
  have hm : (putMM 0x10 f o).extractLsb' 58 6 = BitVec.ofNat 6 0x10 := putWord_major _ _ _ _
  have hn : ((putMM 0x10 f o).extractLsb' 46 8).toNat = f := by
    show ((putWord 0x10 _ f _).extractLsb' 46 8).toNat = f
    rw [putWord_fn, BitVec.toNat_ofNat]
    exact Nat.mod_eq_of_lt hf
  unfold decodeRaw
  rw [hm, hn]
  rfl

theorem raw11 (f : Nat) (hf : f < 256) (o : MM) :
    decodeRaw (putMM 0x11 f o) = decodeLds f (putMM 0x11 f o) := by
  have hm : (putMM 0x11 f o).extractLsb' 58 6 = BitVec.ofNat 6 0x11 := putWord_major _ _ _ _
  have hn : ((putMM 0x11 f o).extractLsb' 46 8).toNat = f := by
    show ((putWord 0x11 _ f _).extractLsb' 46 8).toNat = f
    rw [putWord_fn, BitVec.toNat_ofNat]
    exact Nat.mod_eq_of_lt hf
  unfold decodeRaw
  rw [hm, hn]
  rfl

theorem raw12 (f : Nat) (hf : f < 256) (o : MM) :
    decodeRaw (putMM 0x12 f o) = decodeGat f (putMM 0x12 f o) := by
  have hm : (putMM 0x12 f o).extractLsb' 58 6 = BitVec.ofNat 6 0x12 := putWord_major _ _ _ _
  have hn : ((putMM 0x12 f o).extractLsb' 46 8).toNat = f := by
    show ((putWord 0x12 _ f _).extractLsb' 46 8).toNat = f
    rw [putWord_fn, BitVec.toNat_ofNat]
    exact Nat.mod_eq_of_lt hf
  unfold decodeRaw
  rw [hm, hn]
  rfl

theorem raw13 (f : Nat) (hf : f < 256) (o : SY) :
    decodeRaw (putSY 0x13 f o) = decodeLsync f (putSY 0x13 f o) := by
  have hm : (putSY 0x13 f o).extractLsb' 58 6 = BitVec.ofNat 6 0x13 := putWord_major _ _ _ _
  have hn : ((putSY 0x13 f o).extractLsb' 46 8).toNat = f := by
    show ((putWord 0x13 _ f _).extractLsb' 46 8).toNat = f
    rw [putWord_fn, BitVec.toNat_ofNat]
    exact Nat.mod_eq_of_lt hf
  unfold decodeRaw
  rw [hm, hn]
  rfl

theorem raw14 (a : Nat) (o : E) : decodeRaw (putE 0x14 a o) = decodeEngl (putE 0x14 a o) := by
  unfold decodeRaw
  rw [putE_major]
  rfl

theorem raw15 (f : Nat) (hf : f < 256) (o : SY) :
    decodeRaw (putSY 0x15 f o) = decodeKtokl f (putSY 0x15 f o) := by
  have hm : (putSY 0x15 f o).extractLsb' 58 6 = BitVec.ofNat 6 0x15 := putWord_major _ _ _ _
  have hn : ((putSY 0x15 f o).extractLsb' 46 8).toNat = f := by
    show ((putWord 0x15 _ f _).extractLsb' 46 8).toNat = f
    rw [putWord_fn, BitVec.toNat_ofNat]
    exact Nat.mod_eq_of_lt hf
  unfold decodeRaw
  rw [hm, hn]
  rfl

theorem raw20 (f : Nat) (hf : f < 256) (o : VX) :
    decodeRaw (putVX 0x20 f o) = decodeVint f (putVX 0x20 f o) := by
  have hm : (putVX 0x20 f o).extractLsb' 58 6 = BitVec.ofNat 6 0x20 := putWord_major _ _ _ _
  have hn : ((putVX 0x20 f o).extractLsb' 46 8).toNat = f := by
    show ((putWord 0x20 _ f _).extractLsb' 46 8).toNat = f
    rw [putWord_fn, BitVec.toNat_ofNat]
    exact Nat.mod_eq_of_lt hf
  unfold decodeRaw
  rw [hm, hn]
  rfl

theorem raw21 (f : Nat) (hf : f < 256) (o : VX) :
    decodeRaw (putVX 0x21 f o) = decodeVfp f (putVX 0x21 f o) := by
  have hm : (putVX 0x21 f o).extractLsb' 58 6 = BitVec.ofNat 6 0x21 := putWord_major _ _ _ _
  have hn : ((putVX 0x21 f o).extractLsb' 46 8).toNat = f := by
    show ((putWord 0x21 _ f _).extractLsb' 46 8).toNat = f
    rw [putWord_fn, BitVec.toNat_ofNat]
    exact Nat.mod_eq_of_lt hf
  unfold decodeRaw
  rw [hm, hn]
  rfl

theorem raw22 (f : Nat) (hf : f < 256) (o : VX) :
    decodeRaw (putVX 0x22 f o) = decodeVcvt f (putVX 0x22 f o) := by
  have hm : (putVX 0x22 f o).extractLsb' 58 6 = BitVec.ofNat 6 0x22 := putWord_major _ _ _ _
  have hn : ((putVX 0x22 f o).extractLsb' 46 8).toNat = f := by
    show ((putWord 0x22 _ f _).extractLsb' 46 8).toNat = f
    rw [putWord_fn, BitVec.toNat_ofNat]
    exact Nat.mod_eq_of_lt hf
  unfold decodeRaw
  rw [hm, hn]
  rfl

theorem raw23 (f : Nat) (hf : f < 256) (o : VX) :
    decodeRaw (putVX 0x23 f o) = decodeVperm f (putVX 0x23 f o) := by
  have hm : (putVX 0x23 f o).extractLsb' 58 6 = BitVec.ofNat 6 0x23 := putWord_major _ _ _ _
  have hn : ((putVX 0x23 f o).extractLsb' 46 8).toNat = f := by
    show ((putWord 0x23 _ f _).extractLsb' 46 8).toNat = f
    rw [putWord_fn, BitVec.toNat_ofNat]
    exact Nat.mod_eq_of_lt hf
  unfold decodeRaw
  rw [hm, hn]
  rfl

theorem raw24 (f : Nat) (hf : f < 256) (o : VX) :
    decodeRaw (putVX 0x24 f o) = decodeVpred f (putVX 0x24 f o) := by
  have hm : (putVX 0x24 f o).extractLsb' 58 6 = BitVec.ofNat 6 0x24 := putWord_major _ _ _ _
  have hn : ((putVX 0x24 f o).extractLsb' 46 8).toNat = f := by
    show ((putWord 0x24 _ f _).extractLsb' 46 8).toNat = f
    rw [putWord_fn, BitVec.toNat_ofNat]
    exact Nat.mod_eq_of_lt hf
  unfold decodeRaw
  rw [hm, hn]
  rfl

theorem raw25 (f : Nat) (hf : f < 256) (o : VX) :
    decodeRaw (putVX 0x25 f o) = decodeVmisc f (putVX 0x25 f o) := by
  have hm : (putVX 0x25 f o).extractLsb' 58 6 = BitVec.ofNat 6 0x25 := putWord_major _ _ _ _
  have hn : ((putVX 0x25 f o).extractLsb' 46 8).toNat = f := by
    show ((putWord 0x25 _ f _).extractLsb' 46 8).toNat = f
    rw [putWord_fn, BitVec.toNat_ofNat]
    exact Nat.mod_eq_of_lt hf
  unfold decodeRaw
  rw [hm, hn]
  rfl

theorem raw26 (f : Nat) (hf : f < 256) (o : MX) :
    decodeRaw (putMX 0x26 f o) = decodeMat f (putMX 0x26 f o) := by
  have hm : (putMX 0x26 f o).extractLsb' 58 6 = BitVec.ofNat 6 0x26 := putWord_major _ _ _ _
  have hn : ((putMX 0x26 f o).extractLsb' 46 8).toNat = f := by
    show ((putWord 0x26 _ f _).extractLsb' 46 8).toNat = f
    rw [putWord_fn, BitVec.toNat_ofNat]
    exact Nat.mod_eq_of_lt hf
  unfold decodeRaw
  rw [hm, hn]
  rfl

theorem raw27 (f : Nat) (hf : f < 256) (o : SY) :
    decodeRaw (putSY 0x27 f o) = decodeKtokc f (putSY 0x27 f o) := by
  have hm : (putSY 0x27 f o).extractLsb' 58 6 = BitVec.ofNat 6 0x27 := putWord_major _ _ _ _
  have hn : ((putSY 0x27 f o).extractLsb' 46 8).toNat = f := by
    show ((putWord 0x27 _ f _).extractLsb' 46 8).toNat = f
    rw [putWord_fn, BitVec.toNat_ofNat]
    exact Nat.mod_eq_of_lt hf
  unfold decodeRaw
  rw [hm, hn]
  rfl

theorem raw30 (f : Nat) (hf : f < 256) (o : MM) :
    decodeRaw (putMM 0x30 f o) = decodeStv f (putMM 0x30 f o) := by
  have hm : (putMM 0x30 f o).extractLsb' 58 6 = BitVec.ofNat 6 0x30 := putWord_major _ _ _ _
  have hn : ((putMM 0x30 f o).extractLsb' 46 8).toNat = f := by
    show ((putWord 0x30 _ f _).extractLsb' 46 8).toNat = f
    rw [putWord_fn, BitVec.toNat_ofNat]
    exact Nat.mod_eq_of_lt hf
  unfold decodeRaw
  rw [hm, hn]
  rfl

theorem raw31 (f : Nat) (hf : f < 256) (o : MM) :
    decodeRaw (putMM 0x31 f o) = decodeSts f (putMM 0x31 f o) := by
  have hm : (putMM 0x31 f o).extractLsb' 58 6 = BitVec.ofNat 6 0x31 := putWord_major _ _ _ _
  have hn : ((putMM 0x31 f o).extractLsb' 46 8).toNat = f := by
    show ((putWord 0x31 _ f _).extractLsb' 46 8).toNat = f
    rw [putWord_fn, BitVec.toNat_ofNat]
    exact Nat.mod_eq_of_lt hf
  unfold decodeRaw
  rw [hm, hn]
  rfl

theorem raw32 (f : Nat) (hf : f < 256) (o : SY) :
    decodeRaw (putSY 0x32 f o) = decodeSsync f (putSY 0x32 f o) := by
  have hm : (putSY 0x32 f o).extractLsb' 58 6 = BitVec.ofNat 6 0x32 := putWord_major _ _ _ _
  have hn : ((putSY 0x32 f o).extractLsb' 46 8).toNat = f := by
    show ((putWord 0x32 _ f _).extractLsb' 46 8).toNat = f
    rw [putWord_fn, BitVec.toNat_ofNat]
    exact Nat.mod_eq_of_lt hf
  unfold decodeRaw
  rw [hm, hn]
  rfl

theorem raw33 (f : Nat) (hf : f < 256) (o : SY) :
    decodeRaw (putSY 0x33 f o) = decodeAmo f (putSY 0x33 f o) := by
  have hm : (putSY 0x33 f o).extractLsb' 58 6 = BitVec.ofNat 6 0x33 := putWord_major _ _ _ _
  have hn : ((putSY 0x33 f o).extractLsb' 46 8).toNat = f := by
    show ((putWord 0x33 _ f _).extractLsb' 46 8).toNat = f
    rw [putWord_fn, BitVec.toNat_ofNat]
    exact Nat.mod_eq_of_lt hf
  unfold decodeRaw
  rw [hm, hn]
  rfl

theorem raw34 (f : Nat) (hf : f < 256) (o : SY) :
    decodeRaw (putSY 0x34 f o) = decodeTask f (putSY 0x34 f o) := by
  have hm : (putSY 0x34 f o).extractLsb' 58 6 = BitVec.ofNat 6 0x34 := putWord_major _ _ _ _
  have hn : ((putSY 0x34 f o).extractLsb' 46 8).toNat = f := by
    show ((putWord 0x34 _ f _).extractLsb' 46 8).toNat = f
    rw [putWord_fn, BitVec.toNat_ofNat]
    exact Nat.mod_eq_of_lt hf
  unfold decodeRaw
  rw [hm, hn]
  rfl

theorem raw35 (a : Nat) (o : E) : decodeRaw (putE 0x35 a o) = decodeEngs (putE 0x35 a o) := by
  unfold decodeRaw
  rw [putE_major]
  rfl

theorem raw36 (f : Nat) (hf : f < 256) (o : SY) :
    decodeRaw (putSY 0x36 f o) = decodeKtoks f (putSY 0x36 f o) := by
  have hm : (putSY 0x36 f o).extractLsb' 58 6 = BitVec.ofNat 6 0x36 := putWord_major _ _ _ _
  have hn : ((putSY 0x36 f o).extractLsb' 46 8).toNat = f := by
    show ((putWord 0x36 _ f _).extractLsb' 46 8).toNat = f
    rw [putWord_fn, BitVec.toNat_ofNat]
    exact Nat.mod_eq_of_lt hf
  unfold decodeRaw
  rw [hm, hn]
  rfl

theorem low_zero (f : Nat) (o : SR) : (putSR 0x01 f o).extractLsb' 0 31 = 0 := by
  unfold putSR
  simp (disch := omega) only [putWord_body]
  exact extract_low _ _ _ _ (by omega)

theorem add (o : SR) : Statement (.add o) := by
  intro w h
  obtain rfl : putSR 0x01 0 o = w := Option.some.inj h
  rw [raw01 _ (by omega)]
  unfold decodeAlu
  rw [getSR_putSR, low_zero]
  rfl

theorem sub (o : SR) : Statement (.sub o) := by
  intro w h
  obtain rfl : putSR 0x01 1 o = w := Option.some.inj h
  rw [raw01 _ (by omega)]
  unfold decodeAlu
  rw [getSR_putSR, low_zero]
  rfl

theorem mul (o : SR) : Statement (.mul o) := by
  intro w h
  obtain rfl : putSR 0x01 2 o = w := Option.some.inj h
  rw [raw01 _ (by omega)]
  unfold decodeAlu
  rw [getSR_putSR, low_zero]
  rfl

theorem mulhS (o : SR) : Statement (.mulhS o) := by
  intro w h
  obtain rfl : putSR 0x01 3 o = w := Option.some.inj h
  rw [raw01 _ (by omega)]
  unfold decodeAlu
  rw [getSR_putSR, low_zero]
  rfl

theorem mulhN (o : SR) : Statement (.mulhN o) := by
  intro w h
  obtain rfl : putSR 0x01 4 o = w := Option.some.inj h
  rw [raw01 _ (by omega)]
  unfold decodeAlu
  rw [getSR_putSR, low_zero]
  rfl

theorem divS (o : SR) : Statement (.divS o) := by
  intro w h
  obtain rfl : putSR 0x01 5 o = w := Option.some.inj h
  rw [raw01 _ (by omega)]
  unfold decodeAlu
  rw [getSR_putSR, low_zero]
  rfl

theorem divN (o : SR) : Statement (.divN o) := by
  intro w h
  obtain rfl : putSR 0x01 6 o = w := Option.some.inj h
  rw [raw01 _ (by omega)]
  unfold decodeAlu
  rw [getSR_putSR, low_zero]
  rfl

theorem remS (o : SR) : Statement (.remS o) := by
  intro w h
  obtain rfl : putSR 0x01 7 o = w := Option.some.inj h
  rw [raw01 _ (by omega)]
  unfold decodeAlu
  rw [getSR_putSR, low_zero]
  rfl

theorem remN (o : SR) : Statement (.remN o) := by
  intro w h
  obtain rfl : putSR 0x01 8 o = w := Option.some.inj h
  rw [raw01 _ (by omega)]
  unfold decodeAlu
  rw [getSR_putSR, low_zero]
  rfl

theorem minS (o : SR) : Statement (.minS o) := by
  intro w h
  obtain rfl : putSR 0x01 9 o = w := Option.some.inj h
  rw [raw01 _ (by omega)]
  unfold decodeAlu
  rw [getSR_putSR, low_zero]
  rfl

theorem minN (o : SR) : Statement (.minN o) := by
  intro w h
  obtain rfl : putSR 0x01 10 o = w := Option.some.inj h
  rw [raw01 _ (by omega)]
  unfold decodeAlu
  rw [getSR_putSR, low_zero]
  rfl

theorem maxS (o : SR) : Statement (.maxS o) := by
  intro w h
  obtain rfl : putSR 0x01 11 o = w := Option.some.inj h
  rw [raw01 _ (by omega)]
  unfold decodeAlu
  rw [getSR_putSR, low_zero]
  rfl

theorem maxN (o : SR) : Statement (.maxN o) := by
  intro w h
  obtain rfl : putSR 0x01 12 o = w := Option.some.inj h
  rw [raw01 _ (by omega)]
  unfold decodeAlu
  rw [getSR_putSR, low_zero]
  rfl

theorem and (o : SR) : Statement (.and o) := by
  intro w h
  obtain rfl : putSR 0x01 13 o = w := Option.some.inj h
  rw [raw01 _ (by omega)]
  unfold decodeAlu
  rw [getSR_putSR, low_zero]
  rfl

theorem or (o : SR) : Statement (.or o) := by
  intro w h
  obtain rfl : putSR 0x01 14 o = w := Option.some.inj h
  rw [raw01 _ (by omega)]
  unfold decodeAlu
  rw [getSR_putSR, low_zero]
  rfl

theorem xor (o : SR) : Statement (.xor o) := by
  intro w h
  obtain rfl : putSR 0x01 15 o = w := Option.some.inj h
  rw [raw01 _ (by omega)]
  unfold decodeAlu
  rw [getSR_putSR, low_zero]
  rfl

theorem andn (o : SR) : Statement (.andn o) := by
  intro w h
  obtain rfl : putSR 0x01 16 o = w := Option.some.inj h
  rw [raw01 _ (by omega)]
  unfold decodeAlu
  rw [getSR_putSR, low_zero]
  rfl

theorem shl (o : SR) : Statement (.shl o) := by
  intro w h
  obtain rfl : putSR 0x01 17 o = w := Option.some.inj h
  rw [raw01 _ (by omega)]
  unfold decodeAlu
  rw [getSR_putSR, low_zero]
  rfl

theorem shrN (o : SR) : Statement (.shrN o) := by
  intro w h
  obtain rfl : putSR 0x01 18 o = w := Option.some.inj h
  rw [raw01 _ (by omega)]
  unfold decodeAlu
  rw [getSR_putSR, low_zero]
  rfl

theorem shrS (o : SR) : Statement (.shrS o) := by
  intro w h
  obtain rfl : putSR 0x01 19 o = w := Option.some.inj h
  rw [raw01 _ (by omega)]
  unfold decodeAlu
  rw [getSR_putSR, low_zero]
  rfl

theorem rot (o : SR) : Statement (.rot o) := by
  intro w h
  obtain rfl : putSR 0x01 20 o = w := Option.some.inj h
  rw [raw01 _ (by omega)]
  unfold decodeAlu
  rw [getSR_putSR, low_zero]
  rfl

theorem sltS (o : SR) : Statement (.sltS o) := by
  intro w h
  obtain rfl : putSR 0x01 21 o = w := Option.some.inj h
  rw [raw01 _ (by omega)]
  unfold decodeAlu
  rw [getSR_putSR, low_zero]
  rfl

theorem sltN (o : SR) : Statement (.sltN o) := by
  intro w h
  obtain rfl : putSR 0x01 22 o = w := Option.some.inj h
  rw [raw01 _ (by omega)]
  unfold decodeAlu
  rw [getSR_putSR, low_zero]
  rfl

theorem seq (o : SR) : Statement (.seq o) := by
  intro w h
  obtain rfl : putSR 0x01 23 o = w := Option.some.inj h
  rw [raw01 _ (by omega)]
  unfold decodeAlu
  rw [getSR_putSR, low_zero]
  rfl

theorem sne (o : SR) : Statement (.sne o) := by
  intro w h
  obtain rfl : putSR 0x01 24 o = w := Option.some.inj h
  rw [raw01 _ (by omega)]
  unfold decodeAlu
  rw [getSR_putSR, low_zero]
  rfl

theorem clz (o : SR) : Statement (.clz o) := by
  intro w h
  obtain rfl : putSR 0x01 25 o = w := Option.some.inj h
  rw [raw01 _ (by omega)]
  unfold decodeAlu
  rw [getSR_putSR, low_zero]
  rfl

theorem ctz (o : SR) : Statement (.ctz o) := by
  intro w h
  obtain rfl : putSR 0x01 26 o = w := Option.some.inj h
  rw [raw01 _ (by omega)]
  unfold decodeAlu
  rw [getSR_putSR, low_zero]
  rfl

theorem popc (o : SR) : Statement (.popc o) := by
  intro w h
  obtain rfl : putSR 0x01 27 o = w := Option.some.inj h
  rw [raw01 _ (by omega)]
  unfold decodeAlu
  rw [getSR_putSR, low_zero]
  rfl

theorem sextB (o : SR) : Statement (.sextB o) := by
  intro w h
  obtain rfl : putSR 0x01 28 o = w := Option.some.inj h
  rw [raw01 _ (by omega)]
  unfold decodeAlu
  rw [getSR_putSR, low_zero]
  rfl

theorem sextH (o : SR) : Statement (.sextH o) := by
  intro w h
  obtain rfl : putSR 0x01 29 o = w := Option.some.inj h
  rw [raw01 _ (by omega)]
  unfold decodeAlu
  rw [getSR_putSR, low_zero]
  rfl

theorem sextW (o : SR) : Statement (.sextW o) := by
  intro w h
  obtain rfl : putSR 0x01 30 o = w := Option.some.inj h
  rw [raw01 _ (by omega)]
  unfold decodeAlu
  rw [getSR_putSR, low_zero]
  rfl

theorem zextB (o : SR) : Statement (.zextB o) := by
  intro w h
  obtain rfl : putSR 0x01 31 o = w := Option.some.inj h
  rw [raw01 _ (by omega)]
  unfold decodeAlu
  rw [getSR_putSR, low_zero]
  rfl

theorem zextH (o : SR) : Statement (.zextH o) := by
  intro w h
  obtain rfl : putSR 0x01 32 o = w := Option.some.inj h
  rw [raw01 _ (by omega)]
  unfold decodeAlu
  rw [getSR_putSR, low_zero]
  rfl

theorem zextW (o : SR) : Statement (.zextW o) := by
  intro w h
  obtain rfl : putSR 0x01 33 o = w := Option.some.inj h
  rw [raw01 _ (by omega)]
  unfold decodeAlu
  rw [getSR_putSR, low_zero]
  rfl

theorem addi (o : SI) : Statement (.addi o) := by
  intro w h
  obtain rfl : putSI 0x02 0 o = w := Option.some.inj h
  rw [raw02 _ (by omega)]
  unfold decodeAlui
  rw [getSI_putSI]
  rfl

theorem andi (o : SI) : Statement (.andi o) := by
  intro w h
  obtain rfl : putSI 0x02 1 o = w := Option.some.inj h
  rw [raw02 _ (by omega)]
  unfold decodeAlui
  rw [getSI_putSI]
  rfl

theorem ori (o : SI) : Statement (.ori o) := by
  intro w h
  obtain rfl : putSI 0x02 2 o = w := Option.some.inj h
  rw [raw02 _ (by omega)]
  unfold decodeAlui
  rw [getSI_putSI]
  rfl

theorem xori (o : SI) : Statement (.xori o) := by
  intro w h
  obtain rfl : putSI 0x02 3 o = w := Option.some.inj h
  rw [raw02 _ (by omega)]
  unfold decodeAlui
  rw [getSI_putSI]
  rfl

theorem shli (o : SI) : Statement (.shli o) := by
  intro w h
  obtain rfl : putSI 0x02 4 o = w := Option.some.inj h
  rw [raw02 _ (by omega)]
  unfold decodeAlui
  rw [getSI_putSI]
  rfl

theorem shriN (o : SI) : Statement (.shriN o) := by
  intro w h
  obtain rfl : putSI 0x02 5 o = w := Option.some.inj h
  rw [raw02 _ (by omega)]
  unfold decodeAlui
  rw [getSI_putSI]
  rfl

theorem shriS (o : SI) : Statement (.shriS o) := by
  intro w h
  obtain rfl : putSI 0x02 6 o = w := Option.some.inj h
  rw [raw02 _ (by omega)]
  unfold decodeAlui
  rw [getSI_putSI]
  rfl

theorem sltiS (o : SI) : Statement (.sltiS o) := by
  intro w h
  obtain rfl : putSI 0x02 7 o = w := Option.some.inj h
  rw [raw02 _ (by omega)]
  unfold decodeAlui
  rw [getSI_putSI]
  rfl

theorem sltiN (o : SI) : Statement (.sltiN o) := by
  intro w h
  obtain rfl : putSI 0x02 8 o = w := Option.some.inj h
  rw [raw02 _ (by omega)]
  unfold decodeAlui
  rw [getSI_putSI]
  rfl

theorem li (o : SI) : Statement (.li o) := by
  intro w h
  obtain rfl : putSI 0x02 9 o = w := Option.some.inj h
  rw [raw02 _ (by omega)]
  unfold decodeAlui
  rw [getSI_putSI]
  rfl

theorem lih (o : SI) : Statement (.lih o) := by
  intro w h
  obtain rfl : putSI 0x02 10 o = w := Option.some.inj h
  rw [raw02 _ (by omega)]
  unfold decodeAlui
  rw [getSI_putSI]
  rfl

theorem adr (o : SI) : Statement (.adr o) := by
  intro w h
  obtain rfl : putSI 0x02 11 o = w := Option.some.inj h
  rw [raw02 _ (by omega)]
  unfold decodeAlui
  rw [getSI_putSI]
  rfl

theorem beq (o : SB) : Statement (.beq o) := by
  intro w h
  obtain rfl : putSB 0x03 0 o = w := Option.some.inj h
  rw [raw03 _ (by omega)]
  unfold decodeBr
  rw [getSB_putSB]
  rfl

theorem bne (o : SB) : Statement (.bne o) := by
  intro w h
  obtain rfl : putSB 0x03 1 o = w := Option.some.inj h
  rw [raw03 _ (by omega)]
  unfold decodeBr
  rw [getSB_putSB]
  rfl

theorem bltS (o : SB) : Statement (.bltS o) := by
  intro w h
  obtain rfl : putSB 0x03 2 o = w := Option.some.inj h
  rw [raw03 _ (by omega)]
  unfold decodeBr
  rw [getSB_putSB]
  rfl

theorem bgeS (o : SB) : Statement (.bgeS o) := by
  intro w h
  obtain rfl : putSB 0x03 3 o = w := Option.some.inj h
  rw [raw03 _ (by omega)]
  unfold decodeBr
  rw [getSB_putSB]
  rfl

theorem bltN (o : SB) : Statement (.bltN o) := by
  intro w h
  obtain rfl : putSB 0x03 4 o = w := Option.some.inj h
  rw [raw03 _ (by omega)]
  unfold decodeBr
  rw [getSB_putSB]
  rfl

theorem bgeN (o : SB) : Statement (.bgeN o) := by
  intro w h
  obtain rfl : putSB 0x03 5 o = w := Option.some.inj h
  rw [raw03 _ (by omega)]
  unfold decodeBr
  rw [getSB_putSB]
  rfl

theorem j (o : SJ) : Statement (.j o) := by
  intro w h
  obtain rfl : putSJ 0x04 0 o = w := Option.some.inj h
  rw [raw04 _ (by omega)]
  unfold decodeJmp
  rw [getSJ_putSJ]
  rfl

theorem jal (o : SJ) : Statement (.jal o) := by
  intro w h
  obtain rfl : putSJ 0x04 1 o = w := Option.some.inj h
  rw [raw04 _ (by omega)]
  unfold decodeJmp
  rw [getSJ_putSJ]
  rfl

theorem jr (o : SJ) : Statement (.jr o) := by
  intro w h
  obtain rfl : putSJ 0x04 2 o = w := Option.some.inj h
  rw [raw04 _ (by omega)]
  unfold decodeJmp
  rw [getSJ_putSJ]
  rfl

theorem jalr (o : SJ) : Statement (.jalr o) := by
  intro w h
  obtain rfl : putSJ 0x04 3 o = w := Option.some.inj h
  rw [raw04 _ (by omega)]
  unfold decodeJmp
  rw [getSJ_putSJ]
  rfl

theorem loop (o : SL) : Statement (.loop o) := by
  intro w h
  obtain rfl : putSL 0x05 0 o = w := Option.some.inj h
  rw [raw05 _ (by omega)]
  unfold decodeLoop
  rw [getSL_putSL]
  rfl

theorem loopT (o : SL) : Statement (.loopT o) := by
  intro w h
  obtain rfl : putSL 0x05 1 o = w := Option.some.inj h
  rw [raw05 _ (by omega)]
  unfold decodeLoop
  rw [getSL_putSL]
  rfl

theorem endloop (o : SL) : Statement (.endloop o) := by
  intro w h
  obtain rfl : putSL 0x05 2 o = w := Option.some.inj h
  rw [raw05 _ (by omega)]
  unfold decodeLoop
  rw [getSL_putSL]
  rfl

theorem brkloop (o : SL) : Statement (.brkloop o) := by
  intro w h
  obtain rfl : putSL 0x05 3 o = w := Option.some.inj h
  rw [raw05 _ (by omega)]
  unfold decodeLoop
  rw [getSL_putSL]
  rfl

theorem lidx (o : SL) : Statement (.lidx o) := by
  intro w h
  obtain rfl : putSL 0x05 4 o = w := Option.some.inj h
  rw [raw05 _ (by omega)]
  unfold decodeLoop
  rw [getSL_putSL]
  rfl

theorem bfAny (o : FB) : Statement (.bfAny o) := by
  intro w h
  obtain rfl : putFB 0x06 0 o = w := Option.some.inj h
  rw [raw06 _ (by omega)]
  unfold decodeFbr
  rw [getFB_putFB]
  rfl

theorem bfNany (o : FB) : Statement (.bfNany o) := by
  intro w h
  obtain rfl : putFB 0x06 1 o = w := Option.some.inj h
  rw [raw06 _ (by omega)]
  unfold decodeFbr
  rw [getFB_putFB]
  rfl

theorem bfAll (o : FB) : Statement (.bfAll o) := by
  intro w h
  obtain rfl : putFB 0x06 2 o = w := Option.some.inj h
  rw [raw06 _ (by omega)]
  unfold decodeFbr
  rw [getFB_putFB]
  rfl

theorem bfNall (o : FB) : Statement (.bfNall o) := by
  intro w h
  obtain rfl : putFB 0x06 3 o = w := Option.some.inj h
  rw [raw06 _ (by omega)]
  unfold decodeFbr
  rw [getFB_putFB]
  rfl

theorem bfCeq (o : FB) : Statement (.bfCeq o) := by
  intro w h
  obtain rfl : putFB 0x06 4 o = w := Option.some.inj h
  rw [raw06 _ (by omega)]
  unfold decodeFbr
  rw [getFB_putFB]
  rfl

theorem bfCne (o : FB) : Statement (.bfCne o) := by
  intro w h
  obtain rfl : putFB 0x06 5 o = w := Option.some.inj h
  rw [raw06 _ (by omega)]
  unfold decodeFbr
  rw [getFB_putFB]
  rfl

theorem bfCge (o : FB) : Statement (.bfCge o) := by
  intro w h
  obtain rfl : putFB 0x06 6 o = w := Option.some.inj h
  rw [raw06 _ (by omega)]
  unfold decodeFbr
  rw [getFB_putFB]
  rfl

theorem bfClt (o : FB) : Statement (.bfClt o) := by
  intro w h
  obtain rfl : putFB 0x06 7 o = w := Option.some.inj h
  rw [raw06 _ (by omega)]
  unfold decodeFbr
  rw [getFB_putFB]
  rfl

theorem fcnt (o : FB) : Statement (.fcnt o) := by
  intro w h
  obtain rfl : putFB 0x06 8 o = w := Option.some.inj h
  rw [raw06 _ (by omega)]
  unfold decodeFbr
  rw [getFB_putFB]
  rfl

theorem csrr (o : SI) : Statement (.csrr o) := by
  intro w h
  obtain rfl : putSI 0x07 0 o = w := Option.some.inj h
  rw [raw07 _ (by omega)]
  unfold decodeCsr
  rw [getSI_putSI]
  rfl

theorem csrw (o : SI) : Statement (.csrw o) := by
  intro w h
  obtain rfl : putSI 0x07 1 o = w := Option.some.inj h
  rw [raw07 _ (by omega)]
  unfold decodeCsr
  rw [getSI_putSI]
  rfl

theorem csrs (o : SI) : Statement (.csrs o) := by
  intro w h
  obtain rfl : putSI 0x07 2 o = w := Option.some.inj h
  rw [raw07 _ (by omega)]
  unfold decodeCsr
  rw [getSI_putSI]
  rfl

theorem csrc (o : SI) : Statement (.csrc o) := by
  intro w h
  obtain rfl : putSI 0x07 3 o = w := Option.some.inj h
  rw [raw07 _ (by omega)]
  unfold decodeCsr
  rw [getSI_putSI]
  rfl

theorem nop (o : SX) : Statement (.nop o) := by
  intro w h
  obtain rfl : putSX 0x08 0 o = w := Option.some.inj h
  rw [raw08 _ (by omega)]
  unfold decodeSys
  rw [getSX_putSX]
  rfl

theorem commit (o : SX) : Statement (.commit o) := by
  intro w h
  obtain rfl : putSX 0x08 1 o = w := Option.some.inj h
  rw [raw08 _ (by omega)]
  unfold decodeSys
  rw [getSX_putSX]
  rfl

theorem guardMax (o : SX) : Statement (.guardMax o) := by
  intro w h
  obtain rfl : putSX 0x08 2 o = w := Option.some.inj h
  rw [raw08 _ (by omega)]
  unfold decodeSys
  rw [getSX_putSX]
  rfl

theorem guardSsq (o : SX) : Statement (.guardSsq o) := by
  intro w h
  obtain rfl : putSX 0x08 3 o = w := Option.some.inj h
  rw [raw08 _ (by omega)]
  unfold decodeSys
  rw [getSX_putSX]
  rfl

theorem trapi (o : SX) : Statement (.trapi o) := by
  intro w h
  obtain rfl : putSX 0x08 4 o = w := Option.some.inj h
  rw [raw08 _ (by omega)]
  unfold decodeSys
  rw [getSX_putSX]
  rfl

theorem ebreak (o : SX) : Statement (.ebreak o) := by
  intro w h
  obtain rfl : putSX 0x08 5 o = w := Option.some.inj h
  rw [raw08 _ (by omega)]
  unfold decodeSys
  rw [getSX_putSX]
  rfl

theorem rett (o : SX) : Statement (.rett o) := by
  intro w h
  obtain rfl : putSX 0x08 6 o = w := Option.some.inj h
  rw [raw08 _ (by omega)]
  unfold decodeSys
  rw [getSX_putSX]
  rfl

theorem done (o : SX) : Statement (.done o) := by
  intro w h
  obtain rfl : putSX 0x08 7 o = w := Option.some.inj h
  rw [raw08 _ (by omega)]
  unfold decodeSys
  rw [getSX_putSX]
  rfl

theorem fence (o : SX) : Statement (.fence o) := by
  intro w h
  obtain rfl : putSX 0x08 8 o = w := Option.some.inj h
  rw [raw08 _ (by omega)]
  unfold decodeSys
  rw [getSX_putSX]
  rfl

theorem ldV (o : MM) : Statement (.ldV o) := by
  intro w h
  obtain rfl : putMM 0x10 0 o = w := Option.some.inj h
  rw [raw10 _ (by omega)]
  unfold decodeLdv
  rw [getMM_putMM]
  rfl

theorem ldVs (o : MM) : Statement (.ldVs o) := by
  intro w h
  obtain rfl : putMM 0x10 1 o = w := Option.some.inj h
  rw [raw10 _ (by omega)]
  unfold decodeLdv
  rw [getMM_putMM]
  rfl

theorem ldVx (o : MM) : Statement (.ldVx o) := by
  intro w h
  obtain rfl : putMM 0x10 2 o = w := Option.some.inj h
  rw [raw10 _ (by omega)]
  unfold decodeLdv
  rw [getMM_putMM]
  rfl

theorem ldBc (o : MM) : Statement (.ldBc o) := by
  intro w h
  obtain rfl : putMM 0x10 3 o = w := Option.some.inj h
  rw [raw10 _ (by omega)]
  unfold decodeLdv
  rw [getMM_putMM]
  rfl

theorem ldQsc (o : MM) : Statement (.ldQsc o) := by
  intro w h
  obtain rfl : putMM 0x10 4 o = w := Option.some.inj h
  rw [raw10 _ (by omega)]
  unfold decodeLdv
  rw [getMM_putMM]
  rfl

theorem lds (o : MM) : Statement (.lds o) := by
  intro w h
  obtain rfl : putMM 0x11 0 o = w := Option.some.inj h
  rw [raw11 _ (by omega)]
  unfold decodeLds
  rw [getMM_putMM]
  rfl

theorem gatA (o : MM) : Statement (.gatA o) := by
  intro w h
  obtain rfl : putMM 0x12 0 o = w := Option.some.inj h
  rw [raw12 _ (by omega)]
  unfold decodeGat
  rw [getMM_putMM]
  rfl

theorem acq (o : SY) : Statement (.acq o) := by
  intro w h
  obtain rfl : putSY 0x13 0 o = w := Option.some.inj h
  rw [raw13 _ (by omega)]
  unfold decodeLsync
  rw [getSY_putSY]
  rfl

theorem waitw (o : SY) : Statement (.waitw o) := by
  intro w h
  obtain rfl : putSY 0x13 1 o = w := Option.some.inj h
  rw [raw13 _ (by omega)]
  unfold decodeLsync
  rw [getSY_putSY]
  rfl

theorem ringwf (o : SY) : Statement (.ringwf o) := by
  intro w h
  obtain rfl : putSY 0x13 2 o = w := Option.some.inj h
  rw [raw13 _ (by omega)]
  unfold decodeLsync
  rw [getSY_putSY]
  rfl

theorem ringfree (o : SY) : Statement (.ringfree o) := by
  intro w h
  obtain rfl : putSY 0x13 3 o = w := Option.some.inj h
  rw [raw13 _ (by omega)]
  unfold decodeLsync
  rw [getSY_putSY]
  rfl

theorem tlwait (o : SY) : Statement (.tlwait o) := by
  intro w h
  obtain rfl : putSY 0x13 4 o = w := Option.some.inj h
  rw [raw13 _ (by omega)]
  unfold decodeLsync
  rw [getSY_putSY]
  rfl

theorem eset (o : E) : Statement (.eset o) := by
  intro w h
  obtain rfl : putE 0x14 0 o = w := Option.some.inj h
  rw [raw14]
  unfold decodeEngl
  rw [getE_putE, putE_act]
  rfl

theorem efire (o : E) : Statement (.efire o) := by
  intro w h
  obtain rfl : putE 0x14 1 o = w := Option.some.inj h
  rw [raw14]
  unfold decodeEngl
  rw [getE_putE, putE_act]
  rfl

theorem eclr (o : E) : Statement (.eclr o) := by
  intro w h
  obtain rfl : putE 0x14 2 o = w := Option.some.inj h
  rw [raw14]
  unfold decodeEngl
  rw [getE_putE, putE_act]
  rfl

theorem cbload (o : E) : Statement (.cbload o) := by
  intro w h
  obtain rfl : putE 0x14 3 o = w := Option.some.inj h
  rw [raw14]
  unfold decodeEngl
  rw [getE_putE, putE_act]
  rfl

theorem kwaitL (o : SY) : Statement (.kwaitL o) := by
  intro w h
  obtain rfl : putSY 0x15 0 o = w := Option.some.inj h
  rw [raw15 _ (by omega)]
  unfold decodeKtokl
  rw [getSY_putSY]
  rfl

theorem ksigL (o : SY) : Statement (.ksigL o) := by
  intro w h
  obtain rfl : putSY 0x15 1 o = w := Option.some.inj h
  rw [raw15 _ (by omega)]
  unfold decodeKtokl
  rw [getSY_putSY]
  rfl

theorem vadd (o : VX) : Statement (.vadd o) := by
  intro w h
  obtain rfl : putVX 0x20 0 o = w := Option.some.inj h
  rw [raw20 _ (by omega)]
  unfold decodeVint
  rw [getVX_putVX]
  rfl

theorem vsub (o : VX) : Statement (.vsub o) := by
  intro w h
  obtain rfl : putVX 0x20 1 o = w := Option.some.inj h
  rw [raw20 _ (by omega)]
  unfold decodeVint
  rw [getVX_putVX]
  rfl

theorem vaddSat (o : VX) : Statement (.vaddSat o) := by
  intro w h
  obtain rfl : putVX 0x20 2 o = w := Option.some.inj h
  rw [raw20 _ (by omega)]
  unfold decodeVint
  rw [getVX_putVX]
  rfl

theorem vsubSat (o : VX) : Statement (.vsubSat o) := by
  intro w h
  obtain rfl : putVX 0x20 3 o = w := Option.some.inj h
  rw [raw20 _ (by omega)]
  unfold decodeVint
  rw [getVX_putVX]
  rfl

theorem vmul (o : VX) : Statement (.vmul o) := by
  intro w h
  obtain rfl : putVX 0x20 4 o = w := Option.some.inj h
  rw [raw20 _ (by omega)]
  unfold decodeVint
  rw [getVX_putVX]
  rfl

theorem vmulh (o : VX) : Statement (.vmulh o) := by
  intro w h
  obtain rfl : putVX 0x20 5 o = w := Option.some.inj h
  rw [raw20 _ (by omega)]
  unfold decodeVint
  rw [getVX_putVX]
  rfl

theorem vmla (o : VX) : Statement (.vmla o) := by
  intro w h
  obtain rfl : putVX 0x20 6 o = w := Option.some.inj h
  rw [raw20 _ (by omega)]
  unfold decodeVint
  rw [getVX_putVX]
  rfl

theorem vmlaW (o : VX) : Statement (.vmlaW o) := by
  intro w h
  obtain rfl : putVX 0x20 7 o = w := Option.some.inj h
  rw [raw20 _ (by omega)]
  unfold decodeVint
  rw [getVX_putVX]
  rfl

theorem vmulW (o : VX) : Statement (.vmulW o) := by
  intro w h
  obtain rfl : putVX 0x20 8 o = w := Option.some.inj h
  rw [raw20 _ (by omega)]
  unfold decodeVint
  rw [getVX_putVX]
  rfl

theorem vabs (o : VX) : Statement (.vabs o) := by
  intro w h
  obtain rfl : putVX 0x20 9 o = w := Option.some.inj h
  rw [raw20 _ (by omega)]
  unfold decodeVint
  rw [getVX_putVX]
  rfl

theorem vneg (o : VX) : Statement (.vneg o) := by
  intro w h
  obtain rfl : putVX 0x20 10 o = w := Option.some.inj h
  rw [raw20 _ (by omega)]
  unfold decodeVint
  rw [getVX_putVX]
  rfl

theorem vmin (o : VX) : Statement (.vmin o) := by
  intro w h
  obtain rfl : putVX 0x20 11 o = w := Option.some.inj h
  rw [raw20 _ (by omega)]
  unfold decodeVint
  rw [getVX_putVX]
  rfl

theorem vmax (o : VX) : Statement (.vmax o) := by
  intro w h
  obtain rfl : putVX 0x20 12 o = w := Option.some.inj h
  rw [raw20 _ (by omega)]
  unfold decodeVint
  rw [getVX_putVX]
  rfl

theorem vand (o : VX) : Statement (.vand o) := by
  intro w h
  obtain rfl : putVX 0x20 13 o = w := Option.some.inj h
  rw [raw20 _ (by omega)]
  unfold decodeVint
  rw [getVX_putVX]
  rfl

theorem vor (o : VX) : Statement (.vor o) := by
  intro w h
  obtain rfl : putVX 0x20 14 o = w := Option.some.inj h
  rw [raw20 _ (by omega)]
  unfold decodeVint
  rw [getVX_putVX]
  rfl

theorem vxor (o : VX) : Statement (.vxor o) := by
  intro w h
  obtain rfl : putVX 0x20 15 o = w := Option.some.inj h
  rw [raw20 _ (by omega)]
  unfold decodeVint
  rw [getVX_putVX]
  rfl

theorem vandn (o : VX) : Statement (.vandn o) := by
  intro w h
  obtain rfl : putVX 0x20 16 o = w := Option.some.inj h
  rw [raw20 _ (by omega)]
  unfold decodeVint
  rw [getVX_putVX]
  rfl

theorem vshl (o : VX) : Statement (.vshl o) := by
  intro w h
  obtain rfl : putVX 0x20 17 o = w := Option.some.inj h
  rw [raw20 _ (by omega)]
  unfold decodeVint
  rw [getVX_putVX]
  rfl

theorem vshr (o : VX) : Statement (.vshr o) := by
  intro w h
  obtain rfl : putVX 0x20 18 o = w := Option.some.inj h
  rw [raw20 _ (by omega)]
  unfold decodeVint
  rw [getVX_putVX]
  rfl

theorem vrshr (o : VX) : Statement (.vrshr o) := by
  intro w h
  obtain rfl : putVX 0x20 19 o = w := Option.some.inj h
  rw [raw20 _ (by omega)]
  unfold decodeVint
  rw [getVX_putVX]
  rfl

theorem vclz (o : VX) : Statement (.vclz o) := by
  intro w h
  obtain rfl : putVX 0x20 20 o = w := Option.some.inj h
  rw [raw20 _ (by omega)]
  unfold decodeVint
  rw [getVX_putVX]
  rfl

theorem vpopc (o : VX) : Statement (.vpopc o) := by
  intro w h
  obtain rfl : putVX 0x20 21 o = w := Option.some.inj h
  rw [raw20 _ (by omega)]
  unfold decodeVint
  rw [getVX_putVX]
  rfl

theorem vavg (o : VX) : Statement (.vavg o) := by
  intro w h
  obtain rfl : putVX 0x20 22 o = w := Option.some.inj h
  rw [raw20 _ (by omega)]
  unfold decodeVint
  rw [getVX_putVX]
  rfl

theorem vcmp (o : VX) : Statement (.vcmp o) := by
  intro w h
  obtain rfl : putVX 0x20 23 o = w := Option.some.inj h
  rw [raw20 _ (by omega)]
  unfold decodeVint
  rw [getVX_putVX]
  rfl

theorem vsel (o : VX) : Statement (.vsel o) := by
  intro w h
  obtain rfl : putVX 0x20 24 o = w := Option.some.inj h
  rw [raw20 _ (by omega)]
  unfold decodeVint
  rw [getVX_putVX]
  rfl

theorem vdot4 (o : VX) : Statement (.vdot4 o) := by
  intro w h
  obtain rfl : putVX 0x20 25 o = w := Option.some.inj h
  rw [raw20 _ (by omega)]
  unfold decodeVint
  rw [getVX_putVX]
  rfl

theorem vfadd (o : VX) : Statement (.vfadd o) := by
  intro w h
  obtain rfl : putVX 0x21 0 o = w := Option.some.inj h
  rw [raw21 _ (by omega)]
  unfold decodeVfp
  rw [getVX_putVX]
  rfl

theorem vfsub (o : VX) : Statement (.vfsub o) := by
  intro w h
  obtain rfl : putVX 0x21 1 o = w := Option.some.inj h
  rw [raw21 _ (by omega)]
  unfold decodeVfp
  rw [getVX_putVX]
  rfl

theorem vfmul (o : VX) : Statement (.vfmul o) := by
  intro w h
  obtain rfl : putVX 0x21 2 o = w := Option.some.inj h
  rw [raw21 _ (by omega)]
  unfold decodeVfp
  rw [getVX_putVX]
  rfl

theorem vfma (o : VX) : Statement (.vfma o) := by
  intro w h
  obtain rfl : putVX 0x21 3 o = w := Option.some.inj h
  rw [raw21 _ (by omega)]
  unfold decodeVfp
  rw [getVX_putVX]
  rfl

theorem vfnma (o : VX) : Statement (.vfnma o) := by
  intro w h
  obtain rfl : putVX 0x21 4 o = w := Option.some.inj h
  rw [raw21 _ (by omega)]
  unfold decodeVfp
  rw [getVX_putVX]
  rfl

theorem vfmin (o : VX) : Statement (.vfmin o) := by
  intro w h
  obtain rfl : putVX 0x21 5 o = w := Option.some.inj h
  rw [raw21 _ (by omega)]
  unfold decodeVfp
  rw [getVX_putVX]
  rfl

theorem vfmax (o : VX) : Statement (.vfmax o) := by
  intro w h
  obtain rfl : putVX 0x21 6 o = w := Option.some.inj h
  rw [raw21 _ (by omega)]
  unfold decodeVfp
  rw [getVX_putVX]
  rfl

theorem vfabs (o : VX) : Statement (.vfabs o) := by
  intro w h
  obtain rfl : putVX 0x21 7 o = w := Option.some.inj h
  rw [raw21 _ (by omega)]
  unfold decodeVfp
  rw [getVX_putVX]
  rfl

theorem vfneg (o : VX) : Statement (.vfneg o) := by
  intro w h
  obtain rfl : putVX 0x21 8 o = w := Option.some.inj h
  rw [raw21 _ (by omega)]
  unfold decodeVfp
  rw [getVX_putVX]
  rfl

theorem vfcmp (o : VX) : Statement (.vfcmp o) := by
  intro w h
  obtain rfl : putVX 0x21 9 o = w := Option.some.inj h
  rw [raw21 _ (by omega)]
  unfold decodeVfp
  rw [getVX_putVX]
  rfl

theorem vfrcp (o : VX) : Statement (.vfrcp o) := by
  intro w h
  obtain rfl : putVX 0x21 10 o = w := Option.some.inj h
  rw [raw21 _ (by omega)]
  unfold decodeVfp
  rw [getVX_putVX]
  rfl

theorem vfrsq (o : VX) : Statement (.vfrsq o) := by
  intro w h
  obtain rfl : putVX 0x21 11 o = w := Option.some.inj h
  rw [raw21 _ (by omega)]
  unfold decodeVfp
  rw [getVX_putVX]
  rfl

theorem vfsqrt (o : VX) : Statement (.vfsqrt o) := by
  intro w h
  obtain rfl : putVX 0x21 12 o = w := Option.some.inj h
  rw [raw21 _ (by omega)]
  unfold decodeVfp
  rw [getVX_putVX]
  rfl

theorem vfexp2 (o : VX) : Statement (.vfexp2 o) := by
  intro w h
  obtain rfl : putVX 0x21 13 o = w := Option.some.inj h
  rw [raw21 _ (by omega)]
  unfold decodeVfp
  rw [getVX_putVX]
  rfl

theorem vflog2 (o : VX) : Statement (.vflog2 o) := by
  intro w h
  obtain rfl : putVX 0x21 14 o = w := Option.some.inj h
  rw [raw21 _ (by omega)]
  unfold decodeVfp
  rw [getVX_putVX]
  rfl

theorem vftanh (o : VX) : Statement (.vftanh o) := by
  intro w h
  obtain rfl : putVX 0x21 15 o = w := Option.some.inj h
  rw [raw21 _ (by omega)]
  unfold decodeVfp
  rw [getVX_putVX]
  rfl

theorem vfsig (o : VX) : Statement (.vfsig o) := by
  intro w h
  obtain rfl : putVX 0x21 16 o = w := Option.some.inj h
  rw [raw21 _ (by omega)]
  unfold decodeVfp
  rw [getVX_putVX]
  rfl

theorem vfclass (o : VX) : Statement (.vfclass o) := by
  intro w h
  obtain rfl : putVX 0x21 17 o = w := Option.some.inj h
  rw [raw21 _ (by omega)]
  unfold decodeVfp
  rw [getVX_putVX]
  rfl

theorem vcvt (o : VX) : Statement (.vcvt o) := by
  intro w h
  obtain rfl : putVX 0x22 0 o = w := Option.some.inj h
  rw [raw22 _ (by omega)]
  unfold decodeVcvt
  rw [getVX_putVX]
  rfl

theorem vnarrow (o : VX) : Statement (.vnarrow o) := by
  intro w h
  obtain rfl : putVX 0x22 1 o = w := Option.some.inj h
  rw [raw22 _ (by omega)]
  unfold decodeVcvt
  rw [getVX_putVX]
  rfl

theorem vwiden (o : VX) : Statement (.vwiden o) := by
  intro w h
  obtain rfl : putVX 0x22 2 o = w := Option.some.inj h
  rw [raw22 _ (by omega)]
  unfold decodeVcvt
  rw [getVX_putVX]
  rfl

theorem vrqs (o : VX) : Statement (.vrqs o) := by
  intro w h
  obtain rfl : putVX 0x22 3 o = w := Option.some.inj h
  rw [raw22 _ (by omega)]
  unfold decodeVcvt
  rw [getVX_putVX]
  rfl

theorem vperm (o : VX) : Statement (.vperm o) := by
  intro w h
  obtain rfl : putVX 0x23 0 o = w := Option.some.inj h
  rw [raw23 _ (by omega)]
  unfold decodeVperm
  rw [getVX_putVX]
  rfl

theorem vslideup (o : VX) : Statement (.vslideup o) := by
  intro w h
  obtain rfl : putVX 0x23 1 o = w := Option.some.inj h
  rw [raw23 _ (by omega)]
  unfold decodeVperm
  rw [getVX_putVX]
  rfl

theorem vslidedn (o : VX) : Statement (.vslidedn o) := by
  intro w h
  obtain rfl : putVX 0x23 2 o = w := Option.some.inj h
  rw [raw23 _ (by omega)]
  unfold decodeVperm
  rw [getVX_putVX]
  rfl

theorem vzip (o : VX) : Statement (.vzip o) := by
  intro w h
  obtain rfl : putVX 0x23 3 o = w := Option.some.inj h
  rw [raw23 _ (by omega)]
  unfold decodeVperm
  rw [getVX_putVX]
  rfl

theorem vunzip (o : VX) : Statement (.vunzip o) := by
  intro w h
  obtain rfl : putVX 0x23 4 o = w := Option.some.inj h
  rw [raw23 _ (by omega)]
  unfold decodeVperm
  rw [getVX_putVX]
  rfl

theorem vbcast (o : VX) : Statement (.vbcast o) := by
  intro w h
  obtain rfl : putVX 0x23 5 o = w := Option.some.inj h
  rw [raw23 _ (by omega)]
  unfold decodeVperm
  rw [getVX_putVX]
  rfl

theorem vredsum (o : VX) : Statement (.vredsum o) := by
  intro w h
  obtain rfl : putVX 0x23 6 o = w := Option.some.inj h
  rw [raw23 _ (by omega)]
  unfold decodeVperm
  rw [getVX_putVX]
  rfl

theorem vredmax (o : VX) : Statement (.vredmax o) := by
  intro w h
  obtain rfl : putVX 0x23 7 o = w := Option.some.inj h
  rw [raw23 _ (by omega)]
  unfold decodeVperm
  rw [getVX_putVX]
  rfl

theorem vredmin (o : VX) : Statement (.vredmin o) := by
  intro w h
  obtain rfl : putVX 0x23 8 o = w := Option.some.inj h
  rw [raw23 _ (by omega)]
  unfold decodeVperm
  rw [getVX_putVX]
  rfl

theorem vscan (o : VX) : Statement (.vscan o) := by
  intro w h
  obtain rfl : putVX 0x23 9 o = w := Option.some.inj h
  rw [raw23 _ (by omega)]
  unfold decodeVperm
  rw [getVX_putVX]
  rfl

theorem pand (o : VX) : Statement (.pand o) := by
  intro w h
  obtain rfl : putVX 0x24 0 o = w := Option.some.inj h
  rw [raw24 _ (by omega)]
  unfold decodeVpred
  rw [getVX_putVX]
  rfl

theorem por (o : VX) : Statement (.por o) := by
  intro w h
  obtain rfl : putVX 0x24 1 o = w := Option.some.inj h
  rw [raw24 _ (by omega)]
  unfold decodeVpred
  rw [getVX_putVX]
  rfl

theorem pxor (o : VX) : Statement (.pxor o) := by
  intro w h
  obtain rfl : putVX 0x24 2 o = w := Option.some.inj h
  rw [raw24 _ (by omega)]
  unfold decodeVpred
  rw [getVX_putVX]
  rfl

theorem pandn (o : VX) : Statement (.pandn o) := by
  intro w h
  obtain rfl : putVX 0x24 3 o = w := Option.some.inj h
  rw [raw24 _ (by omega)]
  unfold decodeVpred
  rw [getVX_putVX]
  rfl

theorem pnot (o : VX) : Statement (.pnot o) := by
  intro w h
  obtain rfl : putVX 0x24 4 o = w := Option.some.inj h
  rw [raw24 _ (by omega)]
  unfold decodeVpred
  rw [getVX_putVX]
  rfl

theorem pfirst (o : VX) : Statement (.pfirst o) := by
  intro w h
  obtain rfl : putVX 0x24 5 o = w := Option.some.inj h
  rw [raw24 _ (by omega)]
  unfold decodeVpred
  rw [getVX_putVX]
  rfl

theorem ptest (o : VX) : Statement (.ptest o) := by
  intro w h
  obtain rfl : putVX 0x24 6 o = w := Option.some.inj h
  rw [raw24 _ (by omega)]
  unfold decodeVpred
  rw [getVX_putVX]
  rfl

theorem pmov (o : VX) : Statement (.pmov o) := by
  intro w h
  obtain rfl : putVX 0x24 7 o = w := Option.some.inj h
  rw [raw24 _ (by omega)]
  unfold decodeVpred
  rw [getVX_putVX]
  rfl

theorem vmov (o : VX) : Statement (.vmov o) := by
  intro w h
  obtain rfl : putVX 0x25 0 o = w := Option.some.inj h
  rw [raw25 _ (by omega)]
  unfold decodeVmisc
  rw [getVX_putVX]
  rfl

theorem vli (o : VX) : Statement (.vli o) := by
  intro w h
  obtain rfl : putVX 0x25 1 o = w := Option.some.inj h
  rw [raw25 _ (by omega)]
  unfold decodeVmisc
  rw [getVX_putVX]
  rfl

theorem viota (o : VX) : Statement (.viota o) := by
  intro w h
  obtain rfl : putVX 0x25 2 o = w := Option.some.inj h
  rw [raw25 _ (by omega)]
  unfold decodeVmisc
  rw [getVX_putVX]
  rfl

theorem vdup (o : VX) : Statement (.vdup o) := by
  intro w h
  obtain rfl : putVX 0x25 3 o = w := Option.some.inj h
  rw [raw25 _ (by omega)]
  unfold decodeVmisc
  rw [getVX_putVX]
  rfl

theorem vclr (o : VX) : Statement (.vclr o) := by
  intro w h
  obtain rfl : putVX 0x25 4 o = w := Option.some.inj h
  rw [raw25 _ (by omega)]
  unfold decodeVmisc
  rw [getVX_putVX]
  rfl

theorem mma (o : MX) : Statement (.mma o) := by
  intro w h
  obtain rfl : putMX 0x26 0 o = w := Option.some.inj h
  rw [raw26 _ (by omega)]
  unfold decodeMat
  rw [getMX_putMX]
  rfl

theorem mzero (o : MX) : Statement (.mzero o) := by
  intro w h
  obtain rfl : putMX 0x26 1 o = w := Option.some.inj h
  rw [raw26 _ (by omega)]
  unfold decodeMat
  rw [getMX_putMX]
  rfl

theorem mwr (o : MX) : Statement (.mwr o) := by
  intro w h
  obtain rfl : putMX 0x26 2 o = w := Option.some.inj h
  rw [raw26 _ (by omega)]
  unfold decodeMat
  rw [getMX_putMX]
  rfl

theorem mrd (o : MX) : Statement (.mrd o) := by
  intro w h
  obtain rfl : putMX 0x26 3 o = w := Option.some.inj h
  rw [raw26 _ (by omega)]
  unfold decodeMat
  rw [getMX_putMX]
  rfl

theorem mdrain (o : MX) : Statement (.mdrain o) := by
  intro w h
  obtain rfl : putMX 0x26 4 o = w := Option.some.inj h
  rw [raw26 _ (by omega)]
  unfold decodeMat
  rw [getMX_putMX]
  rfl

theorem kwaitC (o : SY) : Statement (.kwaitC o) := by
  intro w h
  obtain rfl : putSY 0x27 0 o = w := Option.some.inj h
  rw [raw27 _ (by omega)]
  unfold decodeKtokc
  rw [getSY_putSY]
  rfl

theorem ksigC (o : SY) : Statement (.ksigC o) := by
  intro w h
  obtain rfl : putSY 0x27 1 o = w := Option.some.inj h
  rw [raw27 _ (by omega)]
  unfold decodeKtokc
  rw [getSY_putSY]
  rfl

theorem stV (o : MM) : Statement (.stV o) := by
  intro w h
  obtain rfl : putMM 0x30 0 o = w := Option.some.inj h
  rw [raw30 _ (by omega)]
  unfold decodeStv
  rw [getMM_putMM]
  rfl

theorem stVs (o : MM) : Statement (.stVs o) := by
  intro w h
  obtain rfl : putMM 0x30 1 o = w := Option.some.inj h
  rw [raw30 _ (by omega)]
  unfold decodeStv
  rw [getMM_putMM]
  rfl

theorem stVx (o : MM) : Statement (.stVx o) := by
  intro w h
  obtain rfl : putMM 0x30 2 o = w := Option.some.inj h
  rw [raw30 _ (by omega)]
  unfold decodeStv
  rw [getMM_putMM]
  rfl

theorem sts (o : MM) : Statement (.sts o) := by
  intro w h
  obtain rfl : putMM 0x31 0 o = w := Option.some.inj h
  rw [raw31 _ (by omega)]
  unfold decodeSts
  rw [getMM_putMM]
  rfl

theorem rel (o : SY) : Statement (.rel o) := by
  intro w h
  obtain rfl : putSY 0x32 0 o = w := Option.some.inj h
  rw [raw32 _ (by omega)]
  unfold decodeSsync
  rw [getSY_putSY]
  rfl

theorem ringwe (o : SY) : Statement (.ringwe o) := by
  intro w h
  obtain rfl : putSY 0x32 1 o = w := Option.some.inj h
  rw [raw32 _ (by omega)]
  unfold decodeSsync
  rw [getSY_putSY]
  rfl

theorem ringpub (o : SY) : Statement (.ringpub o) := by
  intro w h
  obtain rfl : putSY 0x32 2 o = w := Option.some.inj h
  rw [raw32 _ (by omega)]
  unfold decodeSsync
  rw [getSY_putSY]
  rfl

theorem setw (o : SY) : Statement (.setw o) := by
  intro w h
  obtain rfl : putSY 0x32 3 o = w := Option.some.inj h
  rw [raw32 _ (by omega)]
  unfold decodeSsync
  rw [getSY_putSY]
  rfl

theorem tlsig (o : SY) : Statement (.tlsig o) := by
  intro w h
  obtain rfl : putSY 0x32 4 o = w := Option.some.inj h
  rw [raw32 _ (by omega)]
  unfold decodeSsync
  rw [getSY_putSY]
  rfl

theorem amo (o : SY) : Statement (.amo o) := by
  intro w h
  obtain rfl : putSY 0x33 0 o = w := Option.some.inj h
  rw [raw33 _ (by omega)]
  unfold decodeAmo
  rw [getSY_putSY]
  rfl

theorem red (o : SY) : Statement (.red o) := by
  intro w h
  obtain rfl : putSY 0x33 1 o = w := Option.some.inj h
  rw [raw33 _ (by omega)]
  unfold decodeAmo
  rw [getSY_putSY]
  rfl

theorem vred (o : SY) : Statement (.vred o) := by
  intro w h
  obtain rfl : putSY 0x33 2 o = w := Option.some.inj h
  rw [raw33 _ (by omega)]
  unfold decodeAmo
  rw [getSY_putSY]
  rfl

theorem tpost (o : SY) : Statement (.tpost o) := by
  intro w h
  obtain rfl : putSY 0x34 0 o = w := Option.some.inj h
  rw [raw34 _ (by omega)]
  unfold decodeTask
  rw [getSY_putSY]
  rfl

theorem tjoin (o : SY) : Statement (.tjoin o) := by
  intro w h
  obtain rfl : putSY 0x34 1 o = w := Option.some.inj h
  rw [raw34 _ (by omega)]
  unfold decodeTask
  rw [getSY_putSY]
  rfl

theorem grais (o : SY) : Statement (.grais o) := by
  intro w h
  obtain rfl : putSY 0x34 2 o = w := Option.some.inj h
  rw [raw34 _ (by omega)]
  unfold decodeTask
  rw [getSY_putSY]
  rfl

theorem esetS (o : E) : Statement (.esetS o) := by
  intro w h
  obtain rfl : putE 0x35 0 o = w := Option.some.inj h
  rw [raw35]
  unfold decodeEngs
  rw [getE_putE, putE_act]
  rfl

theorem efireS (o : E) : Statement (.efireS o) := by
  intro w h
  obtain rfl : putE 0x35 1 o = w := Option.some.inj h
  rw [raw35]
  unfold decodeEngs
  rw [getE_putE, putE_act]
  rfl

theorem eclrS (o : E) : Statement (.eclrS o) := by
  intro w h
  obtain rfl : putE 0x35 2 o = w := Option.some.inj h
  rw [raw35]
  unfold decodeEngs
  rw [getE_putE, putE_act]
  rfl

theorem cbloadS (o : E) : Statement (.cbloadS o) := by
  intro w h
  obtain rfl : putE 0x35 3 o = w := Option.some.inj h
  rw [raw35]
  unfold decodeEngs
  rw [getE_putE, putE_act]
  rfl

theorem kwaitS (o : SY) : Statement (.kwaitS o) := by
  intro w h
  obtain rfl : putSY 0x36 0 o = w := Option.some.inj h
  rw [raw36 _ (by omega)]
  unfold decodeKtoks
  rw [getSY_putSY]
  rfl

theorem ksigS (o : SY) : Statement (.ksigS o) := by
  intro w h
  obtain rfl : putSY 0x36 1 o = w := Option.some.inj h
  rw [raw36 _ (by omega)]
  unfold decodeKtoks
  rw [getSY_putSY]
  rfl

theorem engineCommandStart (core : CoreId) : Statement (.engineCommandStart core) :=
  fun _ h => nomatch (show none = some _ from h)

theorem engineCommandComplete (core : CoreId) (n : Nat) : Statement (.engineCommandComplete core n) :=
  fun _ h => nomatch (show none = some _ from h)

theorem arrivalWordWrite (core : CoreId) (n : Nat) : Statement (.arrivalWordWrite core n) :=
  fun _ h => nomatch (show none = some _ from h)

theorem regionRetire (c : CtxId) : Statement (.regionRetire c) :=
  fun _ h => nomatch (show none = some _ from h)

theorem regionOverrun (c : CtxId) : Statement (.regionOverrun c) :=
  fun _ h => nomatch (show none = some _ from h)

theorem detectedError (e : ErrorReport) : Statement (.detectedError e) :=
  fun _ h => nomatch (show none = some _ from h)

theorem checksumCompare (core : CoreId) (n : Nat) (upset : Upset) : Statement (.checksumCompare core n upset) :=
  fun _ h => nomatch (show none = some _ from h)

theorem trapEntry (c : CtxId) : Statement (.trapEntry c) :=
  fun _ h => nomatch (show none = some _ from h)

theorem pageWalk (c : CtxId) (va : Word) (acc : Access) : Statement (.pageWalk c va acc) :=
  fun _ h => nomatch (show none = some _ from h)

theorem pageFault (c : CtxId) : Statement (.pageFault c) :=
  fun _ h => nomatch (show none = some _ from h)

theorem pageRequestWrite (half : HalfId) : Statement (.pageRequestWrite half) :=
  fun _ h => nomatch (show none = some _ from h)

theorem preemptRequest (c : CtxId) : Statement (.preemptRequest c) :=
  fun _ h => nomatch (show none = some _ from h)

theorem evict (c : CtxId) : Statement (.evict c) :=
  fun _ h => nomatch (show none = some _ from h)

theorem restore (c : CtxId) : Statement (.restore c) :=
  fun _ h => nomatch (show none = some _ from h)

theorem bankSwitch (core : CoreId) : Statement (.bankSwitch core) :=
  fun _ h => nomatch (show none = some _ from h)

theorem gangForm (half : HalfId) : Statement (.gangForm half) :=
  fun _ h => nomatch (show none = some _ from h)

theorem gangStart (casc : CascId) : Statement (.gangStart casc) :=
  fun _ h => nomatch (show none = some _ from h)

theorem taskPop (c : CtxId) : Statement (.taskPop c) :=
  fun _ h => nomatch (show none = some _ from h)

theorem taskRefill (casc : CascId) : Statement (.taskRefill casc) :=
  fun _ h => nomatch (show none = some _ from h)

theorem weirDrain (half : HalfId) (n : Nat) : Statement (.weirDrain half n) :=
  fun _ h => nomatch (show none = some _ from h)

theorem postedAck (c : CtxId) (n : Nat) : Statement (.postedAck c n) :=
  fun _ h => nomatch (show none = some _ from h)

theorem reductionApply (c : CtxId) : Statement (.reductionApply c) :=
  fun _ h => nomatch (show none = some _ from h)

theorem deferredEffectApply (c : CtxId) (n : Nat) : Statement (.deferredEffectApply c n) :=
  fun _ h => nomatch (show none = some _ from h)

theorem joinPostRetry (casc : CascId) : Statement (.joinPostRetry casc) :=
  fun _ h => nomatch (show none = some _ from h)

theorem waiterWake (key : Nat) : Statement (.waiterWake key) :=
  fun _ h => nomatch (show none = some _ from h)

theorem waitwPoll (c : CtxId) : Statement (.waitwPoll c) :=
  fun _ h => nomatch (show none = some _ from h)

theorem waitwTimeout (c : CtxId) : Statement (.waitwTimeout c) :=
  fun _ h => nomatch (show none = some _ from h)

theorem icacheRefill (core : CoreId) (line : Nat) : Statement (.icacheRefill core line) :=
  fun _ h => nomatch (show none = some _ from h)

theorem turnoutWrite (w : BarWrite) : Statement (.turnoutWrite w) :=
  fun _ h => nomatch (show none = some _ from h)

theorem turnoutRead (r : BarRead) : Statement (.turnoutRead r) :=
  fun _ h => nomatch (show none = some _ from h)

theorem bar2Access (a : BarAccess) : Statement (.bar2Access a) :=
  fun _ h => nomatch (show none = some _ from h)

theorem outboundReadTimeout (c : CtxId) : Statement (.outboundReadTimeout c) :=
  fun _ h => nomatch (show none = some _ from h)

theorem notifyWrite (n : Notify) : Statement (.notifyWrite n) :=
  fun _ h => nomatch (show none = some _ from h)

theorem packetFetch (q : QueueId) : Statement (.packetFetch q) :=
  fun _ h => nomatch (show none = some _ from h)

theorem packetPoll (q : QueueId) : Statement (.packetPoll q) :=
  fun _ h => nomatch (show none = some _ from h)

theorem launch (q : QueueId) : Statement (.launch q) :=
  fun _ h => nomatch (show none = some _ from h)

theorem graph (q : QueueId) : Statement (.graph q) :=
  fun _ h => nomatch (show none = some _ from h)

theorem signal (q : QueueId) : Statement (.signal q) :=
  fun _ h => nomatch (show none = some _ from h)

theorem waitTl (q : QueueId) : Statement (.waitTl q) :=
  fun _ h => nomatch (show none = some _ from h)

theorem waitMem (q : QueueId) : Statement (.waitMem q) :=
  fun _ h => nomatch (show none = some _ from h)

theorem waitMemReread (q : QueueId) : Statement (.waitMemReread q) :=
  fun _ h => nomatch (show none = some _ from h)

theorem waitMemTimeout (q : QueueId) : Statement (.waitMemTimeout q) :=
  fun _ h => nomatch (show none = some _ from h)

theorem write (q : QueueId) : Statement (.write q) :=
  fun _ h => nomatch (show none = some _ from h)

theorem fencePacket (q : QueueId) : Statement (.fencePacket q) :=
  fun _ h => nomatch (show none = some _ from h)

theorem inval (q : QueueId) : Statement (.inval q) :=
  fun _ h => nomatch (show none = some _ from h)

theorem invalComplete (q : QueueId) : Statement (.invalComplete q) :=
  fun _ h => nomatch (show none = some _ from h)

theorem pageResp (q : QueueId) : Statement (.pageResp q) :=
  fun _ h => nomatch (show none = some _ from h)

theorem patch (q : QueueId) : Statement (.patch q) :=
  fun _ h => nomatch (show none = some _ from h)

theorem patchQuiesce (half : HalfId) : Statement (.patchQuiesce half) :=
  fun _ h => nomatch (show none = some _ from h)

theorem attest (q : QueueId) : Statement (.attest q) :=
  fun _ h => nomatch (show none = some _ from h)

theorem queueCfgWrite (q : QueueId) : Statement (.queueCfgWrite q) :=
  fun _ h => nomatch (show none = some _ from h)

theorem queueCfgEnable (q : QueueId) : Statement (.queueCfgEnable q) :=
  fun _ h => nomatch (show none = some _ from h)

theorem queueCfgDisable (q : QueueId) : Statement (.queueCfgDisable q) :=
  fun _ h => nomatch (show none = some _ from h)

theorem queueCfgReset (q : QueueId) : Statement (.queueCfgReset q) :=
  fun _ h => nomatch (show none = some _ from h)

theorem opCard (q : QueueId) : Statement (.opCard q) :=
  fun _ h => nomatch (show none = some _ from h)

theorem cond (q : QueueId) : Statement (.cond q) :=
  fun _ h => nomatch (show none = some _ from h)

theorem loopn (q : QueueId) : Statement (.loopn q) :=
  fun _ h => nomatch (show none = some _ from h)

theorem signalCard (q : QueueId) : Statement (.signalCard q) :=
  fun _ h => nomatch (show none = some _ from h)

theorem waitCard (q : QueueId) : Statement (.waitCard q) :=
  fun _ h => nomatch (show none = some _ from h)

theorem waitCardTimeout (q : QueueId) : Statement (.waitCardTimeout q) :=
  fun _ h => nomatch (show none = some _ from h)

theorem join (q : QueueId) : Statement (.join q) :=
  fun _ h => nomatch (show none = some _ from h)

theorem endCard (q : QueueId) : Statement (.endCard q) :=
  fun _ h => nomatch (show none = some _ from h)

theorem operatorComplete (op : Nat) : Statement (.operatorComplete op) :=
  fun _ h => nomatch (show none = some _ from h)

theorem memcfgWrite (w : RegWrite) : Statement (.memcfgWrite w) :=
  fun _ h => nomatch (show none = some _ from h)

theorem toctlWrite (n : TurnoutId) (w : RegWrite) : Statement (.toctlWrite n w) :=
  fun _ h => nomatch (show none = some _ from h)

theorem qctlWrite (q : QueueId) (w : RegWrite) : Statement (.qctlWrite q w) :=
  fun _ h => nomatch (show none = some _ from h)

theorem tqctlWrite (casc : CascId) (w : RegWrite) : Statement (.tqctlWrite casc w) :=
  fun _ h => nomatch (show none = some _ from h)

theorem registerWrite (off : Nat) (w : RegWrite) : Statement (.registerWrite off w) :=
  fun _ h => nomatch (show none = some _ from h)

theorem ownctlClaim (m : Master) : Statement (.ownctlClaim m) :=
  fun _ h => nomatch (show none = some _ from h)

theorem ownctlRelease (m : Master) : Statement (.ownctlRelease m) :=
  fun _ h => nomatch (show none = some _ from h)

theorem ownctlHandover (m : Master) (target : Master) : Statement (.ownctlHandover m target) :=
  fun _ h => nomatch (show none = some _ from h)

theorem ownctlCandidate (m : Master) (set : Bool) : Statement (.ownctlCandidate m set) :=
  fun _ h => nomatch (show none = some _ from h)

theorem ownhbWrite (m : Master) : Statement (.ownhbWrite m) :=
  fun _ h => nomatch (show none = some _ from h)

theorem heartbeatExpiry : Statement (.heartbeatExpiry) :=
  fun _ h => nomatch (show none = some _ from h)

theorem handoverTimeout : Statement (.handoverTimeout) :=
  fun _ h => nomatch (show none = some _ from h)

theorem fullReset (cause : ResetCause) : Statement (.fullReset cause) :=
  fun _ h => nomatch (show none = some _ from h)

theorem functionLevelReset (fn : Fin 2) : Statement (.functionLevelReset fn) :=
  fun _ h => nomatch (show none = some _ from h)

theorem dramTrainingDone (ok : Bool) : Statement (.dramTrainingDone ok) :=
  fun _ h => nomatch (show none = some _ from h)

theorem bootctlGo (w : RegWrite) : Statement (.bootctlGo w) :=
  fun _ h => nomatch (show none = some _ from h)

theorem measextGo (w : RegWrite) : Statement (.measextGo w) :=
  fun _ h => nomatch (show none = some _ from h)

theorem failoverTrigger (half : HalfId) : Statement (.failoverTrigger half) :=
  fun _ h => nomatch (show none = some _ from h)

theorem foctlGo (w : RegWrite) : Statement (.foctlGo w) :=
  fun _ h => nomatch (show none = some _ from h)

theorem adoption : Statement (.adoption) :=
  fun _ h => nomatch (show none = some _ from h)

theorem islandWatchdogExpiry (half : HalfId) : Statement (.islandWatchdogExpiry half) :=
  fun _ h => nomatch (show none = some _ from h)

theorem cascopWrite (casc : CascId) (w : RegWrite) : Statement (.cascopWrite casc w) :=
  fun _ h => nomatch (show none = some _ from h)

theorem operatingPointStep (casc : CascId) : Statement (.operatingPointStep casc) :=
  fun _ h => nomatch (show none = some _ from h)

theorem clockHop (casc : CascId) : Statement (.clockHop casc) :=
  fun _ h => nomatch (show none = some _ from h)

theorem clockHoldEnd (casc : CascId) : Statement (.clockHoldEnd casc) :=
  fun _ h => nomatch (show none = some _ from h)

theorem balanceEval (casc : CascId) (r : TierReport) : Statement (.balanceEval casc r) :=
  fun _ h => nomatch (show none = some _ from h)

theorem droopDetect (core : CoreId) (mv : Nat) : Statement (.droopDetect core mv) :=
  fun _ h => nomatch (show none = some _ from h)

theorem droopRelease (core : CoreId) : Statement (.droopRelease core) :=
  fun _ h => nomatch (show none = some _ from h)

theorem powerLimitEval (mw : Nat) : Statement (.powerLimitEval mw) :=
  fun _ h => nomatch (show none = some _ from h)

theorem thermalLimit (half : HalfId) (temp : Int) : Statement (.thermalLimit half temp) :=
  fun _ h => nomatch (show none = some _ from h)

theorem thermtrip (half : HalfId) : Statement (.thermtrip half) :=
  fun _ h => nomatch (show none = some _ from h)

theorem pcSample (core : CoreId) : Statement (.pcSample core) :=
  fun _ h => nomatch (show none = some _ from h)

theorem resizableBarWrite (lgGiB : Nat) : Statement (.resizableBarWrite lgGiB) :=
  fun _ h => nomatch (show none = some _ from h)

theorem islandHealthLoss (half : HalfId) (cause : IslandLoss) : Statement (.islandHealthLoss half cause) :=
  fun _ h => nomatch (show none = some _ from h)

end Sys2Proof.Laws.Encoding
end

