-- ==== Sys2Proof/Machine/Registers.lean ====
section
/-! DEFINITION. What the registers of BAR0 read as (spec/00 R8, spec/21 R397). A read changes nothing; any
master may make it. -/

namespace Sys2Proof.Machine

/-- A number placed at a bit of a register. -/
def natAt (n i : Nat) : Word := BitVec.ofNat 64 n <<< i

/-- BASE of a ring (spec/03 R56). -/
def ringBaseWord (r : RingReg) : Word := r.base

/-- CTL of a ring (spec/03 R56). -/
def ringCtlWord (r : RingReg) : Word :=
  fieldAt r.head 32 ||| fieldAt r.tail 16 ||| bitWord r.berr 4 ||| fieldAt r.lgsz 0

/-- The ring registers of a half (spec/03 R56). -/
def readRing (h : Half) (off : Nat) : Word :=
  match off with
  | 0x00 => ringBaseWord h.pool
  | 0x08 => ringCtlWord h.pool
  | 0x10 => ringBaseWord h.prq
  | 0x18 => ringCtlWord h.prq
  | _ => 0

/-- MEMCFG (spec/03 R49). -/
def readMemcfg (s : State) : Word :=
  bitWord s.dev.lock 63 ||| natAt (min s.dev.gsz.toNat (dramC s / 2 ^ 25)) 16 ||| fieldAt s.dev.straps.chsz 0

/-- The registers of a turnout (spec/04 R63). -/
def readTurnout (t : Turnout) (off : Nat) : Word :=
  match off with
  | 0x00 => bitWord t.en 63 ||| fieldAt t.feo 32 ||| fieldAt t.slsz 16 ||| fieldAt t.lgn 0
  | 0x08 => fieldAt t.wbase 20
  | 0x10 => fieldAt t.pbase 16
  | 0x18 => bitWord t.ws 63 ||| fieldAt t.recAddr 6
  | 0x20 => fieldAt t.ovf 48 ||| fieldAt t.pub 32 ||| bitWord t.cfg 2 ||| bitWord t.perr 1 ||| bitWord t.rerr 0
  | _ => 0

/-- RELCFG (spec/13 R266). -/
def readRelcfg (s : State) : Word :=
  fieldAt s.dev.fo.thr 32 ||| natAt (max s.dev.fo.win.toNat 1) 16 ||| bitWord s.dev.fo.foen 0

/-- RELSTATh (spec/13 R266). -/
def readRelstat (s : State) (h : HalfId) : Word :=
  natAt (retiredCount s h) 40 ||| bitWord (s.half h).fo 33 ||| bitWord (s.half h).unc 32 |||
    fieldAt (s.half h).derr 0

/-- FOSTAT (spec/19 R376). -/
def readFostat (s : State) : Word :=
  let f := s.dev.fo
  fieldAt f.dur 32 ||| fieldAt f.nq 24 ||| fieldAt f.nab 16 ||| bitWord (s.half 1).islandOk 9 |||
    bitWord (s.half 0).islandOk 8 ||| natAt f.src.val 3 ||| fieldAt f.phase 0

/-- TQBASEc and TQCTLc (spec/14 R292). -/
def readTask (g : Casc) (off : Nat) : Word :=
  if off = 0 then g.tqbase
  else bitWord g.tqEn 63 ||| fieldAt g.tqHead 32 ||| fieldAt g.tqTail 16 ||| fieldAt g.tqLgsz 0

/-- The number of QSTATq.state (spec/17 R332). -/
def stateCode : QState → Nat
  | .disabled => 0 | .idle => 1 | .active => 2 | .waiting => 3 | .error => 4 | .draining => 5

/-- The registers of a queue (spec/17 R331, R332). -/
def readQueue (s : State) (q : QueueId) (off : Nat) : Word :=
  let x := s.queue q
  match off with
  | 0x00 => x.base
  | 0x08 => bitWord x.en 63 ||| bitWord x.priv 62 ||| bitWord x.ie 61 ||| natAt x.home.val 60 |||
      fieldAt x.cls 58 ||| natAt x.fn.val 56 ||| fieldAt x.asid 48 ||| fieldAt x.lgsz 0
  | 0x10 => fieldAt x.wi 32 ||| fieldAt x.rd 0
  | 0x18 => x.tl
  | 0x20 => fieldAt x.epkt 32 ||| fieldAt x.ecode 16 ||| natAt (nopOf s q) 8 ||| natAt (stateCode x.st) 0
  | _ => 0

/-- CPSTATh (spec/17 R330): the operators that run on a half have a context or an item there. -/
def readCpstat (s : State) (h : HalfId) : Word :=
  let x := s.half h
  let ops := (s.ops.filter fun o => o.state == .running && opOnHalf s h o).length
  fieldAt x.cpVer 32 ||| natAt ops 16 ||| natAt x.matches_.length 8 ||| bitWord x.cpFatal 1 |||
    bitWord x.cpQuiet 0

/-- CSAVEc (spec/18 R363). -/
def readCsave (k : Core) : Word :=
  let used := (List.finRange 8).foldl (fun n i => n + if k.saved[i.val].isSome then 2 ^ i.val else 0) 0
  fieldAt k.csaveBase 21 ||| bitWord k.csaveEn 8 ||| natAt used 0

/-- The power registers of a cascade (spec/20 R389). -/
def readPower (g : Casc) (off : Nat) : Word :=
  match off with
  | 0x00 => fieldAt g.opCur 4 ||| fieldAt g.opMax 0
  | 0x08 => fieldAt g.imb[3] 48 ||| fieldAt g.imb[2] 32 ||| fieldAt g.imb[1] 16 ||| fieldAt g.imb[0] 0
  | 0x10 => g.thrCount
  | 0x18 => fieldAt g.droopCount 32 ||| natAt g.step 0
  | _ => 0

/-- THERMh (spec/20 R389). -/
def readTherm (h : Half) : Word := bitWord h.trip 13 ||| bitWord h.hot 12 ||| fieldAt h.temp 0

/-- SAMPCTLh (spec/20 R390). -/
def readSampctl (h : Half) : Word :=
  fieldAt h.samp.head 32 ||| fieldAt h.samp.tail 16 ||| fieldAt h.sampDrop 4 ||| fieldAt h.samp.lgsz 0

/-- OWNCTL (spec/21 R398). -/
def readOwnctl (o : Owner) : Word :=
  fieldAt o.ndrop 48 ||| fieldAt o.cand 12 ||| fieldAt o.target 10 ||| bitWord o.ho 9 ||| fieldAt o.hbto 4 |||
    bitWord o.v 2 ||| fieldAt o.own 0

/-- BOOTSTAT (spec/21 R399). -/
def readBootstat (b : Boot) : Word := fieldAt b.pver 32 ||| fieldAt b.err 8 ||| fieldAt b.phase 0

/-- The dwords of a wide register. -/
def dwordOf {w : Nat} (v : BitVec w) (i : Nat) : Word := v.extractLsb' (64 * i) 64

/-- An MSI-X table entry, or the pending bits (spec/21 R393, notes/assumptions/6.md). -/
def readMsix (f : PcieFn) (off : Nat) : Word :=
  if off < 0x420 then dwordOf (f.msix[off / 16]?.getD 0) (off % 16 / 8)
  else if 0x1000 ≤ off ∧ off < 0x1010 then dwordOf f.pba ((off - 0x1000) / 8)
  else 0

/-- A device-wide register by its offset from 0x10_0000. -/
def readDevice (s : State) (off : Nat) : Word :=
  let d := s.dev
  match off with
  | 0x0000 => readMemcfg s
  | 0x0008 => fieldAt d.asidtab 12
  | 0x3000 => readRelcfg s
  | 0x3008 => d.fo.coreret
  | 0x3010 => readRelstat s 0
  | 0x3018 => readRelstat s 1
  | 0x3020 => readFostat s
  | 0x5000 => fieldAt d.bswt 0
  | 0x5010 => fieldAt (s.half 0).dlmiss 32 ||| fieldAt (s.half 0).gangs 0
  | 0x5018 => fieldAt (s.half 1).dlmiss 32 ||| fieldAt (s.half 1).gangs 0
  | 0x7000 => readCpstat s 0
  | 0x7008 => readCpstat s 1
  | 0x9200 => fieldAt d.lim 0
  | 0x9208 => fieldAt d.hits 32 ||| fieldAt d.mw 0
  | 0x9210 => readTherm (s.half 0)
  | 0x9218 => readTherm (s.half 1)
  | 0x9300 => ringBaseWord (s.half 0).samp
  | 0x9308 => readSampctl (s.half 0)
  | 0x9310 => ringBaseWord (s.half 1).samp
  | 0x9318 => readSampctl (s.half 1)
  | 0xC000 => readOwnctl d.owner
  | 0xC018 => fieldAt d.boot.outbase 12
  | 0xC020 => fieldAt d.boot.len4k 44 ||| fieldAt d.boot.pa 12
  | 0xC028 => readBootstat d.boot
  | 0xC030 => fieldAt d.boot.measIdx 0
  | _ => 0

/-- A register that stands in a block of like ones, by its offset from 0x10_0000. -/
def readBlock (s : State) (off : Nat) : Word :=
  if 0x100 ≤ off ∧ off < 0x140 then readRing (s.half (Fin.ofNat 2 ((off - 0x100) / 0x20))) (off % 0x20)
  else if 0x1000 ≤ off ∧ off < 0x2000 then
    readTurnout (s.turnout (Fin.ofNat 64 ((off - 0x1000) / 0x40))) (off % 0x40)
  else if 0x4000 ≤ off ∧ off < 0x4100 then readTask (s.casc (Fin.ofNat 16 ((off - 0x4000) / 16))) (off % 16)
  else if 0x5100 ≤ off ∧ off < 0x5300 then natAt (weight s (Fin.ofNat 64 ((off - 0x5100) / 8))) 0
  else if 0x6000 ≤ off ∧ off < 0x7000 then
    readQueue s (Fin.ofNat 64 ((off - 0x6000) / 0x40)) (off % 0x40)
  else if 0x8000 ≤ off ∧ off < 0x8200 then readCsave (s.core (Fin.ofNat 64 ((off - 0x8000) / 8)))
  else if 0x9000 ≤ off ∧ off < 0x9200 then
    readPower (s.casc (Fin.ofNat 16 ((off - 0x9000) / 0x20))) (off % 0x20)
  else if 0xA000 ≤ off ∧ off < 0xC000 then
    fieldAt ((s.ctx (Fin.ofNat 128 ((off - 0xA000) / 0x40))).sluice[off % 0x40 / 8]?.getD 0) 0
  else if 0xC040 ≤ off ∧ off < 0xC080 then dwordOf s.dev.boot.measd ((off - 0xC040) / 8)
  else if 0xD000 ≤ off ∧ off < 0xD200 then
    dwordOf (s.dev.boot.meas[(off - 0xD000) / 0x40]?.getD 0) (off % 0x40 / 8)
  else if 0xE000 ≤ off ∧ off < 0x1_0000 then dwordOf s.dev.boot.idkey ((off - 0xE000) / 8)
  else readDevice s off

/-- A dword of BAR0 as a master reads it; reserved bits, write-only fields and offsets without a register read
as 0 (spec/00 R8). -/
def barRead (s : State) (m : Master) (off : Nat) : Word :=
  if off % 8 ≠ 0 then 0
  else if 0xF0_0000 ≤ off ∧ off < 0xF0_1010 then readMsix s.dev.fns[(tableFn s m).val] (off - 0xF0_0000)
  else if 0x10_0000 ≤ off ∧ off < 0x11_0000 then readBlock s (off - 0x10_0000)
  else 0

/-- What a read of a notify page returns at its offset 0: the write index (spec/17 R334). -/
def notifyRead (s : State) (q : QueueId) : Word32 := (s.queue q).wi

end Sys2Proof.Machine
end

