-- ==== Sys2Proof/Tests/Slice0.lean ====
section
/-! SUPPORT. Tests: the words of the spec's encodings, ill-formed words for each check, single steps whose results the
spec gives, and for each statement a state that meets its hypotheses. -/

namespace Sys2Proof.Machine

set_option Elab.async false
/-! ## Small states -/

/-- A context that runs at 1000H at user level with a handler at 2000H. -/
def running : Ctx :=
  { Ctx.empty with
    bank := .running, regs := { Regs.zero with pc := 0x1000 }, trap := { TrapRegs.zero with tvec := 0x2000 }
    reg := Region.fresh 0 0x1000 FrontCk.start 0 }

/-- The part with one such context, changed. -/
def oneCtx (f : Ctx → Ctx) : State := State.reset.setCtx 0 (f running)

/-- The part with one such context. -/
def w0 : State := oneCtx id

/-- A context with its open region behind an older one. -/
def behind (x : Ctx) : Ctx :=
  { x with older := some { x.reg with closed := some .commit }, reg := { x.reg with epoch := 1 }, epochs := 1 }

/-- A context at system level. -/
def atSys (x : Ctx) : Ctx := { x with id := { x.id with sys := true } }

/-- An entry of a stream queue as the front would append it. -/
def entry (st : Stream) (i : Instr) (x : Ctx) : QEntry :=
  { instr := i, st := st, a := 0, b := 0, d := 0, rvb := x.front.rvb, rpb := x.front.rpb, epoch := x.reg.epoch, pos := x.pos
    pc := x.regs.pc, stage := none, begun := false, aside := false, sample := none }

/-- A context with an instruction in a stream queue. -/
def queuing (st : Stream) (i : Instr) (x : Ctx) : Ctx := { x with q := x.q.set st [entry st i x], pos := x.pos + 1 }

/-- A context with one position of the loop stack. -/
def looping (k : Fin 6) (l : LoopEntry) (x : Ctx) : Ctx := { x with front := withLoop x.front k l }

/-! ## Hypotheses of the statements are met: scalar instructions -/

theorem witness_ScalarResults :
    (∃ i o f, aluRow i = some (o, f) ∧ registersFree w0 [o.sa, o.sb, o.sd] ∧ o.sd = 0) ∧
    (∃ i o f, aluiRow i = some (o, f) ∧ registersFree w0 [o.sa, o.sd] ∧ o.sd ≠ 0) :=
  ⟨⟨.add ⟨0, 6, 7⟩, _, _, rfl, by unfold registersFree; decide +kernel, rfl⟩,
   ⟨.addi ⟨5, 6, 7⟩, _, _, rfl, by unfold registersFree; decide +kernel, by decide⟩⟩

theorem witness_Branches :
    (∃ i o f, branchRow i = some (o, f) ∧ registersFree w0 [o.sa, o.sb] ∧ f (readS w0.me o.sa) (readS w0.me o.sb) = true) ∧
    (∃ i o f, branchRow i = some (o, f) ∧ registersFree w0 [o.sa, o.sb] ∧ f (readS w0.me o.sa) (readS w0.me o.sb) = false) ∧
    (∃ i o f, flagRow i = some (o, f) ∧ flagWaits w0.me ⟨o.f.toNat, o.f.isLt⟩ = false ∧ registersFree w0 [o.sa]) ∧
    flagWaits w0.me 3 = false ∧ registersFree w0 [31] := by
  refine ⟨⟨.beq ⟨1, 2, 5⟩, _, _, rfl, ?_, ?_⟩, ⟨.bne ⟨1, 2, 5⟩, _, _, rfl, ?_, ?_⟩, ⟨.bfCeq ⟨0, 1, 3, 5⟩, _, _, rfl, ?_, ?_⟩, ?_, ?_⟩
    <;> first | decide +kernel | (unfold registersFree; decide +kernel)

theorem witness_Jumps :
    (registersFree w0 [31] ∧ registersFree w0 [4, 31] ∧ (readS w0.me 4).toNat % 8 = 0) ∧
    (let s := oneCtx (writeS 4 0x1004)
     (readS s.me 4).toNat % 8 ≠ 0 ∧ registersFree s [4] ∧ registersFree s [4, 31]) := by
  unfold registersFree; decide +kernel

theorem witness_LoopsEnter :
    (loopEnters w0.me (.loop ⟨4, 0, 0, 0, 9⟩) = some (⟨4, 0, 0, 0, 9⟩, 0) ∧ registersFree w0 [4]) ∧
    (let s := oneCtx fun x => writeS 4 2 (looping 4 ⟨true, false, 1, 0, 0, 0⟩ x)
     loopEnters s.me (.loop ⟨4, 0, 0, 0, 9⟩) = some (⟨4, 0, 0, 0, 9⟩, 2) ∧ registersFree s [4] ∧ aboveTop s.me.front 5) ∧
    (let s := oneCtx fun x => writeS 4 2 (looping 5 ⟨true, false, 1, 0, 0, 0⟩ x)
     loopEnters s.me (.loop ⟨4, 0, 0, 0, 9⟩) = some (⟨4, 0, 0, 0, 9⟩, 2) ∧ registersFree s [4] ∧
       (s.me.front.loops[5]).valid = true) ∧
    aboveTop w0.me.front 0 ∧ temporalTrips w0.me 5 = none := by
  unfold registersFree aboveTop; decide +kernel

theorem witness_LoopsClose :
    (let s := oneCtx (looping 0 ⟨true, false, 2, 0, 0x1008, 0x1100⟩)
     topAt s.me.front 0 ∧ (s.me.front.loops[0]).fixed = false) ∧
    (let s := oneCtx (looping 5 ⟨true, false, 1, 0, 0x1008, 0x1100⟩)
     topAt s.me.front 5 ∧ (s.me.front.loops[5]).fixed = false) ∧
    (let s := oneCtx (looping 1 ⟨true, true, 1, 0, 0, 0⟩)
     ∀ k : Fin 6, topAt s.me.front k → (s.me.front.loops[k.val]).fixed = true) := by
  unfold topAt; decide +kernel

theorem witness_LoopsBreak :
    (let s := oneCtx (looping 0 ⟨true, false, 2, 0, 0x1008, 0x1100⟩)
     registersFree s [4] ∧ readS s.me 4 = 0 ∧ registersFree s [0] ∧ topAt s.me.front 0 ∧
       (s.me.front.loops[0]).fixed = false) ∧
    (registersFree w0 [0] ∧ ∀ k : Fin 6, topAt w0.me.front k → (w0.me.front.loops[k.val]).fixed = true) := by
  unfold registersFree topAt; decide +kernel

theorem witness_LoopIndexReads : registersFree w0 [4] ∧ (5 : Fin 6).val = (5#3).toNat := by
  unfold registersFree; decide +kernel

theorem witness_FrontWaitsAndFences :
    (queued w0.me = [] ∧ cIdle w0 w0.cur = true ∧ w0.me.older = none ∧ w0.me.sync.posted = [] ∧ w0.me.sync.red = [] ∧
      (w0.half (halfOf w0.cur)).weir = []) ∧
    (let s := oneCtx (queuing .l (.lds ⟨Tok.none, .n32, 0, 5, 6, 0, 0, 0⟩))
     queued s.me ≠ [] ∧ busyS s.me 5 = true) ∧
    (oneCtx behind).me.older ≠ none ∧
    (let s := oneCtx fun x => { queuing .c (.ptest ⟨Tok.none, .b, 0, 2, 0, 0, 0, 0⟩) x with pos := 40 }
     flagWaits s.me 2 = true) := by
  decide +kernel

/-! ## Control registers, commit points and guards -/

theorem witness_CsrReads :
    (csrOf 0x010 = some .time ∧ csrAccess .time w0.me.id.sys ≠ .none ∧ registersFree w0 [4]) ∧
    (csrOf 0x000 = some .fpc ∧ cIdle w0 w0.cur = true) ∧
    (∃ n : Fin 4096, ∃ r, csrOf n.val = some r ∧ csrAccess r w0.me.id.sys = .none) ∧
    (∃ n : Fin 4096, ∃ r, csrOf n.val = some r ∧ csrAccess r w0.me.id.sys = .ro) :=
  ⟨by unfold registersFree; decide +kernel, by decide +kernel, ⟨0x020, .tvec, by decide +kernel⟩,
   ⟨0x010, .time, by decide +kernel⟩⟩

theorem witness_CsrWrites :
    (∃ i o f, csrWrites i = some (o, f) ∧ csrOf (o.imm.toNat % 4096) = some .rvb ∧
      csrAccess .rvb w0.me.id.sys = .rw ∧ Csr.rvb ≠ .fpc ∧ registersFree w0 [o.sa, o.sd] ∧ w0.me.older = none ∧
      (w0.core (coreOf w0.cur)).used ≤ 64) ∧
    (∃ i o f, csrWrites i = some (o, f) ∧ o.imm.toNat % 4096 = 0 ∧ w0.me.older = none ∧
      streamFree w0 .c Tok.none [o.sa, o.sd] ∧ (o.sd ≠ 0 → cIdle w0 w0.cur = true)) := by
  refine ⟨⟨.csrs ⟨4, 5, 1⟩, _, _, rfl, ?_⟩, ⟨.csrc ⟨4, 5, 0⟩, _, _, rfl, ?_⟩⟩
  · unfold registersFree; decide +kernel
  · unfold streamFree registersFree noFault; decide +kernel

theorem witness_CommitPoints :
    w0.me.older = none ∧
    (let s := oneCtx fun x => atSys { x with trap := { x.trap with fatal := true } }
     s.me.older = none ∧ s.me.id.sys = true ∧ s.me.trap.fatal = true) ∧
    (let s := oneCtx fun x => atSys (behind x)
     s.me.older.isSome = true ∧ s.me.id.sys = true ∧ csrOf 1 = some .rvb ∧ csrAccess .rvb s.me.id.sys = .rw) := by
  decide +kernel

theorem witness_GuardResults : w0.me.older = none ∧ (47#6).toNat < 48 ∧ streamFree w0 .c Tok.none [] := by
  unfold streamFree registersFree noFault; decide +kernel

theorem witness_RettReturns :
    (let s := oneCtx fun x => atSys { x with trap := { x.trap with frame := some (frameOf x) } }
     s.me.id.sys = true ∧ s.me.trap.fatal = false ∧ s.me.older = none ∧ s.me.reg.count = 0 ∧
       s.me.trap.frame = some (frameOf running)) ∧ w0.me.id.sys = false := by
  decide +kernel

/-! ## Vector and matrix instructions -/

/-- Operands of a vector instruction on registers. -/
def vx (t : Ty) (d a b : BitVec 6) : VX := ⟨Tok.none, t, 0, d, a, b, 0, 0⟩

theorem witness_VectorIntegerResults :
    (∃ i r vs x, vintRow i = some r ∧ checkInstr i = none ∧ streamFree w0 .c r.o.tok [r.sa] ∧
      takeSrcs (capture .c i r.sa 0 0 w0.me) r.srcs (handed w0) = .ok vs x ∧ dstRoom r.o.vd x = true) ∧
    (∃ i r vs x, vmiscRow i = some r ∧ checkInstr i = none ∧ streamFree w0 .c r.o.tok [r.sa] ∧
      takeSrcs (capture .c i r.sa 0 0 w0.me) r.srcs (handed w0) = .ok vs x ∧ dstRoom r.o.vd x = true) := by
  refine ⟨⟨.vadd (vx .s16 54 5 47), _, _, _, rfl, by decide +kernel, ?_, rfl, by decide +kernel⟩,
    ⟨.vdup { vx .s32 5 0 0 with imm := 9 }, _, _, _, rfl, by decide +kernel, ?_, rfl, by decide +kernel⟩⟩
    <;> unfold streamFree registersFree noFault <;> decide +kernel

theorem witness_Permutations :
    (∃ i r vs x, vpermRow i = some r ∧ checkInstr i = none ∧ streamFree w0 .c r.o.tok [r.sa] ∧
      takeSrcs (capture .c i r.sa 0 0 w0.me) r.srcs (handed w0) = .ok vs x ∧ dstRoom r.o.vd x = true) ∧
    (∃ o vs x, checkInstr (.vrqs o) = none ∧ streamFree w0 .c o.tok [] ∧
      takeSrcs (capture .c (.vrqs o) 0 0 0 w0.me) (if 32 / tyWidth o.ty = 1 then [o.va, o.vb, o.vc] else []) (handed w0) =
        .ok vs x ∧ dstRoom o.vd x = true) ∧
    (∃ i r vs x, groupRow i = some r ∧ checkInstr i = none ∧ streamFree w0 .c r.o.tok [] ∧
      takeSrcs (capture .c i 0 0 0 w0.me) r.srcs (handed w0) = .ok vs x) := by
  refine ⟨⟨.vslideup (vx .n8 2 3 4), _, _, _, rfl, by decide +kernel, ?_, rfl, by decide +kernel⟩,
    ⟨vx .s8 5 16 20, _, _, by decide +kernel, ?_, rfl, by decide +kernel⟩,
    ⟨.vmulW (vx .s16 20 1 2), _, _, _, rfl, by decide +kernel, ?_, rfl⟩⟩
    <;> unfold streamFree registersFree noFault <;> decide +kernel

theorem witness_PredicateResults :
    (∃ i r vs x, predRow i = some r ∧ checkInstr i = none ∧ streamFree w0 .c r.o.tok [] ∧
      takeSrcs (capture .c i 0 0 0 w0.me) r.srcs (handed w0) = .ok vs x) ∧
    (checkInstr (.ptest (vx .b 3 15 0)) = none ∧ streamFree w0 .c Tok.none []) := by
  refine ⟨⟨.vcmp { vx .s32 3 20 4 with imm := 2 }, _, _, _, rfl, by decide +kernel, ?_, rfl⟩, by decide +kernel, ?_⟩
    <;> unfold streamFree registersFree noFault <;> decide +kernel

theorem witness_FloatResults :
    (∃ i r vs x, floatRow i = some r ∧ checkInstr i = none ∧ streamFree w0 .c r.o.tok [] ∧
      takeSrcs (capture .c i 0 0 0 w0.me) r.srcs (handed w0) = .ok vs x ∧ dstRoom r.o.vd x = true) ∧
    (let o := { vx .e4m3 8 20 0 with imm := 10 }
     checkInstr (.vnarrow o) = none ∧ streamFree w0 .c o.tok [] ∧ dstRoom o.vd w0.me = true) ∧
    (∃ o vs x, checkInstr (.vwiden o) = none ∧ streamFree w0 .c o.tok [] ∧
      takeSrcs (capture .c (.vwiden o) 0 0 0 w0.me) [o.va] (handed w0) = .ok vs x) := by
  refine ⟨⟨.vfma { vx .f32 20 1 2 with vc := 3 }, _, _, _, rfl, by decide +kernel, ?_, rfl, by decide +kernel⟩,
    ⟨by decide +kernel, ?_, by decide +kernel⟩, ⟨{ vx .f32 20 8 0 with imm := 11 }, _, _, by decide +kernel, ?_, rfl⟩⟩
    <;> unfold streamFree registersFree noFault <;> decide +kernel

theorem witness_Reductions :
    (∃ i r vs x, redRow i = some r ∧ checkInstr i = none ∧ streamFree w0 .c r.o.tok [] ∧
      takeSrcs (capture .c i 0 0 0 w0.me) [r.o.va, r.o.vb] (handed w0) = .ok vs x ∧ dstRoom r.o.vd x = true) ∧
    (∃ o vs x, checkInstr (.vscan o) = none ∧ streamFree w0 .c o.tok [] ∧
      takeSrcs (capture .c (.vscan o) 0 0 0 w0.me) [o.va, o.vb] (handed w0) = .ok vs x ∧ dstRoom o.vd x = true) := by
  refine ⟨⟨.vredsum (vx .f32 22 20 4), _, _, _, rfl, by decide +kernel, ?_, rfl, by decide +kernel⟩,
    ⟨vx .n32 22 20 4, _, _, by decide +kernel, ?_, rfl, by decide +kernel⟩⟩
    <;> unfold streamFree registersFree noFault <;> decide +kernel

/-- Operands of a MAT instruction on a tile. -/
def mx (shape : BitVec 5) (z : Fin 4) (v : BitVec 6) (flags : BitVec 13) : MX :=
  ⟨Tok.none, shape, .s8, .s8, .z z, v, 0, 0, flags⟩

theorem witness_TileTransfers :
    (streamFree w0 .c Tok.none [] ∧ leaseOpen w0 ∧ slotReady w0 0 ∧ tileBusy w0 w0.cur 0 = false) ∧
    legalHere w0 (.mzero (mx 0 0 0 0)) ∧
    (∃ v x, legalHere w0 (.mwr (mx 0 0 4 0)) ∧ matRows (mx 0 0 4 0) = 1 ∧
      takeSrc (capture .c (.mwr (mx 0 0 4 0)) 0 0 0 w0.me) 4 (handed w0) = .ok v x) ∧
    (legalHere w0 (.mwr (mx 3 0 4 0x1E00)) ∧ matRows (mx 3 0 4 0x1E00) ≠ 1) ∧
    (streamFree w0 .c Tok.none [6] ∧ dstRoom 9 w0.me = true ∧ legalHere w0 (.mrd { mx 0 0 9 0 with v2 := 2, sd := 6 })) ∧
    legalHere w0 (.mdrain { mx 3 0 12 0x210 with v2 := 30 }) := by
  refine ⟨?_, ?_, ⟨_, _, ?_, ?_, rfl⟩, ?_, ?_, ?_⟩ <;>
    (try unfold streamFree registersFree noFault leaseOpen slotReady) <;> (try unfold streamFree registersFree noFault) <;>
    (try unfold legalHere) <;> decide +kernel

/-- Latches with an entry each, of an inner dimension. -/
def latched (k : Nat) (x : Ctx) : Ctx :=
  { x with q := { x.q with qa := [⟨0, 0, 0, 0⟩], qb := [⟨0, 0, 0, k, 8, 0⟩] } }

theorem witness_MatrixProducts :
    ∀ k ∈ [32, 64], let s := oneCtx (latched k)
      legalHere s (.mma (mx 0 3 0 0)) ∧ streamFree s .c Tok.none [] ∧ leaseOpen s ∧ slotReady s 3 ∧
        (s.core (coreOf s.cur)).mmaRun = none ∧ (∃ a b, s.me.q.qa.head? = some a ∧ s.me.q.qb.head? = some b ∧
          a.epoch = s.me.reg.epoch ∧ b.epoch = s.me.reg.epoch ∧ b.k = k) ∧ shapeK (mx 0 3 0 0) = 32 := by
  intro k hk
  refine ⟨?_, ?_, ?_, ?_, ?_, ⟨⟨0, 0, 0, 0⟩, ⟨0, 0, 0, k, 8, 0⟩, ?_, ?_, rfl, rfl, rfl⟩, ?_⟩ <;>
    fin_cases hk <;> (try unfold legalHere) <;> (try unfold streamFree registersFree noFault) <;>
    (try unfold leaseOpen) <;> (try unfold slotReady) <;> decide +kernel

/-! ## Loads and stores -/

/-- The value of an access that succeeds. -/
def gotOf {α : Type} : Got α → Option α
  | .ok v => some v
  | _ => none

/-- An access that succeeds has the form that the statements assume. -/
theorem got_ex {α : Type} {r : State × Got α} {v : α} (h : gotOf r.2 = some v) : r = (r.1, .ok v) := by
  obtain ⟨u, g⟩ := r
  cases g with
  | ok w => simp only [gotOf, Option.some.injEq] at h; rw [h]
  | fault a b c => cases h
  | hold => cases h

/-- The window of the own slice (spec/05 R87). -/
def own : Word := 0x7F10_0000_0000

/-- The part with s4 at the own slice, s5 of 64 and s6 of 4. -/
def wm : State := oneCtx fun x => writeS 4 own (writeS 5 64 (writeS 6 4 x))

/-- Operands of a load or a store at [s4, s5]. -/
def mm (t : Ty) (v : BitVec 6) : MM := ⟨Tok.none, t, 0, v, 4, 5, 0, 0⟩

/-- Two keys of a list in one bank are of one line. -/
def spread (ks : List Nat) : Bool := ks.all fun a => ks.all fun b => bankOfKey a != bankOfKey b || a / 64 == b / 64

/-- Banks to which nothing is presented grant such keys. -/
theorem banksGrant_of_spread (s : State) (c : CtxId) (port : Fin 8) (acc : BankAcc) (pos : Nat) (ks : List Nat)
    (h : (s.core (coreOf c)).now = []) (h' : (s.core (coreOf c)).taken = []) (hs : spread ks = true) :
    banksGrant s c port acc pos ks := by
  refine ⟨fun _ _ u hu => by simp [h] at hu, ?_, fun _ _ => ⟨fun u hu => by simp [h] at hu, fun u hu => by simp [h'] at hu⟩⟩
  rintro l m ⟨⟨a, ha, -, -, rfl⟩, -⟩ ⟨⟨b, hb, -, -, rfl⟩, -⟩ e
  simp only [spread, List.all_eq_true, Bool.or_eq_true, bne_iff_ne, beq_iff_eq] at hs
  have := hs a ha b hb
  simp only [bankOfKey] at this e
  omega

/-- An access that succeeds, with its lines granted, has the form that the statements assume. -/
theorem granted_ex {α : Type} {r : State × Got α} (c : CtxId) (port : Fin 8) (acc : BankAcc) (pos : Nat) (f : α → List Nat)
    (hs : ((gotOf r.2).map fun v => spread (f v)) = some true) (h : (r.1.core (coreOf c)).now = [])
    (h' : (r.1.core (coreOf c)).taken = []) : ∃ u v, r = (u, .ok v) ∧ banksGrant u c port acc pos (f v) := by
  cases hg : gotOf r.2 with
  | none => simp [hg] at hs
  | some v => exact ⟨r.1, v, got_ex hg, banksGrant_of_spread _ _ _ _ _ _ h h' (by simpa [hg] using hs)⟩

/-- The same of an access that leaves the part as it is. -/
theorem granted_got {α : Type} {g : Got α} (s : State) (c : CtxId) (port : Fin 8) (acc : BankAcc) (pos : Nat) (f : α → List Nat)
    (hs : ((gotOf g).map fun v => spread (f v)) = some true) (h : (s.core (coreOf c)).now = [])
    (h' : (s.core (coreOf c)).taken = []) : ∃ v, g = .ok v ∧ banksGrant s c port acc pos (f v) := by
  obtain ⟨u, v, e, hb⟩ := granted_ex (r := (s, g)) c port acc pos f hs h h'
  injection e with h1 h2; subst h1; exact ⟨v, h2, hb⟩

theorem witness_VectorLoads :
    (let o := { mm .f32 48 with sb := 6 }
     let e := capture .l (.ldVs o) o.sa o.sb 0 wm.me
     (checkInstr (.ldVs o) = none ∧ streamFree wm .l o.tok [o.sa, o.sb] ∧ dstRoom o.v wm.me = true ∧ wm.lostRead = false ∧
      strideOk o e) ∧ ∃ u ks, xlateList wm.cur .load 4 ((activeLanes o.ty (govern e o.pred (handed wm))).map
        fun j => (j, word (e.a.toInt + o.off.toInt + j * e.b.toInt))) (began wm) = (u, .ok ks) ∧
        banksGrant u wm.cur (portL wm.cur) .read wm.me.pos (ks.map (·.2))) ∧
    (let o := { mm .f32 5 with sb := 0 }
     let e := capture .l (.ldV o) o.sa o.sb 0 wm.me
     let act := activeLanes o.ty (govern e o.pred (handed wm))
     (checkInstr (.ldV o) = none ∧ vop o.v ≠ .qa ∧ vop o.v ≠ .qb ∧ streamFree wm .l o.tok [o.sa, o.sb] ∧
      dstRoom o.v wm.me = true ∧ wm.lostRead = false) ∧
      ∃ u ps, vectorSpan wm.cur .load o.ty (word (e.a.toInt + o.off.toInt)) act (began wm) = (u, .ok ps) ∧
        banksGrant u wm.cur (portL wm.cur) .read wm.me.pos (act.map fun j => partKey ps (j * 32 / 8))) := by
  refine ⟨⟨?_, granted_ex _ _ _ _ _ ?_ ?_ ?_⟩, ?_, granted_ex _ _ _ _ (fun ps => List.map _ _) ?_ ?_ ?_⟩ <;>
    (try unfold strideOk) <;> (try unfold streamFree registersFree noFault) <;> decide +kernel

theorem witness_LatchAndScalarLoads :
    (streamFree wm .l Tok.none [4, 5] ∧ wm.lostRead = false ∧ slotFree wm false ∧ slotFree wm true) ∧
    (let o := { mm .s8 52 with vi := 3 }
     let e := capture .l (.ldV o) o.sa o.sb 0 wm.me
     (checkInstr (.ldV o) = none ∧ rowsAligned (e.a.toInt + o.off.toInt) e ∧ vop o.v = .qa) ∧
      ∃ u l, rowParts wm.cur 64 (rowsOf o e (handed wm) (o.vi.toNat + 1)) (began wm) = (u, .ok l) ∧
        banksGrant u wm.cur (portL wm.cur) .read wm.me.pos (rowsLines l)) ∧
    (let o := { mm .s8 53 with vi := 0 }
     let e := capture .l (.ldV o) o.sa o.sb 0 wm.me
     (checkInstr (.ldV o) = none ∧ rowsAligned (e.a.toInt + o.off.toInt) e ∧ vop o.v = .qb) ∧
      ∃ u l, rowParts wm.cur (16 * tyWidth o.ty) (rowsOf o e (handed wm) (qbK (o.vi.toNat % 4))) (began wm) = (u, .ok l) ∧
        banksGrant u wm.cur (portL wm.cur) .read wm.me.pos (rowsLines l)) ∧
    (let o := mm .s8 52
     let e := capture .l (.gatA o) o.sa o.sb 0 wm.me
     (checkInstr (.gatA o) = none ∧ rowsAligned e.a.toInt e) ∧
      ∃ l, gatherKeys wm.cur (gatherRows o e (handed wm)) (began wm) = .ok l ∧
        banksGrant wm wm.cur 5 .read wm.me.pos (rowsLines l)) ∧
    (let o := { mm .n32 5 with sb := 0 }
     let e := capture .l (.lds o) o.sa o.sb 0 wm.me
     checkInstr (.lds o) = none ∧ ∃ u ks, xlateList wm.cur .load (scalarLen o.ty)
        [(0, word (e.a.toInt + o.off.toInt))] (began wm) = (u, .ok ks) ∧
        banksGrant u wm.cur (portL wm.cur) .read wm.me.pos (ks.map (·.2))) ∧
    (let o := { mm .e8m0 53 with sb := 0 }
     let e := capture .l (.ldQsc o) o.sa o.sb 0 wm.me
     (checkInstr (.ldQsc o) = none ∧ (word (e.a.toInt + o.off.toInt)).toNat % 64 = 0) ∧
      ∃ u ps, spanParts wm.cur .load (word (e.a.toInt + o.off.toInt)) (if vop o.v = .qb then 512 else 256) allUsed
        (began wm) = (u, .ok ps) ∧ banksGrant u wm.cur (portL wm.cur) .read wm.me.pos (partLines ps)) := by
  refine ⟨?_, ⟨?_, granted_ex _ _ _ _ _ ?_ ?_ ?_⟩, ⟨?_, granted_ex _ _ _ _ _ ?_ ?_ ?_⟩, ⟨?_, granted_got _ _ _ _ _ _ ?_ ?_ ?_⟩,
    ⟨?_, granted_ex _ _ _ _ _ ?_ ?_ ?_⟩, ?_, granted_ex _ _ _ _ _ ?_ ?_ ?_⟩ <;>
  (try unfold rowsAligned) <;> (try unfold slotFree) <;> (try unfold streamFree registersFree noFault) <;> decide +kernel

/-- A store finds everything free when the lines that it gives the own slice lie in different banks. -/
theorem storeFree_of_spread (u : State) (c : CtxId) (pos e : Nat) (ls : List (Word × LineWrite))
    (h : (u.core (coreOf c)).now = [] ∧ (u.core (coreOf c)).taken = [] ∧ spread ((ownLines c ls).map (·.2.line)) = true ∧
      ((ownLines c ls ++ farLines c ls).any fun l => redHits (u.ctx c) l.2 || unsentHits (u.ctx c) l.2) = false ∧
      postRoom (u.ctx c) (farLines c ls).length = true ∧ weirRoom u c e (newLines u c e (weirLines ls)) = .ok) :
    storeFree u c pos e ls :=
  ⟨h.2.2.2.1, banksGrant_of_spread _ _ _ _ _ _ h.1 h.2.1 h.2.2.1, h.2.2.2.2.1, h.2.2.2.2.2⟩

theorem witness_Stores :
    (wm.memOk ∧ streamFree wm .s Tok.none [4, 6] ∧ streamFree wm .s Tok.none [4, 0] ∧ streamFree wm .s Tok.none [4, 7]) ∧
    (let o := { mm .f32 20 with sb := 6 }
     let e := capture .s (.stVs o) o.sa o.sb 0 wm.me
     let act := activeLanes o.ty (govern e o.pred (handed wm))
     let r := xlateList wm.cur .store 4 (act.map fun j => (j, word (e.a.toInt + o.off.toInt + j * e.b.toInt))) (began wm)
     ∃ v x, takeSrc e o.v (handed wm) = .ok v x ∧ checkInstr (.stVs o) = none ∧ strideOk o e ∧
       ∃ ks, gotOf r.2 = some ks ∧
         storeFree r.1 wm.cur wm.me.pos wm.me.reg.epoch (storedLines 32 v (act.map fun j =>
           (j, word (e.a.toInt + o.off.toInt + j * e.b.toInt), keyOf ks j)))) ∧
    (let o := { mm .f32 20 with sb := 0 }
     let e := capture .s (.stV o) o.sa o.sb 0 wm.me
     let act := activeLanes o.ty (govern e o.pred (handed wm))
     let r := vectorSpan wm.cur .store o.ty own act (began wm)
     ∃ v x, takeSrc e o.v (handed wm) = .ok v x ∧ checkInstr (.stV o) = none ∧ ∃ ps, gotOf r.2 = some ps ∧
       storeFree r.1 wm.cur wm.me.pos wm.me.reg.epoch
         (storedLines 32 v (act.map fun j => (j, own + BitVec.ofNat 64 (j * 32 / 8), partKey ps (j * 32 / 8))))) ∧
    (let o := { mm .n32 7 with sb := 0 }
     let r := xlateList wm.cur .store 4 [(0, own)] (began wm)
     checkInstr (.sts o) = none ∧ ∃ k, gotOf r.2 = some [(0, k)] ∧
       storeFree r.1 wm.cur wm.me.pos wm.me.reg.epoch [(own, lineOf k 4 0)]) := by
  refine ⟨?_, ⟨_, _, rfl, by decide +kernel, ?_, (List.range 128).map fun j => (j, sliceKey 0 (4 * j)),
    by decide +kernel, storeFree_of_spread _ _ _ _ _ ?_⟩, ⟨_, _, rfl, by decide +kernel, [⟨0, 512, sliceKey 0 0⟩], by decide +kernel,
      storeFree_of_spread _ _ _ _ _ ?_⟩, by decide +kernel, sliceKey 0 0, by decide +kernel, storeFree_of_spread _ _ _ _ _ ?_⟩ <;>
    (try unfold State.memOk streamFree registersFree noFault) <;> (try unfold strideOk) <;> decide +kernel

/-! ## Translations, tokens and queues -/

/-- The heap of a context: 1 MiB of virtual addresses from 0 that are main memory from 0. -/
def heaped (x : Ctx) : Ctx := { x with heap := ⟨0, 0x10_0000, 0⟩ }

theorem witness_StepKeepsMemoryCanonical : State.reset.memOk ∧ ∃ t, step State.reset = .next t :=
  ⟨by unfold State.memOk; decide +kernel, _, rfl⟩

theorem witness_DecodeOfEncode :
    (Instr.add ⟨31, 31, 31⟩).wellFormed = true ∧ (encode (.add ⟨31, 31, 31⟩)).isSome = true := by decide +kernel

/-- A context about to run a word, in an agenda. -/
def fetching (w : Nat) : State := w0.withFetchWord 64 w

/-- A fetch gives a word. -/
def fetched : Fetched → Option Word
  | .word w => some w
  | _ => none

theorem fetched_ex {r : State × Fetched} {w : Word} (h : fetched r.2 = some w) : r = (r.1, .word w) := by
  obtain ⟨u, g⟩ := r
  cases g with
  | word v => simp only [fetched, Option.some.injEq] at h; rw [h]
  | fault a b c => cases h
  | hold => cases h

theorem witness_StepRunsDecoded :
    (let s := fetching 0x0400_0A63_8000_0000
     let r := { s with agenda := [], cur := 0, lag := false }
     s.agenda = [.front 0 false] ∧ s.dev.stopped = false ∧ frontOpen r 0 = true ∧
       fetched (fetch 0 r).2 = some 0x0400_0A63_8000_0000#64 ∧
       decode 0x0400_0A63_8000_0000#64 = .ok (.add ⟨5, 6, 7⟩)) ∧
    (let s := fetching 0
     let r := { s with agenda := [], cur := 0, lag := false }
     s.agenda = [.front 0 false] ∧ frontOpen r 0 = true ∧ fetched (fetch 0 r).2 = some 0 ∧
       ∃ e, decode 0 = .error e) ∧
    (let s := { w0 with agenda := [.event (.regionRetire 0)] }
     s.agenda = .event (.regionRetire 0) :: [] ∧ encode (.regionRetire 0) = none ∧ s.dev.stopped = false ∧
       ∀ c, Instr.regionRetire 0 ≠ .outboundReadTimeout c) ∧
    (let s := { w0 with agenda := [.event (.outboundReadTimeout 0)] }
     s.agenda = .event (.outboundReadTimeout 0) :: [] ∧ encode (.outboundReadTimeout 0) = none ∧ s.dev.stopped = false ∧
       ∃ t, exec (.outboundReadTimeout 0) { s with agenda := [] } = .next t) := by
  refine ⟨by decide +kernel, ⟨by decide +kernel, by decide +kernel, by decide +kernel, _, rfl⟩,
    ⟨rfl, rfl, rfl, fun _ h => by cases h⟩, rfl, rfl, rfl, _, rfl⟩

theorem witness_TranslationKeeps : wm.memOk := by unfold State.memOk; decide +kernel

/-- Operands of an instruction of the families SYNC and ATOMIC. -/
def sy (sa sb sd : BitVec 5) : SY := { tok := Tok.none, sd := sd, sa := sa, sb := sb, scope := .cascade, subop := 0, imm := 0 }

/-- Counter k1 at a value. -/
def counted (n : Nat) (x : Ctx) : Ctx := { x with tok := { x.tok with k := x.tok.k.set 1 n } }

theorem witness_TokenCounters :
    (let s := oneCtx (counted 15)
     ∃ o, tokenRow (.kwaitL o) = some (.l, false, o) ∧ checkInstr (.kwaitL o) = none ∧ streamFree s .l o.tok [] ∧
       o.imm.toNat % 16 = 1 ∧ o.imm.toNat / 16 % 16 = 15 ∧ s.me.tok.k[1]?.getD 0 = 15) ∧
    (let s := oneCtx (counted 14)
     ∃ o, tokenRow (.ksigS o) = some (.s, true, o) ∧ checkInstr (.ksigS o) = none ∧ streamFree s .s o.tok [] ∧
       streamDone s s.cur .s = true ∧ o.imm.toNat % 16 = 1 ∧ o.imm.toNat / 16 % 16 = 1 ∧
       s.me.tok.k[1]?.getD 0 + s.me.tok.res[1]?.getD 0 + 1 = 15) ∧
    (let s := oneCtx (counted 15)
     ∃ o, tokenRow (.ksigC o) = some (.c, true, o) ∧ checkInstr (.ksigC o) = none ∧ streamFree s .c o.tok [] ∧
       streamDone s s.cur .c = true ∧ o.imm.toNat % 16 = 1 ∧ o.imm.toNat / 16 % 16 = 1 ∧
       15 < s.me.tok.k[1]?.getD 0 + s.me.tok.res[1]?.getD 0 + 1) ∧
    (∃ o, tokenRow (.kwaitS o) = some (.s, false, o) ∧ checkInstr (.kwaitS o) = none ∧ streamFree w0 .s o.tok [] ∧
       w0.me.tok.k[o.imm.toNat % 16]?.getD 0 < o.imm.toNat / 16 % 16) := by
  refine ⟨⟨{ sy 0 0 0 with scope := .context, imm := 0xF1 }, ?_⟩, ⟨{ sy 0 0 0 with scope := .context, imm := 0x11 }, ?_⟩, ⟨{ sy 0 0 0 with scope := .context, imm := 0x11 }, ?_⟩,
    ⟨{ sy 0 0 0 with scope := .context, imm := 0x11 }, ?_⟩⟩ <;> unfold streamFree registersFree noFault <;> decide +kernel

/-- A stream queue with a number of instructions. -/
def crowded (st : Stream) (n : Nat) (x : Ctx) : Ctx :=
  { x with q := x.q.set st (List.replicate n (entry st (.lds (mm .n32 0)) x)) }

/-- Operands of an engine instruction that gives a counter. -/
def en (kp : BitVec 4) : E := ⟨Tok.none, 0, 0, 0, kp, 0, 0, 0, 0, 0⟩

theorem witness_QueuesAccept :
    (let i := Instr.ldV { mm .f32 5 with sb := 0 }
     (let s := { wm with lag := true }
      handedTo i = some .l ∧ levelCheck s.me.id.sys i = none ∧ registersFree s [4, 0, 0, laterWrites i] ∧
        (s.me.q.get .l).length = 0 ∧ s.lag = true) ∧
     (let s := oneCtx (crowded .l 31)
      registersFree s [4, 0, 0, laterWrites i] ∧ (s.me.q.get .l).length = 31 ∧ s.me.q.get .l ≠ []) ∧
     (let s := oneCtx (crowded .l 32)
      registersFree s [4, 0, 0, laterWrites i] ∧ 32 ≤ (s.me.q.get .l).length) ∧
     (let s := oneCtx (queuing .l (.lds { mm .n32 0 with v := 4 }))
      ¬ registersFree s [4, 0, 0, laterWrites i] ∧ levelCheck s.me.id.sys i = none)) ∧
    (∃ o st, engineRow (.efire o) = some (st, o) ∧ checkInstr (.efire o) = none ∧ streamFree w0 st o.tok [o.sa] ∧
      (engQ w0.me st).length < 16 ∧ o.kp = 0) ∧
    (∃ o st, engineRow (.esetS o) = some (st, o) ∧ checkInstr (.esetS o) = none ∧ streamFree w0 st o.tok [o.sa] ∧
      (engQ w0.me st).length < 16 ∧ o.kp = 1 ∧ w0.me.tok.k[1]?.getD 0 + w0.me.tok.res[1]?.getD 0 + 1 ≤ 15) ∧
    (∃ o st, engineRow (.efireS o) = some (st, o) ∧ checkInstr (.efireS o) = none ∧
      let s := oneCtx (counted 15)
      streamFree s st o.tok [o.sa] ∧ (engQ s.me st).length < 16 ∧ o.kp = 1 ∧
        15 < s.me.tok.k[1]?.getD 0 + s.me.tok.res[1]?.getD 0 + 1) := by
  refine ⟨?_, ⟨en 0, .l, rfl, ?_⟩, ⟨en 1, .s, rfl, ?_⟩, ⟨en 1, .s, rfl, ?_⟩⟩ <;>
    (try unfold streamFree noFault) <;> unfold registersFree <;> decide +kernel

/-! ## Objects -/

/-- Eight-byte words at a place of memory. -/
def withWords (key : Nat) (l : List Nat) (s : State) : State :=
  { s with mem := (l.foldl (fun (k, m) v => (k + 8, memPutNat m k 8 v)) (key, s.mem)).2 }

/-- A record in the own slice of the context, with s4 at it, s5 of 64 and s6 of a value. -/
def withRecord (l : List Nat) (v : Word) : State :=
  withWords (sliceKey 0 0) l (oneCtx fun x => writeS 4 own (writeS 5 64 (writeS 6 v x)))

/-- A record that cannot be used as what it should be. -/
def noRecord : State := withRecord [] 0

/-- A free lock. -/
def freeLock : State := withRecord [1] 0

/-- A lock that context 2 holds in generation 0. -/
def heldLock : State := (withRecord [1, 0, 0, 2 ^ 63 + 2 * 2 ^ 32] 0).setCtx 2 running

/-- A ring of 2 slots of 64 bytes: reserved, published, claimed and freed. -/
def ringOf (a b c d : Nat) : State := withRecord [0x102, 0x1000, 128, a, b, c, d] 0

theorem witness_AcquiresClaim :
    (let i := Instr.acq (sy 4 0 0)
     let s := freeLock
     ∃ R, claimRow i = some R ∧ checkInstr i = none ∧ s.memOk ∧ s.me.bank = .running ∧
       streamFree s R.st R.o.tok [R.o.sa, R.o.sb, R.o.sd] ∧
       let g := syncXlate s.cur R.st .atomic 64 (readS s.me R.o.sa) (began s)
       ∃ key, gotOf g.2 = some key ∧ recOk g.1 s.cur R.obj R.side own (objRead g.1.mem key) = true ∧
         R.free g.1 (objRead g.1.mem key) ∧ (g.1.ctx s.cur).sync.claims.length < 16 ∧
         nextClaim (g.1.ctx s.cur) s.me.reg.epoch R.kind key = none ∧ nobodyWaits g.1 s.cur R.st key ∧
         gotOf (depositOf i (capture R.st i R.o.sa R.o.sb 0 s.me) g.1) = some none) ∧
    (let i := Instr.ringwf (sy 4 0 0)
     let s := ringOf 2 2 1 0
     ∃ R, claimRow i = some R ∧ checkInstr i = none ∧ streamFree s R.st R.o.tok [R.o.sa, R.o.sb, R.o.sd] ∧
       let g := syncXlate s.cur R.st .atomic 64 (readS s.me R.o.sa) (began s)
       ∃ key, gotOf g.2 = some key ∧ recOk g.1 s.cur R.obj R.side own (objRead g.1.mem key) = true ∧
         R.free g.1 (objRead g.1.mem key) ∧ nobodyWaits g.1 s.cur R.st key) ∧
    (let i := Instr.ringwe { sy 4 0 7 with scope := .context }
     let s := ringOf 2 2 1 1
     ∃ R, claimRow i = some R ∧ checkInstr i = none ∧ streamFree s R.st R.o.tok [R.o.sa, R.o.sb, R.o.sd] ∧
       let g := syncXlate s.cur R.st .atomic 64 (readS s.me R.o.sa) (began s)
       ∃ key, gotOf g.2 = some key ∧ recOk g.1 s.cur R.obj R.side own (objRead g.1.mem key) = true ∧
         R.free g.1 (objRead g.1.mem key) ∧ nobodyWaits g.1 s.cur R.st key) ∧
    (let i := Instr.acq (sy 4 0 0)
     let s := heldLock
     ∃ R, claimRow i = some R ∧ checkInstr i = none ∧ s.memOk ∧ streamFree s R.st R.o.tok [R.o.sa, R.o.sb, R.o.sd] ∧
       let g := syncXlate s.cur R.st .atomic 64 (readS s.me R.o.sa) (began s)
       ∃ key, gotOf g.2 = some key ∧ recOk g.1 s.cur R.obj R.side own (objRead g.1.mem key) = true ∧
         ¬ R.free g.1 (objRead g.1.mem key) ∧ nobodyWaits g.1 s.cur R.st key ∧
         ownsLock s.cur (g.1.ctx s.cur) (objRead g.1.mem key).w0 = false) ∧
    (let i := Instr.ringwe { sy 4 0 7 with scope := .context }
     let s := ringOf 2 2 1 0
     ∃ R, claimRow i = some R ∧ streamFree s R.st R.o.tok [R.o.sa, R.o.sb, R.o.sd] ∧
       let g := syncXlate s.cur R.st .atomic 64 (readS s.me R.o.sa) (began s)
       ∃ key, gotOf g.2 = some key ∧ recOk g.1 s.cur R.obj R.side own (objRead g.1.mem key) = true ∧
         ¬ R.free g.1 (objRead g.1.mem key)) := by
  refine ⟨⟨_, rfl, ?_, ?_, ?_, ?_, sliceKey 0 0, ?_⟩, ⟨_, rfl, ?_, ?_, sliceKey 0 0, ?_⟩, ⟨_, rfl, ?_, ?_, sliceKey 0 0, ?_⟩,
    ⟨_, rfl, ?_, ?_, ?_, sliceKey 0 0, ?_⟩, ⟨_, rfl, ?_, sliceKey 0 0, ?_⟩⟩ <;>
    (try unfold State.memOk) <;> (try unfold streamFree registersFree noFault) <;> (try unfold nobodyWaits) <;> decide +kernel

/-- What an object instruction finds at [s4]. -/
def arrives (st : Stream) (acc : Access) (n : Nat) (s : State) : State × Got Nat :=
  syncXlate s.cur st acc n (readS s.me 4) (began s)

theorem witness_Waits :
    (let s := withRecord [7] 8
     streamFree s .l Tok.none [4, 6] ∧ checkInstr (.waitw (sy 4 6 0)) = none ∧
       let g := arrives .l .load 8 s
       gotOf g.2 = some (sliceKey 0 0) ∧ waitHolds 0 (memWord g.1.mem (sliceKey 0 0)) 8 = false ∧
         waitHolds 1 (memWord g.1.mem (sliceKey 0 0)) 8 = true ∧ nobodyWaits g.1 s.cur .l (sliceKey 0 0) ∧
         ((g.1.ctx s.cur).sync.posted.any fun p => p.w.line == sliceKey 0 0) = false) ∧
    (let s := withRecord [3, 0, 0, 7] 8
     let o := { sy 4 6 0 with imm := 0x80_0000 }
     streamFree s .l o.tok [4, 6] ∧ checkInstr (.waitw o) = none ∧
       let g := arrives .l .atomic 64 s
       gotOf g.2 = some (sliceKey 0 0) ∧ recOk g.1 s.cur .arrival .none own (objRead g.1.mem (sliceKey 0 0)) = true ∧
         waitHolds 0 (memWord g.1.mem (sliceKey 0 0 + 0x18)) 8 = false ∧
         waitHolds 4 (memWord g.1.mem (sliceKey 0 0 + 0x18)) 7 = true) ∧
    (let s := withRecord [4, 0, 0, 7] 8
     checkInstr (.tlwait (sy 4 6 0)) = none ∧ streamFree s .l Tok.none [4, 6] ∧
       let g := arrives .l .atomic 64 s
       let r := objRead g.1.mem (sliceKey 0 0)
       gotOf g.2 = some (sliceKey 0 0) ∧ recOk g.1 s.cur .timeline .none own r = true ∧
         nobodyWaits g.1 s.cur .l (sliceKey 0 0) ∧ 0 ≤ (timelineOf g.1 r - 7).toInt ∧ (timelineOf g.1 r - 8).toInt < 0) := by
  unfold streamFree registersFree noFault nobodyWaits; decide +kernel

/-- A claim of the running region at the record. -/
def claiming (kind : ClaimKind) (v : Nat) (x : Ctx) : Ctx :=
  { x with sync := { x.sync with claims := [⟨kind, sliceKey 0 0, v, 0, true, false, 0⟩] } }

theorem witness_ReleasesDefer :
    (let s := (ringOf 2 1 0 0).modCtx 0 (claiming .produce 1)
     let i := Instr.ringpub (sy 4 0 0)
     ∃ R, releaseRow i = some R ∧ checkInstr i = none ∧ streamFree s R.st R.o.tok [R.o.sa, R.o.sb] ∧
       let g := arrives R.st .atomic 64 s
       gotOf g.2 = some (sliceKey 0 0) ∧ recOk g.1 s.cur R.obj R.side own (objRead g.1.mem (sliceKey 0 0)) = true ∧
         R.kind = some .produce ∧ (openClaim (g.1.ctx s.cur) .produce (sliceKey 0 0)).isSome = true) ∧
    (let s := freeLock
     let i := Instr.rel (sy 4 0 0)
     ∃ R, releaseRow i = some R ∧ checkInstr i = none ∧ streamFree s R.st R.o.tok [R.o.sa, R.o.sb] ∧
       let g := arrives R.st .atomic 64 s
       gotOf g.2 = some (sliceKey 0 0) ∧ recOk g.1 s.cur R.obj R.side own (objRead g.1.mem (sliceKey 0 0)) = true ∧
         R.kind = none) ∧
    (let s := withRecord [] 8
     checkInstr (.setw (sy 4 6 0)) = none ∧ (sy 4 6 0).imm.getLsbD 23 = false ∧ streamFree s .s Tok.none [4, 6] ∧
       gotOf (arrives .s .store 8 s).2 = some (sliceKey 0 0)) ∧
    (let s := noRecord
     recordRow (.tjoin (sy 4 0 0)) = some (.s, sy 4 0 0, .join, .none) ∧ checkInstr (.tjoin (sy 4 0 0)) = none ∧
       streamFree s .s Tok.none [4, 0, 0] ∧
       let g := arrives .s .atomic 64 s
       gotOf g.2 = some (sliceKey 0 0) ∧ recOk g.1 s.cur .join .none own (objRead g.1.mem (sliceKey 0 0)) = false) := by
  refine ⟨⟨_, rfl, ?_⟩, ⟨_, rfl, ?_⟩, ?_, ?_⟩ <;> unfold streamFree registersFree noFault <;> decide +kernel

/-- An operator of queue 0 with two items to come, that may be raised when it has one temporal level. -/
def disp0 : Dispatch :=
  { op := 1, entry := 0x1000, args := 0x2000, heap := Heap.none, gtol := 0, timg := 0, tcnt := 0, trips := [2]
    temporal := [false], cls := 1, asid := 0, queue := 0, rx := false, gd := false, met := false, card := 0, tag := 0
    mixok := true, cur := 0, fbud := 0, thr := false }

/-- Its items. -/
def item0 (n : Nat) : Item := ⟨[n], n, none, false, false, n⟩

/-- An operator. -/
def op0 : Operator :=
  { id := 1, queue := 0, pkt := 0, card := 0, inGraph := false, words := Vector.replicate 16 0, recVa := 0, disp := disp0
    fbDisp := none, half := 0, deadline := 0, halves := false, cores := true, pending := [item0 0, item0 1], restart := []
    fallback := [], entered := 2, gfail := 0, lastCasc := Vector.replicate 2 none, state := .running, partner := none
    fbUsed := Vector.replicate 2 0 }

/-- What a context of it runs. -/
def work0 : Work := ⟨disp0, item0 0, false, 0, 1, 0⟩

/-- A context that works for operator 1. -/
def working (x : Ctx) : Ctx := { x with work := some work0 }

/-- The part with operator 1 in queue 0, changed. -/
def withOp (f : Operator → Operator) (s : State) : State :=
  { s with ops := [f op0], opCount := 1 }

theorem witness_AtomicsTakeEffect :
    (let s := withRecord [7] 8
     let o := { sy 4 6 7 with scope := .context }
     checkInstr (.amo o) = none ∧ s.memOk ∧ s.me.older = none ∧ s.me.reg.count = 0 ∧ streamFree s .s o.tok [] ∧
       let g := amoKey s.cur 4 (atomicAddr o (readS s.me o.sa))
         (s.setCtx s.cur { closedAt .commit s.me with acting := s.me.reg.epoch })
       gotOf g.2 = some (sliceKey 0 0) ∧ (g.1.ctx s.cur).sync.posted = [] ∧
         bytesBehind g.1 s.cur (sliceKey 0 0) 4 = false) ∧
    (let s := oneCtx behind
     s.me.older.isSome = true) ∧
    (let s := oneCtx fun x => { x with reg := { x.reg with count := 1 } }
     s.me.older = none ∧ s.me.reg.count ≠ 0) ∧
    (let s := { w0 with lag := true }
     s.me.older = none ∧ s.me.reg.count = 0 ∧ s.lag = true) ∧
    (let s := withRecord [7] 8
     let o := { sy 4 6 0 with scope := .context }
     checkInstr (.red o) = none ∧ streamFree s .s o.tok [o.sa, o.sb] ∧
       let g := amoKey s.cur 4 (atomicAddr o (readS s.me o.sa)) (began s)
       gotOf g.2 = some (sliceKey 0 0) ∧ (g.1.ctx s.cur).sync.red.length < 64) ∧
    (let s := withRecord [7] 8
     let o := { sy 4 0 0 with scope := .context, imm := BitVec.ofNat 24 (20 * 2 ^ 15) }
     let e := capture .s (.vred o) o.sa 0 0 s.me
     checkInstr (.vred o) = none ∧ streamFree s .s o.tok [o.sa] ∧
       ∃ v y, takeSrc e (o.imm.extractLsb' 15 6) (handed s) = .ok v y ∧
         (gotOf (vredSpan s.cur (atomicAddr o (readS s.me o.sa))
           (activeLanes .n32 (govern e (o.imm.extractLsb' 11 4) (handed s))) (began s)).2).isSome = true) := by
  refine ⟨?_, ?_, ?_, ?_, ?_, ?_, ?_, _, _, rfl, ?_⟩ <;> (try unfold State.memOk) <;>
    (try unfold streamFree registersFree noFault) <;> decide +kernel

theorem witness_TasksPost :
    (let s := withRecord [0x1000, 0, 0, 2] 0
     checkInstr (.tpost { sy 4 0 7 with scope := .context }) = none ∧ streamFree s .s Tok.none [4, 7] ∧
       let g := arrives .s .load 32 s
       gotOf g.2 = some (sliceKey 0 0) ∧ (g.1.ctx s.cur).sync.posted = [] ∧ bytesBehind g.1 s.cur (sliceKey 0 0) 32 = false ∧
         (memWord g.1.mem (sliceKey 0 0)).toNat < 2 ^ 48 ∧ (memWord g.1.mem (sliceKey 0 0)).toNat % 8 = 0 ∧
         (memWord g.1.mem (sliceKey 0 24)).toNat ≤ 2) ∧
    (let s := withRecord [0x1004] 0
     let g := arrives .s .load 32 s
     gotOf g.2 = some (sliceKey 0 0) ∧ (memWord g.1.mem (sliceKey 0 0)).toNat % 8 ≠ 0) ∧
    (let s := withOp id (oneCtx fun x => working (writeS 6 1 x))
     let o := { sy 0 6 7 with scope := .context }
     checkInstr (.grais o) = none ∧ streamFree s .s o.tok [o.sb, o.sd] ∧ raisable s s.me = some op0 ∧
       (op0.disp.trips.headD 0 + 1) ≤ 2 ^ 32 - 1) ∧
    (let s := withOp id (oneCtx fun x => working (writeS 6 0xFFFF_FFFF x))
     raisable s s.me = some op0 ∧ 2 ^ 32 - 1 < op0.disp.trips.headD 0 + (readS s.me 6).toNat) := by
  unfold streamFree registersFree noFault; decide +kernel

/-! ## Traps -/

theorem witness_TrapsSave :
    ((w0.ctx 0).id.sys = false ∧ (w0.ctx 0).trap.tvec ≠ 0) ∧
    (let s := withOp id (oneCtx fun x => atSys (working x))
     (s.ctx 0).id.sys = true ∧ ctxOp (s.ctx 0) = some 1 ∧ s.op 1 = some op0 ∧ (s.queue op0.queue).st ≠ .error ∧
       (s.queue op0.queue).st ≠ .draining) ∧
    (let s := withOp id (oneCtx fun x => working { x with trap := TrapRegs.zero })
     (s.ctx 0).trap.tvec = 0 ∧ ctxOp (s.ctx 0) = some 1 ∧ s.op 1 = some op0) := by decide +kernel

theorem witness_FaultsRestart :
    ∃ t, frontTraps w0 t 1 0x1000 ∧ w0.me.older = none ∧ queued w0.me = [] ∧ w0.me.reg.fault = none ∧ w0.me.reg.bad = false ∧
      w0.me.id.sys = false ∧ w0.me.trap.tvec ≠ 0 ∧ w0.me.reg.undo = [] ∧ (w0.waiters.all fun w => w.ctx != w0.cur) = true :=
  ⟨_, rfl, by decide +kernel⟩

/-! ## Engines and regions -/

/-- A command of an instruction in the L engine queue. -/
def engCmd (i : Instr) (v : Word) : EngCmd := ⟨i, v, 0, 0, Staging.start⟩

/-- A command that has started, with its rows. -/
def cmdOf (i : Instr) (rows : List CopyRow) : ActiveCmd :=
  { ctx := 0, gen := 0, op := none, cmd := engCmd i 0, tmpl := 0, codebook := 0, rows := rows, pushed := 0, dead := false
    late := false, heap := Heap.none, used := [], sample := none }

/-- A row whose bytes come from one place of the own slice and go to another. -/
def oneRow (src dst n : Nat) : CopyRow :=
  ⟨0, 0, n, false, [⟨0, n, sliceKey 0 src⟩], own + BitVec.ofNat 64 dst, [⟨0, n, sliceKey 0 dst⟩]⟩

/-- A write of a whole line. -/
def line0 (key : Nat) : LineWrite := ⟨key, 1, BitVec.allOnes 128⟩

/-- An entry of a weir buffer. -/
def weir0 (committed : Bool) : WeirEntry :=
  { w := line0 0x40000, va := 0x40000, ctx := 0, gen := 0, op := none, epoch := 0, committed := committed
    seq := 1, pool := false, late := false, cont := false, also := [], used := [] }

/-- The command of a start that leaves one active. -/
def activated : Started → Option ActiveCmd
  | .active _ a => some a
  | _ => none

theorem witness_EngineCommands :
    (let s := oneCtx fun x => counted 1 { x with engL := [engCmd (.cbload (en 2)) own] }
     let o := en 2
     (s.core 0).active.length < 8 ∧ engSlot 0 (s.core 0).engPtr = (0, .l) ∧ engQ s.me .l = [engCmd (.cbload o) own] ∧
       engFields (.cbload o) = some (.book, o, false) ∧ sluiceOpen s.me 3 = true ∧ engTokens o s.me = true ∧
       ((regionOf s.me 0).all fun r => r.fault.isSome) = false ∧
       (activated (startCmd 0 (engCmd (.cbload o) own) .book o false (actFor 0 0 (flushPosted 0 s)))).isSome = true) ∧
    (let o := { en 0 with ka := 1 }
     let s := oneCtx fun x => counted 1 { x with engL := [engCmd (.eclr o) 0] }
     engQ s.me .l = [engCmd (.eclr o) 0] ∧ engFields (.eclr o) = some (.clear, o, false) ∧ sluiceOpen s.me 3 = true ∧
       engTokens o s.me = true ∧ ((regionOf s.me 0).all fun r => r.fault.isSome) = false ∧ s.memOk ∧ undoCount s.me < 16 ∧
       s.me.sync.posted = [] ∧ (s.core 0).active.length < 8) ∧
    (let a := cmdOf (.cbload (en 2)) [oneRow 0 0x100 16]
     let s := w0.modCore 0 fun k => { k with active := [a] }
     s.memOk ∧ (s.core 0).active[0]? = some a ∧ cmdStruck s a = false ∧ s.lostRead = false ∧ a.sample = none ∧
       windowBusy s 0 0 a = false ∧ coreHeld s 0 = false ∧ cmdFenced s a = false ∧ cmdWaits s 0 a = false ∧ arrivalHeld s a = false ∧ (s.ctx a.ctx).sync.posted = [] ∧ a.dead = false ∧ (s.ctx a.ctx).id.gen = a.gen ∧
       engFields a.cmd.instr = some (.book, en 2, false) ∧ pushes a = false) ∧
    (let a := cmdOf (.efire (en 2)) [oneRow 0 0x100 16]
     let s := w0.modCore 0 fun k => { k with active := [a] }
     (s.core 0).active[0]? = some a ∧ cmdStruck s a = false ∧ windowBusy s 0 0 a = false ∧ coreHeld s 0 = false ∧ cmdFenced s a = false ∧ cmdWaits s 0 a = false ∧ arrivalHeld s a = false ∧
       engFields a.cmd.instr = some (.fire, en 2, false) ∧
       pushes a = false ∧ cpAw a.tmpl = false ∧ anyDram (planDst a.rows) = false ∧ selfMeet (planDst a.rows) = false ∧
       ((planDst a.rows).any fun p => (planSrc a.rows).any (partsMeet p)) = false) ∧
    (let d : ArrivalDue := ⟨0, 0, none, 0, [], sliceKey 0 8, 5⟩
     let s := w0.modCore 0 fun k => { k with arrivals := [d] }
     s.memOk ∧ (s.core 0).arrivals[0]? = some d ∧ struckAt s d.addr = false ∧ homeShut s d.addr = false ∧
       ((s.half (halfOf d.ctx)).weir.all fun w =>
         !(w.ctx == d.ctx && w.epoch == d.epoch && d.lines.contains w.w.line)) = true) := by
  refine ⟨?_, ?_, ?_, ?_, ?_⟩ <;> (try unfold State.memOk) <;> decide +kernel

/-- A context at user level whose front is held at a closing instruction. -/
def closing (how : Closing) (x : Ctx) : Ctx := closedAt how x

/-- A guarded context of operator 1, with a result. -/
def guarded (gres : Word32) (x : Ctx) : Ctx :=
  { working x with id := { x.id with gd := true }, cnt := { x.cnt with gres := gres } }

/-- What REGION_RETIRE asks of a region at which the front is held. -/
def retirable (s : State) : Bool :=
  canRun s 0 && !overlong s 0 && s.me.older.isNone && s.me.reg.fault.isNone && !s.me.reg.bad &&
    (leftover s 0 s.me.reg.epoch).isNone && regionDone s 0 s.me.reg.epoch

/-- The result of a guard is at most its limit. -/
def belowLimit (x : Ctx) : Bool := fcond 3 (fvalOf .f32 x.cnt.gres.toNat) (fvalOf .f32 x.front.gtol.toNat)

theorem witness_RegionsRetire :
    (let s := oneCtx behind
     canRun s 0 = true ∧ overlong s 0 = false ∧ ∃ r, s.me.older = some r ∧ r.closed.isSome = true ∧ r.fault = none ∧
       r.bad = false ∧ leftover s 0 r.epoch = none ∧ regionDone s 0 r.epoch = true) ∧
    (∀ how ∈ [Closing.commit, .trapi 7, .ebreak, .done], let s := oneCtx (closing how)
     retirable s = true ∧ s.me.reg.closed = some how ∧ s.me.id.sys = false ∧ s.me.trap.tvec ≠ 0) ∧
    (let s := oneCtx fun x => closing (.guard true) (atSys x)
     retirable s = true ∧ s.me.reg.closed = some (.guard true) ∧ s.me.id.sys = true) ∧
    (let s := oneCtx (closing (.guard true))
     retirable s = true ∧ s.me.id.gd = false) ∧
    (let s := withOp id (oneCtx fun x => closing (.guard true) (guarded 0 x))
     retirable s = true ∧ s.me.id.gd = true ∧ s.me.work = some work0 ∧ work0.disp.met ≠ true ∧
       belowLimit s.me = true) ∧
    (let s := withOp id (oneCtx fun x => closing (.guard true) (guarded 0x3F80_0000 x))
     retirable s = true ∧ s.me.id.sys = false ∧ s.me.id.gd = true ∧ s.me.work = some work0 ∧ work0.disp.met ≠ true ∧
       s.me.id.task = false ∧ s.me.id.fb = false ∧ belowLimit s.me = false ∧ s.op work0.disp.op = some op0) ∧
    (let s := withOp id (oneCtx fun x => closing (.guard false) (guarded 0 x))
     retirable s = true ∧ s.me.id.sys = false ∧ s.me.trap.tvec ≠ 0 ∧ s.me.id.gd = true ∧ s.me.work = some work0 ∧
       work0.disp.met = false ∧ queued s.me = []) ∧
    (let s := oneCtx fun x => { x with reg := { x.reg with len := 65537 } }
     canRun s 0 = true ∧ s.me.older = none ∧ s.me.id.sys = false ∧ s.me.trap.tvec ≠ 0 ∧ s.me.reg.bad = false ∧
       s.me.reg.fault = none ∧ regMax (s.core 0) < s.me.reg.len) ∧
    (let s := oneCtx fun x => { x with reg := { x.reg with fault := some ⟨1, 0x1000, 0, false, false⟩ } }
     canRun s 0 = true ∧ isPageFault 1 = false ∧ s.me.older = none) ∧
    (let s := oneCtx fun x => { x with reg := { x.reg with fault := some ⟨4, 0x1000, 0, false, true⟩ } }
     canRun s 0 = true ∧ isPageFault 4 = true ∧ s.me.older = none) := by
  refine ⟨⟨by decide +kernel, by decide +kernel, _, rfl, by decide +kernel⟩, ?_⟩
  decide +kernel

/-- A comparison of an `mma` of zeros that is due, with a result. -/
def check0 (new : Tile) : CheckRec :=
  { ctx := 0, epoch := 0
    due := { op := mx 0 0 0 0, a := ⟨0, 0, 0, 0⟩, b := ⟨0, 0, 0, 32, 8, 0⟩, old := Tile.zero, new := new, slot := 0 } }

/-- A tile whose elements are all marked. -/
def allMarked : Tile := { Tile.zero with marks := Vector.replicate 64 (BitVec.allOnes 128) }

/-- An upset of bit 30 of the first element. -/
def upset0 : Upset := ⟨true, 0, 0, 30⟩

/-- The part without a limit on errors per window. -/
def oneShot (s : State) : State := s.modDev fun d => { d with fo := { d.fo with thr := 0 } }

/-- A page request that has still to be written. -/
def preq0 : PageReq := ⟨0x10000, 4, false, false, 0, false, none⟩

/-- A ring of page requests with a bank whose request waits. -/
def requesting (s : State) : State :=
  (s.modCtx 0 fun x => { x with bank := .faulted, preq := some preq0 }).modHalf 0 fun h =>
    { h with prq := { h.prq with base := 0x40000, lgsz := 4 } }

/-- Tables that map the page of 64 KiB at 10000H to the one at 30000H. -/
def mapped (s : State) : State :=
  withWords 0x23008 [0x3000F] (withWords 0x22000 [0x23001] (withWords 0x21000 [0x22001]
    (withWords 0x20000 [0x21001] (withWords 0 [0x20001] s))))

/-- The leaf of that page. -/
def leaf1 : TlbEntry := ⟨0, false, false, 1, 0x30000, true, true, true⟩

/-- The part with a number of earlier errors on core 0 in this window, and a threshold. -/
def struckBefore (n : Nat) (thr : BitVec 16) (s : State) : State :=
  (s.modCore 0 fun k => { k with errTimes := List.replicate n 0 }).modDev fun d => { d with fo := { d.fo with thr := thr } }

/-- A context at the limit of its replays. -/
def worn (x : Ctx) : Ctx := { x with cnt := { x.cnt with att := replayMax Core.reset } }

/-- A context of an operator with REEXEC. -/
def reexecuting (x : Ctx) : Ctx := { working x with id := { x.id with rx := true } }

/-- The errors on core 0 in the window. -/
def recentErrors (s : State) : Nat := ((s.core 0).errTimes.filter fun t => decide ((s.dev.time - t).toNat < relWindow s)).length

theorem witness_ErrorsReplay :
    (let s := oneShot w0
     (s.casc (cascOf 0)).hold = false ∧ s.dev.fo.thr = 0 ∧ (s.ctx 0).cnt.att < replayMax (s.core 0) ∧
       (s.ctx 0).older = none ∧ (s.ctx 0).bank = .running ∧ (s.ctx 0).cnt.att = 0) ∧
    (let s := struckBefore 3 4 w0
     s.dev.fo.thr ≠ 0 ∧ ¬ s.dev.fo.thr.toNat < recentErrors s + 1) ∧
    (let s := struckBefore 4 4 w0
     s.dev.fo.thr ≠ 0 ∧ s.dev.fo.thr.toNat < recentErrors s + 1 ∧ s.dev.fo.coreret.getLsbD 0 = false) ∧
    (let s := withOp id (oneCtx fun x => worn (reexecuting { x with reg := { x.reg with count := 1 } }))
     (s.ctx 0).reg.count ≠ 0 ∧ replayMax (s.core 0) ≤ (s.ctx 0).cnt.att ∧ (s.ctx 0).id.sys = false ∧ (s.ctx 0).id.rx = true ∧
       (s.ctx 0).id.task = false ∧ (s.ctx 0).work = some work0 ∧ s.op work0.disp.op = some op0 ∧ work0.item.fb = false) ∧
    (let s := oneCtx fun x => worn { x with reg := { x.reg with count := 1 } }
     replayMax (s.core 0) ≤ (s.ctx 0).cnt.att ∧ (s.ctx 0).id.sys = false ∧ (s.ctx 0).id.rx = false ∧
       (s.ctx 0).trap.tvec ≠ 0) ∧
    (let s := withOp id (oneCtx fun x => atSys (worn (working { x with reg := { x.reg with count := 1 } })))
     replayMax (s.core 0) ≤ (s.ctx 0).cnt.att ∧ (s.ctx 0).id.sys = true ∧ ctxOp (s.ctx 0) = some 1 ∧ s.op 1 = some op0 ∧
       (s.queue op0.queue).st ≠ .error) ∧
    (let s := oneCtx fun x => worn (behind x)
     (∃ r, (s.ctx 0).older = some r ∧ r.epoch < (s.ctx 0).reg.epoch) ∧ (s.ctx 0).reg.epoch ≤ (s.ctx 0).epochs ∧
       replayMax (s.core 0) ≤ (s.ctx 0).cnt.att ∧ (s.ctx 0).bank = .running) ∧
    (let s := (oneShot w0).modCore 0 fun k => { k with checks := [check0 allMarked] }
     (s.core 0).checks[0]? = some (check0 allMarked) ∧ checksumPass (check0 allMarked).due = true) ∧
    (let s := (oneShot w0).modCore 0 fun k => { k with checks := [check0 Tile.zero] }
     let d := check0 Tile.zero
     (s.core 0).checks[0]? = some d ∧ d.ctx = 0 ∧ d.epoch = (s.ctx 0).reg.epoch ∧ upset0.hit = true ∧
       checksumPass { d.due with new := flipBit d.due.new upset0 } = false) ∧
    (let s := mapped w0
     (s.ctx 0).bank = .running ∧ inHeap (s.ctx 0).heap 0x10000 = false ∧ walk s 0 0x10000 = .leaf leaf1 ∧
       ((s.core 0).tlb.find? fun t => t.hit 0 0x10000) = none ∧ ((s.half 0).tlb.find? fun t => t.hit 0 0x10000) = none) ∧
    (let s := requesting w0
     s.memOk ∧ (firstRequest (unwritten s 0)).isSome = true ∧ ringOk s (s.half 0).prq 32 = true ∧
       ringFull (s.half 0).prq = false ∧ (s.half 0).cpQuiet = false) := by
  refine ⟨?_, ?_, ?_, ?_, ?_, ?_, ⟨⟨_, rfl, ?_⟩, ?_⟩, ?_, ?_, ?_, ?_⟩ <;> (try unfold State.memOk) <;> decide +kernel

/-! ## Banks, gangs and effects -/

/-- A context that a preemption has halted. -/
def halted (x : Ctx) : Ctx := { x with bank := .halted }

/-- A core that saves contexts. -/
def saving (v : Option SavedCtx) (k : Core) : Core := { k with csaveEn := true, saved := k.saved.set 0 v }

/-- A saved context of bank 0. -/
def saved0 : SavedCtx := { bank := 0, ctx := halted running, tiles := [], area := [], under := [], bad := false }

/-- The part with contexts 0 and 1. -/
def twoCtx (f g : Ctx → Ctx) : State := (oneCtx f).setCtx 1 (g running)

/-- A context of class 0. -/
def realTime (x : Ctx) : Ctx := { x with id := { x.id with cls := 0 } }

/-- A context of class 2. -/
def background (x : Ctx) : Ctx := { x with id := { x.id with cls := 2 } }

theorem witness_Preemption :
    ((w0.casc (cascOf 0)).hold = false ∧ ((ctxOp (w0.ctx 0)).bind w0.op).all (fun o => o.partner.isNone) = true ∧
      (w0.ctx 0).bank = .running ∧ isEnding (w0.ctx 0) = false) ∧
    ((oneCtx fun x => { x with bank := .faulted }).ctx 0).bank = .faulted ∧
    (let s := (oneCtx halted).modCore 0 (saving none)
     evictable s 0 = true ∧ freeSave (s.core 0) = some 0) ∧
    (let s := State.reset.modCore 0 (saving (some saved0))
     heldClock s 0 = false ∧ nextSaved (s.core 0) 0 = some (0, saved0) ∧ (s.ctx 0).bank = .empty ∧
       saved0.ctx.preq = none ∧ saved0.bad = false ∧ slotCells s 0 0 = saved0.under) ∧
    (let v := { saved0 with bad := true, ctx := working (halted running) }
     let s := withOp id (State.reset.modCore 0 (saving (some v)))
     nextSaved (s.core 0) 0 = some (0, v) ∧ coIssueOk s (cascOf 0) work0.disp work0.cur false = true ∧ v.bad = true ∧
       v.ctx.older = none ∧ v.ctx.id.sys = false ∧ v.ctx.trap.tvec ≠ 0) ∧
    (let s := oneCtx fun x => { x with trap := { x.trap with inh := true, frame := some (frameOf x) } }
     (s.ctx 0).bank = .running ∧ isEnding (s.ctx 0) = false ∧ (s.ctx 0).trap.frame = some (frameOf running)) ∧
    (let s := twoCtx (fun x => background (halted x)) fun x => realTime { x with bank := .faulted }
     (s.casc (cascOfCore 0)).hold = false ∧ ctxIn 0 0 = 0 ∧ ctxIn 0 1 = 1 ∧ (s.ctx 0).preq = none ∧
       (s.ctx 1).switched = false ∧ (s.ctx 1).bank ≠ .halted ∧ switchDue s 0 = true) ∧
    (let s := twoCtx halted id
     switchDue s 0 = false ∧ bankFreeFor s 0 (s.ctx 0) = true) ∧
    (let s := twoCtx (fun x => background (halted x)) realTime
     switchDue s 0 = false ∧ bankFreeFor s 0 (s.ctx 0) = false) := by decide +kernel

/-- A real-time operator. -/
def rtOp : Operator := { op0 with words := Vector.replicate 16 0xFFFF_0000, disp := { disp0 with cls := 0 } }

/-- A gang of it with one item for tier 0. -/
def gang0 : Gang := ⟨1, 1, rtOp.disp, [(0, some (item0 0))]⟩

/-- An entry of a task queue of operator 1. -/
def task0 (ready : Bool) : TaskEntry :=
  { op := 1, fb := false, code := 0x1000, frame := 0, join := 0, cur := 0, owner := 0, epoch := 0, seq := 1, ready := ready }

theorem witness_GangsAndTasksStart :
    (let s := withOp (fun _ => rtOp) State.reset
     dealable s 0 0 = [rtOp] ∧ chooseCasc s ⟨rtOp, false⟩ 0 = some 0 ∧ (pairOf s rtOp).isNone = true ∧ s.op rtOp.id = some rtOp) ∧
    (let s := (withOp (fun _ => rtOp) State.reset).modCasc 0 fun g => { g with gangs := [gang0] }
     (s.casc 0).gangs = [gang0] ∧ (s.casc 0).hold = false ∧ coIssueOk s 0 gang0.disp gang0.disp.cur true = true ∧
       conflicts s 0 gang0.disp gang0.disp.cur = [] ∧ resumesFirst s 0 gang0.disp = false ∧ ((s.op gang0.op).bind (pairOf s)).isNone = true ∧
       bankChoice s 0 0 gang0.disp.cls.toNat = some 0 ∧ (s.ctx 0).bank = .empty ∧
       (s.op gang0.op).isSome = true ∧ pairGang s gang0 = none ∧ gang0.disp.tcnt = 0) ∧
    (let s := (withOp id State.reset).modCasc 0 fun g => { g with tasks := [task0 true] }
     (refill 64 (s.casc (cascOf 0))).tasks = [task0 true] ∧ bankIdle s 0 = true ∧ (s.casc (cascOf 0)).hold = false ∧
       s.op 1 = some op0 ∧ taskFits s 0 op0.disp 0 = true ∧ op0.disp.tcnt = 0) ∧
    (let q := { task0 true with fb := true }
     let o := { op0 with fbDisp := some { disp0 with args := 0x3000 } }
     let s := (withOp (fun _ => o) State.reset).modCasc 0 fun g => { g with tasks := [q] }
     (refill 64 (s.casc (cascOf 0))).tasks = [q] ∧ s.op q.op = some o ∧
       taskFits s 0 { disp0 with args := 0x3000 } q.cur = true) := by
  refine ⟨?_, ?_, ?_, ?_⟩ <;> decide +kernel

theorem witness_WritesReachTheirHomes :
    (let s := w0.modHalf 0 fun h => { h with weir := [weir0 true] }
     s.memOk ∧ (s.half 0).weir[0]? = some (weir0 true) ∧ drainReady s [] (weir0 true) = true) ∧
    (let p : Posted := ⟨line0 (sliceKey 1 0), 0, 1, 0, none⟩
     let s := oneCtx fun x => { x with sync := { x.sync with posted := [p] } }
     s.memOk ∧ (s.ctx 0).sync.posted[0]? = some p ∧ homeShut s p.w.line = false) := by
  unfold State.memOk; decide +kernel

/-- A reduction that adds 1 to a word. -/
def red0 : RedReq := ⟨none, 0, false, false, [(sliceKey 0 0, 1)], 0, true, 1⟩

/-- A retired effect. -/
def effect0 (d : Deferred) : DeferredRec := ⟨d, 0, .s, own, 64, false, 4, true, 2, none, none⟩

/-- A context with an effect that is due. -/
def owing (d : Deferred) (x : Ctx) : Ctx := { x with sync := { x.sync with deferred := [effect0 d] } }

/-- The effect of a context that owes one can take place. -/
def effectDue (s : State) (d : Deferred) : Prop :=
  s.memOk ∧ (s.ctx 0).sync.deferred[0]? = some (effect0 d) ∧ effectBefore s 0 .s 2 = false ∧
    unacked s 0 2 false own 64 = false ∧ effectReach s d = true

theorem witness_EffectsTakePlace :
    (let s := oneCtx fun x => { x with sync := { x.sync with red := [red0] } }
     ((s.ctx 0).sync.red.find? fun r => r.committed) = some red0 ∧ effectBefore s 0 .s red0.seq = false ∧
       writesBefore s 0 red0 = false ∧ (red0.items.all fun i => !homeShut s i.1) = true ∧ red0.op ≠ 10) ∧
    (let r := { red0 with op := 10 }
     let s := oneCtx fun x => { x with sync := { x.sync with red := [r] } }
     ((s.ctx 0).sync.red.find? fun r => r.committed) = some r ∧ effectBefore s 0 .s r.seq = false ∧
       writesBefore s 0 r = false ∧ r.det = false ∧ r.wide = false ∧ r.items = [(sliceKey 0 0, 1)]) ∧
    (let s := (withRecord [1, 0, 0, 2 ^ 63] 0).modCtx 0 (owing (.rel (sliceKey 0 0) 0))
     effectDue s (.rel (sliceKey 0 0) 0) ∧ memWord s.mem (sliceKey 0 0 + 0x18) = lockWord 0 0) ∧
    (let s := (ringOf 3 2 1 0).modCtx 0 (owing (.ringpub (sliceKey 0 0) 2))
     effectDue s (.ringpub (sliceKey 0 0) 2) ∧ memWord s.mem (sliceKey 0 0 + 0x20) = BitVec.ofNat 64 2) ∧
    (let s := (ringOf 3 2 1 0).modCtx 0 (owing (.ringfree (sliceKey 0 0) 0))
     effectDue s (.ringfree (sliceKey 0 0) 0) ∧ memWord s.mem (sliceKey 0 0 + 0x30) = BitVec.ofNat 64 0) ∧
    (let s := (withRecord [] 0).modCtx 0 (owing (.setw (sliceKey 0 0) 9))
     effectDue s (.setw (sliceKey 0 0) 9)) ∧
    (let s := (withRecord [4, 0, 0, 7] 0).modCtx 0 (owing (.tlsig (sliceKey 0 0) 9))
     effectDue s (.tlsig (sliceKey 0 0) 9) ∧ (memWord s.mem (sliceKey 0 0 + 0x20)).getLsbD 63 = false) ∧
    (let s := (withRecord [4, 0, 0, 7, 2 ^ 63 + 5] 0).modCtx 0 (owing (.tlsig (sliceKey 0 0) 9))
     effectDue s (.tlsig (sliceKey 0 0) 9) ∧ (memWord s.mem (sliceKey 0 0 + 0x20)).getLsbD 63 = true ∧
       queueNamed (memWord s.mem (sliceKey 0 0 + 0x20)) = 5 ∧ queueShut s 5 = false) ∧
    (let d := Deferred.tjoin (sliceKey 0 0) 1 0 false
     let s := (withRecord [5, 0, 0, 2] 0).modCtx 0 (owing d)
     effectDue s d ∧ memWord s.mem (sliceKey 0 0 + 0x18) ≠ 1) ∧
    (let d := Deferred.tjoin (sliceKey 0 0) 1 0 false
     let s := (withOp id (withRecord [5, 0, 0, 1, 0x7F10_0000_0100] 0)).modCtx 0 (owing d)
     effectDue s d ∧ memWord s.mem (sliceKey 0 0 + 0x18) = 1 ∧ postRoomAt (cascOf 0) s = true ∧ (s.op 1).isSome = true ∧
       (gotOf (postRecord ⟨1, false, 0x7F10_0000_0100, 0, 0⟩ (withWords (sliceKey 0 0 + 0x18) [0] s)).2).isSome = true) ∧
    (let d := Deferred.tjoin (sliceKey 0 0) 1 0 false
     let s := (withRecord [5, 0, 0, 1] 0).modCtx 0 (owing d)
     let u := s.modCasc 0 fun g => { g with tasks := List.replicate 64 (task0 true) }
     effectDue u d ∧ memWord u.mem (sliceKey 0 0 + 0x18) = 1 ∧ postRoomAt (cascOf 0) u = false) ∧
    (let s := ((oneCtx (owing .tpost))).modCasc 0 fun g => { g with tasks := [{ task0 false with seq := 2 }] }
     effectDue s .tpost) ∧
    (let s := withOp id (oneCtx (owing (.grais 1 false 1 2)))
     effectDue s (.grais 1 false 1 2) ∧ s.op 1 = some op0) ∧
    (let p : HeldPost := ⟨1, false, 0x7F00_0000_0000, 0, 0⟩
     let s := (withOp id (withRecord [0x1000] 0)).modCasc 0 fun g => { g with held := [p] }
     (s.casc 0).held = [p] ∧ postRoomAt 0 s = true ∧ cascOf p.by_ = 0 ∧ (s.op p.op).isSome = true ∧
       (gotOf (postRecord p (s.modCasc 0 fun x => { x with held := [] })).2).isSome = true) := by
  unfold effectDue State.memOk
  refine ⟨?_, ?_, ?_, ?_, ?_, ?_, ?_, ?_, ?_, ?_, ?_, ?_, ?_, ?_⟩ <;> decide +kernel

/-- A turn of the head of a stream completes. -/
def completes : Perform → Bool
  | .done _ => true
  | _ => false

/-- The waiter of `waitw` in the L stream of context 0. -/
def waiter0 (polled : Bool) : Waiter := ⟨0, .l, sliceKey 0 0, .word, polled, 0⟩

/-- The entry of a `waitw` that waits for an operand at the own slice. -/
def waiting0 (v : Word) : QEntry :=
  { entry .l (.waitw { sy 4 6 0 with imm := 1 }) running with a := own, b := v, begun := true }

/-- A context whose `waitw` waits. -/
def waitingAt (v : Word) (polled : Bool) : State :=
  { withWords (sliceKey 0 0) [7] (oneCtx fun x => { x with q := x.q.set .l [waiting0 v] }) with waiters := [waiter0 polled] }

theorem witness_WaitersGoOn :
    (∀ b, let s := waitingAt 7 b
      (s.ctx 0).q.get .l = [waiting0 7] ∧ canRun s 0 = true ∧ (waiting0 7).begun = true ∧
        (∃ st tok perf, headOf true (waiting0 7).instr = some (st, tok, perf) ∧
          completes (attempt .l tok perf 0 (waiting0 7) s) = true) ∧
        (s.waiters.filter fun v => v.key == sliceKey 0 0) = [waiter0 b] ∧ waiterOf s 0 .l = some (waiter0 b) ∧
        (waiter0 b).stream = .l ∧ (waiter0 b).polled = b) ∧
    (let s := (waitingAt 8 false).modDev fun d => { d with time := 1000 }
     canRun s 0 = true ∧ waiterOf s 0 .l = some (waiter0 false) ∧ s.waiters = [waiter0 false] ∧
       (waiting0 8).begun = true ∧ behindFault (s.ctx 0) (waiting0 8) = false ∧
       sluiceOpen (s.ctx 0) 0 = true ∧
       let g := syncXlate 0 .l .load 8 own (actFor 0 0 s)
       gotOf g.2 = some (sliceKey 0 0) ∧ waitHolds 0 (memWord g.1.mem (sliceKey 0 0)) 8 = false ∧
         1 * 1000 ≤ (timeOf s 0).toNat - (waiter0 false).since.toNat) ∧
    64 < dramC w0 ∧
    (let e := { entry .l (.lds { mm .n32 5 with sb := 0 }) running with a := 0x1000 }
     let s := (oneCtx fun x =>
       { x with heap := ⟨0, 0x10_0000, 0x0800_0000_0000⟩, q := x.q.set .l [e] }).modDev fun d =>
         { d with boot := { d.boot with outbase := 0 } }
     canRun s 0 = true ∧ (s.ctx 0).q.parked = [] ∧ (s.ctx 0).reads = [] ∧ e.sample = none ∧ (s.ctx 0).q.l = [e] ∧ behindFault (s.ctx 0) e = false ∧
       sluiceOpen (s.ctx 0) 0 = true ∧ tySigned .n32 = false ∧
       (gotOf (xlateList 0 .load 4 [(0, 0x1000)] (actFor 0 0 { s with lostRead := true })).2).map
         (·.map fun k => (k.1, isHost k.2)) = some [(0, true)]) := by
  refine ⟨?_, ?_, ?_, ?_⟩
  · intro b
    refine ⟨?_, ?_, ?_, ⟨_, _, _, rfl, ?_⟩, ?_, ?_, rfl, rfl⟩ <;> cases b <;> decide +kernel
  all_goals decide +kernel

/-! ## The host and the device -/

/-- The part of which function 0 is the owner. -/
def owned (s : State) : State := s.modDev fun d => { d with owner := { d.owner with v := true } }

/-- A register write of function 0. -/
def bar (v : Word) : RegWrite := ⟨.fn0, v⟩

theorem witness_Ownership :
    (State.reset.dev.owner.v = false ∧ (owned State.reset).dev.owner.v = true ∧ (owned State.reset).dev.owner.own = 0) ∧
    (let o := { (owned State.reset).dev.owner with ho := true, target := 1, hoFrom := 0 }
     let s := State.reset.modDev fun d => { d with owner := o, time := 99999999 }
     s.dev.owner.v = true ∧ s.dev.owner.ho = true ∧ (s.dev.time - s.dev.owner.hoFrom).toNat < 100000000 ∧
       s.dev.owner.target = 1) ∧
    (let o := { (owned State.reset).dev.owner with ho := true, target := 1, hoFrom := 0 }
     let s := State.reset.modDev fun d => { d with owner := o, time := 100000000 }
     s.dev.owner.ho = true ∧ ¬ (s.dev.time - s.dev.owner.hoFrom).toNat < 100000000 ∧
       2 ^ s.dev.owner.hbto.toNat * 1000000 ≤ (s.dev.time - s.dev.owner.beat).toNat) ∧
    (let o := { (owned State.reset).dev.owner with own := 1, claimAt := some 0 }
     let s := State.reset.modDev fun d => { d with owner := o }
     s.dev.owner.v = true ∧ s.dev.owner.claimAt = some s.dev.time) ∧
    ((0x230#64).getLsbD 8 = false ∧ (0x230#64).getLsbD 3 = false ∧ (0x230#64).getLsbD 9 = true) ∧
    (owns State.reset .fn0 = false ∧ owns (owned State.reset) (bar 0).master = true) ∧
    ((∀ q : QueueId, ((owned State.reset).queue q).en = false) ∧ ((owned State.reset).turnout 63).en = false ∧
      (bar (2 ^ 63)).value.getLsbD 63 = true) ∧
    ((owned State.reset).memOk ∧ ((owned State.reset).mem.all fun b => decide (b.1 < dramC (owned State.reset))) = true) ∧
    (let s := (owned State.reset).modQueue 0 fun x => { x with en := true }
     (s.queue 0).en = true) ∧
    (let s := { owned State.reset with turnouts := State.reset.turnouts.set 0 { Turnout.reset with en := true } }
     (s.turnout 0).en = true) := by
  unfold State.memOk; decide +kernel

/-- A turnout of two slots of 64 KiB at 1 MiB of the aperture, its frame end in the first dword and its record at
200000H of main memory. -/
def turnout0 : Turnout :=
  { Turnout.reset with
    en := true, slsz := 1, lgn := 1, wbase := 1, pbase := 0x10, recAddr := 0x8000 }

/-- The part with that turnout and its record. -/
def turning : State :=
  withWords 0x20_0000 [0x122, 0x10_0000, 0x2_0000]
    { State.reset with turnouts := State.reset.turnouts.set 5 turnout0 }

theorem witness_HostAccesses :
    (State.reset.memOk ∧ turnoutAt State.reset 0x100 = none ∧ 0x100 + 1 ≤ barSize State.reset ∧
      0x100 + 1 ≤ dramC State.reset) ∧
    (let s := turning
     let r := objRead s.mem 0x20_0000
     s.memOk ∧ turnoutAt s 0x10_0100 = some 5 ∧ turnoutWaits s 5 = false ∧ 0x100 + 4 ≤ turnout0.size ∧
       turnoutRec s turnout0 = some 0x20_0000 ∧ r.hdr.toNat % 16 = 2 ∧ r.lgn = turnout0.lgn.toNat ∧
       ((slotsOf turnout0 0x100 4).all fun j => !slotHeld turnout0 r j) = true ∧
       ((slotsOf turnout0 0x100 4).all fun j => !touches8 0x100 4 (frameEnd turnout0 j)) = true) ∧
    (let s := turning
     let r := objRead s.mem 0x20_0000
     turnoutAt s 0x10_0000 = some 5 ∧ slotsOf turnout0 0 8 = [0] ∧ slotHeld turnout0 r 0 = false ∧
       covers8 0 8 (frameEnd turnout0 0) = true ∧ turnout0.pending = [] ∧ 1 < turnout0.slots ∧
       r.w1.toNat % turnout0.slots = 0 ∧ turnout0.buffer + 0 + 8 ≤ 0x20_0000) := by
  unfold State.memOk; decide +kernel

/-! ## Packets -/

/-- A packet of eight dwords. -/
def packet (l : List Nat) : Vector Word 8 := (Vector.range 8).map fun i => BitVec.ofNat 64 (l[i]?.getD 0)

/-- A packet that has been taken. -/
def pkt0 (l : List Nat) : Pkt :=
  { index := 0, words := packet l, begun := false, tlq := none, waitFrom := 0, readAt := 0, delay := 0, op := none
    graph := none }

/-- The part in phase 5 with queue 0 enabled, and the packets that it has taken. -/
def serving (ps : List Pkt) : State :=
  { State.reset with
    queues := State.reset.queues.set 0
      { Queue.reset with en := true, priv := true, st := .active, lgsz := 4, base := 0x40000, wi := 1, rd := 1, pkts := ps } }

/-- A packet as it is open. -/
def begun (p : Pkt) : Pkt := { p with begun := true }

/-- The value of an access of a command processor that succeeds. -/
def cpOk {α : Type} : CpGot α → Option α
  | .ok v => some v
  | _ => none

/-- The address of slice 0. -/
def slice0 : Nat := 0x7F00_0000_0000

theorem witness_PacketsFetched :
    ((State.reset.half 0).cpQuiet = false ∧ heldQueue (serving []) 0 = false ∧ (serving []).dev.stopped = false ∧
      ((0#32 - ((serving []).queue 0).wi).toInt ≤ 0) ∧ 0 < (2#32 - ((serving []).queue 0).wi).toInt ∧
      (17#32 - ((serving []).queue 0).rd).toNat ≤ 2 ^ 4 ∧ 2 ^ 4 < (18#32 - ((serving []).queue 0).rd).toNat ∧
      ((serving []).queue 0).st = .active) ∧
    (((serving []).modHalf 0 fun h => { h with cpQuiet := true }).half ((serving []).queue 0).home).cpQuiet = true ∧
    heldQueue (((serving []).modQueue 0 fun x => { x with adopted := true }).modDev fun d => { d with fo := { d.fo with phase := 1 } }) 0 = true ∧
    (∀ v ∈ [0x700, 0x701, 0x801, 0x2001, 0x2401, 0x1F01],
      let s := withWords 0x40040 [v] ((serving []).modQueue 0 fun x => { x with wi := 2 })
      s.memOk ∧ mayFetch s 0 = true ∧ s.lostRead = false ∧ ringPlaceOk s (pktPa (s.queue 0)) 64 = true ∧
        pktPa (s.queue 0) = 0x40040 ∧ (v ≠ 0x700 → nextQueue s 0 = some 0)) ∧
    (let s := (serving []).modQueue 0 fun x => { x with wi := 2, priv := false }
     mayFetch s 0 = true ∧ (s.queue 0).priv = false) ∧
    (let s := (serving []).modQueue 0 fun x => { x with wi := 2, base := 0x0400_0000_0000 }
     mayFetch s 0 = true ∧ ringPlaceOk s (pktPa (s.queue 0)) 64 = false ∧ nextQueue s (s.queue 0).home = some 0) ∧
    (let p := pkt0 [0x301, 5]
     beginning (serving [p]) 0 3 = some p ∧ queueDrained (serving [p]) 0 = true ∧ noQuiet (serving [p])) ∧
    (let p := pkt0 [0x601, slice0, 7, 1]
     beginning (serving [p]) 0 6 = some p ∧ p.words[1].toNat % 8 = 0 ∧
       (gotOf (partXlate 0 none 0 true p.words[1] (serving [p])).2).isSome = true) ∧
    (∀ n ∈ [0, 5, 6], let p := pkt0 [0x701, n]
      beginning (serving [p]) 0 7 = some p ∧ queueDrained (serving [p]) 0 = true ∧ p.words[1].toNat % 8 = n) := by
  unfold State.memOk noQuiet; decide +kernel

/-- A launch record at slice 0 and its loop table of one level of two items behind it, with an entry of 1000H. -/
def recorded (kind : Nat) (s : State) : State :=
  withWords (sliceKey 0 0) [kind, 0, 0x1000, slice0 + 0x100] (withWords (sliceKey 0 0x100) [1, 2 ^ 32 + 2] s)

theorem witness_PacketsLaunch :
    (let p := pkt0 [0x101, slice0 + 8]
     beginning (serving [p]) 0 1 = some p ∧ p.words[1].toNat % 128 ≠ 0) ∧
    (let p := pkt0 [0x101, slice0]
     let s := recorded 0xFFFF_0001 (serving [p])
     let r := cpRead 0 p.words[1] 128 s
     beginning s 0 1 = some p ∧ p.words[1].toNat % 128 = 0 ∧ s.op (s.opCount + 1) = none ∧
       (cpOk r.2).map (fun n =>
         let m := cpRead 0 (dwords 16 n)[3] 64 r.1
         let l : Levels := ⟨[2], [1]⟩
         let a : LaunchArgs := ⟨0, p.index, p.words[1], p.words[2], p.words[3], false, 0, p.words[0].extractLsb' 32 32⟩
         let o := newOperator m.1 a (dwords 16 n) none l
         (recordOk s (dwords 16 n), recBit (dwords 16 n) 5, (cpOk m.2).map fun k => loopLevels (dwords 8 k),
           needsFenced m.1 o, eligibleOk m.1 o)) = some (true, false, some (some ⟨[2], [1]⟩), false, true)) ∧
    (let p := pkt0 [0x101, slice0]
     let s := recorded 2 (serving [p])
     (cpOk (cpRead 0 p.words[1] 128 s).2).map (fun n => recordOk s (dwords 16 n)) = some false) ∧
    (∀ k ∈ [0, 1, 7, 8], let p := pkt0 [0x201, slice0, 0]
      let s := recorded k (serving [p])
      let g : GraphSt := ⟨p.words[1], p.words[1], none, 2 ^ 32, [], [], none⟩
      let s1 := beginPkt 0 p.index (modPkt 0 p.index (fun r => { r with graph := some g }) s)
      (unreadGraph s 0).isNone = true ∧ beginning s 0 2 = some p ∧
        (cpOk (cpRead 0 p.words[1] 128 s1).2).map (fun n => (dwords 16 n)[0].toNat % 16) = some k) ∧
    (let p := begun { pkt0 [0x101] with op := some 1 }
     let o := { op0 with pending := [] }
     let s := withOp (fun _ => o) (serving [p])
     s.op 1 = some o ∧ o.state = .running ∧ opServed s o = true ∧ opIdle s o = true ∧ opSettled s 1 = true ∧
       (s.queue o.queue).pkts.find? (fun r => r.index == o.pkt) = some p ∧ p.graph = none ∧ (s.queue o.queue).st = .active) ∧
    (let v : Vector Word 16 := (Vector.replicate 16 0).set 1 (BitVec.ofNat 64 slice0)
     let g : GraphSt := ⟨0, 0, some v, 1, [], [], some 1⟩
     let p := begun { pkt0 [0x201] with graph := some g }
     let o := { op0 with pending := [], inGraph := true }
     let s := recorded 1 (withOp (fun _ => o) (serving [p]))
     s.op 1 = some o ∧ opServed s o = true ∧ opIdle s o = true ∧ opSettled s 1 = true ∧
       (s.queue o.queue).pkts.find? (fun r => r.index == o.pkt) = some p ∧ 0 < g.budget ∧
       (cpOk (cpRead 0 v[1] 128 { s with ops := [] }).2).map (fun n => (dwords 16 n)[0].toNat % 16) = some 1) ∧
    (let g : GraphSt := ⟨0, 0, none, 1, [], [1], some 2⟩
     let p := begun { pkt0 [0x201] with graph := some g }
     let o := { op0 with pending := [], inGraph := true, disp := { disp0 with cls := 0 } }
     let s := (withOp (fun _ => o) (serving [p])).modDev fun d => { d with time := 1 }
     opServed s o = true ∧ opIdle s o = true ∧ opSettled s 1 = true ∧ g.waitOp ≠ some 1 ∧
       0 < (halfTime s o.half - o.deadline).toInt) := by
  refine ⟨?_, ?_, ?_, ?_, ?_, ?_, ?_⟩ <;> decide +kernel

theorem witness_PacketsWait :
    (∀ n ∈ [0, 1], let p := pkt0 [0x401, 2 ^ 63 + 1, n]
      p.words[1].getLsbD 63 = true ∧ beginning (serving [p]) 0 4 = some p ∧ queueNamed p.words[1] = 1 ∧
        (0 ≤ (((serving [p]).queue 1).tl - p.words[2]).toInt ↔ n = 0) ∧ ((serving [p]).queue 1).st ≠ .error) ∧
    (let p := begun (pkt0 [0x401, 2 ^ 63 + 1, 1])
     let s := (serving [p]).modQueue 1 fun x => { x with st := .error }
     beginning s 0 4 = none ∧ openPkt s 0 4 = some p ∧ (s.queue 1).st = .error) ∧
    (∀ n ∈ [0, 1], let p := pkt0 [0x501, slice0, n, 0xFF, 4]
      let s := serving [p]
      p.words[4].toNat % 8 = 4 ∧ beginning s 0 5 = some p ∧ p.delay = 0 ∧
        (cpOk (cpRead 0 p.words[1] 8 (startWait 0 p.index s)).2).map (fun v =>
          waitHolds 4 (BitVec.ofNat 64 v &&& p.words[3]) (p.words[2] &&& p.words[3])) = some (n == 0)) ∧
    (∀ n ∈ [0, 1], let p := { begun (pkt0 [0x501, slice0, n, 0xFF, 0]) with delay := 250, waitFrom := 0, readAt := 0 }
      let s := (serving [p]).modDev fun d => { d with time := 250 }
      openPkt s 0 5 = some p ∧ p.delay ≤ (cpTime s 0 - p.readAt).toNat ∧
        (cpOk (cpRead 0 p.words[1] 8 s).2).map (fun v =>
          waitHolds 0 (BitVec.ofNat 64 v &&& p.words[3]) (p.words[2] &&& p.words[3])) = some (n == 0)) ∧
    (∀ n ∈ [999, 1000], let p := { begun (pkt0 [0x501, slice0, 1, 0xFF, 2 ^ 32]) with delay := 250 }
      let s := (serving [p]).modDev fun d => { d with time := BitVec.ofNat 64 n }
      openPkt s 0 5 = some p ∧ p.words[4].toNat / 2 ^ 32 = 1 ∧ (1000 ≤ (cpTime s 0 - p.waitFrom).toNat ↔ n = 1000)) ∧
    (let p := pkt0 [0x501, slice0, 0, 0xFF, 5]
     4 < p.words[4].toNat % 8 ∧ beginning (serving [p]) 0 5 = some p) := by
  refine ⟨?_, ?_, ?_, ?_, ?_, ?_⟩ <;> decide +kernel

/-- The part with the bank of a page fault and a packet taken. -/
def answering (l : List Nat) : State :=
  ((serving [pkt0 l]).setCtx 0 { running with bank := .faulted, preq := some { preq0 with written := true } })

theorem witness_InvalidationsAndAnswers :
    (∀ h ∈ [0, 3, 4, 1, 7], let p := pkt0 [0x2001, h * 2 ^ 12]
      beginning (serving [p]) 0 0x20 = some p ∧ p.words[1].toNat / 2 ^ 12 % 8 = h) ∧
    (let p := begun (pkt0 [0x2001, 0])
     openPkt (serving [p]) 0 0x20 = some p ∧ (∀ h : HalfId, ((serving [p]).half h).weir = []) ∧
       ∀ k : CoreId, ((serving [p]).core k).active = []) ∧
    (let p := begun (pkt0 [0x2001, 0])
     let s := (serving [p]).modHalf 0 fun h => { h with weir := [{ weir0 true with used := [leaf1] }] }
     openPkt s 0 0x20 = some p ∧ s.dev.fo.fenced ≠ some 0 ∧ leaf1.gl = false ∧ leaf1.asid.toNat = p.words[1].toNat % 256) ∧
    (let s := (answering [0x2101, 0]).modCasc 0 fun g => { g with hop := true }
     (s.casc (cascOf 0)).hold = true ∧ beginning s 0 0x21 = some (pkt0 [0x2101, 0])) ∧
    (∀ f ∈ [0, 2 ^ 7], let s := answering [0x2101, f]
      let p := pkt0 [0x2101, f]
      beginning s 0 0x21 = some p ∧
        ctxIn (Fin.ofNat 64 (p.words[1].toNat % 64)) (Fin.ofNat 2 (p.words[1].toNat / 64 % 2)) = 0 ∧
        (s.casc (cascOf 0)).hold = false ∧ (s.ctx 0).id.gen.toNat = p.words[1].toNat / 2 ^ 32 ∧
        (s.ctx 0).bank = .faulted ∧ (s.ctx 0).preq = some { preq0 with written := true } ∧
        p.words[1].getLsbD 7 = decide (f = 2 ^ 7) ∧ (s.ctx 0).id.sys = false ∧ (s.ctx 0).trap.tvec ≠ 0 ∧ preq0.cause ≤ 13) ∧
    (let p := pkt0 [0x2101, 2 ^ 32]
     beginning (answering [0x2101, 2 ^ 32]) 0 0x21 = some p ∧
       ((answering [0x2101, 2 ^ 32]).ctx 0).id.gen.toNat ≠ p.words[1].toNat / 2 ^ 32) := by
  refine ⟨?_, ?_, ?_, ?_, ?_, ?_⟩ <;> decide +kernel

theorem witness_PatchesAndReports :
    (∀ n ∈ [0, 1, 64], let p := pkt0 [0x2201, n]
      beginning (serving [p]) 0 0x22 = some p ∧ (p.words[1].toNat % 64 = 0 ↔ n ≠ 1)) ∧
    (let p := begun (pkt0 [0x2201, slice0, 64])
     let s := serving [p]
     openPatch s = some (0, p) ∧ cpPresent s 0 = true ∧ cpPresent s 1 = true ∧
       allQuiet (s.modHalf 0 fun x => { x with cpQuiet := true }) = false ∧
       let s1 := (s.modHalf 0 fun x => { x with cpQuiet := true }).modHalf 1 fun x => { x with cpQuiet := true }
       allQuiet s1 = true ∧ (∀ k : HalfId, (s.half k).cpLatched = [] ∧ (s.half k).due = false ∧ (s.half k).dueGo = false) ∧
         (cpOk (patchImage 0 p s1).2).map (patchOk s.dev.straps.keyHash) = some false ∧ (s.queue 0).st ≠ .draining) ∧
    (∀ keyHash l, patchNm l ≤ 64 → l.length = patchKeyAt l + 1952 + 3309 →
      keyHash = Config.shake256 (slice l (patchKeyAt l) 1952) →
      Config.mldsaVerify (slice l (patchKeyAt l) 1952) (l.take (patchKeyAt l + 1952)) (slice l (patchKeyAt l + 1952) 3309) = true →
      patchMatches l = [] → patchOk keyHash l = true) ∧
    (let p := pkt0 [0x2301, 1, 2, 3, 4, slice0]
     let s := serving [p]
     s.memOk ∧ beginning s 0 0x23 = some p ∧ p.words[5].toNat % 4096 = 0 ∧
       (gotOf (partXlate 0 none 0 true p.words[5] s).2).isSome = true) := by
  refine ⟨by decide +kernel, by decide +kernel, ?_, by unfold State.memOk; decide +kernel⟩
  intro keyHash l h1 h2 h3 h4 h5
  simp [patchOk, h1, h2, h3, h4, h5]

theorem witness_QueueControl :
    (let s := owned (serving [])
     owns s (bar 0).master = true ∧ (s.queue 1).en = false ∧ (bar 4).value.getLsbD 63 = false ∧
       (bar (2 ^ 63 + 4)).value.getLsbD 63 = true ∧ 4 ≤ (bar (2 ^ 63 + 4)).value.toNat % 32 ∧
       (s.modDev fun d => { d with boot := { d.boot with phase := 5 } }).dev.boot.phase = 5 ∧ s.dev.boot.phase ≠ 5 ∧
       (bar (2 ^ 63 + 16)).value.toNat % 32 ≤ 16 ∧ 16 < (bar (2 ^ 63 + 17)).value.toNat % 32) ∧
    (∀ op ∈ [0, 1, 2, 3], let p := pkt0 [0x2401, 1 + 256 * op]
      beginning (serving [p]) 0 0x24 = some p ∧ p.words[1].toNat % 64 = (1 : QueueId).val ∧
        p.words[1].toNat / 256 % 4 = op ∧ ((serving [p]).queue 1).en = false) ∧
    (let s := ((serving [pkt0 [0x2401, 1 + 256]]).modQueue 1 fun x => { x with lgsz := 4 }).modDev fun d =>
       { d with boot := { d.boot with phase := 5 } }
     4 ≤ (s.queue 1).lgsz.toNat ∧ (s.queue 1).lgsz.toNat ≤ 16 ∧ s.dev.boot.phase = 5 ∧ (s.queue 1).en = false ∧
       beginning s 0 0x24 = some (pkt0 [0x2401, 1 + 256])) ∧
    (∀ st ∈ [QState.error, .idle], let s := (serving [pkt0 [0x2401, 1 + 512]]).modQueue 1 fun x => { x with en := true, st := st }
      (s.queue 1).en = true ∧ (s.queue 1).st = st ∧ queueOps s 1 = [] ∧
        beginning s 0 0x24 = some (pkt0 [0x2401, 1 + 512])) ∧
    (let s := withOp (fun o => { o with queue := 1 }) ((serving []).modQueue 1 fun x => { x with en := true, st := .active })
     queueOps s 1 ≠ [] ∧ (s.queue 1).st ≠ .error) ∧
    ((((serving []).modQueue 1 fun x => { x with st := .draining }).queue 1).st = .draining) ∧
    (let s := (serving [pkt0 [0x2401, 1 + 768]]).modQueue 1 fun x => { x with en := true, st := .error }
     (s.queue 1).en = true ∧ (s.queue 1).st = .error ∧ beginning s 0 0x24 = some (pkt0 [0x2401, 1 + 768])) := by
  refine ⟨?_, ?_, ?_, ?_, ?_, ?_, ?_⟩ <;> decide +kernel

/-- Sixteen dwords of a card. -/
def card (l : List Nat) : Vector Word 16 := (Vector.range 16).map fun i => BitVec.ofNat 64 (l[i]?.getD 0)

/-- A GRAPH packet that has come to a card. -/
def atCard (l : List Nat) : Pkt :=
  { begun (pkt0 [0x201]) with
    graph := some ⟨BitVec.ofNat 64 slice0, BitVec.ofNat 64 slice0, some (card l), 9, [], [], none⟩ }

/-- The card that a packet has come to. -/
def cardFrom (l : List Nat) (p : Pkt) : Card :=
  ⟨p, ⟨BitVec.ofNat 64 slice0, BitVec.ofNat 64 slice0, some (card l), 9, [], [], none⟩, card l⟩

/-- The kind of the card that a command processor reads at an address. -/
def kindThere (s : State) (va : Word) : Option Nat :=
  (cpOk (cpRead 0 va 128 s).2).map fun n => (dwords 16 n)[0].toNat % 16

/-- The part with a graph at a card, an END card at slice 0 and 5 behind it. -/
def graphed (l : List Nat) : State :=
  withWords (sliceKey 0 0x80) [5] (withWords (sliceKey 0 0) [7] (serving [atCard l]))

/-- The first of some cards is a card. -/
def headIs (l : List Card) (c : Card) : Bool := l.head?.any fun d => d.pkt == c.pkt && d.graph == c.graph && d.words == c.words

/-- What a card's condition on its word gives. -/
def cardHolds (s : State) (c : Card) : Option Bool :=
  (cpOk (cpRead 0 c.words[3] 8 s).2).map fun n =>
    waitHolds 0 (BitVec.ofNat 64 n &&& c.words[5]) (c.words[4] &&& c.words[5])

theorem witness_CardsAct :
    (∀ k ∈ [1, 17], let l := [0xFFFF_0000 + k, slice0, 0x1000, slice0 + 0x100]
      let s := withWords (sliceKey 0 0x100) [1, 2 ^ 32 + 2] (graphed l)
      let p := atCard l
      let c := cardFrom l p
      let r := launchOp ⟨0, 0, c.graph.card, 0, 0, true, cardNumber c.graph, p.words[0].extractLsb' 32 32⟩ c.words s
      headIs (cardsAt s 0 1) c = true ∧ nopOf s 0 < 16 ∧ cpOk r.2 = some 1 ∧ 0 < c.graph.budget ∧
        kindThere (modGraph 0 0 (fun g => { g with asyncOps := g.asyncOps ++ [1] }) r.1) c.words[1] = some 7) ∧
    (∀ v ∈ [5, 6], let l := [2, slice0, slice0, slice0 + 0x80, v, 0xFF]
      let s := graphed l
      let c := cardFrom l (atCard l)
      headIs (joinedAt s 0 2) c = true ∧ cardHolds s c = some (v == 5) ∧
        kindThere (cpRead 0 c.words[3] 8 s).1 c.words[1] = some 7) ∧
    (∀ m ∈ [0, 1, 2 ^ 32], ∀ v ∈ [5, 6], let l := [3, slice0, slice0, slice0 + 0x80, v, 0xFF, m]
      let s := graphed l
      let c := cardFrom l (atCard l)
      headIs (joinedAt s 0 3) c = true ∧ loopCount c.graph c.graph.card = 0 ∧ c.graph.loops.length < 8 ∧ c.words[7] = 0 ∧
        c.words[6].getLsbD 32 = decide (m = 2 ^ 32) ∧ cardHolds s c = some (v == 5) ∧
        kindThere (modGraph 0 0 (setLoopCount c.graph.card 1) s) c.words[1] = some 7 ∧
        kindThere (modGraph 0 0 (setLoopCount c.graph.card 0) s) c.words[2] = some 7) ∧
    (let l := [3, slice0, slice0, slice0 + 0x80, 6, 0xFF, 1, slice0 + 0x88]
     let s := graphed l
     let c := cardFrom l (atCard l)
     headIs (joinedAt s 0 3) c = true ∧ cardHolds s c = some false ∧ c.words[7] ≠ 0 ∧ c.words[7].toNat % 8 = 0 ∧
       let g := partXlate (s.queue 0).home none (s.queue 0).asid true c.words[7] s
       gotOf g.2 = some (sliceKey 0 0x88) ∧
         kindThere (cpRelease 0 (sliceKey 0 0x88) 4 { g.1 with mem := memPutNat g.1.mem (sliceKey 0 0x88) 8 0 })
           c.words[2] = some 7) ∧
    (let l := [4, slice0, 2 ^ 63 + 1, 9]
     let s := graphed l
     let c := cardFrom l (atCard l)
     headIs (joinedAt s 0 4) c = true ∧ queueDrained s 0 = true ∧ c.words[2].getLsbD 63 = true ∧
       queueNamed c.words[2] = 1 ∧ queueShut s 1 = false ∧ kindThere (tlRaise 0 (.queue 1) c.words[3] s) c.words[1] = some 7) ∧
    (let l := [4, slice0, slice0 + 0x100, 9]
     let s := withWords (sliceKey 0 0x100) [4, 0, 0, 7, 0] (graphed l)
     let c := cardFrom l (atCard l)
     headIs (joinedAt s 0 4) c = true ∧ queueDrained s 0 = true ∧ c.words[2].getLsbD 63 = false ∧
       cpOk (tlTarget 0 c.words[2] s).2 = some (.record (sliceKey 0 0x100)) ∧
       (memWord s.mem (sliceKey 0 0x100 + 0x20)).getLsbD 63 = false ∧
       kindThere (tlRaise 0 (.record (sliceKey 0 0x100)) c.words[3] s) c.words[1] = some 7) ∧
    (let l := [5, slice0, 2 ^ 63 + 1, 0]
     let s := graphed l
     let c := cardFrom l (atCard l)
     headIs (cardsAt s 0 5) c = true ∧ c.words[0].getLsbD 4 = false ∧ c.words[2].getLsbD 63 = true ∧
       0 ≤ ((s.queue 1).tl - c.words[3]).toInt ∧ c.pkt.delay = 0 ∧
       kindThere (modPkt 0 0 (fun p => { p with waitFrom := cpTime s 0 }) s) c.words[1] = some 7) ∧
    (∀ d ∈ [0, 250], ∀ v ∈ [5, 6], let l := [5 + 16, slice0, slice0 + 0x80, v, 0xFF]
      let p := { atCard l with delay := d }
      let s := (withWords (sliceKey 0 0x80) [5] (withWords (sliceKey 0 0) [7] (serving [p]))).modDev fun e =>
        { e with time := 250 }
      let c := cardFrom l p
      headIs (cardsAt s 0 5) c = true ∧ c.words[0].getLsbD 4 = true ∧ c.words[0].toNat / 32 % 8 = 0 ∧
        p.delay ≤ (cpTime s 0 - p.readAt).toNat ∧
        (cpOk (cpRead 0 c.words[2] 8 s).2).map (fun n =>
          waitHolds 0 (BitVec.ofNat 64 n &&& c.words[4]) (c.words[3] &&& c.words[4])) = some (v == 5) ∧
        kindThere s c.words[1] = some 7) ∧
    (let l := [5 + 16, slice0, slice0 + 0x80, 5, 0xFF]
     let p := { atCard l with delay := 250 }
     let s := (serving [p]).modDev fun e => { e with time := 249 }
     headIs (cardsAt s 0 5) (cardFrom l p) = true ∧ (cardsAt s 0 5).length = 1 ∧
       (cpTime s 0 - p.readAt).toNat < p.delay) ∧
    (∀ t ∈ [999, 1000], let l := [5, slice0, 2 ^ 63 + 1, 1, 0, 2 ^ 32]
      let p := { atCard l with delay := 250 }
      let s := (serving [p]).modDev fun d => { d with time := BitVec.ofNat 64 t }
      headIs (cardsAt s 0 5) (cardFrom l p) = true ∧ (cardsAt s 0 5).length = 1 ∧ p.delay ≠ 0 ∧
        (1000 ≤ (cpTime s 0 - p.waitFrom).toNat ↔ t = 1000)) ∧
    (∀ k ∈ [6, 7], let l := [k, slice0]
      let s := graphed l
      let c := cardFrom l (atCard l)
      headIs (joinedAt s 0 k) c = true ∧ kindThere s c.words[1] = some 7) := by
  refine ⟨?_, ?_, ?_, ?_, ?_, ?_, ?_, ?_, ?_, ?_, ?_⟩ <;> decide +kernel

/-! ## Starts, failover and power -/

/-- The part at a phase of its measured start. -/
def starting (n : BitVec 3) (bad : Bool) : State :=
  modBoot (fun b => { b with phase := n, bad := bad }) (owned State.reset)

theorem witness_StartsAndResets :
    ((owns (owned State.reset) (bar 1).master = true ∧ (bar 1).value.getLsbD 0 = true ∧ (bar 0).value.getLsbD 0 = false) ∧
      State.reset.memOk ∧ State.reset.dev.straps.dualh = true) ∧
    (∀ n ∈ [2, 6], (starting n false).dev.boot.phase = n) ∧
    (owned State.reset).dev.boot.phase = 0 ∧
    (∀ n ∈ [3, 4], (starting n true).dev.boot.phase = n ∧ (starting n true).dev.boot.bad = true) ∧
    (let s := (starting 3 false).modDev fun d => { d with time := d.time + 1 }
     s.dev.boot.phase = 3 ∧ s.dev.boot.bad = false ∧ verifyPackage s 0 0 = some 1) ∧
    (∀ s pa n, let f := packageField s pa
      let pk := packageBytes s pa (f 4 4 - 5261) 1952
      ¬(f 0 4 ≠ 0x50525142 ∨ 4096 * n < f 4 4 ∨ f 4 4 < 0x100 + 5261 ∨
        !((packageBytes s pa 0x48 0xB8).all fun b => b == 0) ∨
        !imageIn (f 0x28 8) (f 0x30 8) (f 4 4) ∨ !imageIn (f 0x38 8) (f 0x40 8) (f 4 4)) →
      Config.shake256 pk = s.dev.straps.keyHash →
      Config.mldsaVerify pk (packageBytes s pa 0 (f 4 4 - 3309)) (packageBytes s pa (f 4 4 - 3309) 3309) = true →
      patchOk s.dev.straps.keyHash (packageBytes s pa (f 0x28 8) (f 0x30 8)) = true → verifyPackage s pa n = none) ∧
    ((starting 4 false).dev.boot.phase = 4 ∧ (starting 4 false).dev.boot.bad = false) ∧
    (∀ n ∈ [1, 2, 5, 6, 7], (starting n false).dev.boot.phase ≠ 0 ∧ (starting n false).dev.boot.phase ≠ 3 ∧
      (starting n false).dev.boot.phase ≠ 4) ∧
    ((bar 0x100).value.getLsbD 8 = true ∧ (bar 3).value.getLsbD 8 = false) := by
  unfold State.memOk
  refine ⟨?_, ?_, ?_, ?_, ?_, ?_, ?_, ?_, ?_⟩
  case refine_6 =>
    intro s pa n f pk h1 h2 h3 h4
    unfold verifyPackage
    simp only [f, pk] at h1 h2 h3 h4
    rw [if_neg h1]
    simp [h2, h3, h4]
  all_goals decide +kernel

/-- The part at a phase of an adoption of half 1. -/
def atPhase (n : BitVec 3) : State :=
  State.reset.modDev fun d => { d with fo := { d.fo with phase := n, src := 1 } }

theorem witness_Failover :
    (let s := State.reset
     s.dev.stopped = false ∧ anyQuiet s = false ∧ retiredCount s 1 ≤ 8 ∧ s.dev.fo.foen = true ∧
       canAdopt (s.modHalf 1 fun h => { h with cpFatal := true }) 1 = true ∧
       (∀ k, (s.core k).active = [])) ∧
    (let s := State.reset.modHalf 0 fun h => { h with struck := true }
     s.dev.fo.foen = true ∧ anyQuiet s = false ∧ canAdopt (s.modHalf 1 fun h => { h with cpFatal := true }) 1 = false) ∧
    (let s := atPhase 1
     anyQuiet s = false ∧ s.dev.fo.foen = true ∧ s.dev.fo.phase.toNat ≠ 0 ∧ s.dev.fo.phase.toNat ≠ 6 ∧ s.dev.fo.src = 1 ∧
       s.dev.fo.src ≠ 0 ∧ canAdopt (s.modHalf 0 fun h => { h with cpFatal := true }) 0 = false) ∧
    (let s := atPhase 6
     s.dev.fo.phase.toNat = 6 ∧ canAdopt s 0 = false) ∧
    anyQuiet (State.reset.modHalf 0 fun h => { h with cpQuiet := true }) = true ∧
    (State.reset.modDev fun d => { d with fo := { d.fo with foen := false } }).dev.fo.foen = false ∧
    (owns (owned State.reset) (bar 3).master = true ∧ (bar 3).value.getLsbD 0 = true ∧ (bar 3).value.getLsbD 1 = true ∧
      canAdopt (owned State.reset) 1 = true ∧ (bar 2).value.getLsbD 0 = false ∧
      canAdopt ((owned State.reset).modHalf 0 fun h => { h with struck := true }) 1 = false) ∧
    (∀ n ∈ [1, 2, 3, 4, 5], (atPhase (BitVec.ofNat 3 n)).dev.fo.phase.toNat = n ∧
      (atPhase (BitVec.ofNat 3 n)).dev.stopped = false ∧ anyQuiet (atPhase (BitVec.ofNat 3 n)) = false ∧
      (atPhase (BitVec.ofNat 3 n)).dev.fo.lost = [] ∧
      (∀ h : HalfId, ((atPhase (BitVec.ofNat 3 n)).half h).cpLatched = [] ∧ ((atPhase (BitVec.ofNat 3 n)).half h).fo = false)) ∧
    (let s := (withOp id (atPhase 4)).modDev fun d => { d with fo := { d.fo with lost := [1] } }
     s.dev.fo.phase.toNat = 4 ∧ s.dev.fo.lost = [1] ∧ s.op 1 = some op0 ∧ op0.disp.rx = false ∧
       (s.queue op0.queue).st ≠ .draining) ∧
    (let s := (atPhase 5).modHalf 1 fun h => { h with fo := true }
     s.dev.fo.phase.toNat = 5 ∧ (s.half s.dev.fo.src).fo = true) := by
  refine ⟨?_, ?_, ?_, ?_, ?_, ?_, ?_, ?_, ?_, ?_⟩ <;> decide +kernel

/-- The part with cascade 0 changed. -/
def withCasc (f : Casc → Casc) : State := State.reset.modCasc 0 f

/-- A core whose sample is due. -/
def sampling (ring : BitVec 4) (head : BitVec 16) : State :=
  (State.reset.modCore 0 fun k => { k with psamp := ⟨0, false, true⟩, sinceSample := 1024 }).modHalf 0 fun h =>
    { h with samp := ⟨0x40000, head, 16, false, ring⟩ }

theorem witness_PowerControl :
    (let s := withCasc fun g => { g with opMax := 2 }
     (s.casc 0).hold = false ∧ (s.casc 0).ramp = none ∧ (s.casc 0).opCur.toNat < (pointOf s 0).toNat) ∧
    (let s := withCasc fun g => { g with opCur := 2 }
     (s.casc 0).hold = false ∧ (pointOf s 0).toNat < (s.casc 0).opCur.toNat) ∧
    (let s := withCasc fun g => { g with opCur := 2, ramp := some 1 }
     (s.casc 0).hold = false ∧ (s.casc 0).ramp = some 1 ∧ (1 : Nat) < (s.casc 0).opCur.toNat ∧ (pointOf s 0).toNat ≤ 1) ∧
    (let s := withCasc fun g => { g with opCur := 1, ramp := some 2 }
     (s.casc 0).opCur.toNat ≤ (2#2).toNat) ∧
    ((withCasc fun g => { g with hop := true }).casc 0).hold = true ∧
    (let s := withCasc fun g => { g with hop := true, latched := [.preempt 0] }
     (s.casc 0).droop < 100 ∧ (s.casc 0).latched = [.preempt 0] ∧ cascOf 0 = 0 ∧ cascOfCore 0 = 0) ∧
    (let s := (withCasc fun g => { g with over_ := g.over_.set 2 (some 0), safe := some 0, step := 3 }).modDev fun d =>
       { d with time := 1000 }
     (s.casc 0).hold = false ∧ (s.casc 0).safe = some 0 ∧ (s.casc 0).over_[2] = some 0 ∧ 1000 ≤ (s.dev.time - 0).toNat ∧
       (s.casc 0).step ≤ 4) ∧
    throttleFirst (State.reset.setCtx 0 { running with work := some { work0 with disp := { disp0 with thr := true } } }) 0 = true ∧
    (throttleFirst State.reset 0 = false ∧ coreRuns State.reset (coreAt 0 (lightTier ⟨16, 0, 0, 0⟩)) = false ∧
      issuesFiller State.reset (coreAt 0 0) = false) ∧
    (1000 * State.reset.dev.lim.toNat = 150000 ∧ pointOf State.reset 0 ≠ 3) ∧
    (let s := (withCasc fun g => { g with powerMax := 1 }).modDev fun d => { d with time := 1000000, lowSince := some 0 }
     100 * 142499 < 95 * (1000 * s.dev.lim.toNat) ∧ s.dev.lowSince = some 0 ∧ 1000000 ≤ (s.dev.time - 0).toNat ∧
       (s.casc 0).opMax.toNat < (s.casc 0).powerMax.toNat) ∧
    (let s := State.reset.modDev fun d => { d with time := 999999, lowSince := some 0 }
     s.dev.lowSince = some 0 ∧ (s.dev.time - 0).toNat < 1000000) ∧
    ((State.reset.modHalf 0 fun h => { h with hot := true }).half (halfOfCasc 0)).hot = true ∧
    (let s := sampling 0 1
     s.memOk ∧ (s.core 0).psamp.en = true ∧ (s.casc (cascOfCore 0)).hold = false ∧
       2 ^ ((s.core 0).psamp.lgper.toNat + 10) ≤ (s.core 0).sinceSample ∧ ringOk s (s.half 0).samp 32 = true ∧
       ringFull (s.half 0).samp = false) ∧
    ringFull ((sampling 0 0).half 0).samp = true := by
  unfold State.memOk
  refine ⟨?_, ?_, ?_, ?_, ?_, ?_, ?_, ?_, ?_, ?_, ?_, ?_, ?_, ?_, ?_⟩ <;> decide +kernel

/-! ## Further clauses of the statements -/

/-- s5 is still to be written by the L stream, and f2 by a `ptest`. -/
def pendingWrites (x : Ctx) : Ctx :=
  { queuing .c (.ptest ⟨Tok.none, .b, 0, 2, 0, 0, 0, 0⟩) (queuing .l (.lds ⟨Tok.none, .n32, 0, 5, 6, 0, 0, 0⟩) x) with
    pos := 40 }

theorem witness_FrontWaits :
    (∀ i ∈ [Instr.add ⟨0, 6, 5⟩, .addi ⟨5, 6, 0⟩, .clz ⟨1, 5, 0⟩, .beq ⟨5, 0, 1⟩, .bfCge ⟨0, 5, 1, 2⟩, .fcnt ⟨5, 0, 1, 0⟩,
        .jal ⟨5, 0, 2⟩, .jr ⟨0, 5, 0⟩, .jalr ⟨1, 5, 0⟩, .loop ⟨5, 0, 0, 0, 9⟩, .brkloop ⟨5, 0, 0, 0, 0⟩, .lidx ⟨5, 0, 0, 0, 0⟩],
      let s := oneCtx pendingWrites
      ∃ r ∈ frontRegs i, busyS s.me r = true) ∧
    (let s := oneCtx pendingWrites
     ∃ r ∈ frontRegs (.csrr ⟨5, 0, 0x010⟩), busyS s.me r = true ∧ csrOf 0x010 = some .time ∧
       csrAccess .time s.me.id.sys ≠ .none) ∧
    (let s := oneCtx fun x => atSys (pendingWrites x)
     ∃ r ∈ frontRegs (.csrw ⟨0, 5, 1⟩), busyS s.me r = true ∧ csrOf 1 = some .rvb ∧ csrAccess .rvb s.me.id.sys = .rw) ∧
    (let s := oneCtx pendingWrites
     frontFlag (.fcnt ⟨1, 0, 2, 0⟩) = some 2 ∧ frontFlag (.bfAny ⟨0, 0, 2, 5⟩) = some 2 ∧ flagWaits s.me 2 = true) := by
  decide +kernel

theorem witness_RettWaits :
    (let s := oneCtx fun x => atSys (behind x)
     s.me.id.sys = true ∧ s.me.trap.fatal = false ∧ s.me.older.isSome = true) ∧
    (let s := oneCtx fun x => atSys { x with reg := { x.reg with count := 1 } }
     s.me.id.sys = true ∧ s.me.trap.fatal = false ∧ s.me.older = none ∧ s.me.reg.count ≠ 0) := by
  decide +kernel

/-- Tables in which the first touch of 10000H finds no page yet. -/
def touchable (s : State) : State := withWords 0x23008 [0x20] (mapped s)

theorem witness_FirstTouch :
    (let s := (touchable w0).modHalf 0 fun h => { h with spare := some 0x1000_0000 }
     s.memOk ∧ walk s (asidOf s s.me) 0x10000 = .touch 0x23008 ∧ (s.half 0).spare = some 0x1000_0000) ∧
    (let s := withWords 0x40000 [0x8010, 0x400_0000_0000, 0x1001_0000] ((touchable w0).modHalf 0 fun h =>
       { h with pool := { h.pool with base := 0x40000, lgsz := 0, tail := 3 } })
     s.memOk ∧ walk s (asidOf s s.me) 0x10000 = .touch 0x23008 ∧ (s.half 0).spare = none ∧ s.lostRead = false ∧
       ringOk s (s.half 0).pool 8 = true ∧ (poolTake s 0 16 (s.half 0).pool).2 = some 0x1001_0000 ∧
       (poolTake s 0 16 (s.half 0).pool).1.head = 3) := by
  unfold State.memOk; decide +kernel

/-- A function with a bound does not overflow where its reference does not. -/
theorem boundedF32_ovf {k x : Nat} {f : Word32 → Word32} {a : Approx}
    (h : (deliverFin .f32 .rne false false (!a.exact) a.neg a.m a.e).2.ovf = false) : (boundedF32 k f x a).2.ovf = false := by
  unfold boundedF32
  simp only [h, Bool.false_or]
  split
  · exact h
  · split <;> first | rfl | exact h

theorem fval_three : fvalIn .f32 0x4040_0000 = .fin false 0xC0_0000 (-22) ∧
    fvalIn .f32 0xC040_0000 = .fin true 0xC0_0000 (-22) := by decide +kernel

theorem witness_SpecialBounds :
    (∃ m e, fvalIn .f32 0xC040_0000 = .fin true m e ∧ m ≠ 0 ∧ (2 : Rat) ^ (-2 : Int) * (m * (2 : Rat) ^ e) ≤ 1 ∧
      1 < (2 : Rat) ^ (-1 : Int) * (m * (2 : Rat) ^ e) ∧ (specialCode .rcp .f32 .rne 0xC040_0000).2.ovf = false) ∧
    (∃ m e, fvalIn .f32 0x4040_0000 = .fin false m e ∧ m ≠ 0 ∧ (4 : Rat) ^ (-1 : Int) * (m * (2 : Rat) ^ e) ≤ 1 ∧
      1 < (4 : Rat) ^ (0 : Int) * (m * (2 : Rat) ^ e)) ∧
    (∃ a, log2Approx 0xC0_0000 (-22) = some a) ∧
    ∀ fn ∈ [Special.exp2, .log2, .tanh, .sig], (specialCode fn .f32 .rne 0x4040_0000).2.ovf = false := by
  have l : ∃ a, log2Approx 0xC0_0000 (-22) = some a ∧
      (deliverFin .f32 .rne false false (!a.exact) a.neg a.m a.e).2.ovf = false := ⟨_, rfl, by decide +kernel⟩
  refine ⟨⟨0xC0_0000, -22, fval_three.2, by decide, by norm_num, by norm_num, ?_⟩,
    ⟨0xC0_0000, -22, fval_three.1, by decide, by norm_num, by norm_num⟩, l.imp fun _ h => h.1, fun fn hf => ?_⟩
  · simp only [specialCode, fval_three.2, specialF32, if_true, Nat.reduceEqDiff, if_false]
    exact boundedF32_ovf (by decide +kernel)
  · obtain ⟨a, e, h⟩ := l
    simp only [List.mem_cons, List.not_mem_nil, or_false] at hf
    rcases hf with rfl | rfl | rfl | rfl <;> simp only [specialCode, fval_three.1, specialF32, e, if_true, Nat.reduceEqDiff, Bool.false_eq_true, if_false] <;>
      exact boundedF32_ovf (by first | exact h | decide +kernel)

/-- A COPY template of n elements in m rows, 64 bytes apart on either side, with flags from bit 8 on. -/
def copyTmpl (flags n m : Nat) (src dst : Word) : BitVec 1024 :=
  BitVec.ofNat 1024 (1 + flags * 2 ^ 8 + src.toNat * 2 ^ 64 + dst.toNat * 2 ^ 128 + n * 2 ^ 192 + m * 2 ^ 208 + 2 ^ 224 +
    2 ^ 240 + 64 * 2 ^ 256 + 64 * 2 ^ 352 + n * 2 ^ 512 + m * 2 ^ 528 + 2 ^ 544 + 2 ^ 560)

/-- The part with a command in the L engine queue of context 0, with counter k1 at 1 and a template 0 that copies 16 bytes
of the own slice. -/
def engining (i : Instr) (v : Word) : State :=
  let s := oneCtx fun x => counted 1 { x with engL := [engCmd i v] }
  { s with mem := memPutNat s.mem (tmplKey 0 0) 128 (copyTmpl 0 16 1 own (own + 0x100)).toNat }

/-- The head of the engine queue whose turn it is can start. -/
def startable (s : State) (q : EngCmd) (o : E) : Bool :=
  !coreHeld s 0 && decide ((s.core 0).active.length < 8) && decide (engSlot 0 (s.core 0).engPtr = (0, .l)) &&
    decide (engQ s.me .l = [q]) && sluiceOpen s.me 3 && engTokens o s.me &&
    !((regionOf s.me 0).all fun r => r.fault.isSome)

theorem witness_EngineStarts :
    (∀ f ∈ [63, 9], let o := { en 0 with fsel := f, ka := 1 }
      let q := engCmd (.efire o) 8
      let s := engining (.efire o) 8
      startable s q o = true ∧ engFields q.instr = some (.fire, o, false) ∧
        (activated (startCmd 0 q .fire o false (setUsed 0 q [] (actFor 0 0 (flushPosted 0 s))))).isSome = true) ∧
    (∀ f ∈ [7, 9], ∀ m ∈ [0, 1], let o := { en 1 with fsel := f, mode := m }
      let s := engining (.eset o) 8
      startable s (engCmd (.eset o) 8) o = true ∧ engFields (.eset o) = some (.set, o, false) ∧ s.memOk ∧
        undoCount s.me < 16 ∧ s.me.sync.posted = [] ∧ (tmplField (tKind (tmplRead s.mem 0 0)) o.fsel.toNat).isSome = true) ∧
    (let o := { en 0 with fsel := 29 }
     ∀ i ∈ [Instr.eset o, .efire o], let s := engining i 8
       startable s (engCmd i 8) o = true ∧ s.me.sync.posted = [] ∧
         tmplField (tKind (tmplRead s.mem 0 0)) o.fsel.toNat = none ∧ s.me.older = none ∧
         (engCmd i 8).epoch = s.me.reg.epoch ∧ queued s.me = [] ∧ s.me.reg.bad = false ∧ s.me.id.sys = false ∧
         s.me.trap.tvec ≠ 0) := by
  unfold State.memOk; refine ⟨?_, ?_, ?_⟩ <;> decide +kernel

/-- The part with an active command of context 0. -/
def activeIn (a : ActiveCmd) (s : State) : State := s.modCore 0 fun k => { k with active := [a] }

/-- The active command of a core of a context may complete. -/
def completable (s : State) (a : ActiveCmd) : Bool :=
  !coreHeld s 0 && decide ((s.core 0).active[0]? = some a) && !cmdStruck s a && !s.lostRead && decide (a.sample = none) &&
    !windowBusy s 0 0 a && !cmdFenced s a && !arrivalHeld s a && !cmdWaits s 0 a &&
    decide ((s.ctx a.ctx).sync.posted = []) && !a.dead && decide ((s.ctx a.ctx).id.gen = a.gen) && decide (a.ctx = 0)

/-- An active `efire` of a template with its rows. -/
def fired (t : BitVec 1024) (rows : List CopyRow) : ActiveCmd := { cmdOf (.efire (en 2)) rows with tmpl := t }

/-- A WINDOW template of two entries. -/
def windowTmpl : BitVec 1024 := BitVec.ofNat 1024 (2 + own.toNat * 2 ^ 64 + 16 * 2 ^ 448 + 2 * 2 ^ 456 + 2 ^ 464)

/-- A row of 16 bytes of the own slice for a latch entry. -/
def latchRow (i1 : Nat) : CopyRow := ⟨i1, 0, 16, false, [⟨0, 16, sliceKey 0 (64 * i1)⟩], 0, []⟩

theorem witness_EngineCompletes :
    (∀ aw ∈ [0, 16], let t := copyTmpl aw 16 1 own 0x1000 ||| (own + 0x200).setWidth 1024 <<< 576
      let a := fired t [⟨0, 0, 16, false, [⟨0, 16, sliceKey 0 0⟩], 0x1000, [⟨0, 16, 0x1000⟩]⟩]
      let s := activeIn a (oneCtx heaped)
      let ls := outLines (copyOuts s.mem a)
      s.memOk ∧ completable s a = true ∧ pushes a = false ∧ selfMeet (planDst a.rows) = false ∧
        ((planDst a.rows).any fun p => (planSrc a.rows).any (partsMeet p)) = false ∧ anyDram (planDst a.rows) = true ∧
        a.late = false ∧ ls ≠ [] ∧ weirRoom s 0 a.cmd.epoch (newLines s 0 a.cmd.epoch ls) = .ok ∧
        cpAw a.tmpl = decide (aw = 16) ∧ (gotOf (sliceByte s 0 (tAwaddr a.tmpl))).isSome = true) ∧
    (let t := copyTmpl 16 16 1 own (own + 0x100) ||| (own + 0x200).setWidth 1024 <<< 576
     let a := fired t [oneRow 0 0x100 16]
     let s := activeIn a w0
     completable s a = true ∧ pushes a = false ∧ selfMeet (planDst a.rows) = false ∧
       ((planDst a.rows).any fun p => (planSrc a.rows).any (partsMeet p)) = false ∧ anyDram (planDst a.rows) = false ∧
       cpAw a.tmpl = true ∧ gotOf (sliceByte s 0 (tAwaddr a.tmpl)) = some (sliceKey 0 0x200)) ∧
    (∀ b ∈ [false, true], let t := copyTmpl 32 16 16 own (if b then 1 else 0)
      let a := fired t [latchRow 0, latchRow 15]
      let s := activeIn a w0
      completable s a = true ∧ engFields a.cmd.instr = some (.fire, en 2, false) ∧ fillsTo a = some b ∧
        pusherBefore s 0 b a.cmd.pos = false ∧ latchRoom s.me b = true ∧ tKind a.tmpl = 1 ∧ a.pushed = 0 ∧
        (a.rows.map (·.i1)).Nodup ∧
        (∀ r ∈ a.rows, r.lo ≤ r.hi ∧ r.hi ≤ cpExt a.tmpl 0 ∧ (rowBytes s.mem a r).length = cpExt a.tmpl 0 * cpE a.tmpl) ∧
        (cpDst a.tmpl).getLsbD 0 = b ∧ cpExt a.tmpl 1 = 16 ∧ (∀ r ∈ a.rows, r.i1 < 16) ∧
        cpExt a.tmpl 0 * cpE a.tmpl ≤ 64) ∧
    (∀ n ∈ [0, 1], let a := { fired windowTmpl [] with pushed := n }
      let s := activeIn a w0
      completable s a = true ∧ fillsTo a = some false ∧ pusherBefore s 0 false a.cmd.pos = false ∧
        latchRoom s.me false = true ∧ tKind a.tmpl = 2 ∧ (tmplPushes a.tmpl ≤ a.pushed + 1 ↔ n = 1) ∧
        (a.pushed + 1 < tmplPushes a.tmpl ↔ n = 0)) := by
  unfold State.memOk; refine ⟨?_, ?_, ?_, ?_⟩ <;> decide +kernel

/-- A context with an item of operator 1, changed. -/
def workingOn (f : Item → Item) (x : Ctx) : Ctx := { x with work := some { work0 with item := f work0.item } }

theorem witness_RegionsRetire_fallback :
    (let s := withOp id (oneCtx fun x => closing .done (workingOn (fun i => { i with res := true }) x))
     retirable s = true ∧ s.me.reg.closed = some .done ∧ s.me.id.sys = false ∧ ∃ w, s.me.work = some w ∧
       w.item.res = true ∧ s.op w.disp.op = some op0) ∧
    (let o := { op0 with fallback := [{ item0 5 with fb := true, ord := 2 }] }
     let s := withOp (fun _ => o) (oneCtx fun x =>
       closing (.guard true) (workingOn (fun i => { i with avoid := some 3 }) (guarded 0x3F80_0000 x)))
     retirable s = true ∧ s.me.id.sys = false ∧ s.me.id.gd = true ∧ s.me.id.task = false ∧ s.me.id.fb = false ∧
       belowLimit s.me = false ∧ (∃ w, s.me.work = some w ∧ w.disp.met ≠ true ∧ s.op w.disp.op = some o ∧
         w.item.avoid = some 3) ∧ ∀ i ∈ o.fallback, i.ord ≤ o.entered) := by
  refine ⟨⟨by decide +kernel, by decide +kernel, by decide +kernel, _, rfl, by decide +kernel⟩, by decide +kernel,
    by decide +kernel, by decide +kernel, by decide +kernel, by decide +kernel, by decide +kernel, ⟨_, rfl, ?_⟩, ?_⟩ <;>
    decide +kernel

theorem witness_ErrorsReplay_more :
    (let s := withOp id (oneShot (oneCtx fun x => worn (workingOn (fun i => { i with fb := true })
       { reexecuting x with reg := { x.reg with count := 1 } })))
     (s.ctx 0).older = none ∧ (s.ctx 0).bank = .running ∧ (s.ctx 0).reg.count ≠ 0 ∧
       replayMax (s.core 0) ≤ (s.ctx 0).cnt.att ∧ (s.ctx 0).id.sys = false ∧ (s.ctx 0).id.rx = true ∧
       (s.ctx 0).id.task = false ∧ ∃ w, (s.ctx 0).work = some w ∧ s.op w.disp.op = some op0 ∧ w.item.fb = true) ∧
    (let o := { op0 with restart := [{ item0 3 with avoid := some 2, ord := 1 }] }
     let s := withOp (fun _ => o) (oneCtx fun x => worn { reexecuting x with reg := { x.reg with count := 1 } })
     (s.casc (cascOf 0)).gangs = [] ∧ s.op 1 = some o ∧ ∀ i ∈ o.restart, i.avoid.isSome = true ∧ i.ord ≤ o.entered) ∧
    (∀ b, let s := oneCtx fun x => { behind x with cnt := { x.cnt with att := 1 }, older := (behind x).older.map fun r => { r with count := 0 } }
     (s.ctx 0).bank = .running ∧ 0 < (s.ctx 0).cnt.att ∧
       ∃ r, regionOf (s.ctx 0) (errorRegion (s.ctx 0) b) = some r ∧ r.count = 0) := by
  refine ⟨⟨by decide +kernel, by decide +kernel, by decide +kernel, by decide +kernel, by decide +kernel, by decide +kernel,
    by decide +kernel, _, rfl, ?_⟩, ?_, fun b => ?_⟩
  · decide +kernel
  · decide +kernel
  · cases b <;> exact ⟨by decide +kernel, by decide +kernel, _, rfl, by decide +kernel⟩

/-- A saved context whose page request has still to be written. -/
def asking0 : SavedCtx := { saved0 with ctx := { saved0.ctx with preq := some preq0 } }

theorem witness_WalksAndRequests_saved :
    let s := (State.reset.modCore 0 (saving (some asking0))).modHalf 0 fun h =>
      { h with prq := { h.prq with base := 0x40000, lgsz := 4 } }
    s.memOk ∧ (firstRequest (unwritten s 0)).map (·.slot) = some (some 0) ∧ ringOk s (s.half 0).prq 32 = true ∧
      ringFull (s.half 0).prq = false ∧ (s.half 0).cpQuiet = false ∧ (s.core 0).saved[0]? = some (some asking0) := by
  unfold State.memOk; decide +kernel

/-- An operator by its number, its queue and its class, that shares with no other. -/
def opN (n : Nat) (q : QueueId) (cls : BitVec 2) : Operator :=
  { rtOp with id := n, queue := q, disp := { disp0 with op := n, queue := q, cls := cls, mixok := false } }

/-- A context that runs an operator. -/
def runningOp (o : Operator) (x : Ctx) : Ctx :=
  { x with work := some { work0 with disp := o.disp }, id := { x.id with cls := o.disp.cls } }

/-- The part with operators. -/
def withOps (l : List Operator) (s : State) : State := { s with ops := l, opCount := l.length }

theorem witness_Eviction_more :
    (let s := (oneCtx halted).modCore 0 fun k => { saving none k with csaveBase := 1 }
     evictable s 0 = true ∧ s.memOk ∧ slotKey s 0 0 = some 0x20_0000) ∧
    (let v := { saved0 with ctx := runningOp (opN 1 0 0) (halted running) }
     let s := (withOps [opN 1 0 0, opN 2 1 2] State.reset).modCore 0 (saving (some v))
     let t := s.setCtx 2 (runningOp (opN 2 1 2) running)
     heldClock t 0 = false ∧ nextSaved (t.core 0) 0 = some (0, v) ∧ (t.ctx 0).bank = .empty ∧ v.ctx.preq = none ∧
       coIssueOk t (cascOf 0) (opN 1 0 0).disp 0 true = true ∧ conflicts t (cascOf 0) (opN 1 0 0).disp 0 = [2]) ∧
    (let s := (withOps [opN 1 0 0, opN 2 1 2] (oneCtx fun x => runningOp (opN 1 0 0) (halted x))).setCtx 2
       (runningOp (opN 2 1 2) running)
     (s.ctx 0).bank = .halted ∧ switchDue s 0 = false ∧ bankFreeFor s 0 (s.ctx 0) = true ∧
       conflicts s (cascOf 0) (opN 1 0 0).disp 0 = [2]) := by
  unfold State.memOk; refine ⟨?_, ?_, ?_⟩ <;> decide +kernel

/-- A pair of real-time operators. -/
def pairedOps : List Operator := [{ opN 1 0 0 with partner := some 2 }, { opN 2 1 0 with partner := some 1, deadline := 5 }]

theorem witness_GangsForm :
    (∀ o ∈ [opN 1 0 0], let s := withOps [{ opN 2 1 0 with deadline := 5 }, o] State.reset
      s.op o.id = some o ∧ o ∈ dealable s 0 0 ∧ (chooseCasc s ⟨o, false⟩ 0).isSome = true ∧ (pairOf s o).isNone = true ∧
        ∀ p ∈ dealable s 0 0, p ≠ o → dueBefore o p ∧ ¬ dueBefore p o) ∧
    (let s := withOps pairedOps State.reset
     let o := { opN 1 0 0 with partner := some 2 }
     s.op o.id = some o ∧ chooseCasc s ⟨o, false⟩ 0 = some 0 ∧ (let s' := formOn ⟨o, false⟩ 0 0 s
       ∃ r, pairOf s' o = some r ∧ (chooseCasc s' ⟨r, false⟩ (pairHalf s' r)).isSome = true)) ∧
    (let o := { opN 1 0 0 with pending := [], fallback := [{ item0 0 with fb := true }] }
     let s := withOps [o] State.reset
     dealable s 0 0 = [o] ∧ chooseCasc s ⟨o, false⟩ 0 = none ∧ (chooseCasc s ⟨o, true⟩ 0).isSome = true) ∧
    (∀ n ∈ [0, 1], let o := opN 1 2 1
      let s := (withOps [o, opN 2 3 1] State.reset).modHalf 0 fun h => { h with lastStd := if n = 1 then 2 else 1, stdLeft := n }
      (chooseCasc s ⟨o, false⟩ 0).isSome = true ∧ dealable s 0 0 = [] ∧ dealable s 0 1 = [o, opN 2 3 1] ∧ o.partner = none ∧
        ((dealable s 0 1).filter fun p => p.queue == o.queue) = [o] ∧ (n = 1 → o.queue = (s.half 0).lastStd) ∧
        (n = 0 → ∀ p ∈ dealable s 0 1, (o.queue - ((s.half 0).lastStd + 1)).val ≤
          (p.queue - ((s.half 0).lastStd + 1)).val)) ∧
    (let o := opN 1 2 2
     let s := (withOps [o, opN 2 1 2] State.reset).modHalf 0 fun h => { h with lastBg := 1 }
     (chooseCasc s ⟨o, false⟩ 0).isSome = true ∧ dealable s 0 0 = [] ∧ dealable s 0 1 = [] ∧
       dealable s 0 2 = [o, opN 2 1 2] ∧ ((dealable s 0 2).filter fun p => p.queue == o.queue) = [o] ∧
       ∀ p ∈ dealable s 0 2, (o.queue - ((s.half 0).lastBg + 1)).val ≤ (p.queue - ((s.half 0).lastBg + 1)).val) := by
  refine ⟨?_, ⟨by decide +kernel, by decide +kernel, _, rfl, by decide +kernel⟩, ?_, ?_, ?_⟩
  · unfold dueBefore; decide +kernel
  all_goals decide +kernel

/-- A gang of an operator with two items on tiers 0 and 1. -/
def gangOf (n : Nat) (o : Operator) : Gang := ⟨o.id, n, o.disp, [(0, some (item0 0)), (1, some (item0 1)), (2, none), (3, none)]⟩

/-- The first bank of a tier of a cascade. -/
def firstBank (g : CascId) (t : Fin 4) : CtxId := ctxIn (coreAt g t) 0

theorem witness_GangsStart :
    (let s := (withOps [opN 1 0 1] State.reset).modCasc 0 fun g => { g with gangs := [gangOf 1 (opN 1 0 1)] }
     (s.casc 0).gangs = [gangOf 1 (opN 1 0 1)] ∧ gangFree s 0 (gangOf 1 (opN 1 0 1)) (firstBank 0) ∧
       ((s.op 1).bind (pairOf s)).isNone = true ∧ (pairGang s (gangOf 1 (opN 1 0 1))).isNone = true) ∧
    (let k := gangOf 1 (opN 1 0 0)
     let k' := gangOf 2 (opN 2 1 0)
     let s := ((withOps pairedOps State.reset).modCasc 0 fun g => { g with gangs := [k] }).modCasc 1 fun g =>
       { g with gangs := [k'] }
     (s.casc 0).gangs = [k] ∧ gangFree s 0 k (firstBank 0) ∧ k.fb = false ∧ pairGang s k = some (1, k') ∧
       (s.casc 1).gangs = [k'] ∧ gangFree s 1 k' (firstBank 1)) := by
  unfold gangFree; refine ⟨?_, ?_⟩ <;> decide +kernel

theorem witness_WritesLost :
    let e := { weir0 true with w := line0 (sliceKey 32 0) }
    let s := (w0.modHalf 0 fun h => { h with weir := [e] }).modHalf 1 fun h => { h with struck := true }
    s.memOk ∧ (s.half 0).weir[0]? = some e ∧ drainReady s [] e = true ∧ struckAt s e.w.line = true ∧
      (s.ctx 0).bank = .running ∧ (s.ctx 0).id.gen = e.gen ∧ (s.casc (cascOf 0)).hold = false ∧ (s.ctx 0).older = none ∧
      (s.ctx 0).id.sys = false ∧ (s.ctx 0).trap.tvec ≠ 0 := by
  unfold State.memOk; decide +kernel

theorem witness_EffectsWait :
    (let d := { effect0 (.tlsig (sliceKey 0 0) 9) with scope := 5 }
     let s := ((withRecord [4, 0, 0, 7] 0).modCtx 0 fun x => { x with sync := { x.sync with deferred := [d] } }).modHalf 0
       fun h => { h with weir := [{ weir0 true with seq := 9 }] }
     s.memOk ∧ (s.ctx 0).sync.deferred[0]? = some d ∧ effectBefore s 0 .s d.seq = false ∧
       unacked s 0 d.seq d.all d.base d.len = false ∧ effectReach s d.eff = true ∧
       ∃ w ∈ (s.half 0).weir, w.ctx = 0 ∧ w.committed = true) ∧
    (let s := withOp (fun o => { o with fallback := [{ item0 7 with fb := true, ord := 1 }] })
       (oneCtx (owing (.grais 1 true 1 2)))
     effectDue s (.grais 1 true 1 2) ∧ ∀ o ∈ s.op 1, ∀ i ∈ o.fallback, i.ord ≤ o.entered) ∧
    (let d := { effect0 (.setw (sliceKey 0 0) 9) with clamp := some 7 }
     let s := (withRecord [] 0).modCtx 0 fun x => { x with sync := { x.sync with deferred := [d] } }
     s.memOk ∧ (s.ctx 0).sync.deferred[0]? = some d ∧ effectReach s d.eff = true ∧ d.clamp = some 7) ∧
    (∀ b, mayGo (waitingAt 7 b) 0 .l = true ∧ mayGo (waitingAt 8 b) 0 .l = true) := by
  unfold effectDue State.memOk; refine ⟨?_, ?_, ?_, ?_⟩ <;> decide +kernel

/-- What a command processor finds as the target of a timeline. -/
def targetOf (q : QueueId) (va : Word) (s : State) : Option (TlTarget × Word) :=
  let r := tlTarget q va s
  (cpOk r.2).map fun y => (y, tlValue r.1 y)

/-- A record of a kind at slice 0, with a value and an alias. -/
def recordAt (kind v alias_ : Nat) (s : State) : State := withWords (sliceKey 0 0) [kind, 0, 0, v, alias_] s

theorem witness_PacketsWait_record :
    (∀ n ∈ [7, 8], let p := pkt0 [0x401, slice0, n]
      let s := recordAt 4 7 0 (serving [p])
      p.words[1].getLsbD 63 = false ∧ beginning s 0 4 = some p ∧
        targetOf 0 p.words[1] (startWait 0 p.index s) = some (.record (sliceKey 0 0), 7) ∧
        (0 ≤ (7 - p.words[2]).toInt ↔ n = 7)) ∧
    (let p := begun (pkt0 [0x401, slice0, 8])
     let s := recordAt 4 7 0 (serving [p])
     beginning s 0 4 = none ∧ openPkt s 0 4 = some p ∧ targetOf 0 p.words[1] s = some (.record (sliceKey 0 0), 7)) ∧
    (∀ st ∈ [QState.active, .error], let p := begun (pkt0 [0x401, slice0, 8])
      let s := recordAt 4 7 (2 ^ 63 + 5) ((serving [p]).modQueue 5 fun x => { x with st := st })
      openPkt s 0 4 = some p ∧ targetOf 0 p.words[1] s = some (.queue 5, 0) ∧ (s.queue 5).st = st) ∧
    (let p := pkt0 [0x401, slice0, 8]
     let s := recordAt 5 7 0 (serving [p])
     let u := cpRead 0 p.words[1] 8 (startWait 0 p.index s)
     beginning s 0 4 = some p ∧ cpOk u.2 = some 5 ∧ cpOk (cpRead 0 (p.words[1] + 0x20) 8 u.1).2 = some 0) ∧
    (let p := pkt0 [0x401, slice0, 7]
     let s := recordAt 4 7 0 (serving [p])
     let u := cpRead 0 p.words[1] 8 (startWait 0 p.index s)
     let v := cpRead 0 (p.words[1] + 0x20) 8 u.1
     cpOk u.2 = some 4 ∧ cpOk v.2 = some 0 ∧ cpOk (cpKey 0 false (p.words[1] + 0x18) v.1).2 = some (sliceKey 0 0x18) ∧
       0x18 ≤ sliceKey 0 0x18) := by
  refine ⟨?_, ?_, ?_, ?_, ?_⟩ <;> decide +kernel

/-- A region that has used the translation of a page. -/
def using1 (r : Region) : Region := { r with used := [leaf1] }

theorem witness_Invalidations_regions :
    (∀ b, let p := pkt0 [0x2001, 0]
      let s := ((serving [p]).setCtx 0 { running with reg := using1 running.reg }).modCasc (cascOf 0) fun g => { g with hop := b }
      beginning s 0 0x20 = some p ∧ (s.ctx 0).bank = .running ∧ leaf1 ∈ (s.ctx 0).reg.used ∧ leaf1.gl = false ∧
        leaf1.asid.toNat = p.words[1].toNat % 256 ∧ (s.casc (cascOf 0)).hold = b ∧ (s.ctx 0).older = none) ∧
    (let p := pkt0 [0x2001, 0]
     let x := behind running
     let s := (serving [p]).setCtx 0 { x with older := x.older.map using1 }
     beginning s 0 0x20 = some p ∧ (s.ctx 0).bank = .running ∧ (s.ctx 0).reg.used = [] ∧
       ∃ o, (s.ctx 0).older = some o ∧ o.used = [leaf1] ∧ o.epoch < (s.ctx 0).reg.epoch) ∧
    (let p := pkt0 [0x2001, 0]
     let s := (serving [p]).setCtx 0 running
     (s.ctx 0).bank = .running ∧ (s.ctx 0).reg.used = [] ∧ (s.ctx 0).older = none) := by
  refine ⟨?_, ⟨by decide +kernel, by decide +kernel, by decide +kernel, _, rfl, by decide +kernel⟩, ?_⟩ <;> decide +kernel

theorem witness_PageAnswers_other :
    (∀ f ∈ [0, 2 ^ 7], let s := (answering [0x2101, f]).modCtx 0 halted
      let p := pkt0 [0x2101, f]
      beginning s 0 0x21 = some p ∧ (s.casc (cascOf 0)).hold = false ∧ (s.ctx 0).bank = .halted ∧
        (s.ctx 0).id.gen.toNat = p.words[1].toNat / 2 ^ 32 ∧ (s.ctx 0).preq = some { preq0 with written := true }) ∧
    (let s := (answering [0x2101, 0]).setCtx 0 running
     beginning s 0 0x21 = some (pkt0 [0x2101, 0]) ∧ (s.ctx 0).bank ≠ .faulted ∧ (s.ctx 0).bank ≠ .halted ∧
       (s.ctx 0).id.gen.toNat = (pkt0 [0x2101, 0]).words[1].toNat / 2 ^ 32) := by
  refine ⟨?_, ?_⟩ <;> decide +kernel

theorem witness_PatchesAndReports_gone :
    let s := (serving [begun (pkt0 [0x401])]).modHalf 1 fun h => { h with cpQuiet := true }
    openPatch s = none ∧ ∀ k : HalfId, (s.half k).cpLatched = [] ∧ (s.half k).due = false ∧ (s.half k).dueGo = false := by
  decide +kernel

theorem witness_QueueControl_more :
    (∀ st ∈ [QState.error, .active], let s := (owned (serving [])).modQueue 1 fun x => { x with en := true, st := st }
      owns s (bar 0).master = true ∧ (s.queue 1).en = true ∧ (s.queue 1).st = st ∧ queueOps s 1 = [] ∧
        (bar 0).value.getLsbD 63 = false ∧ (bar (2 ^ 63)).value.getLsbD 63 = true) ∧
    (let s := withOp (fun o => { o with queue := 1 }) ((owned (serving [])).modQueue 1 fun x => { x with en := true, st := .active })
     owns s (bar 0).master = true ∧ (s.queue 1).en = true ∧ (s.queue 1).st ≠ .error ∧ queueOps s 1 ≠ []) ∧
    (let s := (owned (serving [])).modQueue 1 fun x => { x with st := .error }
     (s.queue 1).en = false ∧ (s.queue 1).st = .error) ∧
    (let s := withOp (fun o => { o with queue := 1 })
       ((serving [pkt0 [0x2401, 1 + 512]]).modQueue 1 fun x => { x with en := true, st := .active })
     beginning s 0 0x24 = some (pkt0 [0x2401, 1 + 512]) ∧ (s.queue 1).en = true ∧ (s.queue 1).st ≠ .error ∧ queueOps s 1 ≠ []) ∧
    (∀ en, let s := (serving [pkt0 [0x2401, 1]]).modQueue 1 fun x => { x with en := en }
      beginning s 0 0x24 = some (pkt0 [0x2401, 1]) ∧ (s.queue 1).en = en) ∧
    (∀ op ∈ [0, 1, 2, 3], let p := pkt0 [0x2401, 256 * op]
      beginning (serving [p]) 0 0x24 = some p ∧ p.words[1].toNat % 64 = (0 : QueueId).val ∧
        p.words[1].toNat / 256 % 4 = op ∧ ((serving [p]).queue 0).en = true ∧ ((serving [p]).queue 0).st ≠ .error) := by
  refine ⟨?_, ?_, ?_, ?_, ?_, ?_⟩ <;> decide +kernel

theorem witness_CardsAct_waits :
    (∀ v ∈ [5, 6], ∀ d ∈ [0, 250], let l := [5, slice0 + 0x80, slice0, v]
      let p := { atCard l with delay := d }
      let s := recordAt 4 5 0 (withWords (sliceKey 0 0x80) [7] (serving [p]))
      let c := cardFrom l p
      let s1 := if d = 0 then modPkt 0 0 (fun p => { p with waitFrom := cpTime s 0 }) s else s
      headIs (cardsAt s 0 5) c = true ∧ (cardsAt s 0 5).length = 1 ∧ c.words[0].getLsbD 4 = false ∧
        targetOf 0 c.words[2] s1 = some (.record (sliceKey 0 0), 5) ∧ (0 ≤ (5 - c.words[3]).toInt ↔ v = 5) ∧
        kindThere (tlTarget 0 c.words[2] s1).1 c.words[1] = some 7) ∧
    (let l := [5, slice0, 2 ^ 63 + 1, 1]
     let p := { atCard l with delay := 250 }
     let s := (serving [p]).modQueue 1 fun x => { x with st := .error }
     headIs (cardsAt s 0 5) (cardFrom l p) = true ∧ (cardsAt s 0 5).length = 1 ∧
       targetOf 0 (cardFrom l p).words[2] s = some (.queue 1, 0) ∧ (s.queue 1).st = .error ∧
       ¬ 0 ≤ (0 - (cardFrom l p).words[3]).toInt) := by
  refine ⟨?_, ?_⟩ <;> decide +kernel

theorem witness_FailoverBegins_phases :
    (let s := atPhase 5
     s.dev.fo.phase.toNat = 5 ∧ s.dev.fo.src = 1 ∧ anyQuiet s = false ∧ s.dev.fo.foen = true ∧
       canAdopt (s.modHalf 1 fun h => { h with cpFatal := true }) 1 = false) ∧
    (∀ n ∈ [1, 2, 3, 4], let s := atPhase (BitVec.ofNat 3 n)
      s.dev.fo.phase.toNat = n ∧ s.dev.stopped = false ∧ anyQuiet s = false ∧ s.dev.fo.foen = true ∧ s.dev.fo.src = 1) := by
  decide +kernel

/-! ## Words written out field by field from the formats of spec/02 R24, the operand codes of R29 and R32, and the
function codes of R36, one for each major -/

/-- ALU, format SR: mulh.n s5, s6, s7 is function 4. -/
theorem test_word_alu :
    decode (0x01#6 ++ 0#4 ++ 4#8 ++ 5#5 ++ 6#5 ++ 7#5 ++ 0#31) = .ok (.mulhN ⟨5, 6, 7⟩) := by decide
/-- ALUI, format SI: shri.s s3, s4, 17 is function 6. -/
theorem test_word_alui :
    decode (0x02#6 ++ 0#4 ++ 6#8 ++ 3#5 ++ 4#5 ++ 17#36) = .ok (.shriS ⟨3, 4, 17⟩) := by decide
/-- BR, format SB: bge.n s8, s9, back one slot is function 5. -/
theorem test_word_br :
    decode (0x03#6 ++ 0#4 ++ 5#8 ++ 8#5 ++ 9#5 ++ 0xFFFFFFFFF#36) = .ok (.bgeN ⟨8, 9, -1⟩) := by decide
/-- JMP, format SJ: jal s1, forward 16 slots is function 1. -/
theorem test_word_jmp :
    decode (0x04#6 ++ 0#4 ++ 1#8 ++ 1#5 ++ 0#5 ++ 16#36) = .ok (.jal ⟨1, 0, 16⟩) := by decide
/-- LOOP, format SL: endloop with rotations 3 and 2 is function 2. -/
theorem test_word_loop :
    decode (0x05#6 ++ 0#4 ++ 2#8 ++ 0#5 ++ 3#6 ++ 2#3 ++ 0#3 ++ 0#29) = .ok (.endloop ⟨0, 3, 2, 0, 0⟩) := by decide
/-- FBR, format FB: bf.cge f2, s7, forward 5 slots is function 6. -/
theorem test_word_fbr :
    decode (0x06#6 ++ 0#4 ++ 6#8 ++ 0#5 ++ 7#5 ++ 2#2 ++ 5#34) = .ok (.bfCge ⟨0, 7, 2, 5⟩) := by decide
/-- CSR, format SI: csrr s4 of register 0 (FPC) is function 0. -/
theorem test_word_csr :
    decode (0x07#6 ++ 0#4 ++ 0#8 ++ 4#5 ++ 0#5 ++ 0#36) = .ok (.csrr ⟨4, 0, 0⟩) := by decide
/-- SYS, format SX: guard.ssq v9, p3 is function 3. -/
theorem test_word_sys :
    decode (0x08#6 ++ 0#4 ++ 3#8 ++ 9#6 ++ 3#4 ++ 0#36) = .ok (.guardSsq ⟨9, 3, 0⟩) := by decide
/-- LDV, format MM: ld.vs.f32 qv1 (49), p2, s5, s6, offset 8, which signals the next stream, is function 1. -/
theorem test_word_ldv :
    decode (0x10#6 ++ 0b0001#4 ++ 1#8 ++ 10#4 ++ 2#4 ++ 49#6 ++ 5#5 ++ 6#5 ++ 0#6 ++ 8#16) =
      .ok (.ldVs ⟨⟨false, false, false, true⟩, .f32, 2, 49, 5, 6, 0, 8⟩) := by decide
/-- LDS, format MM: lds.n16 s12, s5, offset 6. -/
theorem test_word_lds :
    decode (0x11#6 ++ 0#4 ++ 0#8 ++ 3#4 ++ 0#4 ++ 12#6 ++ 5#5 ++ 0#5 ++ 0#6 ++ 6#16) =
      .ok (.lds ⟨Tok.none, .n16, 0, 12, 5, 0, 0, 6⟩) := by decide
/-- LSYNC, format SY: waitw is function 1. -/
theorem test_word_lsync :
    decode (0x13#6 ++ 0#4 ++ 1#8 ++ 0#5 ++ 4#5 ++ 5#5 ++ 0#3 ++ 0#4 ++ 0#24) =
      .ok (.waitw ⟨Tok.none, 0, 4, 5, .context, 0, 0⟩) := by decide
/-- ENG.L, format E: efire is act 1; its template is 9, and it gives k2 after k1. -/
theorem test_word_engl :
    decode (0x14#6 ++ 0#4 ++ 9#6 ++ 0#6 ++ 0#5 ++ 2#4 ++ 1#4 ++ 0#4 ++ 0#4 ++ 1#5 ++ 0#16) =
      .ok (.efire ⟨Tok.none, 9, 0, 0, 2, 1, 0, 0, 0, 0⟩) := by decide
/-- KTOK.L, format SY: ksig.l k5, 2 is function 1. -/
theorem test_word_ktokl :
    decode (0x15#6 ++ 0#4 ++ 1#8 ++ 0#5 ++ 0#5 ++ 0#5 ++ 0#3 ++ 0#4 ++ 0x25#24) =
      .ok (.ksigL ⟨Tok.none, 0, 0, 0, .context, 0, 0x25⟩) := by decide
/-- VINT, format VX: vadd.s16 v4, p1, v5, qv2 (50), which waits on the previous stream, is function 0. -/
theorem test_word_vint :
    decode (0x20#6 ++ 0b1000#4 ++ 0#8 ++ 2#4 ++ 1#4 ++ 4#6 ++ 5#6 ++ 50#6 ++ 0#6 ++ 0#14) =
      .ok (.vadd ⟨⟨true, false, false, false⟩, .s16, 1, 4, 5, 50, 0, 0⟩) := by decide
/-- VFP, format VX: vfma.f32 v20, v21, v22, v23 is function 3. -/
theorem test_word_vfp :
    decode (0x21#6 ++ 0#4 ++ 3#8 ++ 10#4 ++ 0#4 ++ 20#6 ++ 21#6 ++ 22#6 ++ 23#6 ++ 0#14) =
      .ok (.vfma ⟨Tok.none, .f32, 0, 20, 21, 22, 23, 0⟩) := by decide
/-- VPERM, format VX: vslideup.n8 v2, v3, by 7 is function 1. -/
theorem test_word_vperm :
    decode (0x23#6 ++ 0#4 ++ 1#8 ++ 1#4 ++ 0#4 ++ 2#6 ++ 3#6 ++ 0#6 ++ 0#6 ++ 7#14) =
      .ok (.vslideup ⟨Tok.none, .n8, 0, 2, 3, 0, 0, 7⟩) := by decide
/-- VPRED, format VX: pxor p4, p5, p6 is function 2. -/
theorem test_word_vpred :
    decode (0x24#6 ++ 0#4 ++ 2#8 ++ 1#4 ++ 0#4 ++ 4#6 ++ 5#6 ++ 6#6 ++ 0#6 ++ 0#14) =
      .ok (.pxor ⟨Tok.none, .n8, 0, 4, 5, 6, 0, 0⟩) := by decide
/-- VMISC, format VX: vmov.b v7, qv0 (48) is function 0. -/
theorem test_word_vmisc :
    decode (0x25#6 ++ 0#4 ++ 0#8 ++ 15#4 ++ 0#4 ++ 7#6 ++ 48#6 ++ 0#6 ++ 0#6 ++ 0#14) =
      .ok (.vmov ⟨Tok.none, .b, 0, 7, 48, 0, 0, 0⟩) := by decide
/-- MAT, format MX: mma m64n128k64 (shape 31) of n8 by s8 into z3 is function 0. -/
theorem test_word_mat :
    decode (0x26#6 ++ 0#4 ++ 0#8 ++ 31#5 ++ 1#4 ++ 0#4 ++ 3#3 ++ 0#6 ++ 0#6 ++ 0#5 ++ 0#13) =
      .ok (.mma ⟨Tok.none, 31, .n8, .s8, .z 3, 0, 0, 0, 0⟩) := by decide
/-- KTOK.C, format SY: kwait.c k3 is function 0. -/
theorem test_word_ktokc :
    decode (0x27#6 ++ 0#4 ++ 0#8 ++ 0#5 ++ 0#5 ++ 0#5 ++ 0#3 ++ 0#4 ++ 0x13#24) =
      .ok (.kwaitC ⟨Tok.none, 0, 0, 0, .context, 0, 0x13⟩) := by decide
/-- STV, format MM: st.v.s32 qs1 (55), p0, s9, offset 64 is function 0. -/
theorem test_word_stv :
    decode (0x30#6 ++ 0#4 ++ 0#8 ++ 4#4 ++ 0#4 ++ 55#6 ++ 9#5 ++ 0#5 ++ 0#6 ++ 64#16) =
      .ok (.stV ⟨Tok.none, .s32, 0, 55, 9, 0, 0, 64⟩) := by decide
/-- STS, format MM: sts.s8 s11, s5, offset 1. -/
theorem test_word_sts :
    decode (0x31#6 ++ 0#4 ++ 0#8 ++ 0#4 ++ 0#4 ++ 11#6 ++ 5#5 ++ 0#5 ++ 0#6 ++ 1#16) =
      .ok (.sts ⟨Tok.none, .s8, 0, 11, 5, 0, 0, 1⟩) := by decide
/-- SSYNC, format SY: rel at device scope (4) of the record at s6 is function 0. -/
theorem test_word_ssync :
    decode (0x32#6 ++ 0#4 ++ 0#8 ++ 0#5 ++ 6#5 ++ 0#5 ++ 4#3 ++ 0#4 ++ 0#24) =
      .ok (.rel ⟨Tok.none, 0, 6, 0, .device, 0, 0⟩) := by decide
/-- TASK, format SY: grais is function 2. -/
theorem test_word_task :
    decode (0x34#6 ++ 0#4 ++ 2#8 ++ 0#5 ++ 0#5 ++ 0#5 ++ 0#3 ++ 0#4 ++ 0#24) =
      .ok (.grais ⟨Tok.none, 0, 0, 0, .context, 0, 0⟩) := by decide
/-- ENG.S, format E: eclr of the S stream is act 2. -/
theorem test_word_engs :
    decode (0x35#6 ++ 0#4 ++ 63#6 ++ 0#6 ++ 0#5 ++ 0#4 ++ 0#4 ++ 0#4 ++ 0#4 ++ 2#5 ++ 0#16) =
      .ok (.eclrS ⟨Tok.none, 63, 0, 0, 0, 0, 0, 0, 0, 0⟩) := by decide

/-- The worked examples of spec/04, spec/05, spec/06, spec/08, spec/09, spec/10 and spec/11. -/
theorem test_examples_memory :
    decode 0x5002_50C0_0000_0000#64 = .ok (.eset ⟨Tok.none, 2, 20, 6, 0, 0, 0, 0, 0, 0⟩) ∧
    decode 0xCC00_0A63_8040_07FE#64 = .ok (.amo ⟨Tok.none, 5, 6, 7, .context, 0, 0x4007FE⟩) ∧
    decode 0xCC00_4096_0A20_0004#64 = .ok (.red ⟨Tok.none, 0, 9, 12, .context, 10, 0x200004⟩) ∧
    decode 0x4800_00B4_2143_03E8#64 = .ok (.gatA ⟨Tok.none, .s8, 2, 52, 4, 5, 3, 0x3E8⟩) ∧
    decode 0x4001_3835_5000_0100#64 = .ok (.ldQsc ⟨Tok.none, .e8m0, 0, 53, 10, 0, 0, 0x100⟩) ∧
    decode 0x4400_0805_3000_FFFE#64 = .ok (.lds ⟨Tok.none, .s16, 0, 5, 6, 0, 0, 0xFFFE⟩) ∧
    decode 0xC400_1007_4800_0008#64 = .ok (.sts ⟨Tok.none, .s32, 0, 7, 9, 0, 0, 8⟩) := by decide
theorem test_examples_vector :
    decode 0x8002_0814_0420_0000#64 = .ok (.vmulW ⟨Tok.none, .s16, 0, 20, 1, 2, 0, 0⟩) ∧
    decode 0x8005_D003_5040_0002#64 = .ok (.vcmp ⟨Tok.none, .s32, 0, 3, 20, 4, 0, 2⟩) ∧
    decode 0x9001_9001_0C00_0000#64 = .ok (.ptest ⟨Tok.none, .s32, 0, 1, 3, 0, 0, 0⟩) ∧
    decode 0x8004_D008_2000_2007#64 = .ok (.vrshr ⟨Tok.none, .s32, 0, 8, 8, 0, 0, 0x2007⟩) ∧
    decode 0x9400_D005_0000_0009#64 = .ok (.vdup ⟨Tok.none, .s32, 0, 5, 0, 0, 0, 9⟩) ∧
    decode 0x8800_1015_5000_000A#64 = .ok (.vcvt ⟨Tok.none, .s32, 0, 21, 20, 0, 0, 10⟩) ∧
    decode 0x8C01_A816_5040_0000#64 = .ok (.vredsum ⟨Tok.none, .f32, 0, 22, 20, 4, 0, 0⟩) ∧
    decode 0x8800_6C08_5000_100A#64 = .ok (.vnarrow ⟨Tok.none, .e4m3, 0, 8, 20, 0, 0, 0x100A⟩) ∧
    decode 0x9800_C000_0908_C000#64 = .ok (.mrd ⟨Tok.none, 0, .s8, .s8, .z 0, 9, 2, 6, 0⟩) ∧
    decode 0x9801_0600_4C78_0210#64 = .ok (.mdrain ⟨Tok.none, 3, .s8, .s8, .z 1, 12, 30, 0, 0x210⟩) := by decide

/-! ## Ill-formed words and terms: one for each check, which the check refuses -/

theorem test_reject_length : decodeBytes [0, 0, 0] = .error .length := by decide
theorem test_reject_major : decode (0x00#6 ++ 0#58) = .error .reservedMajor := by decide
theorem test_reject_fn : decode (0x01#6 ++ 0#4 ++ 34#8 ++ 0#46) = .error .reservedFn := by decide
theorem test_reject_tok : decode (0x01#6 ++ 1#4 ++ 0#54) = .error .tokNonzero := by decide
/-- `clz` with a second source. -/
theorem test_reject_zero : checkInstr (.clz ⟨1, 2, 3⟩) = some .mustBeZero := by decide
/-- `vadd` from operand code 56. -/
theorem test_reject_operand : checkInstr (.vadd ⟨Tok.none, .s8, 0, 1, 56, 2, 0, 0⟩) = some .reservedOperand := by decide
/-- `efire` in mode 7. -/
theorem test_reject_act : checkInstr (.efire { en 0 with mode := 7 }) = some .actValue := by decide
/-- `amo` with subop 10, which only `red` and `vred` have. -/
theorem test_reject_subop : checkInstr (.amo { sy 4 6 7 with scope := .context, subop := 10 }) = some .subopValue := by decide
/-- `vadd` to qv0, a queue of the L stream. -/
theorem test_reject_queue : checkInstr (.vadd ⟨Tok.none, .s8, 0, 48, 1, 2, 0, 0⟩) = some .queueUse := by decide
/-- `vmul.w` of s16 to the pair at v21. -/
theorem test_reject_group : checkInstr (.vmulW ⟨Tok.none, .s16, 0, 21, 1, 2, 0, 0⟩) = some .groupUse := by decide
/-- `vadd` of f32. -/
theorem test_reject_type : checkInstr (.vadd ⟨Tok.none, .f32, 0, 1, 2, 3, 0, 0⟩) = some .typeCode := by decide
/-- `mwr` of 16 rows from row 63. -/
theorem test_reject_rows : checkInstr (.mwr (mx 3 0 4 0x1F80)) = some .rowRange := by decide
/-- `csrr` of a register that the map does not hold. -/
theorem test_reject_csr : checkInstr (.csrr ⟨1, 0, 0xFFF⟩) = some .csrNumber := by decide
/-- `tpost` to target 3. -/
theorem test_reject_field : checkInstr (.tpost { sy 4 0 7 with scope := .context, imm := 3 }) = some .fieldValue := by decide
theorem test_reject_privileged : levelCheck false (.rett ⟨0, 0, 0⟩) = some .privileged := by decide
theorem test_well_formed : (Instr.clz ⟨1, 2, 0⟩).wellFormed = true ∧ (Instr.clz ⟨1, 2, 3⟩).wellFormed = false := by decide

/-! ## Single steps -/

/-- The state after an instruction. -/
def after (i : Instr) (s : State) : Option State :=
  match exec i s with
  | .next t => some t
  | _ => none

/-- s7 after an instruction on s5 and s6. -/
def scalar (i : Instr) (a b : Word) : Option Word :=
  (after i (oneCtx fun x => writeS 5 a (writeS 6 b x))).map fun t => readS t.me 7

/-! The table 'Borderline scalar results' of spec/12. -/

theorem test_div : scalar (.divS ⟨7, 5, 6⟩) (-7) 2 = some (-3) ∧
    scalar (.divS ⟨7, 5, 6⟩) 0x8000_0000_0000_0000 (-1) = some 0x8000_0000_0000_0000 := by decide +kernel
theorem test_rem : scalar (.remS ⟨7, 5, 6⟩) (-7) 2 = some (-1) ∧
    scalar (.remS ⟨7, 5, 6⟩) 0x8000_0000_0000_0000 (-1) = some 0 := by decide +kernel
theorem test_div_zero : scalar (.divN ⟨7, 5, 6⟩) 5 0 = some 0xFFFF_FFFF_FFFF_FFFF ∧
    scalar (.remN ⟨7, 5, 6⟩) 5 0 = some 5 := by decide +kernel
theorem test_mulh : scalar (.mulhS ⟨7, 5, 6⟩) (-1) 2 = some (-1) ∧ scalar (.mulhN ⟨7, 5, 6⟩) (-1) 2 = some 1 := by
  decide +kernel
theorem test_shl : scalar (.shl ⟨7, 5, 6⟩) 1 65 = some 2 := by decide +kernel
theorem test_rot : scalar (.rot ⟨7, 5, 6⟩) 1 1 = some 0x8000_0000_0000_0000 := by decide +kernel
theorem test_zeros : scalar (.clz ⟨7, 5, 0⟩) 0 0 = some 64 ∧ scalar (.ctz ⟨7, 5, 0⟩) 0 0 = some 64 := by decide +kernel
theorem test_sext : scalar (.sextB ⟨7, 5, 0⟩) 0x80 0 = some 0xFFFF_FFFF_FFFF_FF80 := by decide +kernel
theorem test_slti : scalar (.sltiN ⟨7, 5, -1⟩) 5 0 = some 1 := by decide +kernel
theorem test_lih : scalar (.lih ⟨7, 5, 0x7F1⟩) 0x1000 0 = some 0x7F10_0000_1000 := by decide +kernel

/-- Element 0 of v3 after an instruction on v1 and v2, of a width. -/
def lane0 (w : Nat) (i : Instr) (a b : Nat) : Option Nat :=
  (after i (oneCtx fun x => { x with regs := { x.regs with
    v := (x.regs.v.set 1 (BitVec.ofNat 4096 a)).set 2 (BitVec.ofNat 4096 b) } })).map fun t => elem w 0 (t.me.regs.v[3])

/-- An 8-bit operation on v1 and v2 with modifiers. -/
def v8 (t : Ty) (m : BitVec 14) : VX := ⟨Tok.none, t, 0, 3, 1, 2, 0, m⟩

/-! The table 'Borderline results, 8-bit' of spec/08. -/

theorem test_vadd : lane0 8 (.vadd (v8 .s8 0)) 127 1 = some 0x80 ∧ lane0 8 (.vaddSat (v8 .s8 0)) 127 1 = some 0x7F := by
  decide +kernel
theorem test_vsub : lane0 8 (.vsubSat (v8 .n8 0)) 3 5 = some 0 := by decide +kernel
theorem test_vmulh : lane0 8 (.vmulh (v8 .s8 0)) 0x80 0x80 = some 64 ∧ lane0 8 (.vmulh (v8 .s8 0)) 0xFD 5 = some 0xFF := by
  decide +kernel
theorem test_vabs : lane0 8 (.vabs { v8 .s8 0 with vb := 0 }) 0x80 0 = some 0x80 ∧
    lane0 8 (.vabs { v8 .s8 0x1000 with vb := 0 }) 0x80 0 = some 0x7F := by decide +kernel
theorem test_vneg : lane0 8 (.vneg { v8 .n8 0 with vb := 0 }) 1 0 = some 0xFF ∧
    lane0 8 (.vneg { v8 .n8 0x1000 with vb := 0 }) 1 0 = some 0 := by decide +kernel
theorem test_vshr : lane0 8 (.vshr (v8 .s8 0)) 0x80 9 = some 0xFF ∧ lane0 8 (.vshr (v8 .s8 0)) 0x80 0xFF = some 0xFF := by
  decide +kernel
theorem test_vavg : lane0 8 (.vavg (v8 .s8 0)) 0xFF 0 = some 0 ∧ lane0 8 (.vavg (v8 .n8 0)) 0xFF 0xFF = some 0xFF := by
  decide +kernel
theorem test_vclz : lane0 8 (.vclz { v8 .s8 0 with vb := 0 }) 0 0 = some 8 ∧
    lane0 8 (.vpopc { v8 .s8 0 with vb := 0 }) 0xFF 0 = some 8 := by decide +kernel
theorem test_vmin : lane0 8 (.vmin (v8 .n8 0)) 0xFF 1 = some 1 ∧ lane0 8 (.vmin (v8 .s8 0)) 0xFF 1 = some 0xFF := by
  decide +kernel

/-- Element 0 of v8 and the flags of FPC after an instruction with vector registers as given. -/
def lane8 (w : Nat) (i : Instr) (l : List (Fin 48 × VReg)) : Option (Nat × Nat) :=
  (after i (oneCtx fun x => { x with regs := { x.regs with v := l.foldl (fun v p => v.set p.1.val p.2) x.regs.v } })).map
    fun t => (elem w 0 t.me.regs.v[8], t.me.fpc.toNat)

/-- 465.0 and 464.0 to e4m3 (the table of spec/07): overflow and inexact, or a tie to even. -/
theorem test_vnarrow :
    lane8 8 (.vnarrow ⟨Tok.none, .e4m3, 0, 8, 4, 0, 0, 0xA⟩) [(4, 0x43E8_8000)] = some (0x7F, 0x14) ∧
    lane8 8 (.vnarrow ⟨Tok.none, .e4m3, 0, 8, 4, 0, 0, 0xA⟩) [(4, 0x43E8_0000)] = some (0x7E, 0x04) := by
  decide +kernel
/-- Requantisation of 1,000,016 and -48 to s16 (the table of spec/07). -/
theorem test_vrqs :
    lane8 16 (.vrqs ⟨Tok.none, .s16, 0, 8, 2, 4, 6, 0⟩) [(2, 0x000F_4250), (4, 0x4000_0000), (6, 0x0003_0004)] =
      some (0x7A16, 0) ∧
    lane8 16 (.vrqs ⟨Tok.none, .s16, 0, 8, 2, 4, 6, 0⟩) [(2, 0xFFFF_FFD0), (4, 0x4000_0000), (6, 0x0003_0004)] =
      some (2, 0) := by decide +kernel
/-- -3.25 to s32 rounds to -3 and is inexact (the table 'Results' of spec/09). -/
theorem test_vcvt : lane8 32 (.vcvt ⟨Tok.none, .s32, 0, 8, 4, 0, 0, 10⟩) [(4, 0xC050_0000)] = some (0xFFFF_FFFD, 4) := by
  decide +kernel

/-- The part when the banks of core 0 have granted what was presented to them. -/
def banksIdle (s : State) : State := s.modCore 0 fun k => { k with now := [], taken := [] }

/-- A word stored in the own slice reads back sign-extended, an aclk later (spec/06 R124, spec/11 R216). -/
theorem test_sts_lds :
    (((after (.sts { mm .n32 7 with sb := 0 }) (wm.modCtx 0 (writeS 7 0xFFFF_FFFF_8000_0001))).map banksIdle).bind
      (after (.lds { mm .s32 6 with sb := 0 }))).map (fun t => (readS t.me 6, memNat t.mem (sliceKey 0 0) 8)) =
      some (0xFFFF_FFFF_8000_0001, 0x8000_0001) := by decide +kernel
/-- `amo.add.w` returns the old word, sign-extended, and adds (spec/05 R99). -/
theorem test_amo :
    (after (.amo { sy 4 6 7 with scope := .context }) (withRecord [0xFFFF_FFFF] 2)).map
      (fun t => (readS t.me 7, memNat t.mem (sliceKey 0 0) 4)) = some (-1, 1) := by decide +kernel
/-- 2^24 + 1 rounds to the even 2^24 at the home (the worked example of spec/05). -/
theorem test_red_fadd :
    memNat (reduceItem 10 false (memPutNat [] 0 4 0x4B80_0000) (0, 0x3F80_0000)) 0 4 = 0x4B80_0000 := by decide +kernel
/-- Two addends merged before they reach the home: 2^24 + 2 (the worked example of spec/05). -/
theorem test_red_merged :
    homeOp 10 32 0x4B80_0000 (mergeSum (fun _ => true) 4 [0x3F80_0000, 0x3F80_0000]) = 0x4B80_0001 := by decide +kernel
/-- `trapi 7` at its region's retirement: cause 12, the immediate, the handler (spec/18 R354). -/
theorem test_trapi :
    (after (.regionRetire 0) (oneCtx (closedAt (.trapi 7)))).map
      (fun t => (t.me.trap.tcause, t.me.trap.tval, t.me.regs.pc, t.me.id.sys)) = some (12, 7, 0x2000, true) := by
  decide +kernel
/-- A jump to an address that is no multiple of 8: cause 3 and the address (spec/02 R22, spec/18 R354). -/
theorem test_jr_misaligned :
    (after (.jr ⟨0, 5, 0⟩) (oneCtx (writeS 5 0x1004))).map (fun t => (t.me.trap.tcause, t.me.trap.tval, t.me.regs.pc)) =
      some (3, 0x1004, 0x2000) := by decide +kernel
/-- `rett` at user level: cause 2 (spec/18 R360). -/
theorem test_rett_user :
    (after (.rett ⟨0, 0, 0⟩) w0).map (fun t => (t.me.trap.tcause, t.me.trap.tpc)) = some (2, 0x1000) := by decide +kernel
/-- After reset no context runs, nobody owns the part and the matrix of queues is disabled (spec/21 R400). -/
theorem test_reset :
    (∀ c : CtxId, (State.reset.ctx c).bank = .empty) ∧ State.reset.dev.owner.v = false ∧
      ∀ q : QueueId, (State.reset.queue q).en = false := by decide +kernel

end Sys2Proof.Machine
end

section
/-! PROOFS. The owner of BAR0 and the writes of its registers (spec/21 R397 to R399), with the move of main memory under
another partition (spec/03 R48, R49). -/

namespace Sys2Proof.Machine

/-! ## Memory moved to other addresses -/

theorem memRead_of_unlisted {m : List Host.Cell} {a : Nat} (h : ∀ c ∈ m, c.1 ≠ a) :
    memRead m a = memDefault := by
  induction m with
  | nil => rfl
  | cons c m ih =>
    obtain ⟨hc, hm⟩ := List.forall_mem_cons.1 h
    simp only [memRead, if_neg hc, ih hm]

theorem memRead_of_mem {m : List Host.Cell} (h : memWf m = true) {c : Host.Cell} (hc : c ∈ m) :
    memRead m c.1 = c.2 := by
  induction m with
  | nil => cases hc
  | cons d m ih =>
    have hlt := (List.pairwise_cons.1 ((memWf_iff _).1 h).1).1
    rcases List.mem_cons.1 hc with rfl | hc
    · simp [memRead]
    · have hne : d.1 ≠ c.1 := (hlt c hc).ne
      simp only [memRead, if_neg hne, ih (memWf_tail h) hc]

/-- A byte whose cell passes a filter reads as before it. -/
theorem memRead_filter {p : Host.Cell → Bool} {m : List Host.Cell} {a : Nat} (h : ∀ c, c.1 = a → p c = true) :
    memRead (m.filter p) a = memRead m a := by
  induction m with
  | nil => rfl
  | cons c m ih =>
    by_cases hc : c.1 = a
    · simp [h c hc, memRead, hc]
    · cases hp : p c <;> simp [hp, memRead, hc, ih]

/-- Cells written at other addresses leave a byte. -/
theorem memRead_moved_other (f : Nat → Nat) {l m : List Host.Cell} {a : Nat} (h : ∀ c ∈ l, f c.1 ≠ a) :
    memRead (l.foldl (fun m c => memWrite m (f c.1) c.2) m) a = memRead m a := by
  induction l generalizing m with
  | nil => rfl
  | cons c l ih =>
    obtain ⟨hc, hl⟩ := List.forall_mem_cons.1 h
    rw [List.foldl_cons, ih hl, memRead_write_other _ _ hc.symm]

/-- A cell written at its new address reads there, when no later one is written to the same address. -/
theorem memRead_moved_mem (f : Nat → Nat) {l m : List Host.Cell} (hm : memWf m = true)
    (hl : l.Pairwise fun c d => f c.1 ≠ f d.1) {c : Host.Cell} (hc : c ∈ l) :
    memRead (l.foldl (fun m c => memWrite m (f c.1) c.2) m) (f c.1) = c.2 := by
  induction l generalizing m with
  | nil => cases hc
  | cons d l ih =>
    obtain ⟨hd, hl⟩ := List.pairwise_cons.1 hl
    rw [List.foldl_cons]
    rcases List.mem_cons.1 hc with rfl | hc
    · rw [memRead_moved_other f fun e he => (hd e he).symm, memRead_write_same hm]
    · exact ih (memWf_write hm _ _) hl hc

/-! ## Channels of main memory (spec/03 R47 to R49) -/

/-- Main memory is sixteen channels of a number of units of 32 MiB each. -/
theorem dramC_units (s : State) : ∃ k, dramC s = 16 * (2 ^ 25 * k) ∧ k ≤ 256 := by
  unfold dramC
  split
  · exact ⟨64, by decide, by decide⟩
  · exact ⟨128, by decide, by decide⟩
  · exact ⟨256, by decide, by decide⟩
  · exact ⟨0, rfl, by decide⟩

/-- All of main memory lies below the outbound window. -/
theorem dramC_le_outBase (s : State) : dramC s ≤ outBase := by
  obtain ⟨k, hk, hle⟩ := dramC_units s
  rw [hk, outBase]
  omega

/-- The global region is a number of units of 32 MiB too, at most all of main memory. -/
theorem dramG_units (s : State) :
    ∃ n k, dramG s = 2 ^ 25 * n ∧ dramC s = 16 * (2 ^ 25 * k) ∧ n ≤ 16 * k := by
  obtain ⟨k, hk, -⟩ := dramC_units s
  refine ⟨min s.dev.gsz.toNat (16 * k), k, ?_, hk, min_le_right _ _⟩
  rw [dramG, hk]
  omega

theorem channelOf_lt (s : State) (b : Nat) : channelOf s b < 16 := by
  simp only [channelOf]
  split_ifs <;> omega

theorem channelOffset_lt {s : State} {b : Nat} (hb : b < dramC s) : channelOffset s b < dramC s / 16 := by
  obtain ⟨n, k, hg, hc, hn⟩ := dramG_units s
  rw [hc] at hb
  simp only [channelOffset, hg, hc]
  split_ifs <;> omega

/-- A byte of main memory is the one at its offset of its channel. -/
theorem channelPa_channelOf (s : State) (b : Nat) : channelPa s (channelOf s b) (channelOffset s b) = b := by
  obtain ⟨n, k, hg, hc, hn⟩ := dramG_units s
  simp only [channelPa, channelOf, channelOffset, hg, hc]
  split_ifs <;> omega

section place
variable {s : State} {ch off : Nat} (hch : ch < 16) (hoff : off < dramC s / 16)
include hch hoff

theorem channelPa_lt : channelPa s ch off < dramC s := by
  obtain ⟨n, k, hg, hc, hn⟩ := dramG_units s
  rw [hc] at hoff
  simp only [channelPa, hg, hc]
  split_ifs <;> omega

theorem channelOf_channelPa : channelOf s (channelPa s ch off) = ch := by
  obtain ⟨n, k, hg, hc, hn⟩ := dramG_units s
  rw [hc] at hoff
  simp only [channelPa, channelOf, hg, hc]
  split_ifs <;> omega

theorem channelOffset_channelPa : channelOffset s (channelPa s ch off) = off := by
  obtain ⟨n, k, hg, hc, hn⟩ := dramG_units s
  rw [hc] at hoff
  simp only [channelPa, channelOffset, hg, hc]
  split_ifs <;> omega

end place

/-! ## A change of the partition (spec/03 R49) -/

/-- The address that a byte of main memory has under the partition of another state. -/
def movedPa (s t : State) (b : Nat) : Nat := channelPa t (channelOf s b) (channelOffset s b)

theorem repartition_eq (s t : State) :
    repartition s t = (s.mem.filter fun c => isDram c.1).foldl (fun m c => memWrite m (movedPa s t c.1) c.2)
      (s.mem.filter fun c => !isDram c.1) := rfl

section moved
variable {s t : State} (hC : dramC t = dramC s)
include hC

theorem movedPa_lt {b : Nat} (hb : b < dramC s) : movedPa s t b < dramC s :=
  hC ▸ channelPa_lt (channelOf_lt s b) (hC ▸ channelOffset_lt hb)

/-- Two bytes of main memory do not come to one address: an address gives back its channel and its offset there. -/
theorem movedPa_injective {a b : Nat} (ha : a < dramC s) (hb : b < dramC s)
    (h : movedPa s t a = movedPa s t b) : a = b := by
  have hao : channelOffset s a < dramC t / 16 := hC ▸ channelOffset_lt ha
  have hbo : channelOffset s b < dramC t / 16 := hC ▸ channelOffset_lt hb
  have hch : channelOf s a = channelOf s b := by
    rw [← channelOf_channelPa (channelOf_lt s a) hao, ← channelOf_channelPa (channelOf_lt s b) hbo]
    exact congrArg (channelOf t) h
  have hoff : channelOffset s a = channelOffset s b := by
    rw [← channelOffset_channelPa (channelOf_lt s a) hao, ← channelOffset_channelPa (channelOf_lt s b) hbo]
    exact congrArg (channelOffset t) h
  rw [← channelPa_channelOf s a, ← channelPa_channelOf s b, hch, hoff]

variable (hlist : ∀ c ∈ s.mem, isDram c.1 = true → c.1 < dramC s)
include hlist

/-- What is no byte of main memory reads as before. -/
theorem memRead_repartition_other {a : Nat} (ha : isDram a = false) :
    memRead (repartition s t) a = memRead s.mem a := by
  rw [repartition_eq, memRead_moved_other, memRead_filter fun c hc => by simp [hc, ha]]
  intro c hc heq
  obtain ⟨hmem, hdram⟩ := List.mem_filter.1 hc
  have hlt := (movedPa_lt hC (hlist c hmem hdram)).trans_le (dramC_le_outBase s)
  have hge : outBase ≤ a := by simpa [isDram] using ha
  omega

/-- A byte of main memory reads at its new address as before at its old one. -/
theorem memRead_repartition_moved (hm : memWf s.mem = true) {b : Nat} (hb : b < dramC s) :
    memRead (repartition s t) (movedPa s t b) = memRead s.mem b := by
  have hin : ∀ c ∈ s.mem.filter (fun c => isDram c.1), c.1 < dramC s := fun c hc =>
    hlist c (List.mem_filter.1 hc).1 (List.mem_filter.1 hc).2
  have hdram : ∀ {a : Nat}, a < dramC s → isDram a = true := fun ha =>
    decide_eq_true (ha.trans_le (dramC_le_outBase s))
  rw [repartition_eq]
  by_cases hl : ∃ c ∈ s.mem, c.1 = b
  · obtain ⟨c, hc, rfl⟩ := hl
    have hapart : (s.mem.filter fun c => isDram c.1).Pairwise fun c d => movedPa s t c.1 ≠ movedPa s t d.1 :=
      (((memWf_iff _).1 hm).1.filter _).imp_of_mem fun hx hy hxy heq =>
        hxy.ne (movedPa_injective hC (hin _ hx) (hin _ hy) heq)
    rw [memRead_moved_mem _ (memWf_sublist hm List.filter_sublist) hapart
      (List.mem_filter.2 ⟨hc, hdram hb⟩), memRead_of_mem hm hc]
  · have hl : ∀ c ∈ s.mem, c.1 ≠ b := fun c hc h => hl ⟨c, hc, h⟩
    rw [memRead_of_unlisted hl, memRead_moved_other, memRead_of_unlisted]
    · intro c hc heq
      have := (List.mem_filter.1 hc).2
      simp [heq, hdram (movedPa_lt hC hb)] at this
    · exact fun c hc heq => hl c (List.mem_filter.1 hc).1 (movedPa_injective hC (hin c hc) hb heq)

end moved

theorem setGsz_mem_of_same {v : BitVec 13} {s : State} (h : (setGsz v s).dev.gsz = s.dev.gsz) :
    (setGsz v s).mem = s.mem := if_pos h

theorem setGsz_mem_of_changed {v : BitVec 13} {s : State} (h : (setGsz v s).dev.gsz ≠ s.dev.gsz) :
    (setGsz v s).mem = repartition s (setGsz v s) := if_neg h

/-- Without another gsz no byte of main memory moves. -/
theorem movedPa_of_same {s t : State} (hs : t.dev.straps = s.dev.straps) (hg : t.dev.gsz = s.dev.gsz) (b : Nat) :
    movedPa s t b = b := by
  have hC : dramC t = dramC s := by rw [dramC, hs, dramC]
  have hG : dramG t = dramG s := by rw [dramG, hg, hC, dramG]
  have h : channelPa t = channelPa s := by
    funext ch off
    simp only [channelPa, hC, hG]
  rw [movedPa, h, channelPa_channelOf]

/-- Every byte keeps its place under a new gsz (spec/03 R48, R49): in its channel, or outside main memory. -/
theorem setGsz_keeps_places {s : State} (v : BitVec 13) (hm : s.memOk)
    (hlist : ∀ c ∈ s.mem, isDram c.1 = true → c.1 < dramC s) :
    (∀ b, b < dramC s → memRead (setGsz v s).mem (movedPa s (setGsz v s) b) = memRead s.mem b) ∧
      ∀ b, isDram b = false → memRead (setGsz v s).mem b = memRead s.mem b := by
  by_cases h : (setGsz v s).dev.gsz = s.dev.gsz
  · have hb := movedPa_of_same (s := s) (t := setGsz v s) rfl h
    rw [setGsz_mem_of_same h]
    exact ⟨fun b _ => by rw [hb], fun _ _ => rfl⟩
  · have hC : dramC (setGsz v s) = dramC s := rfl
    rw [setGsz_mem_of_changed h]
    exact ⟨fun b => memRead_repartition_moved hC hlist hm, fun b => memRead_repartition_other hC hlist⟩

theorem anyEnabled_iff (s : State) : anyEnabled s = true ↔ ∃ q : QueueId, (s.queue q).en = true := by
  simp only [anyEnabled, List.any_eq_true, Vector.mem_toList_iff, Vector.mem_iff_getElem, State.queue]
  constructor
  · rintro ⟨_, ⟨i, hi, rfl⟩, he⟩
    exact ⟨⟨i, hi⟩, he⟩
  · rintro ⟨q, he⟩
    exact ⟨_, ⟨q.val, q.isLt, rfl⟩, he⟩

/-- Equal next states are equal outcomes. -/
theorem next_congr {s t : State} (h : s = t) : (.next s : Host.Outcome State Fault Refusal) = .next t := congrArg _ h

/-! ## Who may write (spec/21 R397, R398) -/

theorem ownerWrite_of_owns {s : State} {m : Master} (h : owns s m = true) (f : State → State) :
    ownerWrite m f s = .next (f s) := by
  rw [ownerWrite, if_pos h]

theorem ownerWrite_of_not_owns {s : State} {m : Master} (h : owns s m = false) (f : State → State) :
    ownerWrite m f s = .next (dropWrite s) := by
  rw [ownerWrite, h, if_neg Bool.false_ne_true]

theorem owns_iff (s : State) (m : Master) :
    owns s m = true ↔ s.dev.owner.v = true ∧ s.dev.owner.own = masterCode m := by
  simp [owns]

/-- A drop counts up to FFFFH. -/
theorem dropWrite_eq (s : State) :
    dropWrite s = s.modDev fun d => { d with owner := { d.owner with
      ndrop := if d.owner.ndrop.toNat = 65535 then d.owner.ndrop else d.owner.ndrop + 1 } } := by
  have hmax : s.dev.owner.ndrop = 0xFFFF#16 ↔ s.dev.owner.ndrop.toNat = 65535 :=
    ⟨fun h => h ▸ rfl, fun h => BitVec.eq_of_toNat_eq h⟩
  simp only [dropWrite, State.modDev, hmax]

/-! ## Claim, election and handover (spec/21 R398, R399) -/

/-- The place of a master among claims at one TIME: the service port before the functions, and these before I3C. -/
def claimRank (c : BitVec 2) : Nat := if c = 3 then 0 else c.toNat + 1

theorem outranks_iff : ∀ m n : BitVec 2, outranks m n = true ↔ claimRank m < claimRank n := by decide

/-- A claim that finds no owner, or that arrives together with one that it outranks. -/
def claimsFirst (s : State) (m : BitVec 2) : Prop :=
  s.dev.owner.v = false ∨ s.dev.owner.claimAt = some s.dev.time ∧ claimRank m < claimRank s.dev.owner.own

theorem claimsFirst_iff (s : State) (m : BitVec 2) :
    (!s.dev.owner.v || (s.dev.owner.claimAt == some s.dev.time && outranks m s.dev.owner.own)) = true ↔
      claimsFirst s m := by
  rw [claimsFirst, Bool.or_eq_true, Bool.and_eq_true, Bool.not_eq_true', beq_iff_eq, outranks_iff]

theorem handoverOpen_iff (s : State) : handoverOpen s = true ↔
    s.dev.owner.ho = true ∧ (s.dev.time - s.dev.owner.hoFrom).toNat < 100000000 := by
  rw [handoverOpen, Bool.and_eq_true, decide_eq_true_eq, handoverTime]

section claim
variable {s : State} {m : BitVec 2}

theorem claim_of_first (h : claimsFirst s m) : claim m s = modOwner
    (fun o => { o with v := true, own := m, beat := s.dev.time, claimAt := some s.dev.time }) s := by
  unfold claim
  rw [if_pos ((claimsFirst_iff s m).2 h)]
  rfl

theorem claim_of_handover (h : ¬ claimsFirst s m) (ho : handoverOpen s = true) (ht : s.dev.owner.target = m) :
    claim m s = modOwner
      (fun o => { o with ho := false, v := true, own := m, beat := s.dev.time, claimAt := none }) s := by
  unfold claim
  rw [if_neg (mt (claimsFirst_iff s m).1 h), if_pos (by simp [ho, ht])]
  rfl

theorem claim_of_neither (h : ¬ claimsFirst s m) (ho : ¬ (handoverOpen s = true ∧ s.dev.owner.target = m)) :
    claim m s = s := by
  unfold claim
  rw [if_neg (mt (claimsFirst_iff s m).1 h), if_neg (by simpa using ho)]

end claim

/-- The owner record after an election at a TIME. -/
def electedOwner (now : Word) (o : Owner) : Owner :=
  match ([3, 0, 1, 2] : List (BitVec 2)).find? fun c => o.cand.getLsbD c.toNat && c != o.own with
  | some c => { o with ho := false, v := true, own := c, beat := now, claimAt := none }
  | none => { o with ho := false, v := false }

theorem election_eq (s : State) : election s = modOwner (electedOwner s.dev.time) s := by
  simp only [election, electedOwner, priority, modOwner, State.modDev, makeOwner]
  generalize List.find? (fun c => s.dev.owner.cand.getLsbD c.toNat && c != s.dev.owner.own) _ = winner
  cases winner with
  | some c => rfl
  | none => rfl

theorem owns_setCand (s : State) (m n : Master) (on : Bool) : owns (modOwner (setCand n on) s) m = owns s m := rfl

section ownctl
variable {s : State} {m : Master} {v : Word} (hclaim : v.getLsbD 3 = false)
include hclaim

/-- OWNCTL written without claim by a master that is not the owner. -/
theorem ownctlReg_of_not_owns (h : owns s m = false) :
    ownctlReg m v s = modOwner (setCand m (v.getLsbD (12 + (masterCode m).toNat))) s := by
  simp only [ownctlReg, owns_setCand, h, hclaim, Bool.false_eq_true, if_false]

/-- OWNCTL written without rel and claim by the owner. -/
theorem ownctlReg_of_owns (hrel : v.getLsbD 8 = false) (h : owns s m = true) :
    ownctlReg m v s = modOwner (fun o => { setCand m (v.getLsbD (12 + (masterCode m).toNat)) o with
      hbto := v.extractLsb' 4 4, ho := v.getLsbD 9, target := v.extractLsb' 10 2
      hoFrom := if v.getLsbD 9 then s.dev.time else o.hoFrom }) s := by
  simp only [ownctlReg, owns_setCand, h, hclaim, hrel, Bool.false_eq_true, if_false, if_true]
  rfl

end ownctl

theorem exec_ownctlReg (m : Master) (v : Word) (s : State) :
    exec (.registerWrite 0x10_C000 ⟨m, v⟩) s = .next (ownctlReg m v s) := by
  change execRegisterWrite _ _ _ = _
  rw [execRegisterWrite, if_pos rfl]

/-- 2^hbto ms without a heartbeat end in an election. -/
theorem exec_heartbeatExpiry {s : State} (hv : s.dev.owner.v = true)
    (hlate : 2 ^ s.dev.owner.hbto.toNat * 1000000 ≤ (s.dev.time - s.dev.owner.beat).toNat) :
    exec .heartbeatExpiry s = .next (election s) := by
  change execHeartbeatExpiry s = _
  simp only [execHeartbeatExpiry, hv, hlate, decide_true, Bool.and_self, if_true]

/-- A handover whose window has closed lapses. -/
theorem exec_handoverTimeout {s : State} (hho : s.dev.owner.ho = true) (hclosed : handoverOpen s = false) :
    exec .handoverTimeout s = .next (modOwner (fun o => { o with ho := false }) s) := by
  change execHandoverTimeout s = _
  simp only [execHandoverTimeout, hho, hclosed, Bool.not_false, Bool.and_self, if_true]

/-! ## Registers of BAR0 by their place (spec/21 R397) -/

section blocks
variable (v : Word) (s : State)

theorem blockReg_ring (h : HalfId) {off : Nat} (hoff : off < 0x20) :
    blockReg (0x100 + 0x20 * h.val + off) v s = ringReg h off v s := by
  have hh : Fin.ofNat 2 ((0x100 + 0x20 * h.val + off - 0x100) / 0x20) = h :=
    Fin.ext (by simp only [Fin.ofNat]; omega)
  have ho : (0x100 + 0x20 * h.val + off) % 0x20 = off := by omega
  rw [blockReg, if_pos (by omega), hh, ho]

theorem blockReg_turnout (n : TurnoutId) {off : Nat} (hoff : off < 0x40) :
    blockReg (0x1000 + 0x40 * n.val + off) v s = turnoutReg n off v s := by
  have hn : Fin.ofNat 64 ((0x1000 + 0x40 * n.val + off - 0x1000) / 0x40) = n :=
    Fin.ext (by simp only [Fin.ofNat]; omega)
  have ho : (0x1000 + 0x40 * n.val + off) % 0x40 = off := by omega
  rw [blockReg, if_neg (by omega), if_pos (by omega), hn, ho]

theorem blockReg_weight (q : QueueId) :
    blockReg (0x5100 + 8 * q.val) v s = s.modQueue q fun x => { x with wt := v.extractLsb' 0 8 } := by
  have hq : Fin.ofNat 64 ((0x5100 + 8 * q.val - 0x5100) / 8) = q := Fin.ext (by simp only [Fin.ofNat]; omega)
  rw [blockReg, if_neg (by omega), if_neg (by omega), if_neg (by omega), if_pos (by omega), hq]

theorem blockReg_queue (q : QueueId) {off : Nat} (hoff : off < 0x40) :
    blockReg (0x6000 + 0x40 * q.val + off) v s = queueReg q off v s := by
  have hq : Fin.ofNat 64 ((0x6000 + 0x40 * q.val + off - 0x6000) / 0x40) = q :=
    Fin.ext (by simp only [Fin.ofNat]; omega)
  have ho : (0x6000 + 0x40 * q.val + off) % 0x40 = off := by omega
  rw [blockReg, if_neg (by omega), if_neg (by omega), if_neg (by omega), if_neg (by omega), if_pos (by omega), hq, ho]

theorem blockReg_csave (k : CoreId) : blockReg (0x8000 + 8 * k.val) v s = csaveReg k v s := by
  have hk : Fin.ofNat 64 ((0x8000 + 8 * k.val - 0x8000) / 8) = k := Fin.ext (by simp only [Fin.ofNat]; omega)
  rw [blockReg, if_neg (by omega), if_neg (by omega), if_neg (by omega), if_neg (by omega), if_neg (by omega),
    if_pos (by omega), hk]

theorem sluiceReg_eq (c : CtxId) (k : Fin 5) : sluiceReg c k.val v s =
    s.modCtx c fun x => { x with sluice := x.sluice.set k.val (v.extractLsb' 0 8) } := by
  have hset : ∀ (l : Vector (BitVec 8) 5) (b : BitVec 8), l.setIfInBounds k.val b = l.set k.val b := fun l b =>
    Vector.ext fun i hi => by rw [Vector.getElem_setIfInBounds, Vector.getElem_set]
  simp only [sluiceReg, hset]

theorem blockReg_sluice (c : CtxId) (k : Fin 5) :
    blockReg (0xA000 + 0x40 * c.val + 8 * k.val) v s = sluiceReg c k.val v s := by
  have hc : Fin.ofNat 128 ((0xA000 + 0x40 * c.val + 8 * k.val - 0xA000) / 0x40) = c :=
    Fin.ext (by simp only [Fin.ofNat]; omega)
  have ho : (0xA000 + 0x40 * c.val + 8 * k.val) % 0x40 / 8 = k.val := by omega
  rw [blockReg, if_neg (by omega), if_neg (by omega), if_neg (by omega), if_neg (by omega), if_neg (by omega),
    if_neg (by omega), if_pos (by omega), hc, ho]

theorem blockReg_sampBase (h : HalfId) :
    blockReg (0x9300 + 0x10 * h.val) v s = s.modHalf h fun x => { x with samp := ringBase s 32 v x.samp } :=
  match h with
  | 0 => rfl
  | 1 => rfl

theorem blockReg_sampCtl (h : HalfId) :
    blockReg (0x9308 + 0x10 * h.val) v s = s.modHalf h fun x => { x with samp := headCtl s v x.samp } :=
  match h with
  | 0 => rfl
  | 1 => rfl

end blocks

/-- PWRCFG.lim as it acts, in numbers (spec/20 R389). -/
theorem clampLim_eq (v : Word) :
    clampLim (v.extractLsb' 0 8) = BitVec.ofNat 8 (max 10 (min 150 (v.toNat % 256))) := by
  have hv : (v.extractLsb' 0 8).toNat = v.toNat % 256 := by simp
  apply BitVec.eq_of_toNat_eq
  rw [clampLim, hv, BitVec.toNat_ofNat]
  split_ifs
  · simp; omega
  · simp; omega
  · rw [hv]; omega

/-! ## The page-request ring (spec/03 R416) -/

theorem raiseIrq_half (fn : Fin 2) (vec : Fin 66) (s : State) (h : HalfId) :
    (raiseIrq fn vec s).half h = s.half h := by
  unfold raiseIrq
  split <;> rfl

/-- A vector is sent when its entry is not masked. -/
theorem raiseIrq_msixLog (fn : Fin 2) (vec : Fin 66) (s : State) : (raiseIrq fn vec s).msixLog =
    s.msixLog ++ if !(s.dev.fns[fn.val].msix[vec.val]).getLsbD 96 then [⟨fn, vec.val⟩] else [] := by
  unfold raiseIrq
  cases (s.dev.fns[fn.val].msix[vec.val]).getLsbD 96 <;> simp

theorem setPrq_half (h : HalfId) (r : RingReg) (s : State) :
    (setPrq h r s).half h = { s.half h with prq := r } := by
  unfold setPrq
  extract_lets t
  split
  · rw [raiseIrq_half]
    exact State.modHalf_half_same ..
  · exact State.modHalf_half_same ..

theorem setPrq_msixLog (h : HalfId) (r : RingReg) (s : State) : (setPrq h r s).msixLog =
    s.msixLog ++ if r.berr && !(s.half h).prq.berr &&
      !(s.dev.fns[(ownerFn s).val].msix[64 + h.val]).getLsbD 96 then [⟨ownerFn s, 64 + h.val⟩] else [] := by
  unfold setPrq
  extract_lets t
  cases hraise : r.berr && !(s.half h).prq.berr
  · simp [t]
  · rw [if_pos rfl, raiseIrq_msixLog, Bool.true_and]
    rfl

/-! ## Register writes of the owner -/

section owner
variable {s : State} {w : RegWrite} (h : owns s w.master = true)
include h

/-- A write of the owner to a place of BAR0's registers is one of the register there. -/
theorem registerWrite_eq {reg off : Nat} {t : State} (hreg : reg = 0x10_0000 + off)
    (hoff : off < 0x1_0000 ∧ off % 8 = 0 ∧ off ≠ 0xC000) (ht : blockReg off w.value s = t) :
    exec (.registerWrite reg w) s = .next t := by
  change execRegisterWrite _ _ _ = _
  rw [execRegisterWrite, if_neg (by omega), ownerWrite_of_owns h, barReg, if_neg (by omega), if_neg (by omega),
    if_pos (by omega), hreg, Nat.add_sub_cancel_left, ht]

/-- MEMCFG written: lock is set only, and gsz kept while it is locked or a queue is enabled (spec/03 R49). -/
theorem exec_memcfgWrite : exec (.memcfgWrite w) s = .next
    ((if s.dev.lock || anyEnabled s then s else setGsz (w.value.extractLsb' 16 13) s).modDev
      fun d => { d with lock := d.lock || w.value.getLsbD 63 }) := by
  change execMemcfgWrite w s = _
  rw [execMemcfgWrite, ownerWrite_of_owns h]

/-- After a write of MEMCFG main memory holds at every place of a channel what it held there, and nothing else of
memory has changed (spec/03 R48, R49). -/
theorem exec_memcfgWrite_mem (hm : s.memOk) : ∃ t, exec (.memcfgWrite w) s = .next t ∧
    t = { s with dev := t.dev, mem := t.mem } ∧
    t.dev = { s.dev with
      gsz := if s.dev.lock = true ∨ ∃ q : QueueId, (s.queue q).en = true then s.dev.gsz
        else BitVec.ofNat 13 (min (w.value.toNat / 2 ^ 16 % 2 ^ 13) (dramC s / 2 ^ 25))
      lock := s.dev.lock || w.value.getLsbD 63 } ∧
    (t.dev.gsz = s.dev.gsz → t.mem = s.mem) ∧
    ((∀ c ∈ s.mem, isDram c.1 = true → c.1 < dramC s) →
      (∀ b, b < dramC s → memRead t.mem (movedPa s t b) = memRead s.mem b) ∧
      (∀ b, isDram b = false → memRead t.mem b = memRead s.mem b)) := by
  refine ⟨_, exec_memcfgWrite h, ?_⟩
  have hkept : s.dev.lock || anyEnabled s ↔ s.dev.lock = true ∨ ∃ q : QueueId, (s.queue q).en = true := by
    rw [Bool.or_eq_true, anyEnabled_iff]
  simp only [hkept]
  split
  · exact ⟨rfl, rfl, fun _ => rfl, fun _ => ⟨fun b _ => congrArg (memRead s.mem) (movedPa_of_same rfl rfl b),
      fun _ _ => rfl⟩⟩
  · have hgsz : w.value.toNat / 2 ^ 16 % 2 ^ 13 = (w.value.extractLsb' 16 13).toNat := by
      rw [BitVec.extractLsb'_toNat, Nat.shiftRight_eq_div_pow]
    rw [hgsz]
    exact ⟨rfl, rfl, setGsz_mem_of_same, setGsz_keeps_places _ hm⟩

/-- TQCTL of a cascade (spec/14 R292). -/
theorem exec_tqctlWrite (g : CascId) (hq : ∀ q : QueueId, (s.queue q).en = false) :
    exec (.tqctlWrite g w) s = .next
      (s.modCasc g fun x => { x with tqEn := w.value.getLsbD 63, tqLgsz := w.value.extractLsb' 0 4 }) := by
  have hen : ¬ anyEnabled s = true := by simp [anyEnabled_iff, hq]
  change execTqctlWrite g w s = _
  rw [execTqctlWrite, ownerWrite_of_owns h, if_neg hen]

/-- TOCTL of a turnout that is not enabled, with en = 1 (spec/04 R63). -/
theorem exec_toctlWrite (n : TurnoutId) (hen : (s.turnout n).en = false) (hv : w.value.getLsbD 63 = true) :
    let t := { s.turnout n with
      feo := w.value.extractLsb' 32 24, slsz := w.value.extractLsb' 16 16, lgn := w.value.extractLsb' 0 4 }
    exec (.toctlWrite n w) s =
      .next (modTurnout n (fun _ => { t with en := turnoutOk s t, cfg := !turnoutOk s t, pending := [] }) s) := by
  intro t
  change execToctlWrite n w s = _
  rw [execToctlWrite, ownerWrite_of_owns h]
  simp only [hen, hv, Bool.false_eq_true, if_false, if_true, Bool.false_or, t]

/-- The registers of the queues whose fields a write sets while the queue is disabled (spec/17 R331). -/
theorem exec_queueReg (q : QueueId) {off : Nat} (hoff : off < 0x40 ∧ off % 8 = 0) :
    exec (.registerWrite (0x10_6000 + 0x40 * q.val + off) w) s = .next (queueReg q off w.value s) :=
  registerWrite_eq h (by omega) (by omega) (blockReg_queue _ _ q hoff.1)

theorem exec_turnoutReg (n : TurnoutId) {off : Nat} (hoff : off < 0x40 ∧ off % 8 = 0) :
    exec (.registerWrite (0x10_1000 + 0x40 * n.val + off) w) s = .next (turnoutReg n off w.value s) :=
  registerWrite_eq h (by omega) (by omega) (blockReg_turnout _ _ n hoff.1)

theorem exec_ringReg (i : HalfId) {off : Nat} (hoff : off < 0x20 ∧ off % 8 = 0) :
    exec (.registerWrite (0x10_0100 + 0x20 * i.val + off) w) s = .next (ringReg i off w.value s) :=
  registerWrite_eq h (by omega) (by omega) (blockReg_ring _ _ i hoff.1)

end owner

/-- A register of a turnout that is not enabled takes its fields. -/
theorem turnoutField_of_disabled {s : State} {n : TurnoutId} (hen : (s.turnout n).en = false) (f : Turnout → Turnout) :
    turnoutField n f s = modTurnout n f s := by
  rw [turnoutField, hen, if_neg Bool.false_ne_true]

theorem turnoutField_of_enabled {s : State} {n : TurnoutId} (hen : (s.turnout n).en = true) (f : Turnout → Turnout) :
    turnoutField n f s = s := if_pos hen

/-! ## The obligation -/

/-- Settles O49: OWNCTL and OWNHB by the lemmas about claim, election and a write of OWNCTL; a dropped write by
`ownerWrite`; and each register of the owner by its place in BAR0. -/
theorem ownership : Obligations.Ownership := by
  unfold Obligations.Ownership
  refine ⟨?owner, ?dropped, ?registers⟩
  case owner =>
    intro s m target on o now becomes code elected afterElection mine inTime rank first bit candidate
    have howns : mine → owns s m = true := (owns_iff s m).2
    have hopen : inTime ↔ handoverOpen s = true := (handoverOpen_iff s).symm
    have hwrite : ∀ {f : State → State}, mine → ownerWrite m f s = .next (f s) := fun hm =>
      ownerWrite_of_owns (howns hm) _
    refine ⟨fun hf => ?claimFirst, fun hf hin ht => ?claimHandover, fun hf hno => ?claimNone, fun hm => ?release,
      fun hm => ?handover, fun hm => ?heartbeat, rfl, fun v hrel hclaim => ⟨fun hm => ?other, fun hm => ?own⟩,
      fun hv hlate => ?expiry, fun hho hin => ?timeout⟩
    case claimFirst => exact next_congr (claim_of_first (m := masterCode m) hf)
    case claimHandover => exact next_congr (claim_of_handover (m := masterCode m) hf (hopen.1 hin) ht)
    case claimNone => exact next_congr (claim_of_neither (m := masterCode m) hf fun hh => hno ⟨hopen.2 hh.1, hh.2⟩)
    case release => exact (hwrite hm).trans (next_congr (election_eq s))
    case handover => exact hwrite hm
    case heartbeat => exact hwrite hm
    case other =>
      have hnot : owns s m = false := Bool.eq_false_iff.2 (mt (owns_iff s m).1 hm)
      exact (exec_ownctlReg m v s).trans (next_congr (ownctlReg_of_not_owns hclaim hnot))
    case own =>
      exact (exec_ownctlReg m v s).trans (next_congr (ownctlReg_of_owns hclaim hrel (howns hm)))
    case expiry => exact (exec_heartbeatExpiry hv hlate).trans (next_congr (election_eq s))
    case timeout => exact exec_handoverTimeout hho (Bool.eq_false_iff.2 (mt hopen.2 hin))
  case dropped =>
    intro s w n q g off h hoff
    have hdrop : ∀ t, (.next (if owns s w.master then t else dropWrite s) : Host.Outcome State Fault Refusal) =
        .next (dropWrite s) := fun t => ownerWrite_of_not_owns h fun _ => t
    simp only [List.forall_mem_cons, ← dropWrite_eq]
    exact ⟨hdrop _, hdrop _, hdrop _, hdrop _, (if_neg hoff).trans (hdrop _), hdrop _, hdrop _, hdrop _, hdrop _,
      List.forall_mem_nil _⟩
  case registers =>
    intro s w h v dev
    refine ⟨registerWrite_eq h (off := 0x0008) rfl (by decide) rfl,
      registerWrite_eq h (off := 0x3000) rfl (by decide) rfl,
      registerWrite_eq h (off := 0x5000) rfl (by decide) rfl,
      registerWrite_eq h (off := 0x9200) rfl (by decide) ?lim,
      registerWrite_eq h (off := 0xC018) rfl (by decide) rfl,
      fun q => registerWrite_eq h (by omega) (by omega) (blockReg_weight _ _ q),
      fun c k => registerWrite_eq h (by omega) (by omega) ((blockReg_sluice _ _ c k).trans (sluiceReg_eq _ _ c k)),
      fun k => registerWrite_eq h (by omega) (by omega) (blockReg_csave _ _ k),
      exec_memcfgWrite_mem h, exec_tqctlWrite h, exec_toctlWrite h, fun q => ?queue, fun n => ?turnout, fun i => ?half⟩
    case lim => exact congrArg (fun l => s.modDev fun d => { d with lim := l }) (clampLim_eq v)
    case queue => exact ⟨exec_queueReg h q (off := 0) (by decide), exec_queueReg h q (off := 0x18) (by decide)⟩
    case turnout =>
      intro at_ x writes
      refine ⟨fun hen => ?disabled, fun hen off hoff => ?enabled, exec_turnoutReg h n (off := 0x20) (by decide)⟩
      case disabled =>
        have hfield := fun f => next_congr (turnoutField_of_disabled hen f)
        exact ⟨(exec_turnoutReg h n (off := 0x08) (by decide)).trans (hfield _),
          (exec_turnoutReg h n (off := 0x10) (by decide)).trans (hfield _),
          (exec_turnoutReg h n (off := 0x18) (by decide)).trans (hfield _)⟩
      case enabled =>
        have hfield := fun f => next_congr (turnoutField_of_enabled hen f)
        simp only [List.mem_cons, List.not_mem_nil, or_false] at hoff
        rcases hoff with rfl | rfl | rfl
        all_goals exact (exec_turnoutReg h n (by decide)).trans (hfield _)
    case half =>
      refine ⟨exec_ringReg h i (off := 0) (by decide), exec_ringReg h i (off := 0x08) (by decide),
        ⟨_, exec_ringReg h i (off := 0x10) (by decide), setPrq_half .., setPrq_msixLog ..⟩,
        ⟨_, exec_ringReg h i (off := 0x18) (by decide), setPrq_half .., setPrq_msixLog ..⟩,
        registerWrite_eq h (by omega) (by omega) (blockReg_sampBase _ _ i),
        registerWrite_eq h (by omega) (by omega) (blockReg_sampCtl _ _ i)⟩

end Sys2Proof.Machine
end

section
/-! PROOFS. Words of instructions (spec/02 R21 to R37): decoding is the inverse of encoding. -/

namespace Sys2Proof.Laws

open Machine

/-- Before the checks of its fields, the word of an instruction decodes to it: each instruction by its own law. -/
theorem decodeRaw_encode {i : Instr} {w : Word} (h : encode i = some w) : decodeRaw w = .ok i := by
  revert w
  show Encoding.Statement i
  cases i with
  | add o => exact Encoding.add o | sub o => exact Encoding.sub o | mul o => exact Encoding.mul o
  | mulhS o => exact Encoding.mulhS o | mulhN o => exact Encoding.mulhN o | divS o => exact Encoding.divS o
  | divN o => exact Encoding.divN o | remS o => exact Encoding.remS o | remN o => exact Encoding.remN o
  | minS o => exact Encoding.minS o | minN o => exact Encoding.minN o | maxS o => exact Encoding.maxS o
  | maxN o => exact Encoding.maxN o | and o => exact Encoding.and o | or o => exact Encoding.or o
  | xor o => exact Encoding.xor o | andn o => exact Encoding.andn o | shl o => exact Encoding.shl o
  | shrN o => exact Encoding.shrN o | shrS o => exact Encoding.shrS o | rot o => exact Encoding.rot o
  | sltS o => exact Encoding.sltS o | sltN o => exact Encoding.sltN o | seq o => exact Encoding.seq o
  | sne o => exact Encoding.sne o | clz o => exact Encoding.clz o | ctz o => exact Encoding.ctz o
  | popc o => exact Encoding.popc o | sextB o => exact Encoding.sextB o | sextH o => exact Encoding.sextH o
  | sextW o => exact Encoding.sextW o | zextB o => exact Encoding.zextB o | zextH o => exact Encoding.zextH o
  | zextW o => exact Encoding.zextW o | addi o => exact Encoding.addi o | andi o => exact Encoding.andi o
  | ori o => exact Encoding.ori o | xori o => exact Encoding.xori o | shli o => exact Encoding.shli o
  | shriN o => exact Encoding.shriN o | shriS o => exact Encoding.shriS o | sltiS o => exact Encoding.sltiS o
  | sltiN o => exact Encoding.sltiN o | li o => exact Encoding.li o | lih o => exact Encoding.lih o
  | adr o => exact Encoding.adr o | beq o => exact Encoding.beq o | bne o => exact Encoding.bne o
  | bltS o => exact Encoding.bltS o | bgeS o => exact Encoding.bgeS o | bltN o => exact Encoding.bltN o
  | bgeN o => exact Encoding.bgeN o | j o => exact Encoding.j o | jal o => exact Encoding.jal o
  | jr o => exact Encoding.jr o | jalr o => exact Encoding.jalr o | loop o => exact Encoding.loop o
  | loopT o => exact Encoding.loopT o | endloop o => exact Encoding.endloop o | brkloop o => exact Encoding.brkloop o
  | lidx o => exact Encoding.lidx o | bfAny o => exact Encoding.bfAny o | bfNany o => exact Encoding.bfNany o
  | bfAll o => exact Encoding.bfAll o | bfNall o => exact Encoding.bfNall o | bfCeq o => exact Encoding.bfCeq o
  | bfCne o => exact Encoding.bfCne o | bfCge o => exact Encoding.bfCge o | bfClt o => exact Encoding.bfClt o
  | fcnt o => exact Encoding.fcnt o | csrr o => exact Encoding.csrr o | csrw o => exact Encoding.csrw o
  | csrs o => exact Encoding.csrs o | csrc o => exact Encoding.csrc o | nop o => exact Encoding.nop o
  | commit o => exact Encoding.commit o | guardMax o => exact Encoding.guardMax o
  | guardSsq o => exact Encoding.guardSsq o | trapi o => exact Encoding.trapi o | ebreak o => exact Encoding.ebreak o
  | rett o => exact Encoding.rett o | done o => exact Encoding.done o | fence o => exact Encoding.fence o
  | ldV o => exact Encoding.ldV o | ldVs o => exact Encoding.ldVs o | ldVx o => exact Encoding.ldVx o
  | ldBc o => exact Encoding.ldBc o | ldQsc o => exact Encoding.ldQsc o | lds o => exact Encoding.lds o
  | gatA o => exact Encoding.gatA o | acq o => exact Encoding.acq o | waitw o => exact Encoding.waitw o
  | ringwf o => exact Encoding.ringwf o | ringfree o => exact Encoding.ringfree o
  | tlwait o => exact Encoding.tlwait o | eset o => exact Encoding.eset o | efire o => exact Encoding.efire o
  | eclr o => exact Encoding.eclr o | cbload o => exact Encoding.cbload o | kwaitL o => exact Encoding.kwaitL o
  | ksigL o => exact Encoding.ksigL o | vadd o => exact Encoding.vadd o | vsub o => exact Encoding.vsub o
  | vaddSat o => exact Encoding.vaddSat o | vsubSat o => exact Encoding.vsubSat o | vmul o => exact Encoding.vmul o
  | vmulh o => exact Encoding.vmulh o | vmla o => exact Encoding.vmla o | vmlaW o => exact Encoding.vmlaW o
  | vmulW o => exact Encoding.vmulW o | vabs o => exact Encoding.vabs o | vneg o => exact Encoding.vneg o
  | vmin o => exact Encoding.vmin o | vmax o => exact Encoding.vmax o | vand o => exact Encoding.vand o
  | vor o => exact Encoding.vor o | vxor o => exact Encoding.vxor o | vandn o => exact Encoding.vandn o
  | vshl o => exact Encoding.vshl o | vshr o => exact Encoding.vshr o | vrshr o => exact Encoding.vrshr o
  | vclz o => exact Encoding.vclz o | vpopc o => exact Encoding.vpopc o | vavg o => exact Encoding.vavg o
  | vcmp o => exact Encoding.vcmp o | vsel o => exact Encoding.vsel o | vdot4 o => exact Encoding.vdot4 o
  | vfadd o => exact Encoding.vfadd o | vfsub o => exact Encoding.vfsub o | vfmul o => exact Encoding.vfmul o
  | vfma o => exact Encoding.vfma o | vfnma o => exact Encoding.vfnma o | vfmin o => exact Encoding.vfmin o
  | vfmax o => exact Encoding.vfmax o | vfabs o => exact Encoding.vfabs o | vfneg o => exact Encoding.vfneg o
  | vfcmp o => exact Encoding.vfcmp o | vfrcp o => exact Encoding.vfrcp o | vfrsq o => exact Encoding.vfrsq o
  | vfsqrt o => exact Encoding.vfsqrt o | vfexp2 o => exact Encoding.vfexp2 o | vflog2 o => exact Encoding.vflog2 o
  | vftanh o => exact Encoding.vftanh o | vfsig o => exact Encoding.vfsig o | vfclass o => exact Encoding.vfclass o
  | vcvt o => exact Encoding.vcvt o | vnarrow o => exact Encoding.vnarrow o | vwiden o => exact Encoding.vwiden o
  | vrqs o => exact Encoding.vrqs o | vperm o => exact Encoding.vperm o | vslideup o => exact Encoding.vslideup o
  | vslidedn o => exact Encoding.vslidedn o | vzip o => exact Encoding.vzip o | vunzip o => exact Encoding.vunzip o
  | vbcast o => exact Encoding.vbcast o | vredsum o => exact Encoding.vredsum o
  | vredmax o => exact Encoding.vredmax o | vredmin o => exact Encoding.vredmin o | vscan o => exact Encoding.vscan o
  | pand o => exact Encoding.pand o | por o => exact Encoding.por o | pxor o => exact Encoding.pxor o
  | pandn o => exact Encoding.pandn o | pnot o => exact Encoding.pnot o | pfirst o => exact Encoding.pfirst o
  | ptest o => exact Encoding.ptest o | pmov o => exact Encoding.pmov o | vmov o => exact Encoding.vmov o
  | vli o => exact Encoding.vli o | viota o => exact Encoding.viota o | vdup o => exact Encoding.vdup o
  | vclr o => exact Encoding.vclr o | mma o => exact Encoding.mma o | mzero o => exact Encoding.mzero o
  | mwr o => exact Encoding.mwr o | mrd o => exact Encoding.mrd o | mdrain o => exact Encoding.mdrain o
  | kwaitC o => exact Encoding.kwaitC o | ksigC o => exact Encoding.ksigC o | stV o => exact Encoding.stV o
  | stVs o => exact Encoding.stVs o | stVx o => exact Encoding.stVx o | sts o => exact Encoding.sts o
  | rel o => exact Encoding.rel o | ringwe o => exact Encoding.ringwe o | ringpub o => exact Encoding.ringpub o
  | setw o => exact Encoding.setw o | tlsig o => exact Encoding.tlsig o | amo o => exact Encoding.amo o
  | red o => exact Encoding.red o | vred o => exact Encoding.vred o | tpost o => exact Encoding.tpost o
  | tjoin o => exact Encoding.tjoin o | grais o => exact Encoding.grais o | esetS o => exact Encoding.esetS o
  | efireS o => exact Encoding.efireS o | eclrS o => exact Encoding.eclrS o | cbloadS o => exact Encoding.cbloadS o
  | kwaitS o => exact Encoding.kwaitS o | ksigS o => exact Encoding.ksigS o
  | _ => exact fun _ h => nomatch h

/-- The checks of its fields pass a well-formed instruction. -/
theorem decode_of_wellFormed {i : Instr} {w : Word} (hw : i.wellFormed = true) (hraw : decodeRaw w = .ok i) :
    decode w = .ok i := by
  rw [Instr.wellFormed, Option.isNone_iff_eq_none] at hw
  simp only [decode, hraw, hw]

/-- Settles O3: the decoder reads back what the encoder has put in, and a well-formed instruction passes its checks. -/
theorem decodeOfEncode : Obligations.DecodeOfEncode :=
  fun _ _ hw h => decode_of_wellFormed hw (decodeRaw_encode h)

/-- Settles O4: each word decodes by computation. -/
theorem wordsDecode : Obligations.WordsDecode := by
  unfold Obligations.WordsDecode
  decide

end Sys2Proof.Laws
end

section
/-! PROOFS. The low bits of a field as a number, and as a field of their own. -/

namespace Sys2Proof.Machine

theorem toNat_extract_low {m : Nat} (x : BitVec m) (n : Nat) : (x.extractLsb' 0 n).toNat = x.toNat % 2 ^ n := by
  rw [BitVec.extractLsb'_toNat, Nat.shiftRight_zero]

theorem extract_low_eq_setWidth {m n : Nat} (x : BitVec m) : x.extractLsb' 0 n = x.setWidth n := by
  apply BitVec.eq_of_toNat_eq
  rw [toNat_extract_low, BitVec.toNat_setWidth]

end Sys2Proof.Machine
end

section
/-! PROOFS. Branches, flag branches and jumps of the front (spec/12 R237 to R239). -/

namespace Sys2Proof.Machine

open Laws.Front

/-- A front operation that writes a register and goes to an address. -/
theorem frontOp_wrote {s : State} {rs : List (BitVec 5)} {f : Ctx → Ctx} {d : BitVec 5} {v pc : Word}
    (h : registersFree s rs) (hf : f s.me = goTo pc (writeS d v s.me)) :
    ∃ t, frontOp rs f s = .next t ∧ frontWrote s t d v pc :=
  ⟨_, frontOp_free s rs f h, frontWrote_goTo s d v pc f hf⟩

/-- A front operation that goes to an address. -/
theorem frontOp_went {s : State} {rs : List (BitVec 5)} {f : Ctx → Ctx} {pc : Word}
    (h : registersFree s rs) (hf : f s.me = goTo pc s.me) :
    ∃ t, frontOp rs f s = .next t ∧ frontWent s t pc :=
  ⟨_, frontOp_free s rs f h, frontWent_goTo s pc f hf⟩

theorem writeS_pc (d : BitVec 5) (v : Word) (x : Ctx) : (writeS d v x).regs.pc = x.regs.pc := by
  unfold writeS
  split <;> rfl

theorem stepPc_writeS (d : BitVec 5) (v : Word) (x : Ctx) :
    stepPc (writeS d v x) = goTo (slotsFrom x.regs.pc 1) (writeS d v x) := by
  rw [stepPc, writeS_pc, slotsFrom_one]

/-! ## Branches -/

/-- To the target when a condition holds, to the next slot when it does not. -/
theorem ite_goTo_stepPc {w : Nat} (hw : w ≤ 64) (b : Bool) (off : BitVec w) (x : Ctx) :
    (if b then goTo (slotTarget x.regs.pc off) x else stepPc x) =
      goTo (slotsFrom x.regs.pc (if b then off.toInt else 1)) x := by
  cases b
  · exact congrArg (goTo · x) (slotsFrom_one _).symm
  · exact congrArg (goTo · x) (slotsFrom_slotTarget _ _ hw).symm

theorem branch_congr {f g : Word → Word → Bool} (h : ∀ a b, f a b = g a b) (o : SB) (s : State) :
    branch f o s = branch g o s := congrArg (branch · o s) (funext₂ h)

/-- A branch compares as its row says. -/
theorem exec_of_branchRow {i : Instr} {o : SB} {f : Word → Word → Bool} (hi : branchRow i = some (o, f)) (s : State) :
    exec i s = branch f o s := by
  cases i with
  | beq _ | bltS _ | bltN _ => cases hi; rfl
  | bne _ => cases hi; exact branch_congr (fun a b => Bool.eq_iff_iff.2 (by simp)) o s
  | bgeS _ =>
    cases hi
    exact branch_congr (f := fun a b => !a.slt b) (fun a b => Bool.eq_iff_iff.2 (by simp [BitVec.slt])) o s
  | bgeN _ =>
    cases hi
    exact branch_congr (f := fun a b => !a.ult b) (fun a b => Bool.eq_iff_iff.2 (by simp [BitVec.ult])) o s
  | _ => cases hi

theorem flagBranch_congr {f g : Flag → Word → Bool} (h : ∀ n a, f n a = g n a) (rs : List (BitVec 5)) (o : FB)
    (s : State) : flagBranch rs f o s = flagBranch rs g o s := congrArg (flagBranch rs · o s) (funext₂ h)

/-- A flag branch tests as its row says; it waits for sa at most. -/
theorem exec_of_flagRow {i : Instr} {o : FB} {f : Flag → Word → Bool} (hi : flagRow i = some (o, f)) (s : State) :
    ∃ rs, (∀ r ∈ rs, r ∈ [o.sa]) ∧ exec i s = flagBranch rs f o s := by
  cases i with
  | bfAny _ | bfNany _ | bfAll _ | bfNall _ => cases hi; exact ⟨[], List.forall_mem_nil _, rfl⟩
  | bfCeq _ | bfCge _ | bfClt _ => cases hi; exact ⟨[o.sa], fun _ => id, rfl⟩
  | bfCne _ =>
    cases hi
    exact ⟨[o.sa], fun _ => id, flagBranch_congr (f := fun n a => n.count != a.toNat)
      (fun n a => Bool.eq_iff_iff.2 (by simp)) _ o s⟩
  | _ => cases hi

/-- Settles O8: a branch is `branch` of its row's comparison, a flag branch `flagBranch` of its row's condition, and
both go where `ite_goTo_stepPc` says. -/
theorem branches : Obligations.Branches := by
  unfold Obligations.Branches
  refine ⟨fun s i o f hi hfree => ?branch, fun s => ⟨fun i o f hi hflag hfree => ?flag, fun o hflag hfree => ?count⟩⟩
  case branch =>
    rw [exec_of_branchRow hi]
    exact frontOp_went hfree (ite_goTo_stepPc (by decide) _ _ _)
  case flag =>
    obtain ⟨rs, hrs, hexec⟩ := exec_of_flagRow hi s
    rw [hexec, flagBranch, flagOf, hflag]
    exact frontOp_went (registersFree_mono hfree hrs) (ite_goTo_stepPc (by decide) _ _ _)
  case count =>
    have hexec : exec (.fcnt o) s = frontOp [o.sd] _ s := if_neg (hflag.trans_ne Bool.false_ne_true)
    rw [hexec]
    exact frontOp_wrote hfree (stepPc_writeS _ _ _)

/-! ## Jumps -/

/-- The low three bits are clear in a multiple of 8. -/
theorem extract_three_eq_zero_iff (a : Word) : a.extractLsb' 0 3 = 0 ↔ a.toNat % 8 = 0 := by
  rw [BitVec.toNat_eq, toNat_extract_low]
  rfl

/-- A jump to an aligned address in a register goes there. -/
theorem jumpReg_aligned {s : State} {sa : BitVec 5} {rs : List (BitVec 5)} (f : Ctx → Ctx) (h : registersFree s rs)
    (ha : (readS s.me sa).toNat % 8 = 0) :
    jumpReg sa rs f s = .next (s.modCtx s.cur fun x => goTo (readS s.me sa) (f x)) := by
  rw [jumpReg, if_neg (h.trans_ne Bool.false_ne_true), if_neg (not_not.2 ((extract_three_eq_zero_iff _).2 ha))]

/-- A jump to a misaligned address in a register is a fault with the address in TVAL (spec/02 R22). -/
theorem jumpReg_misaligned {s : State} {sa : BitVec 5} {rs : List (BitVec 5)} (f : Ctx → Ctx) (h : registersFree s rs)
    (ha : (readS s.me sa).toNat % 8 ≠ 0) :
    ∃ t, jumpReg sa rs f s = .next t ∧ frontTraps s t 3 (readS s.me sa) := by
  rw [jumpReg, if_neg (h.trans_ne Bool.false_ne_true), if_pos (mt (extract_three_eq_zero_iff _).1 ha)]
  exact ⟨_, rfl, rfl⟩

/-- Settles O9: `j` and `jal` are front operations, `jr` and `jalr` jumps to a register. -/
theorem jumps : Obligations.Jumps := by
  unfold Obligations.Jumps
  refine ⟨fun s o => ⟨?j, fun hfree => ?jal, fun hfree ha => ?jr, fun hfree ha => ?jalr⟩, fun s o ha =>
    ⟨fun hfree => jumpReg_misaligned _ hfree ha, fun hfree => jumpReg_misaligned _ hfree ha⟩⟩
  case j =>
    rw [slotsFrom_slotTarget _ _ (by decide)]
    exact frontOp_went (show registersFree s [] from rfl) rfl
  case jal =>
    rw [slotsFrom_one, slotsFrom_slotTarget _ _ (by decide)]
    exact frontOp_wrote hfree rfl
  case jr => exact ⟨_, jumpReg_aligned _ hfree ha, frontWent_goTo _ _ _ rfl⟩
  case jalr =>
    rw [slotsFrom_one]
    exact ⟨_, jumpReg_aligned _ hfree ha, frontWrote_goTo _ _ _ _ _ rfl⟩

end Sys2Proof.Machine
end

section
/-! PROOFS. An instruction that the front hands to a stream and that is tried at once (spec/02 R23, R27, R28, spec/06
R104, R105). -/

namespace Sys2Proof.Machine

theorem State.setCtx_setCtx (s : State) (c : CtxId) (x y : Ctx) : (s.setCtx c x).setCtx c y = s.setCtx c y := by
  simp [State.setCtx]

theorem State.setCtx_modCtx (s : State) (c : CtxId) (x : Ctx) (f : Ctx → Ctx) :
    (s.setCtx c x).modCtx c f = s.setCtx c (f x) := by
  rw [State.modCtx, State.setCtx_ctx_same, State.setCtx_setCtx]

/-- Stepping over an instruction, with its region the one that acts, leaves it begun. -/
theorem actFor_stepPc (s : State) :
    actFor s.cur s.me.reg.epoch (s.modCtx s.cur stepPc) = began s :=
  State.setCtx_modCtx s s.cur (stepPc s.me) _

@[simp] theorem began_ctx (s : State) : (began s).ctx s.cur = handed s := State.setCtx_ctx_same _ _ _

/-! ## When the front issues -/

section issue

variable {s : State} {st : Stream} {i : Instr} {tok : Tok} {a b d : BitVec 5}
  {perf : CtxId → QEntry → State → Perform}

theorem registersFree_cons {r : BitVec 5} {rs : List (BitVec 5)} :
    registersFree s (r :: rs) ↔ busyS s.me r = false ∧ registersFree s rs := by
  simp [registersFree]

theorem issue_of_not_free (h : ¬ registersFree s [a, b, d]) : issue st i tok a b d perf s = .next s := by
  refine if_pos ?_
  rw [registersFree, Bool.not_eq_false] at h
  simpa [Bool.or_assoc] using h

theorem issue_of_free (h : registersFree s [a, b, d]) : issue st i tok a b d perf s =
    if 32 ≤ (s.me.q.get st).length then .next s
    else .next (handOver st tok perf s.cur (capture st i a b d s.me) (s.modCtx s.cur stepPc)) := by
  refine if_neg ?_
  rw [registersFree] at h
  simpa [Bool.or_assoc] using h

theorem streamClear_stepPc (s : State) (st : Stream) :
    streamClear (s.modCtx s.cur stepPc) s.cur st = streamClear s s.cur st := by
  simp only [streamClear, State.modCtx_ctx_same]
  rfl

end issue

/-! ## What a stream that is free lets pass -/

section free

variable {s : State} {st : Stream} {tok : Tok} {rs : List (BitVec 5)} {i : Instr}

theorem behindFault_of_noFault {x : Ctx} (h : noFault x) (e : QEntry) : behindFault (stepPc x) e = false := by
  obtain ⟨hreg, holder⟩ := h
  cases ho : x.older with
  | none => simp [behindFault, stepPc, goTo, countOne, hreg, ho]
  | some r =>
    have hr : r.fault = none := by simpa [ho] using holder
    simp [behindFault, stepPc, goTo, countOne, hreg, ho, hr]

/-- A stream with nothing before a new instruction has an empty queue, and nothing of it waits aside. -/
theorem queue_nil_of_streamClear {c : CtxId} (h : streamClear s c st = true) :
    (s.ctx c).q.get st = [] ∧ ∀ t ∈ (s.ctx c).q.parked, t.st ≠ st := by
  simp only [streamClear, Bool.and_eq_true, List.isEmpty_iff, noneAside, Bool.not_eq_true', List.any_eq_false,
    beq_iff_eq] at h
  exact h.1

theorem asideBefore_of_none {x : Ctx} {e : QEntry} (h : ∀ t ∈ x.q.parked, t.st ≠ e.st) :
    asideBefore x e = false := by
  simp only [asideBefore, List.any_eq_false]
  intro t ht
  simp [h t ht]

theorem settleAside_of_none {c : CtxId} {e : QEntry} (h : ∀ t ∈ (s.ctx c).q.parked, t.st ≠ e.st) :
    settleAside c e s = s := by
  refine if_neg (Bool.eq_false_iff.1 (List.any_eq_false.2 fun t ht => ?_))
  simp [goesPast, h t ht]

theorem leaseFor_of_not_mat (h : isMat i = false) (c : CtxId) : leaseFor c i s = s :=
  if_neg (Bool.eq_false_iff.1 h)

end free

/-- What comes of the first try of an instruction that may begin, given what its effect comes to. -/
def begunWith (st : Stream) (tok : Tok) (c : CtxId) (e : QEntry) (s : State) : Perform → Perform
  | .done t =>
    if tokRoom (t.ctx c) st tok then
      .done ((t.modCtx c (tokTaken e.epoch st tok)).modCtx c (tokGive e.epoch st tok))
    else .held (s.modCtx c (tokTaken e.epoch st tok))
  | .held t => .held (t.modCtx c (tokTaken e.epoch st tok))
  | .park t => .park (t.modCtx c (tokTaken e.epoch st tok))
  | .begun t => .begun (t.modCtx c (tokTaken e.epoch st tok))
  | r => r

/-- An instruction that is no MAT instruction, handed to a free stream: it is tried at once, in the state in which it
has begun. -/
theorem issue_of_streamFree {s : State} {st : Stream} {tok : Tok} {rs : List (BitVec 5)} {i : Instr}
    {a b d : BitVec 5} {perf : CtxId → QEntry → State → Perform} (h : streamFree s st tok rs)
    (hrs : ∀ r ∈ [a, b, d], r = 0 ∨ r ∈ rs) (hmat : isMat i = false) :
    let e := capture st i a b d s.me
    issue st i tok a b d perf s = .next (afterIssue st s.cur e
      (begunWith st tok s.cur e (s.modCtx s.cur stepPc) (perf s.cur e (began s)))) := by
  intro e
  obtain ⟨hlag, hclear, -, hfree, hfault, hsluice, hready, -⟩ := h
  obtain ⟨hempty, haside⟩ := queue_nil_of_streamClear hclear
  have hnow : registersFree s [a, b, d] := by
    refine List.any_eq_false.2 fun r hr => ?_
    rcases hrs r hr with rfl | hr
    · exact Bool.false_ne_true
    · exact ne_true_of_eq_false (Laws.Front.busyS_of_free hfree hr)
  have hlen : ¬ 32 ≤ (s.me.q.get st).length := by
    rw [show s.me.q.get st = [] from hempty]
    decide
  have hat : ((s.modCtx s.cur stepPc).lag || !streamClear (s.modCtx s.cur stepPc) s.cur st) = false := by
    rw [streamClear_stepPc, hclear, State.modCtx_lag, hlag]
    rfl
  have hctx : (s.modCtx s.cur stepPc).ctx s.cur = stepPc s.me := State.modCtx_ctx_same _ _ _
  have hpark : ∀ t ∈ (stepPc s.me).q.parked, t.st ≠ e.st := haside
  have hmay : mayBegin (stepPc s.me) st tok e = true := by
    simp only [mayBegin, asideBefore_of_none hpark, Bool.not_false, Bool.and_true, Bool.and_eq_true]
    exact ⟨hsluice, hready⟩
  have htry : attempt st tok perf s.cur e (s.modCtx s.cur stepPc) =
      begunWith st tok s.cur e (s.modCtx s.cur stepPc) (perf s.cur e (began s)) := by
    have hlease : leaseFor s.cur e.instr (s.modCtx s.cur stepPc) = s.modCtx s.cur stepPc := leaseFor_of_not_mat hmat _
    rw [← actFor_stepPc, attempt, hctx, behindFault_of_noFault hfault, if_neg Bool.false_ne_true, hlease]
    simp only [hctx, hmay]
    rw [settleAside_of_none (hctx ▸ hpark)]
    rfl
  rw [issue_of_free hnow, if_neg hlen, handOver, hat, if_neg Bool.false_ne_true, htry]

section tried

variable {s : State} {st : Stream} {tok : Tok} {rs : List (BitVec 5)} {i : Instr} {a b d : BitVec 5}
  {perf : CtxId → QEntry → State → Perform}

/-- An instruction tried at once whose effect changes the acting context alone completes, and its tokens are taken and
given. -/
theorem issue_done {y : Ctx} (h : streamFree s st tok rs) (hrs : ∀ r ∈ [a, b, d], r = 0 ∨ r ∈ rs)
    (hmat : isMat i = false) (hperf : perf s.cur (capture st i a b d s.me) (began s) = .done (s.setCtx s.cur y))
    (hch : y.tok.ch = s.me.tok.ch) :
    issue st i tok a b d perf s = .next (s.setCtx s.cur (tokensDone s st tok y)) := by
  have hroom : tokRoom y st tok = true := by
    obtain ⟨-, -, -, -, -, -, -, hroom⟩ := h
    rw [← hroom, tokRoom, tokRoom, hch]
  rw [issue_of_streamFree h hrs hmat, hperf, begunWith, State.setCtx_ctx_same, if_pos hroom, State.setCtx_modCtx,
    State.setCtx_modCtx]
  rfl

/-- An instruction tried at once that finds a fault. -/
theorem issue_fault {cause : Nat} {tval : Word} {pe : Bool} {u : State} (h : streamFree s st tok rs)
    (hrs : ∀ r ∈ [a, b, d], r = 0 ∨ r ∈ rs) (hmat : isMat i = false)
    (hperf : perf s.cur (capture st i a b d s.me) (began s) = .fault u cause tval pe) :
    issue st i tok a b d perf s = .next (raiseFault s.cur s.me.reg.epoch
      { cause := cause, tval := tval, pos := s.me.pos, fetch := false, pe := pe } u) := by
  rw [issue_of_streamFree h hrs hmat, hperf]
  rfl

end tried

end Sys2Proof.Machine
end
section
/-! PROOFS. Elements of registers, and the instructions of the C stream that write registers (spec/08 R144 to R149, R157,
spec/09 R177 to R181). -/

namespace Sys2Proof.Machine

/-! ## Elements -/

theorem wrapN_lt (w : Nat) (x : Int) : wrapN w x < 2 ^ w := by
  have hpos : (0 : Int) < (2 ^ w : Nat) := by positivity
  have hlt := Int.emod_lt_of_pos x hpos
  have hnn := Int.emod_nonneg x hpos.ne'
  unfold wrapN
  omega

theorem satN_lt (signed : Bool) (w : Nat) (x : Int) : satN signed w x < 2 ^ w := wrapN_lt _ _

theorem elem_lt (w j : Nat) (r : VReg) : elem w j r < 2 ^ w := Nat.mod_lt _ (by positivity)

theorem packFields_lt (w : Nat) (l : List Nat) : packFields w l < 2 ^ (w * l.length) := by
  induction l with
  | nil => exact Nat.one_pos
  | cons x xs ih =>
    have hx : x % 2 ^ w < 2 ^ w := Nat.mod_lt _ (by positivity)
    calc packFields w (x :: xs) < 2 ^ w * (packFields w xs + 1) := by rw [packFields]; linarith
      _ ≤ 2 ^ w * 2 ^ (w * xs.length) := Nat.mul_le_mul_left _ ih
      _ = 2 ^ (w * (x :: xs).length) := by rw [← pow_add, List.length_cons, Nat.mul_succ, Nat.add_comm]

/-- Field j of packed fields. -/
theorem packFields_field (w : Nat) (l : List Nat) (j : Nat) :
    packFields w l / 2 ^ (w * j) % 2 ^ w = l[j]?.getD 0 % 2 ^ w := by
  induction l generalizing j with
  | nil => simp [packFields]
  | cons x xs ih =>
    cases j with
    | zero => simp [packFields]
    | succ j =>
      have hx : x % 2 ^ w / 2 ^ w = 0 := Nat.div_eq_of_lt (Nat.mod_lt _ (by positivity))
      rw [packFields, Nat.mul_succ, Nat.add_comm (w * j), pow_add, ← Nat.div_div_eq_div_mul,
        Nat.add_mul_div_left _ _ (by positivity), hx, Nat.zero_add, ih, List.getElem?_cons_succ]

/-- A word of n bits that is packed from its fields holds them all. -/
theorem toNat_ofNat_packFields (n w : Nat) (f : Nat → Nat) :
    (BitVec.ofNat n (packFields w ((List.range (n / w)).map f))).toNat =
      packFields w ((List.range (n / w)).map f) := by
  refine (BitVec.toNat_ofNat ..).trans (Nat.mod_eq_of_lt ((packFields_lt _ _).trans_le ?_))
  refine Nat.pow_le_pow_right Nat.two_pos ?_
  rw [List.length_map, List.length_range]
  exact Nat.mul_div_le n w

/-- Element j of a register that is built from its elements. -/
theorem elem_buildV {w j : Nat} (hj : j < 4096 / w) (f : Nat → Nat) : elem w j (buildV w f) = f j % 2 ^ w := by
  rw [elem, buildV, toNat_ofNat_packFields, packFields_field]
  simp [hj]

theorem elem_buildV_of_lt {w j : Nat} (hj : j < 4096 / w) {f : Nat → Nat} (hf : f j < 2 ^ w) :
    elem w j (buildV w f) = f j := (elem_buildV hj f).trans (Nat.mod_eq_of_lt hf)

/-- An active element takes its value, another keeps the old one (spec/08 R148). -/
theorem elem_underMask {w j : Nat} (hj : j < 4096 / w) {p : PReg} {old : VReg} {f : Nat → Nat} (hf : f j < 2 ^ w) :
    elem w j (underMask w p old f) = masked w old (p.getLsbD j) j (f j) := by
  refine elem_buildV_of_lt hj ?_
  split
  · exact hf
  · exact elem_lt _ _ _

/-- Lane q of register r of a widening result (spec/08 R149). -/
theorem elem_widenReg {w q : Nat} (hq : q < 4096 / w) {k r : Nat} {p : PReg} {old : VReg} {f : Nat → Nat}
    (hf : f (k * q + r) < 2 ^ w) :
    elem w q (widenReg w k r p old f) = widened w k old (fun j => p.getLsbD j) r q (f (k * q + r)) := by
  refine elem_buildV_of_lt hq ?_
  split
  · exact hf
  · exact elem_lt _ _ _

/-! ## Operands taken and results written -/

theorem takeSrc_ok {e : QEntry} {k : BitVec 6} {x y : Ctx} {v : VReg} (h : takeSrc e k x = .ok v y) :
    y = { x with q := y.q } := by
  unfold takeSrc popQv popQs at h
  repeat' split at h
  all_goals cases h <;> rfl

/-- Taking sources changes the operand queues alone (spec/02 R30). -/
theorem takeSrcs_ok {e : QEntry} {ks : List (BitVec 6)} {x y : Ctx} {vs : List VReg}
    (h : takeSrcs e ks x = .ok vs y) : y = { x with q := y.q } := by
  induction ks generalizing x vs with
  | nil => cases h; rfl
  | cons k ks ih =>
    unfold takeSrcs at h
    split at h
    case h_3 v z hz =>
      split at h
      case h_1 ws u hu =>
        cases h
        rw [ih hu, takeSrc_ok hz]
      all_goals cases h
    all_goals cases h

@[simp] theorem putDst_tok (e : QEntry) (d : BitVec 6) (v : VReg) (x : Ctx) : (putDst e d v x).tok = x.tok := by
  unfold putDst
  split <;> rfl

@[simp] theorem writeGroup_tok (e : QEntry) (n : BitVec 6) (f : Nat → VReg) (k : Nat) (x : Ctx) :
    (writeGroup e n f k x).tok = x.tok :=
  List.foldlRecOn (motive := fun y : Ctx => y.tok = x.tok) _ _ rfl fun _ h _ _ => h

/-! ## A compute instruction that is tried at once -/

section compute

variable {s : State} {i : Instr} {tok : Tok} {a : BitVec 5} {perf : CtxId → QEntry → State → Perform}

/-- An instruction of the C stream that finds its sources, and room for its result, completes with its effect. -/
theorem issue_computeOp {srcs : List (BitVec 6)} {dst : Option (BitVec 6)} {f : List VReg → Ctx → Ctx} {vs : List VReg}
    {x : Ctx} {rs : List (BitVec 5)} (h : streamFree s .c tok rs) (ha : a = 0 ∨ a ∈ rs) (hmat : isMat i = false)
    (hperf : perf s.cur (capture .c i a 0 0 s.me) (began s) =
      computeOp srcs dst f s.cur (capture .c i a 0 0 s.me) (began s))
    (htake : takeSrcs (capture .c i a 0 0 s.me) srcs (handed s) = .ok vs x) (hroom : dst.all (dstRoom · x) = true)
    (hf : (f vs x).tok = x.tok) :
    issue .c i tok a 0 0 perf s = .next (s.setCtx s.cur (tokensDone s .c tok (f vs x))) := by
  refine issue_done h (by simpa using ha) hmat ?_ ?_
  · rw [hperf, computeOp, began_ctx, htake]
    simp only [hroom, if_true]
    exact congrArg Perform.done (State.setCtx_setCtx _ _ _ _)
  · rw [hf, takeSrcs_ok htake]
    rfl

end compute

/-- An instruction whose one result goes to vd completes with the values of its row when the elements of its result
are those. -/
theorem vecCompletes_of_vecOp {s : State} {i : Instr} {r : VecRow} {perf : CtxId → QEntry → State → Perform}
    {f : QEntry → List VReg → PReg → VReg → VReg} (hmat : isMat i = false)
    (hexec : exec i s = issue .c i r.o.tok r.sa 0 0 perf s)
    (hperf : ∀ c e u, perf c e u = vecOp r.srcs r.o.vd r.o.pred (f e) c e u)
    (hval : checkInstr i = none → ∀ e vs p old j, j < 4096 / r.w →
      elem r.w j (f e vs p old) = r.f vs old e.a (p.getLsbD j) j) : vecCompletes s i r := by
  intro vs x hcheck hfree e htake hroom
  have hissue := issue_computeOp hfree (.inr (List.mem_singleton_self _)) hmat (hperf _ _ _) htake hroom
    (putDst_tok _ _ _ _)
  exact ⟨_, _, hexec.trans hissue, rfl,
    fun j hj => hval hcheck _ _ _ _ j hj⟩

/-- An instruction that writes a group of registers completes with the values of its row when the lanes of its
registers are those. -/
theorem groupCompletes_of_computeOp {s : State} {i : Instr} {r : GroupRow} {perf : CtxId → QEntry → State → Perform}
    {R : QEntry → List VReg → Ctx → Nat → VReg} (hmat : isMat i = false)
    (hexec : exec i s = issue .c i r.o.tok 0 0 0 perf s)
    (hperf : ∀ c e u, perf c e u = computeOp r.srcs none (fun vs x => writeGroup e r.o.vd (R e vs x) r.k x) c e u)
    (hval : ∀ e vs x n q, n < r.k → q < 4096 / r.w → elem r.w q (R e vs x n) =
      r.f vs (readGroup e r.o.va x) (oldGroup e r.o.vd x n) (fun j => (govern e r.o.pred x).getLsbD j) n q) :
    groupCompletes s i r := by
  intro vs x _ hfree e htake
  have hissue := issue_computeOp hfree (.inl rfl) hmat (hperf _ _ _) htake rfl (writeGroup_tok _ _ _ _ _)
  exact ⟨_, _, hexec.trans hissue, rfl,
    fun n q hn hq => hval _ _ _ n q hn hq⟩

end Sys2Proof.Machine
end
section
/-! PROOFS. Permutations, requantisation and register groups (spec/08 R157, spec/09 R177 to R181). -/

namespace Sys2Proof.Machine

theorem narrowN_lt (sat signed : Bool) (w : Nat) (x : Int) : narrowN sat signed w x < 2 ^ w := by
  unfold narrowN
  split
  · exact satN_lt _ _ _
  · exact wrapN_lt _ _

/-- An accumulator field read by its signedness (spec/08 R157). -/
theorem fieldI_elem (signed : Bool) (w j : Nat) (r : VReg) :
    fieldI signed w (elem w j r) = if signed then sextI w (elem w j r) else (elem w j r : Int) := by
  rw [fieldI, zextN, Nat.mod_eq_of_lt (elem_lt w j r)]

/-! ## Permutations -/

theorem permElem_lt (t : Ty) (off : Nat) (a b : VReg) (j : Nat) : permElem t off a b j < 2 ^ tyWidth t := by
  dsimp only [permElem]
  split
  · exact elem_lt _ _ _
  · positivity

theorem slideUpElem_lt (t : Ty) (c : Nat) (a b : VReg) (j : Nat) : slideUpElem t c a b j < 2 ^ tyWidth t := by
  unfold slideUpElem
  split <;> exact elem_lt _ _ _

theorem slideDnElem_lt (t : Ty) (c : Nat) (a b : VReg) (j : Nat) : slideDnElem t c a b j < 2 ^ tyWidth t := by
  unfold slideDnElem
  split <;> exact elem_lt _ _ _

theorem vecCompletes_of_vpermRow {i : Instr} {r : VecRow} (s : State) (hi : vpermRow i = some r) :
    vecCompletes s i r := by
  cases i with
  | vperm o =>
    cases hi
    refine vecCompletes_of_vecOp rfl rfl (fun _ _ _ => rfl) fun _ e vs p old j hj => ?_
    refine (elem_underMask hj (permElem_lt ..)).trans (congrArg (masked _ old _ j) ?_)
    rw [permElem, toNat_extract_low]
    rfl
  | vslideup o =>
    cases hi
    refine vecCompletes_of_vecOp rfl rfl (fun _ _ _ => rfl) fun _ e vs p old j hj => ?_
    refine (elem_underMask hj (slideUpElem_lt ..)).trans (congrArg (masked _ old _ j) ?_)
    rw [slideUpElem, slideCount, toNat_extract_low]
    rfl
  | vslidedn o =>
    cases hi
    refine vecCompletes_of_vecOp rfl rfl (fun _ _ _ => rfl) fun _ e vs p old j hj => ?_
    refine (elem_underMask hj (slideDnElem_lt ..)).trans (congrArg (masked _ old _ j) ?_)
    rw [slideDnElem, slideCount, toNat_extract_low]
    rfl
  | vbcast o =>
    cases hi
    refine vecCompletes_of_vecOp rfl rfl (fun _ _ _ => rfl) fun _ e vs p old j hj => ?_
    refine (elem_underMask hj (elem_lt ..)).trans (congrArg (masked _ old _ j) ?_)
    rw [el, toNat_extract_low]
    rfl
  | _ => cases hi

/-! ## Groups -/

/-- Element k q + n of a group of k registers is in lane q (spec/08 R149). -/
theorem lane_of_group_element {k q n : Nat} (hn : n < k) : (k * q + n) / k = q := by
  rw [Nat.mul_add_div (Nat.zero_lt_of_lt hn), Nat.div_eq_of_lt hn, Nat.add_zero]

theorem zipElem_lt (t : Ty) (a b : VReg) (i : Nat) : zipElem t a b i < 2 ^ tyWidth t := by
  unfold zipElem
  split <;> exact elem_lt _ _ _

theorem pairElem_lt (t : Ty) (a b : VReg) (i : Nat) : pairElem t a b i < 2 ^ tyWidth t := by
  unfold pairElem
  split <;> exact elem_lt _ _ _

theorem groupCompletes_of_groupRow {i : Instr} {r : GroupRow} (s : State) (hi : groupRow i = some r) :
    groupCompletes s i r := by
  cases i with
  | vmulW o =>
    cases hi
    refine groupCompletes_of_computeOp rfl rfl (fun _ _ _ => rfl) fun e vs x n q _ hq => ?_
    exact elem_widenReg hq (wrapN_lt _ _)
  | vmlaW o =>
    cases hi
    refine groupCompletes_of_computeOp rfl rfl (fun _ _ _ => rfl) fun e vs x n q hn hq => ?_
    have hn : n < tyK o.ty := hn
    refine (elem_widenReg hq (narrowN_lt ..)).trans (congrArg (widened 32 _ _ _ n q) ?_)
    rw [lane_of_group_element hn, fieldI_elem]
    rfl
  | vzip o =>
    cases hi
    refine groupCompletes_of_computeOp rfl rfl (fun _ _ _ => rfl) fun e vs x n q _ hq => ?_
    exact elem_buildV_of_lt hq (zipElem_lt ..)
  | vunzip o =>
    cases hi
    refine groupCompletes_of_computeOp rfl rfl (fun _ _ _ => rfl) fun e vs x n q _ hq => ?_
    exact elem_buildV_of_lt hq (pairElem_lt ..)
  | _ => cases hi

/-! ## Requantisation -/

/-- `vrqs` that finds its sources and room completes, each active element requantised (spec/09 R177). -/
theorem requantCompletes_all (s : State) (o : VX) : requantCompletes s o := by
  intro vs x _ hfree e w k htake hroom lane f
  refine ⟨_, _, issue_computeOp hfree (.inl rfl) rfl rfl htake hroom (putDst_tok _ _ _ _), rfl, fun j hj => ?_⟩
  rw [elem_underMask hj (satN_lt _ _ _)]
  rfl

/-- Settles O21: the elements of what each row's instruction writes are the elements of its row. -/
theorem permutations : Obligations.Permutations := by
  unfold Obligations.Permutations
  exact ⟨⟨fun s _ _ => vecCompletes_of_vpermRow s, requantCompletes_all⟩, fun s _ _ => groupCompletes_of_groupRow s⟩

end Sys2Proof.Machine
end

section
/-! PROOFS. The queues of the streams and of the engine (spec/02 R23, spec/04 R75, R76, spec/06 R104, R105). -/

namespace Sys2Proof.Machine

/-! ## What the front hands to a stream -/

theorem withLevel_of_none {i : Instr} {s : State} (h : levelCheck s.me.id.sys i = none)
    (k : Host.Outcome State Fault Refusal) : withLevel i s k = k := by
  rw [withLevel, h]

/-- An instruction that the front hands to a stream is issued to the stream and with the effect that `headOf` names,
after the check of its level and when no register is busy that it will write. -/
theorem exec_of_handedTo {i : Instr} {st : Stream} (h : handedTo i = some st) (s : State) :
    ∃ tok perf, headOf false i = some (st, tok, perf) ∧ exec i s = withLevel i s
      (if busyS s.me (laterWrites i) then .next s
       else issue st i tok (captures i).1 (captures i).2.1 (captures i).2.2 perf s) := by
  cases i with
  | vdup o =>
    cases h
    exact ⟨_, _, rfl, congrArg (issue .c (.vdup o) o.tok · 0 0 (performVdup o) s) (extract_low_eq_setWidth o.imm)⟩
  | sts o =>
    cases h
    exact ⟨_, _, rfl, congrArg (issue .s (.sts o) o.tok o.sa 0 · (performSts o) s) (extract_low_eq_setWidth o.v)⟩
  | _ => cases h <;> exact ⟨_, _, rfl, rfl⟩

section issue

variable {s : State} {st : Stream} {i : Instr} {tok : Tok} {a b d : BitVec 5}
  {perf : CtxId → QEntry → State → Perform}

/-- An instruction waits for its scalar registers and for room in its queue. -/
theorem issue_waits (h : ¬ registersFree s [a, b, d] ∨ 32 ≤ (s.me.q.get st).length) :
    issue st i tok a b d perf s = .next s := by
  by_cases hfree : registersFree s [a, b, d]
  · rw [issue_of_free hfree, if_pos (h.resolve_left (not_not.2 hfree))]
  · exact issue_of_not_free hfree

/-- An instruction behind others, or in a stream that lags, takes the last place of its queue. -/
theorem issue_appends (hfree : registersFree s [a, b, d]) (hlen : (s.me.q.get st).length < 32)
    (hbehind : s.lag = true ∨ streamClear s s.cur st = false) :
    issue st i tok a b d perf s =
      .next (s.modCtx s.cur fun x => setQ st (x.q.get st ++ [capture st i a b d x]) (stepPc x)) := by
  have happend : ((s.modCtx s.cur stepPc).lag || !streamClear (s.modCtx s.cur stepPc) s.cur st) = true := by
    rw [streamClear_stepPc]
    simpa using hbehind
  rw [issue_of_free hfree, if_neg (not_le.2 hlen), handOver, if_pos happend, appendQ]
  exact congrArg Host.Outcome.next (State.setCtx_modCtx s s.cur (stepPc s.me) _)

/-- An instruction handed to a stream, behind others or in one that lags, takes the last place of its queue. -/
theorem exec_appends (hst : handedTo i = some st) (hlevel : levelCheck s.me.id.sys i = none)
    (hc : captures i = (a, b, d)) (hfree : registersFree s [a, b, d, laterWrites i])
    (hlen : (s.me.q.get st).length < 32) (hbehind : s.lag = true ∨ streamClear s s.cur st = false) :
    exec i s = .next (s.modCtx s.cur fun x => setQ st (x.q.get st ++ [capture st i a b d x]) (stepPc x)) := by
  obtain ⟨tok, perf, -, hexec⟩ := exec_of_handedTo hst s
  have hlater : busyS s.me (laterWrites i) = false := Laws.Front.busyS_of_free hfree (by simp)
  have hnow : registersFree s [a, b, d] := Laws.Front.registersFree_mono hfree (by simp +contextual)
  rw [hexec, withLevel_of_none hlevel, hc, hlater, if_neg Bool.false_ne_true]
  exact issue_appends hnow hlen hbehind

/-- An instruction handed to a stream waits for its registers and for room. -/
theorem exec_waits (hst : handedTo i = some st) (hlevel : levelCheck s.me.id.sys i = none)
    (hc : captures i = (a, b, d))
    (hwait : ¬ registersFree s [a, b, d, laterWrites i] ∨ 32 ≤ (s.me.q.get st).length) :
    exec i s = .next s := by
  obtain ⟨tok, perf, -, hexec⟩ := exec_of_handedTo hst s
  rw [hexec, withLevel_of_none hlevel, hc]
  cases hlater : busyS s.me (laterWrites i) with
  | true => rfl
  | false =>
    refine issue_waits (hwait.imp_left (mt fun hnow => ?_))
    simp only [registersFree_cons] at hnow ⊢
    obtain ⟨ha, hb, hd, -⟩ := hnow
    exact ⟨ha, hb, hd, hlater, rfl⟩

end issue

/-! ## The engine queues -/

theorem engineRow_cases {i : Instr} {st : Stream} {o : E} (h : engineRow i = some (st, o)) (s : State) :
    (st = .l ∨ st = .s) ∧ isMat i = false ∧ exec i s = issue st i o.tok o.sa 0 0 (performEng st o) s := by
  cases i with
  | eset _ | efire _ | eclr _ | cbload _ => cases h; exact ⟨.inl rfl, rfl, rfl⟩
  | esetS _ | efireS _ | eclrS _ | cbloadS _ => cases h; exact ⟨.inr rfl, rfl, rfl⟩
  | _ => cases h

/-- The value of an engine command: s[sa] and the immediate, added and wrapped (spec/04 R79, R83). -/
theorem engVal_eq (o : E) (a : Word) : engVal o a = word (a.toInt + o.val.toInt) := by
  rw [engVal, word]
  apply BitVec.eq_of_toInt_eq
  simp [BitVec.toInt_add, BitVec.toInt_signExtend_of_le]

/-- A command takes the last place of its engine queue, and reserves an increment of its counter. -/
def withCommand (st : Stream) (o : E) (cmd : EngCmd) (x : Ctx) : Ctx :=
  let x := if o.kp = 0 then x else bumpRes o.kp 1 x
  setEngQ st (engQ x st ++ [cmd]) x

theorem withCommand_ch (st : Stream) (o : E) (cmd : EngCmd) (x : Ctx) :
    (withCommand st o cmd x).tok.ch = x.tok.ch := by
  unfold withCommand setEngQ bumpRes
  split <;> split <;> rfl

theorem withCommand_res (st : Stream) (o : E) (cmd : EngCmd) (x : Ctx) {j : Nat} :
    (withCommand st o cmd x).tok.res[j]? =
      (x.tok.res[j]?).map fun r => if j = o.kp.toNat ∧ o.kp.toNat ≠ 0 then r + 1 else r := by
  have hset : (withCommand st o cmd x).tok.res = if o.kp = 0 then x.tok.res else (bumpRes o.kp 1 x).tok.res := by
    unfold withCommand setEngQ
    split <;> split <;> rfl
  rw [hset]
  by_cases hk : o.kp = 0
  · simp [hk]
  · have hne : o.kp.toNat ≠ 0 := fun h => hk (BitVec.eq_of_toNat_eq h)
    rw [if_neg hk]
    by_cases hj : j = o.kp.toNat
    · subst hj
      have hlt : o.kp.toNat < 16 := o.kp.isLt
      simp [bumpRes, hne, hlt]
    · simp [bumpRes, hj, Vector.getElem?_set_ne _ (Ne.symm hj)]

theorem withCommand_l (o : E) (cmd : EngCmd) (x : Ctx) :
    withCommand .l o cmd x = { x with
      engL := x.engL ++ [cmd], tok := { x.tok with res := (withCommand .l o cmd x).tok.res } } := by
  unfold withCommand setEngQ bumpRes engQ
  split <;> rfl

theorem withCommand_s (o : E) (cmd : EngCmd) (x : Ctx) :
    withCommand .s o cmd x = { x with
      engS := x.engS ++ [cmd], tok := { x.tok with res := (withCommand .s o cmd x).tok.res } } := by
  unfold withCommand setEngQ bumpRes engQ
  split <;> rfl

section engine

variable {s : State} {st : Stream} {o : E} {e : QEntry}

theorem performEng_began_done (hroom : (engQ s.me st).length < 16)
    (hk : ¬ (o.kp ≠ 0 ∧ 15 < s.me.tok.k[o.kp.toNat] + s.me.tok.res[o.kp.toNat] + 1)) :
    performEng st o s.cur e (began s) = .done (s.setCtx s.cur (withCommand st o
      { instr := e.instr, val := engVal o e.a, epoch := e.epoch, pos := e.pos, stage := s.me.stage } (handed s))) := by
  have hlen : ¬ 16 ≤ (engQ (handed s) st).length := not_le.2 hroom
  rw [performEng, began_ctx, if_neg hlen]
  refine (if_neg hk).trans (congrArg Perform.done (State.setCtx_modCtx _ _ _ _))

theorem performEng_began_fault (hroom : (engQ s.me st).length < 16)
    (hk : o.kp ≠ 0 ∧ 15 < s.me.tok.k[o.kp.toNat] + s.me.tok.res[o.kp.toNat] + 1) :
    performEng st o s.cur e (began s) = .fault (began s) 9 (BitVec.ofNat 64 o.kp.toNat) false := by
  have hlen : ¬ 16 ≤ (engQ (handed s) st).length := not_le.2 hroom
  rw [performEng, began_ctx, if_neg hlen]
  exact if_pos hk

end engine

/-- Settles O33: `issue_appends` and `issue_waits` for every instruction that the front hands to a stream, and what
`performEng` does as an engine instruction begins. -/
theorem queuesAccept : Obligations.QueuesAccept := by
  unfold Obligations.QueuesAccept
  refine ⟨?streams, ?engine⟩
  case streams =>
    intro s i st hst hlevel
    rcases hc : captures i with ⟨a, b, d⟩
    exact ⟨exec_appends hst hlevel hc, exec_waits hst hlevel hc⟩
  case engine =>
    intro s i st o hi _ hfree hroom x k n cmd
    obtain ⟨hst, hmat, hexec⟩ := engineRow_cases hi s
    have hkp : o.kp ≠ 0 ↔ k ≠ 0 := by simp [k, BitVec.toNat_eq]
    have hn : s.me.tok.k[o.kp.toNat] + s.me.tok.res[o.kp.toNat] + 1 = n := by
      have hlt : k < 16 := o.kp.isLt
      simp only [n, Vector.getElem?_eq_getElem hlt, Option.getD_some, k]
    have hcmd : cmd = {
        instr := i, val := engVal o (readS s.me o.sa), epoch := s.me.reg.epoch, pos := s.me.pos
        stage := s.me.stage } := by
      rw [engVal_eq]
    refine ⟨fun hk => ?accepted, fun hk hover => ?overflow⟩
    case accepted =>
      have hfit : ¬ (o.kp ≠ 0 ∧ 15 < s.me.tok.k[o.kp.toNat] + s.me.tok.res[o.kp.toNat] + 1) := by
        rw [hkp, hn]; omega
      refine ⟨_, withCommand st o cmd x, ?_, rfl, ?_, fun j hj => withCommand_res st o cmd x⟩
      · rw [hexec, hcmd]
        exact issue_done hfree (by simp) hmat (performEng_began_done hroom hfit) (withCommand_ch _ _ _ _)
      · rcases hst with rfl | rfl
        · exact withCommand_l _ _ _
        · exact withCommand_s _ _ _
    case overflow =>
      rw [hexec]
      refine issue_fault hfree (by simp) hmat (performEng_began_fault hroom ⟨hkp.2 hk, ?_⟩)
      rwa [hn]

end Sys2Proof.Machine
end

section
/-! PROOFS. A step whose turn is a front's or a step of the part (spec/02 R22, R37, R38, spec/12 R223, R224). -/

namespace Sys2Proof.Machine

/-! ## A fetch leaves the current context as it was -/

theorem fillTlbs_cur (c : CtxId) (t : TlbEntry) (s : State) : (fillTlbs c t s).cur = s.cur := by
  unfold fillTlbs
  split <;> rfl

theorem takePage_cur (s : State) (h : HalfId) : (takePage s h).1.cur = s.cur := by
  rw [takePage]
  cases (s.half h).spare with
  | some p => rfl
  | none =>
    cases hring : ringOk s (s.half h).pool 8 with
    | false => simp only [Bool.not_false, if_true, State.modHalf_cur]
    | true =>
      simp only [Bool.not_true, Bool.false_eq_true, if_false]
      rcases poolTake s h (2 ^ 16) (s.half h).pool with ⟨r, p | p⟩ <;> rfl

theorem State.withMem_cur (s : State) (m : List Host.Cell) : ({ s with mem := m } : State).cur = s.cur := rfl

theorem firstTouch_cur (s : State) (h : HalfId) (entry : Nat) : (firstTouch s h entry).1.cur = s.cur := by
  have ht := takePage_cur s h
  rw [firstTouch]
  generalize takePage s h = taken at ht ⊢
  rcases taken with ⟨u, p | p⟩
  · exact ht
  · exact (State.withMem_cur u _).trans ht

theorem walkTouch_cur (s : State) (c : CtxId) (acc : Access) (va : Word) : (walkTouch s c acc va).1.cur = s.cur := by
  unfold walkTouch
  dsimp only
  split
  case h_1 t _ => exact fillTlbs_cur c t s
  case h_5 e _ =>
    have ht := firstTouch_cur s (halfOf c) e
    split
    case h_1 u hu => rwa [hu] at ht
    case h_2 u hu =>
      rw [hu] at ht
      split
      · exact (fillTlbs_cur _ _ _).trans ht
      · exact ht
  all_goals rfl

theorem xlatePage_cur (s : State) (c : CtxId) (acc : Access) (va : Word) : (xlatePage s c acc va).1.cur = s.cur := by
  unfold xlatePage
  dsimp only
  split
  · rfl
  · split
    · rfl
    · split
      · exact fillTlbs_cur _ _ _
      · exact walkTouch_cur _ _ _ _

theorem xlate_cur (s : State) (c : CtxId) (acc : Access) (va : Word) : (xlate s c acc va).1.cur = s.cur := by
  unfold xlate
  split
  · rfl
  · split <;> rfl
  · exact xlatePage_cur _ _ _ _

theorem readCode_cur (k : CoreId) (key : Nat) (s : State) : (readCode k key s).1.cur = s.cur := by
  unfold readCode
  dsimp only
  split <;> rfl

theorem fetch_cur (c : CtxId) (s : State) : (fetch c s).1.cur = s.cur := by
  have hx := xlate_cur (actFor c (s.ctx c).reg.epoch s) c .fetch (s.ctx c).regs.pc
  unfold fetch
  dsimp only
  split <;> rename_i hu <;> rw [hu] at hx
  · exact (readCode_cur _ _ _).trans hx
  all_goals exact hx

/-! ## The turns -/

theorem runWord_of_next {w : Word} {i : Instr} {s t : State} (hd : decode w = .ok i) (he : exec i s = .next t) :
    runWord w s = .next (noteIssue s.cur i s t) := by
  simp only [runWord, hd, he]

theorem runWord_of_error {w : Word} {r : Reject} {s : State} (hd : decode w = .error r) :
    ∃ t, runWord w s = .next t ∧ frontTraps s t 1 s.me.regs.pc := by
  simp only [runWord, hd]
  exact ⟨_, rfl, rfl⟩

/-- The front has issued: it has passed an instruction, closed its region or left its handler. -/
theorem hasIssued_iff (i : Instr) (x y : Ctx) : hasIssued i x y = true ↔
    y.pos ≠ x.pos ∨ y.reg.closed.isSome ≠ x.reg.closed.isSome ∨
      (∃ o, i = .rett o) ∧ x.trap.inh = true ∧ y.trap.inh = false ∧ y.bank = .running := by
  by_cases hrett : ∃ o, i = .rett o
  · obtain ⟨o, rfl⟩ := hrett
    simp [hasIssued, ne_comm (b := y.pos), ne_comm (b := y.reg.closed.isSome), and_assoc, or_assoc]
  · have hplain : hasIssued i x y = (x.pos != y.pos || x.reg.closed.isSome != y.reg.closed.isSome || false) := by
      unfold hasIssued
      split
      · exact absurd ⟨_, rfl⟩ hrett
      · rfl
    simp [hplain, hrett, ne_comm (b := y.pos), ne_comm (b := y.reg.closed.isSome)]

theorem noteIssue_of_issued {c : CtxId} {i : Instr} {s t : State} (h : hasIssued i (s.ctx c) (t.ctx c) = true) :
    noteIssue c i s t = t.modCore (coreOf c) fun k =>
      { k with lastBank := bankOf c, fbud := (((s.ctx c).work).map fun w => w.disp.fbud).getD 0 } := if_pos h

theorem noteIssue_of_not_issued {c : CtxId} {i : Instr} {s t : State} (h : ¬ hasIssued i (s.ctx c) (t.ctx c) = true) :
    noteIssue c i s t = t := if_neg h

theorem step_of_turn {s u : State} {t : Turn} {ts : List Turn} (h : s.agenda = t :: ts)
    (hrun : runTurn t { s with agenda := ts } = .next u) :
    step s = .next (if keepsLost t then u else { u with lostRead := false }) := by
  simp only [step, h, hrun, afterTurn]

/-- A front's turn that fetches a word runs it, with the core's note of its place. -/
theorem runTurn_front {s u : State} {ts : List Turn} {c : CtxId} {lag : Bool} {w : Word} (hon : s.dev.stopped = false)
    (hopen : frontOpen { s with agenda := ts, cur := c, lag := lag } c = true)
    (hfetch : fetch c { s with agenda := ts, cur := c, lag := lag } = (u, .word w)) :
    runTurn (.front c lag) { s with agenda := ts } = runWord w (noteDecode c u) := by
  simp only [runTurn, hon, frontTurn, hopen, hfetch, if_true, Bool.false_eq_true, if_false]

/-- A step of the part in its turn. -/
theorem runTurn_event (s : State) {i : Instr} (hpart : encode i = none) (hon : s.dev.stopped = false) :
    runTurn (.event i) s = exec i s := by
  simp [runTurn, eventTurn, isPartStep, hpart, hon]

theorem keepsLost_event (i : Instr) : keepsLost (.event i) = true ↔ ∃ c, i = .outboundReadTimeout c := by
  unfold keepsLost
  split <;> simp_all

/-- Settles O5: a front's turn is `runWord` after the fetch and the note, a step of the part is `exec` of it. -/
theorem stepRunsDecoded : Obligations.StepRunsDecoded := by
  unfold Obligations.StepRunsDecoded
  refine fun s ts => ⟨?front, ?event⟩
  case front =>
    intro c lag u w hag hon r hopen hfetch v left noted
    have hcur : v.cur = c := by
      have h := fetch_cur c r
      rw [hfetch] at h
      exact h
    have hme : v.me = v.ctx c := congrArg v.ctx hcur
    have hturn := runTurn_front hon hopen hfetch
    refine ⟨fun i t hd he => ⟨noteIssue c i v t, ⟨?same, ?issued⟩, ?step⟩, fun e hd => ?illegal⟩
    case same =>
      rintro ⟨hpos, hclosed, hleft⟩
      refine noteIssue_of_not_issued (mt (hasIssued_iff ..).1 ?_)
      exact fun h => h.elim (absurd hpos) fun h => h.elim (absurd hclosed) hleft
    case issued => exact fun h => noteIssue_of_issued ((hasIssued_iff ..).2 h)
    case step =>
      have hrun := runWord_of_next hd he
      rw [hcur] at hrun
      exact step_of_turn hag (hturn.trans hrun)
    case illegal =>
      obtain ⟨t, hrun, htrap⟩ := runWord_of_error (s := v) hd
      rw [hme] at htrap
      exact ⟨t, htrap, step_of_turn hag (hturn.trans hrun)⟩
  case event =>
    intro i t hag hpart hon he
    have hstep := step_of_turn hag ((runTurn_event { s with agenda := ts } hpart hon).trans he)
    refine ⟨fun hno => ?_, fun hlost => ?_⟩
    · rwa [if_neg (mt (keepsLost_event i).1 fun ⟨c, hc⟩ => hno c hc)] at hstep
    · rwa [if_pos ((keepsLost_event i).2 hlost)] at hstep

end Sys2Proof.Machine
end

section
/-! PROOFS. Every instruction and every step of the part has a next state (spec/02 R37, R38). -/

namespace Sys2Proof.Machine

/-- An outcome is a next state. -/
def GoesOn (r : Host.Outcome State Fault Refusal) : Prop := ∃ t, r = .next t

theorem goesOn_next (t : State) : GoesOn (.next t) := ⟨t, rfl⟩

/-! ## The operations that the front's instructions share -/

section shared

variable {s : State} {k : Host.Outcome State Fault Refusal}

theorem goesOn_frontOp (rs : List (BitVec 5)) (f : Ctx → Ctx) (s : State) : GoesOn (frontOp rs f s) := by
  unfold frontOp
  split <;> exact goesOn_next _

theorem goesOn_flagBranch (rs : List (BitVec 5)) (f : Flag → Word → Bool) (o : FB) (s : State) :
    GoesOn (flagBranch rs f o s) := by
  unfold flagBranch
  split
  · exact goesOn_next _
  · exact goesOn_frontOp _ _ _

theorem goesOn_jumpReg (sa : BitVec 5) (rs : List (BitVec 5)) (f : Ctx → Ctx) (s : State) :
    GoesOn (jumpReg sa rs f s) := by
  simp only [jumpReg, frontFault]
  repeat' split
  all_goals exact goesOn_next _

theorem goesOn_enterLoop (o : SL) (n : Word32) (s : State) : GoesOn (enterLoop o n s) := by
  simp only [enterLoop, frontFault]
  repeat' split
  all_goals exact goesOn_next _

theorem goesOn_withLevel (i : Instr) (h : GoesOn k) : GoesOn (withLevel i s k) := by
  unfold withLevel
  split
  · exact h
  all_goals exact goesOn_next _

theorem goesOn_commitPoint (h : GoesOn k) : GoesOn (commitPoint s k) := by
  unfold commitPoint
  split
  · exact goesOn_next _
  · exact h

theorem goesOn_afterRetired (h : GoesOn k) : GoesOn (afterRetired s k) := by
  refine goesOn_commitPoint ?_
  split
  · exact h
  · exact goesOn_next _

theorem goesOn_closingPoint (how : Closing) (s : State) : GoesOn (closingPoint how s) :=
  goesOn_commitPoint (goesOn_next _)

theorem goesOn_issue (st : Stream) (i : Instr) (tok : Tok) (a b d : BitVec 5) (perf : CtxId → QEntry → State → Perform)
    (s : State) : GoesOn (issue st i tok a b d perf s) := by
  simp only [issue]
  repeat' split
  all_goals exact goesOn_next _

theorem goesOn_csrWriteOp (i : Instr) (o : SI) (f : Word → Word → Word) (s : State) :
    GoesOn (csrWriteOp i o f s) := by
  obtain ⟨t, ht⟩ := goesOn_issue .c i Tok.none o.sa 0 0 performFpc s
  refine goesOn_withLevel i (goesOn_commitPoint ?_)
  simp only [ht]
  repeat' split
  all_goals exact goesOn_next _

theorem goesOn_guardOp (i : Instr) (max : Bool) (s : State) : GoesOn (guardOp i max s) := by
  obtain ⟨t, ht⟩ := goesOn_issue .c i Tok.none 0 0 0 performGuard s
  refine goesOn_commitPoint ?_
  simp only [ht]
  split <;> exact goesOn_next _

theorem goesOn_queueCfg (op : Nat) (f : QueueId → Pkt → State → State) (q : QueueId) (s : State) :
    GoesOn (queueCfg op f q s) := by
  unfold queueCfg
  repeat' split
  all_goals exact goesOn_next _

end shared

/-! ## The instructions and the steps -/

/-- What the front hands to a stream is issued, or waits, or is a fault. -/
theorem exec_handedTo_goesOn {i : Instr} {st : Stream} (h : handedTo i = some st) (s : State) : GoesOn (exec i s) := by
  obtain ⟨tok, perf, -, hexec⟩ := exec_of_handedTo h s
  rw [hexec]
  refine goesOn_withLevel i ?_
  split
  · exact goesOn_next _
  · exact goesOn_issue ..

/-- An instruction word that the front does not hand to a stream. -/
def staysInFront (i : Instr) : Bool := (encode i).isSome && (handedTo i).isNone

theorem exec_front_goesOn {i : Instr} (h : staysInFront i = true) (s : State) : GoesOn (exec i s) := by
  cases i with
  | add _ | sub _ | mul _ | mulhS _ | mulhN _ | divS _ | divN _ | remS _ | remN _ | minS _ | minN _ | maxS _
  | maxN _ | and _ | or _ | xor _ | andn _ | shl _ | shrN _ | shrS _ | rot _ | sltS _ | sltN _ | seq _ | sne _
  | clz _ | ctz _ | popc _ | sextB _ | sextH _ | sextW _ | zextB _ | zextH _ | zextW _ | addi _ | andi _ | ori _
  | xori _ | shli _ | shriN _ | shriS _ | sltiS _ | sltiN _ | li _ | lih _ | adr _ | beq _ | bne _ | bltS _
  | bgeS _ | bltN _ | bgeN _ | jal _ | lidx _ => exact goesOn_frontOp _ _ _
  | j _ | nop _ =>
    simp only [exec, execJ, execNop]
    exact goesOn_frontOp _ _ _
  | bfAny _ | bfNany _ | bfAll _ | bfNall _ | bfCeq _ | bfCne _ | bfCge _ | bfClt _ =>
    simp only [exec, execBfAny, execBfNany, execBfAll, execBfNall, execBfCeq, execBfCne, execBfCge, execBfClt]
    exact goesOn_flagBranch _ _ _ _
  | jr _ | jalr _ =>
    simp only [exec, execJr, execJalr]
    exact goesOn_jumpReg _ _ _ _
  | csrw _ | csrs _ | csrc _ =>
    simp only [exec, execCsrw, execCsrs, execCsrc]
    exact goesOn_csrWriteOp _ _ _ _
  | guardMax _ | guardSsq _ =>
    simp only [exec, execGuardMax, execGuardSsq]
    exact goesOn_guardOp _ _ _
  | trapi _ | ebreak _ | done _ =>
    simp only [exec, execTrapi, execEbreak, execDone]
    exact goesOn_closingPoint _ _
  | commit _ =>
    simp only [exec, execCommit]
    exact goesOn_commitPoint (goesOn_next _)
  | amo _ =>
    simp only [exec, execAmo]
    exact goesOn_afterRetired (goesOn_next _)
  | rett _ =>
    simp only [exec, execRett]
    refine goesOn_withLevel _ ?_
    split
    · exact goesOn_closingPoint _ _
    · exact goesOn_afterRetired (goesOn_next _)
  | csrr _ =>
    simp only [exec, execCsrr]
    refine goesOn_withLevel _ ?_
    split
    · exact goesOn_next _
    · exact goesOn_frontOp _ _ _
  | fcnt _ =>
    simp only [exec, execFcnt]
    split
    · exact goesOn_next _
    · exact goesOn_frontOp _ _ _
  | loop _ =>
    simp only [exec, execLoop]
    split
    · exact goesOn_next _
    · exact goesOn_enterLoop _ _ _
  | loopT _ =>
    simp only [exec, execLoopT]
    split
    · exact goesOn_next _
    · exact goesOn_enterLoop _ _ _
  | endloop _ | brkloop _ | fence _ =>
    simp only [exec, execEndloop, execBrkloop, execFence, frontFault]
    repeat' split
    all_goals exact goesOn_next _
  | _ => cases h

theorem exec_partStep_goesOn {i : Instr} (h : encode i = none) (s : State) : GoesOn (exec i s) := by
  cases i with
  | engineCommandStart _ | engineCommandComplete _ _ | arrivalWordWrite _ _ | regionRetire _ | regionOverrun _
  | checksumCompare _ _ _ | trapEntry _ | pageWalk _ _ _ | pageFault _ | pageRequestWrite _ | preemptRequest _
  | evict _ | restore _ | bankSwitch _ | gangForm _ | gangStart _ | taskPop _ | taskRefill _ | weirDrain _ _
  | postedAck _ _ | reductionApply _ | deferredEffectApply _ _ | joinPostRetry _ | waiterWake _ | packetFetch _
  | packetPoll _ | opCard _ | cond _ | loopn _ | signalCard _ | waitCard _ | waitCardTimeout _ | join _
  | endCard _ | memcfgWrite _ | toctlWrite _ _ | qctlWrite _ _ | tqctlWrite _ _ | ownctlClaim _ | ownctlRelease _
  | ownctlHandover _ _ | ownctlCandidate _ _ | ownhbWrite _ | dramTrainingDone _ | bootctlGo _ | measextGo _
  | islandWatchdogExpiry _ | cascopWrite _ _ | operatingPointStep _ | clockHop _ | clockHoldEnd _
  | balanceEval _ _ | droopDetect _ _ | droopRelease _ | powerLimitEval _ | thermalLimit _ _ | thermtrip _
  | pcSample _ | resizableBarWrite _ | islandHealthLoss _ _ | detectedError _
  | outboundReadTimeout _ => exact goesOn_next _
  | queueCfgWrite _ | queueCfgEnable _ | queueCfgDisable _ | queueCfgReset _ =>
    simp only [exec, execQueueCfgWrite, execQueueCfgEnable, execQueueCfgDisable, execQueueCfgReset]
    exact goesOn_queueCfg _ _ _ _
  | waitwPoll _ | waitwTimeout _ | icacheRefill _ _ | turnoutWrite _ | turnoutRead _ | bar2Access _
  | notifyWrite _ | launch _ | graph _ | signal _ | waitTl _ | waitMem _ | waitMemReread _ | waitMemTimeout _
  | write _ | fencePacket _ | inval _ | invalComplete _ | pageResp _ | patch _ | patchQuiesce _ | attest _
  | operatorComplete _ | registerWrite _ _ | heartbeatExpiry | handoverTimeout | fullReset _
  | functionLevelReset _ | failoverTrigger _ | foctlGo _ | adoption =>
    simp only [exec, execWaitwPoll, execWaitwTimeout, execIcacheRefill, execTurnoutWrite, execTurnoutRead,
      execBar2Access, execNotifyWrite, execLaunch, execGraph, execSignal, execWaitTl, execWaitMem, execWaitMemReread,
      execWaitMemTimeout, execWrite, execFencePacket, execInval, execInvalComplete, execPageResp, execPatch,
      execPatchQuiesce, execAttest, execOperatorComplete, execRegisterWrite, execHeartbeatExpiry, execHandoverTimeout,
      execFullReset, execFunctionLevelReset, execFailoverTrigger, execFoctlGo, execAdoption]
    repeat' split
    all_goals exact goesOn_next _
  | _ => cases h

/-- Settles O6: what is handed to a stream, what the front executes itself, and the steps of the part. -/
theorem everyInstructionGoesOn : Obligations.EveryInstructionGoesOn := by
  unfold Obligations.EveryInstructionGoesOn
  intro i s
  cases hst : handedTo i with
  | some st => exact exec_handedTo_goesOn hst s
  | none =>
    cases hw : encode i with
    | some w => exact exec_front_goesOn (by rw [staysInFront, hw, hst]; rfl) s
    | none => exact exec_partStep_goesOn hw s

end Sys2Proof.Machine
end

section

/-! PROOFS. The canonical form of memory: what carries it from state to state.

Each function of the model that answers a state has one rule: `f_mem` where it leaves memory alone, `f_memOk` where it
keeps the canonical form. A rule cites those of the functions `f` calls, so that each body is taken apart once. -/

namespace Sys2Proof.Machine

theorem memOk_iff (s : State) : s.memOk ↔ memWf s.mem = true := Iff.rfl

theorem memOk_of_mem_eq {s t : State} (h : t.mem = s.mem) (hs : s.memOk) : t.memOk := by
  rwa [memOk_iff, h]

theorem foldl_memOk {α : Type} {f : State → α → State} (hf : ∀ s a, s.memOk → (f s a).memOk) (l : List α) {s : State}
    (hs : s.memOk) : (l.foldl f s).memOk := by
  induction l generalizing s with
  | nil => exact hs
  | cons a l ih => exact ih (hf _ _ hs)

/-- A value that each step of a fold leaves alone is as it was after the fold. -/
theorem foldl_keeps {β α : Type} {g : State → β} {f : State → α → State} (hf : ∀ s a, g (f s a) = g s) (l : List α)
    (s : State) : g (l.foldl f s) = g s := by
  induction l generalizing s with
  | nil => rfl
  | cons a l ih => exact (ih _).trans (hf _ _)

theorem foldl_mem {α : Type} {f : State → α → State} (hf : ∀ s a, (f s a).mem = s.mem) (l : List α) (s : State) :
    (l.foldl f s).mem = s.mem :=
  foldl_keeps (g := State.mem) hf l s

theorem getD_memOk {o : Option State} {s : State} (ho : ∀ {t}, o = some t → t.memOk) (hs : s.memOk) :
    (o.getD s).memOk := by
  cases o with
  | none => exact hs
  | some t => exact ho rfl

theorem undoTemplates_memWf {m : List Host.Cell} (h : memWf m = true) (r : Region) :
    memWf (undoTemplates r m) = true :=
  memWf_foldl _ (fun _ _ hm => memWf_putNat hm _ _ _) _ h

theorem waitBit_memWf {m : List Host.Cell} (h : memWf m = true) (key : Nat) (k : CoreId) (on : Bool) :
    memWf (waitBit key k on m) = true := memWf_putNat h _ _ _

theorem reduceItem_memWf {m : List Host.Cell} (h : memWf m = true) (op : Nat) (wide : Bool) (i : Nat × Nat) :
    memWf (reduceItem op wide m i) = true := memWf_putNat h _ _ _

/-- The state in which an operation that is performed leaves the part, however it ends. -/
def Perform.state : Perform → State
  | .done s | .wait s | .held s | .park s | .begun s | .fault s _ _ _ => s

/-- The state in which an engine command that starts leaves the part, however it starts. -/
def Started.state : Started → State
  | .done s | .wait s | .active s _ | .fault s _ _ _ => s

/-- The canonical form after an attempt to store: an overrun answers no state, so it has nothing to keep. -/
def Stored.memOk : Stored → Prop
  | .done s | .wait s => s.memOk
  | .overrun => True

/-- The canonical form of the state that an outcome goes on with; a fault or a refusal goes on with none. -/
def NextMemOk : Host.Outcome State Fault Refusal → Prop
  | .next t => t.memOk
  | _ => True

theorem nextMemOk_iff (s : State) : NextMemOk (.next s) ↔ s.memOk := Iff.rfl

end Sys2Proof.Machine

end

section

/-! PROOFS. The canonical form of memory through translation, regions, operators and errors. -/

namespace Sys2Proof.Machine

@[simp] theorem State.modSaved_mem (s : State) (k : CoreId) (i : Nat) (f : SavedCtx → SavedCtx) :
    (State.modSaved s k i f).mem = s.mem := rfl

@[simp] theorem actFor_mem (c : CtxId) (e : Nat) (s : State) : (actFor c e s).mem = s.mem := rfl

@[simp] theorem raiseIrq_mem (fn : Fin 2) (vec : Fin 66) (s : State) : (raiseIrq fn vec s).mem = s.mem := by
  unfold raiseIrq; split <;> rfl

@[simp] theorem queueIrq_mem (q : QueueId) (s : State) : (queueIrq q s).mem = s.mem := by
  grind [queueIrq, raiseIrq_mem]

theorem takePage_memOk {s : State} {h : HalfId} (hs : s.memOk) : (takePage s h).1.memOk := by
  grind [takePage, State.modHalf_mem, memWf_zero, memOk_iff]

theorem firstTouch_memOk {s : State} {h : HalfId} {entry : Nat} (hs : s.memOk) :
    (firstTouch s h entry).1.memOk := by
  grind [firstTouch, takePage_memOk, memWf_putNat, memOk_iff]

@[simp] theorem fillTlbs_mem (c : CtxId) (t : TlbEntry) (s : State) : (fillTlbs c t s).mem = s.mem := by
  unfold fillTlbs; split <;> rfl

@[simp] theorem noteUse_mem (c : CtxId) (t : TlbEntry) (s : State) : (noteUse c t s).mem = s.mem := rfl

theorem walkTouch_memOk {s : State} {c : CtxId} {acc : Access} {va : Word} (hs : s.memOk) :
    (walkTouch s c acc va).1.memOk := by
  grind [walkTouch, noteUse_mem, fillTlbs_mem, firstTouch_memOk, memOk_iff]

theorem xlatePage_memOk {s : State} {c : CtxId} {acc : Access} {va : Word} (hs : s.memOk) :
    (xlatePage s c acc va).1.memOk := by
  grind [xlatePage, noteUse_mem, fillTlbs_mem, walkTouch_memOk, memOk_iff]

theorem xlate_memOk {s : State} {c : CtxId} {acc : Access} {va : Word} (hs : s.memOk) :
    (xlate s c acc va).1.memOk := by
  grind [xlate, xlatePage_memOk]

@[simp] theorem freeSlots_mem (k : CoreId) (l : List Nat) (s : State) : (freeSlots k l s).mem = s.mem :=
  foldl_mem (f := fun s i => freeSlot k i s) (fun _ _ => rfl) l s

@[simp] theorem endLease_mem (c : CtxId) (s : State) : (endLease c s).mem = s.mem := rfl

theorem undoCore_memOk {c : CtxId} {r : Region} {s : State} (hs : s.memOk) : (undoCore c r s).memOk := by
  grind [undoCore, freeSlots_mem, State.modCtx_mem, undoTemplates_memWf, memOk_iff]

theorem leaveHome_memOk {w : Waiter} {s : State} (hs : s.memOk) : (leaveHome w s).memOk := by
  grind [leaveHome, waitBit_memWf, memOk_iff]

theorem dropWaiters_memOk {f : Waiter → Bool} {s : State} (hs : s.memOk) : (dropWaiters f s).memOk := by
  grind [dropWaiters, leaveHome_memOk, foldl_memOk, foldl_mem, memOk_iff]

theorem discard_memOk {c : CtxId} {e : Nat} {s : State} (hs : s.memOk) : (discard c e s).memOk := by
  grind [discard, undoCore_memOk, State.modCtx_mem, State.modCore_mem, State.modHalf_mem, dropWaiters_memOk,
    foldl_memOk, foldl_mem, memOk_iff]

theorem orLatch_memOk {g : CascId} {i : Latched} {f : State → State} {s : State}
    (hf : ∀ x, x.memOk → (f x).memOk) (hs : s.memOk) :
    (orLatch g i f s).memOk := by
  grind [orLatch, State.modCasc_mem, memOk_iff]

theorem discardAll_memOk {c : CtxId} {s : State} (hs : s.memOk) : (discardAll c s).memOk := by
  grind [discardAll, discard_memOk]

@[simp] theorem endSwitch_mem (c : CtxId) (s : State) : (endSwitch c s).mem = s.mem := rfl

theorem endCtx_memOk {c : CtxId} {s : State} (hs : s.memOk) : (endCtx c s).memOk := by
  grind [endCtx, endLease_mem, discardAll_memOk, freeSlots_mem, endSwitch_mem, State.modCore_mem,
    State.modCtx_mem, memOk_iff]

theorem killCtx_memOk {c : CtxId} {s : State} (hs : s.memOk) : (killCtx c s).memOk := by
  grind [killCtx, State.modCtx_mem, endCtx_memOk, memOk_iff]

@[simp] theorem State.modOp_mem (s : State) (id : Nat) (f : Operator → Operator) :
    (State.modOp s id f).mem = s.mem := rfl

@[simp] theorem settleFiller_mem (g : CascId) (s : State) : (settleFiller g s).mem = s.mem :=
  foldl_mem (f := fun (s : State) (t : CtxId × Nat) => s.modCtx t.1 unfill) (fun _ _ => rfl) _ s

@[simp] theorem fillBank_mem (c : CtxId) (n : Nat) (s : State) : (fillBank c n s).mem = s.mem := by
  unfold fillBank; split <;> rfl

theorem endItem_memOk {c : CtxId} {how : ItemEnd} {s : State} (hs : s.memOk) : (endItem c how s).memOk := by
  grind [endItem, endCtx_memOk, State.modOp_mem, settleFiller_mem, fillBank_mem, memOk_iff]

@[simp] theorem endSavedOf_mem (f : Ctx → Bool) (k : CoreId) (s : State) : (endSavedOf f k s).mem = s.mem := by
  refine foldl_mem (fun s t => ?_) _ s
  split
  · rfl
  · split <;> rfl

@[simp] theorem bumpSaved_mem (id : Nat) (s : State) : (bumpSaved id s).mem = s.mem :=
  foldl_mem (fun s k => endSavedOf_mem _ k s) _ s

theorem dropOp_memOk {id : Nat} {s : State} (hs : s.memOk) : (dropOp id s).memOk := by
  have hk := foldl_memOk (f := fun s c => killCtx c s) (fun _ _ => killCtx_memOk) (opCtxs s id) hs
  unfold dropOp
  rw [memOk_iff, foldl_mem (fun s g => settleFiller_mem g s)]
  simp only [State.modOp_mem, bumpSaved_mem]
  exact hk

theorem enterError_memOk {q : QueueId} {code : Nat} {epkt : Word32} {s : State} (hs : s.memOk) :
    (enterError q code epkt s).memOk := by
  grind [enterError, dropOp_memOk, queueIrq_mem, State.modQueue_mem, foldl_memOk, foldl_mem, memOk_iff]

theorem errorWave_memOk {n : Nat} {q : QueueId} {code : Nat} {epkt : Word32} {s : State} (hs : s.memOk) :
    (errorWave n q code epkt s).memOk := by
  induction n generalizing q code epkt s with
  | zero => exact hs
  | succ n ih =>
    unfold errorWave
    split
    · exact hs
    · refine foldl_memOk (fun s r hs => ?_) _ (enterError_memOk hs)
      split
      · exact ih hs
      · exact hs

theorem queueError_memOk {q : QueueId} {code : Nat} {epkt : Word32} {s : State} (hs : s.memOk) :
    (queueError q code epkt s).memOk := by
  grind [queueError, errorWave_memOk]

theorem abortOp_memOk {id code : Nat} {s : State} (hs : s.memOk) : (abortOp id code s).memOk := by
  grind [abortOp, queueError_memOk]

theorem abortCtx_memOk {c : CtxId} {code : Nat} {s : State} (hs : s.memOk) : (abortCtx c code s).memOk := by
  grind [abortCtx, queueError_memOk, killCtx_memOk]

@[simp] theorem returnGang_mem (k : Gang) (s : State) : (returnGang k s).mem = s.mem := rfl

@[simp] theorem endReservation_mem (g : CascId) (k : Gang) (s : State) : (endReservation g k s).mem = s.mem :=
  foldl_mem (f := fun (s : State) (t : Fin 4 × Option Item) => s.modCore (coreAt g t.1) _) (fun _ _ => rfl) _ _

@[simp] theorem dropGang_mem (g : CascId) (k : Gang) (s : State) : (dropGang g k s).mem = s.mem := by
  grind [dropGang, endReservation_mem, returnGang_mem]

@[simp] theorem dropGangs_mem (g : CascId) (s : State) : (dropGangs g s).mem = s.mem := by
  refine foldl_mem (fun s k => ?_) _ s
  exact (foldl_mem (fun s (j : CascId × Gang) => dropGang_mem j.1 j.2 s) _ _).trans (dropGang_mem ..)

@[simp] theorem retireCore_mem (k : CoreId) (s : State) : (retireCore k s).mem = s.mem := by
  grind [retireCore, dropGangs_mem, State.modDev_mem]

@[simp] theorem countError_mem (k : CoreId) (s : State) : (countError k s).mem = s.mem := by
  grind [countError, State.modHalf_mem, State.modCore_mem, retireCore_mem]

@[simp] theorem markUnc_mem (h : HalfId) (s : State) : (markUnc h s).mem = s.mem := rfl

theorem abortUnc_memOk {id : Nat} {h : HalfId} {s : State} (hs : s.memOk) : (abortUnc id h s).memOk := by
  grind [abortUnc, abortOp_memOk, markUnc_mem, memOk_iff]

end Sys2Proof.Machine

end

section

/-! PROOFS. The canonical form of memory through traps, pages, streams and the closing of regions. -/

namespace Sys2Proof.Machine

theorem abortFatal_memOk {c : CtxId} {unc : Bool} {s : State} (hs : s.memOk) : (abortFatal c unc s).memOk := by
  grind [abortFatal, abortCtx_memOk, markUnc_mem, memOk_iff]

theorem takeTrap_memOk {c : CtxId} {cause : Nat} {tpc tval : Word} {kind : Bool} {s : State} (hs : s.memOk) :
    (takeTrap c cause tpc tval kind s).memOk := by
  grind [takeTrap, abortFatal_memOk, State.modCtx_mem, endLease_mem, memOk_iff]

theorem takeFaultTrap_memOk {c : CtxId} {cause : Nat} {tval : Word} {s : State} (hs : s.memOk) :
    (takeFaultTrap c cause tval s).memOk := by
  grind [takeFaultTrap, discardAll_memOk, takeTrap_memOk]

theorem parkPage_memOk {c : CtxId} {f : FaultRec} {s : State} (hs : s.memOk) : (parkPage c f s).memOk := by
  grind [parkPage, abortFatal_memOk, discardAll_memOk, State.modCtx_mem, endLease_mem, memOk_iff]

@[simp] theorem returnTrap_mem (c : CtxId) (s : State) : (returnTrap c s).mem = s.mem := by
  grind [returnTrap, freeSlots_mem, State.modCtx_mem, endLease_mem]

theorem raiseUnc_memOk {c : CtxId} {e : Nat} {va : Word} {s : State} (hs : s.memOk) :
    (raiseUnc c e va s).memOk := by
  grind [raiseUnc, takeFaultTrap_memOk, State.modCtx_mem, discard_memOk, memOk_iff]

theorem escalate_memOk {c : CtxId} {e : Nat} {s : State} (hs : s.memOk) : (escalate c e s).memOk := by
  grind [escalate, abortFatal_memOk, endItem_memOk, raiseUnc_memOk]

theorem countedDiscard_memOk {c : CtxId} {e : Nat} {s : State} (hs : s.memOk) :
    (countedDiscard c e s).memOk := by
  grind [countedDiscard, State.modCtx_mem, discard_memOk, escalate_memOk, memOk_iff]

theorem replayError_memOk {c : CtxId} {e : Nat} {s : State} (hs : s.memOk) : (replayError c e s).memOk := by
  grind [replayError, countedDiscard_memOk, countError_mem, memOk_iff]

theorem takeFault_memOk {c : CtxId} {s : State} (hs : s.memOk) : (takeFault c s).memOk := by
  grind [takeFault, replayError_memOk, parkPage_memOk, takeFaultTrap_memOk]

theorem raiseFault_memOk {c : CtxId} {e : Nat} {f : FaultRec} {s : State} (hs : s.memOk) :
    (raiseFault c e f s).memOk := by
  grind [raiseFault, State.modCtx_mem, takeFault_memOk, memOk_iff]

theorem xlateList_memOk {c : CtxId} {acc : Access} {n : Nat} {l : List (Nat × Word)} {s : State} (hs : s.memOk) :
    (xlateList c acc n l s).1.memOk := by
  induction l generalizing s with
  | nil => exact hs
  | cons p l ih => grind -ring -linarith -lia -order [xlateList, xlate_memOk]

theorem spanParts_memOk {c : CtxId} {acc : Access} {va : Word} {n : Nat} {used : Nat → Nat → Option Nat}
    {s : State} (hs : s.memOk) :
    (spanParts c acc va n used s).1.memOk := by
  grind [spanParts, xlateList_memOk]

@[simp] theorem noteRead_mem (c : CtxId) (e : QEntry) (lines : List Nat) (m : List Host.Cell) (s : State) :
    (noteRead c e lines m s).mem = s.mem := by
  unfold noteRead; split <;> rfl

@[simp] theorem presentUses_mem (k : CoreId) (us : List BankUse) (s : State) :
    (presentUses k us s).mem = s.mem := by
  unfold presentUses; split <;> rfl

@[simp] theorem presentFar_mem (acc : BankAcc) (ls : List Nat) (s : State) :
    (presentFar acc ls s).mem = s.mem :=
  (presentFar_onlyCores acc ls s).frame.2.1

@[simp] theorem presentKeys_mem (k : CoreId) (by_ : Option CtxId) (port : Fin 8) (acc : BankAcc)
    (keys : List Nat) (s : State) :
    (presentKeys k by_ port acc keys s).mem = s.mem := by
  grind [presentKeys, presentFar_mem, presentUses_mem]

@[simp] theorem touchBanks_mem (c : CtxId) (port : Fin 8) (acc : BankAcc) (keys : List Nat) (s : State) :
    (touchBanks c port acc keys s).mem = s.mem := by
  grind [touchBanks, presentKeys_mem]

@[simp] theorem bankGate_mem (c : CtxId) (port : Fin 8) (acc : BankAcc) (pos epoch : Nat) (keys : List Nat)
    (s : State) :
    (bankGate c port acc pos epoch keys s).2.mem = s.mem := by
  grind [bankGate, presentFar_mem, State.modCore_mem, presentUses_mem]

theorem flushPosted_memOk {c : CtxId} {s : State} (hs : s.memOk) : (flushPosted c s).memOk :=
  memOk_of_mem_eq (presentFar_mem ..) (memWf_foldl _ (fun _ _ h => memWf_line h _) _ hs)

theorem settleReads_memOk {c : CtxId} {keys : List Nat} {s : State} (hs : s.memOk) :
    (settleReads c keys s).memOk := by
  grind [settleReads, flushPosted_memOk]

theorem lostWrite_memOk {c : CtxId} {own : Bool} {op : Option Nat} {va : Word} {s : State} (hs : s.memOk) :
    (lostWrite c own op va s).memOk := by
  unfold lostWrite
  extract_lets x
  split
  · exact orLatch_memOk (fun _ => raiseUnc_memOk) hs
  · cases op with
    | none => exact hs
    | some id => exact abortUnc_memOk hs

theorem lostSent_memOk {c : CtxId} {op : Option Nat} {va : Word} {s : State} (hs : s.memOk) :
    (lostSent c op va s).memOk := by
  grind [lostSent, lostWrite_memOk]

@[simp] theorem bumpSeq_mem (c : CtxId) (s : State) : (bumpSeq c s).mem = s.mem := rfl

@[simp] theorem weirPlace_mem (c : CtxId) (e : Nat) (late : Bool) (run : LineRun) (ls : List (Word × LineWrite))
    (s : State) : (weirPlace c e late run ls s).mem = s.mem :=
  foldl_mem (f := fun (s : State) (l : Word × LineWrite) => s.modHalf _ (weirPut _ c e late run l.1 l.2)) (fun
    _ _ => rfl) ls s

theorem ownPlace_memOk {ls : List (Word × LineWrite)} {s : State} (hs : s.memOk) : (ownPlace ls s).memOk :=
  memWf_foldl _ (fun _ _ h => memWf_line h _) _ hs

theorem farPlace_memOk {c : CtxId} {e : Nat} {ls : List (Word × LineWrite)} {s : State} (hs : s.memOk) :
    (farPlace c e ls s).memOk := by
  grind [farPlace, presentFar_mem, ownPlace_memOk, State.modCtx_mem, memOk_iff]

@[simp] theorem holdLines_mem (c : CtxId) (q : QEntry) (ls : List (Word × LineWrite)) (s : State) :
    (holdLines c q ls s).mem = s.mem := rfl

theorem landLine_memOk {c : CtxId} {n : Nat} {s : State} (hs : s.memOk) : (landLine c n s).memOk := by
  unfold landLine
  extract_lets x
  split
  · exact hs
  · next u _ =>
    extract_lets l gone
    have hg := memOk_of_mem_eq (bankGate_mem c (portS c) .write u.pos u.p.epoch [l] s) hs
    split
    · exact raiseUnc_memOk hs
    · split
      · exact hs
      · split
        · split
          · next heq => rwa [heq] at hg
          · next heq =>
            rw [heq] at hg
            exact memWf_line hg _
        · split
          · exact hs
          · exact hs

theorem landStore_memOk {c : CtxId} {pos : Nat} {s : State} (hs : s.memOk) : (landStore c pos s).memOk := by
  refine foldl_memOk (fun s _ hs => ?_) _ hs
  split
  · exact landLine_memOk hs
  · exact hs

theorem storeLines_memOk {c : CtxId} {q : QEntry} {ls : List (Word × LineWrite)} {s : State} (hs : s.memOk) :
    (storeLines c q ls s).memOk := by
  grind [storeLines, weirPlace_mem, discard_memOk, holdLines_mem, bumpSeq_mem, bankGate_mem, State.modCtx_mem,
    farPlace_memOk, ownPlace_memOk, Stored.memOk, memOk_iff]

theorem frontOp_memOk {rs : List (BitVec 5)} {f : Ctx → Ctx} {s : State} (hs : s.memOk) :
    NextMemOk (frontOp rs f s) := by
  unfold frontOp; split <;> exact hs

theorem frontFault_memOk {cause : Nat} {tval : Word} {s : State} (hs : s.memOk) :
    NextMemOk (frontFault cause tval s) := by
  grind [frontFault, raiseFault_memOk, nextMemOk_iff]

theorem withLevel_memOk {i : Instr} {s : State} {k : Host.Outcome State Fault Refusal} (hk : NextMemOk k)
    (hs : s.memOk) :
    NextMemOk (withLevel i s k) := by
  grind [withLevel, frontFault_memOk, nextMemOk_iff]

theorem commitPoint_memOk {s : State} {k : Host.Outcome State Fault Refusal} (hk : NextMemOk k) (hs : s.memOk) :
    NextMemOk (commitPoint s k) := by
  grind [commitPoint, nextMemOk_iff]

@[simp] theorem takeLease_mem (c : CtxId) (s : State) : (takeLease c s).2.mem = s.mem := by
  grind [takeLease, State.modCore_mem]

@[simp] theorem leaseFor_mem (c : CtxId) (i : Instr) (s : State) : (leaseFor c i s).mem = s.mem := by
  grind [leaseFor, takeLease_mem]

@[simp] theorem settleAside_mem (c : CtxId) (e : QEntry) (s : State) : (settleAside c e s).mem = s.mem := by
  unfold settleAside; split <;> rfl

@[simp] theorem beginTake_mem (st : Stream) (t : Tok) (c : CtxId) (e : QEntry) (s : State) :
    (beginTake st t c e s).mem = s.mem := by
  unfold beginTake; split <;> rfl

theorem attempt_memOk {st : Stream} {t : Tok} {perf : CtxId → QEntry → State → Perform} {c : CtxId} {e : QEntry}
    {s : State} (hperf : ∀ x y z, z.memOk → (perf x y z).state.memOk) (hs : s.memOk) :
    (attempt st t perf c e s).state.memOk := by
  grind [attempt, leaseFor_mem, actFor_mem, settleAside_mem, State.modCtx_mem, beginTake_mem, Perform.state,
    memOk_iff]

@[simp] theorem appendQ_mem (st : Stream) (c : CtxId) (e : QEntry) (s : State) :
    (appendQ st c e s).mem = s.mem := rfl

@[simp] theorem parkQ_mem (c : CtxId) (e : QEntry) (s : State) : (parkQ c e s).mem = s.mem := rfl

theorem afterIssue_memOk {st : Stream} {c : CtxId} {e : QEntry} {p : Perform} (hs : p.state.memOk) :
    (afterIssue st c e p).memOk := by
  unfold afterIssue; split <;> grind [afterIssue, appendQ_mem, parkQ_mem, raiseFault_memOk, Perform.state,
    memOk_iff]

theorem handOver_memOk {st : Stream} {t : Tok} {perf : CtxId → QEntry → State → Perform} {c : CtxId}
    {e : QEntry} {s : State} (hperf : ∀ x y z, z.memOk → (perf x y z).state.memOk) (hs : s.memOk) :
    (handOver st t perf c e s).memOk := by
  grind [handOver, appendQ_mem, afterIssue_memOk, attempt_memOk, Perform.state, memOk_iff]

theorem issue_memOk {st : Stream} {i : Instr} {t : Tok} {a b d : BitVec 5}
    {perf : CtxId → QEntry → State → Perform} {s : State}
    (hperf : ∀ x y z, z.memOk → (perf x y z).state.memOk) (hs : s.memOk) :
    NextMemOk (issue st i t a b d perf s) := by
  grind [issue, handOver_memOk, State.modCtx_mem, nextMemOk_iff, Perform.state, memOk_iff]

@[simp] theorem dropHead_mem (st : Stream) (c : CtxId) (s : State) : (dropHead st c s).mem = s.mem := rfl

@[simp] theorem setHead_mem (st : Stream) (c : CtxId) (e : QEntry) (s : State) :
    (setHead st c e s).mem = s.mem := rfl

theorem tryHead_memOk {st : Stream} {c : CtxId} {e : QEntry} {p : Perform} (hs : p.state.memOk) :
    (tryHead st c e p).memOk := by
  unfold tryHead; split <;> grind [tryHead, dropHead_mem, setHead_mem, parkQ_mem, raiseFault_memOk,
    Perform.state, memOk_iff]

theorem jumpReg_memOk {sa : BitVec 5} {rs : List (BitVec 5)} {f : Ctx → Ctx} {s : State} (hs : s.memOk) :
    NextMemOk (jumpReg sa rs f s) := by
  grind [jumpReg, frontFault_memOk, State.modCtx_mem, nextMemOk_iff, memOk_iff]

theorem enterLoop_memOk {o : SL} {count : Word32} {s : State} (hs : s.memOk) :
    NextMemOk (enterLoop o count s) := by
  grind [enterLoop, State.modCtx_mem, frontFault_memOk, nextMemOk_iff, memOk_iff]

theorem flagBranch_memOk {rs : List (BitVec 5)} {f : Flag → Word → Bool} {o : FB} {s : State} (hs : s.memOk) :
    NextMemOk (flagBranch rs f o s) := by
  grind [flagBranch, frontOp_memOk, nextMemOk_iff]

@[simp] theorem csrWrite_mem (c : CtxId) (r : Csr) (v : Word) (s : State) : (csrWrite c r v s).mem = s.mem := rfl

@[simp] theorem performFpc_mem (c : CtxId) (e : QEntry) (s : State) : (performFpc c e s).state.mem = s.mem := rfl

@[simp] theorem commitOpen_mem (s : State) : (commitOpen s).mem = s.mem := rfl

theorem csrWriteOp_memOk {i : Instr} {o : SI} {f : Word → Word → Word} {s : State} (hs : s.memOk) :
    NextMemOk (csrWriteOp i o f s) := by
  grind [csrWriteOp, withLevel_memOk, commitPoint_memOk, issue_memOk, performFpc_mem, commitOpen_mem,
    State.modCtx_mem, csrWrite_mem, nextMemOk_iff, memOk_iff]

@[simp] theorem performGuard_mem (c : CtxId) (e : QEntry) (s : State) :
    (performGuard c e s).state.mem = s.mem := rfl

theorem guardOp_memOk {i : Instr} {max : Bool} {s : State} (hs : s.memOk) : NextMemOk (guardOp i max s) := by
  grind [guardOp, commitPoint_memOk, issue_memOk, performGuard_mem, State.modCtx_mem, nextMemOk_iff, memOk_iff]

theorem closingPoint_memOk {how : Closing} {s : State} (hs : s.memOk) : NextMemOk (closingPoint how s) := by
  grind [closingPoint, commitPoint_memOk, State.modCtx_mem, nextMemOk_iff, memOk_iff]

theorem afterRetired_memOk {s : State} {k : Host.Outcome State Fault Refusal} (hk : NextMemOk k) (hs : s.memOk) :
    NextMemOk (afterRetired s k) := by
  grind [afterRetired, commitPoint_memOk, commitOpen_mem, nextMemOk_iff, memOk_iff]

@[simp] theorem retireEffects_mem (c : CtxId) (r : Region) (s : State) : (retireEffects c r s).mem = s.mem := by
  grind [retireEffects, freeSlots_mem, State.modHalf_mem, State.modCore_mem, endLease_mem, State.modCtx_mem]

theorem markerFault_memOk {c : CtxId} {e cause : Nat} {tval : Word} {s : State} (hs : s.memOk) :
    (markerFault c e cause tval s).memOk := by
  grind [markerFault, raiseFault_memOk]

theorem retireDone_memOk {c : CtxId} {s : State} (hs : s.memOk) : (retireDone c s).memOk := by
  grind [retireDone, abortFatal_memOk, endItem_memOk]

theorem retireHeld_memOk {c : CtxId} {r : Region} {how : Closing} {s : State} (hs : s.memOk) :
    (retireHeld c r how s).memOk := by
  unfold retireHeld; split <;> grind [retireHeld, State.modCtx_mem, retireEffects_mem, takeTrap_memOk,
    retireDone_memOk, endItem_memOk, markerFault_memOk, memOk_iff]

theorem overrun_memOk {c : CtxId} {s : State} (hs : s.memOk) : (overrun c s).memOk := by
  grind [overrun, takeFault_memOk, State.modCtx_mem, memOk_iff]

theorem tryRetire_memOk {c : CtxId} {s : State} (hs : s.memOk) : (tryRetire c s).memOk := by
  grind [tryRetire, replayError_memOk, overrun_memOk, markerFault_memOk, State.modCtx_mem, retireEffects_mem,
    retireHeld_memOk, memOk_iff]

@[simp] theorem computeOp_mem (srcs : List (BitVec 6)) (dst : Option (BitVec 6)) (f : List VReg → Ctx → Ctx)
    (c : CtxId) (e : QEntry) (s : State) :
    (computeOp srcs dst f c e s).state.mem = s.mem := by
  grind [computeOp, State.setCtx_mem, Perform.state]

end Sys2Proof.Machine

end

section

/-! PROOFS. The canonical form of memory through loads, stores, atomics, counters, templates and engines. -/

namespace Sys2Proof.Machine

theorem withGot_memOk {α : Type} {r : State × Got α} {k : State → α → Perform} (hr : r.1.memOk)
    (hk : ∀ s v, s.memOk → (k s v).state.memOk) : (withGot r k).state.memOk := by
  obtain ⟨s, g⟩ := r
  cases g with
  | ok v => exact hk s v hr
  | fault => exact hr
  | hold => exact hr

theorem withBanks_memOk {c : CtxId} {port : Fin 8} {e : QEntry} {keys : List Nat} {s : State} {k : State → Perform}
    (hs : s.memOk) (hk : ∀ s, s.memOk → (k s).state.memOk) : (withBanks c port e keys s k).state.memOk := by
  have hg := memOk_of_mem_eq (bankGate_mem c port .read e.pos e.epoch keys s) hs
  unfold withBanks
  split
  · next heq => exact hk _ (by rwa [heq] at hg)
  · next heq => rwa [heq] at hg

theorem readLines_memOk {c : CtxId} {port : Fin 8} {e : QEntry} {unit : Nat} {keys : List Nat} {ps : List Part}
    {s : State} {k : State → List Host.Cell → Perform} (hk : ∀ x y, x.memOk → (k x y).state.memOk)
    (hs : s.memOk) :
    (readLines c port e unit keys ps s k).state.memOk := by
  grind [readLines, withBanks_memOk, settleReads_memOk, noteRead_mem, Perform.state, memOk_iff]

theorem vectorSpan_memOk {c : CtxId} {acc : Access} {t : Ty} {a : Word} {act : List Nat} {s : State}
    (hs : s.memOk) :
    (vectorSpan c acc t a act s).1.memOk := by
  grind [vectorSpan, spanParts_memOk]

theorem loadVReg_memOk {o : MM} {c : CtxId} {e : QEntry} {s : State} (hs : s.memOk) :
    (loadVReg o c e s).state.memOk := by
  grind [loadVReg, withGot_memOk, vectorSpan_memOk, readLines_memOk, State.modCtx_mem, Perform.state, memOk_iff]

theorem loadElems_memOk {o : MM} {c : CtxId} {e : QEntry} {adr : Ctx → Nat → Word} {s : State} (hs : s.memOk) :
    (loadElems o c e adr s).state.memOk := by
  grind [loadElems, withGot_memOk, xlateList_memOk, readLines_memOk, State.modCtx_mem, Perform.state, memOk_iff]

theorem performLdVs_memOk {o : MM} {c : CtxId} {e : QEntry} {s : State} (hs : s.memOk) :
    (performLdVs o c e s).state.memOk := by
  grind [performLdVs, loadElems_memOk, Perform.state]

theorem performLdVx_memOk {o : MM} {c : CtxId} {e : QEntry} {s : State} (hs : s.memOk) :
    (performLdVx o c e s).state.memOk := by
  grind [performLdVx, loadElems_memOk, Perform.state]

theorem performLdBc_memOk {o : MM} {c : CtxId} {e : QEntry} {s : State} (hs : s.memOk) :
    (performLdBc o c e s).state.memOk := by
  grind [performLdBc, loadElems_memOk, Perform.state]

theorem withSlot_memOk {c : CtxId} {e : QEntry} {b : Bool} {s : State} {k : Perform} (hs : s.memOk)
    (hk : k.state.memOk) : (withSlot c e b s k).state.memOk := by
  unfold withSlot
  split
  · exact hs
  · split
    · exact hs
    · exact hk

theorem rowParts_memOk {c : CtxId} {n : Nat} {l : List (Nat × Word)} {s : State} (hs : s.memOk) :
    (rowParts c n l s).1.memOk := by
  induction l generalizing s with
  | nil => exact hs
  | cons p l ih => grind -ring -linarith -lia -order [rowParts, spanParts_memOk]

theorem loadVQa_memOk {o : MM} {c : CtxId} {e : QEntry} {s : State} (hs : s.memOk) :
    (loadVQa o c e s).state.memOk := by
  grind [loadVQa, withSlot_memOk, withGot_memOk, rowParts_memOk, readLines_memOk, State.modCtx_mem,
    Perform.state, memOk_iff]

theorem loadVQb_memOk {o : MM} {c : CtxId} {e : QEntry} {s : State} (hs : s.memOk) :
    (loadVQb o c e s).state.memOk := by
  grind [loadVQb, withSlot_memOk, withGot_memOk, rowParts_memOk, readLines_memOk, State.modCtx_mem,
    Perform.state, memOk_iff]

theorem performLdV_memOk {o : MM} {c : CtxId} {e : QEntry} {s : State} (hs : s.memOk) :
    (performLdV o c e s).state.memOk := by
  grind [performLdV, loadVQa_memOk, loadVQb_memOk, loadVReg_memOk, Perform.state]

theorem performGatA_memOk {o : MM} {c : CtxId} {e : QEntry} {s : State} (hs : s.memOk) :
    (performGatA o c e s).state.memOk := by
  grind [performGatA, withSlot_memOk, withGot_memOk, readLines_memOk, State.modCtx_mem, Perform.state, memOk_iff]

theorem performLdQsc_memOk {o : MM} {c : CtxId} {e : QEntry} {s : State} (hs : s.memOk) :
    (performLdQsc o c e s).state.memOk := by
  grind [performLdQsc, withGot_memOk, spanParts_memOk, readLines_memOk, State.modCtx_mem, Perform.state, memOk_iff]

theorem performLds_memOk {o : MM} {c : CtxId} {e : QEntry} {s : State} (hs : s.memOk) :
    (performLds o c e s).state.memOk := by
  grind [performLds, withGot_memOk, xlateList_memOk, readLines_memOk, State.modCtx_mem, Perform.state, memOk_iff]

theorem storeDone_memOk {c : CtxId} {e : QEntry} {va : Word} {ls : List (Word × LineWrite)} {q : Queues}
    {s : State} (hs : s.memOk) :
    (storeDone c e va ls q s).state.memOk := by
  grind [storeDone, storeLines_memOk, State.modCtx_mem, Perform.state, Stored.memOk, memOk_iff]

theorem performStV_memOk {o : MM} {c : CtxId} {e : QEntry} {s : State} (hs : s.memOk) :
    (performStV o c e s).state.memOk := by
  grind [performStV, withGot_memOk, vectorSpan_memOk, storeDone_memOk, Perform.state]

theorem storeElems_memOk {o : MM} {c : CtxId} {e : QEntry} {adr : Ctx → Nat → Word} {s : State} (hs : s.memOk) :
    (storeElems o c e adr s).state.memOk := by
  grind [storeElems, withGot_memOk, xlateList_memOk, storeDone_memOk, Perform.state]

theorem performStVs_memOk {o : MM} {c : CtxId} {e : QEntry} {s : State} (hs : s.memOk) :
    (performStVs o c e s).state.memOk := by
  grind [performStVs, storeElems_memOk, Perform.state]

theorem performStVx_memOk {o : MM} {c : CtxId} {e : QEntry} {s : State} (hs : s.memOk) :
    (performStVx o c e s).state.memOk := by
  grind [performStVx, storeElems_memOk, Perform.state]

theorem performSts_memOk {o : MM} {c : CtxId} {e : QEntry} {s : State} (hs : s.memOk) :
    (performSts o c e s).state.memOk := by
  grind [performSts, withGot_memOk, xlateList_memOk, storeDone_memOk, Perform.state]

theorem amoKey_memOk {c : CtxId} {n : Nat} {va : Word} {s : State} (hs : s.memOk) :
    (amoKey c n va s).1.memOk := by
  grind [amoKey, xlateList_memOk]

theorem amoApply_memOk {o : SY} {c : CtxId} {e : QEntry} {k : Nat} {s : State} (hs : s.memOk) :
    (amoApply o c e k s).memOk := by
  grind [amoApply, touchBanks_mem, State.modCtx_mem, memWf_putNat, memOk_iff]

@[simp] theorem amoRetire_mem (c : CtxId) (s : State) : (amoRetire c s).mem = s.mem := by
  grind [amoRetire, retireEffects_mem, State.modCtx_mem]

theorem performAmo_memOk {o : SY} {c : CtxId} {e : QEntry} {s : State} (hs : s.memOk) :
    (performAmo o c e s).state.memOk := by
  grind [performAmo, withGot_memOk, amoKey_memOk, settleReads_memOk, amoRetire_mem, amoApply_memOk,
    Perform.state, memOk_iff]

@[simp] theorem bufferRed_mem (c : CtxId) (e : QEntry) (o : SY) (items : List (Nat × Nat)) (q : Queues)
    (s : State) :
    (bufferRed c e o items q s).state.mem = s.mem := by
  grind [bufferRed, State.bumpFree_mem, State.modCtx_mem, bumpSeq_mem, Perform.state]

theorem performRed_memOk {o : SY} {c : CtxId} {e : QEntry} {s : State} (hs : s.memOk) :
    (performRed o c e s).state.memOk := by
  grind [performRed, withGot_memOk, amoKey_memOk, bufferRed_mem, Perform.state, memOk_iff]

theorem vredSpan_memOk {c : CtxId} {a : Word} {act : List Nat} {s : State} (hs : s.memOk) :
    (vredSpan c a act s).1.memOk := by
  grind [vredSpan, spanParts_memOk]

theorem performVred_memOk {o : SY} {c : CtxId} {e : QEntry} {s : State} (hs : s.memOk) :
    (performVred o c e s).state.memOk := by
  grind [performVred, withGot_memOk, vredSpan_memOk, bufferRed_mem, Perform.state, memOk_iff]

@[simp] theorem performKwait_mem (o : SY) (c : CtxId) (e : QEntry) (s : State) :
    (performKwait o c e s).state.mem = s.mem := by
  unfold performKwait; split <;> rfl

@[simp] theorem performKsig_mem (st : Stream) (o : SY) (c : CtxId) (e : QEntry) (s : State) :
    (performKsig st o c e s).state.mem = s.mem := by
  grind [performKsig, State.modCtx_mem, Perform.state]

theorem engineSpan_memOk {c : CtxId} {acc : Access} {va : Word} {n : Nat} {s : State} (hs : s.memOk) :
    (engineSpan c acc va n s).1.memOk := by
  grind [engineSpan, xlateList_memOk]

theorem planRow_memOk {c : CtxId} {t : BitVec 1024} {i : Nat × Nat × Nat} {s : State} (hs : s.memOk) :
    (planRow c t i s).1.memOk := by
  grind [planRow, engineSpan_memOk]

theorem planRows_memOk {c : CtxId} {t : BitVec 1024} {l : List (Nat × Nat × Nat)} {s : State} (hs : s.memOk) :
    (planRows c t l s).1.memOk := by
  induction l generalizing s with
  | nil => exact hs
  | cons p l ih => grind -ring -linarith -lia -order [planRows, planRow_memOk]

theorem planCopy_memOk {c : CtxId} {t : BitVec 1024} {fromS : Bool} {tmpl : Word} {s : State} (hs : s.memOk) :
    (planCopy c t fromS tmpl s).1.memOk := by
  grind [planCopy, planRows_memOk]

@[simp] theorem performEng_mem (st : Stream) (o : E) (c : CtxId) (e : QEntry) (s : State) :
    (performEng st o c e s).state.mem = s.mem := by
  grind [performEng, State.modCtx_mem, Perform.state]

theorem startWith_memOk {α : Type} {r : State × Got α} {k : State → α → Started} (hr : r.1.memOk)
    (hk : ∀ s v, s.memOk → (k s v).state.memOk) : (startWith r k).state.memOk := by
  obtain ⟨s, g⟩ := r
  cases g with
  | ok v => exact hk s v hr
  | fault => exact hr
  | hold => exact hr

theorem writeTemplate_memOk {c : CtxId} {e t : Nat} {v : BitVec 1024} {s : State} (hs : s.memOk) :
    (writeTemplate c e t v s).memOk := by
  grind [writeTemplate, State.modCtx_mem, memWf_putNat, memOk_iff]

theorem startWrite_memOk {c : CtxId} {q : EngCmd} {t : Nat} {v : BitVec 1024} {s : State} (hs : s.memOk) :
    (startWrite c q t v s).state.memOk := by
  grind [startWrite, writeTemplate_memOk, Started.state]

@[simp] theorem setUsed_mem (c : CtxId) (q : EngCmd) (l : List TlbEntry) (s : State) :
    (setUsed c q l s).mem = s.mem := rfl

theorem notingUse_memOk {c : CtxId} {q : EngCmd} {f : State → Started} {s : State}
    (hf : ∀ s, s.memOk → (f s).state.memOk) (hs : s.memOk) : (notingUse c q f s).state.memOk := by
  have h := hf _ (memOk_of_mem_eq (setUsed_mem c q [] s) hs)
  unfold notingUse
  extract_lets before all
  split
  all_goals
    next heq =>
      rw [heq] at h
      exact memOk_of_mem_eq (setUsed_mem ..) h

theorem startFire_memOk {c : CtxId} {q : EngCmd} {o : E} {fromS : Bool} {t : BitVec 1024} {s : State} (hs : s.memOk) :
    (startFire c q o fromS t s).state.memOk := by
  unfold startFire
  extract_lets n
  split
  · split
    · exact hs
    · exact startWith_memOk (planCopy_memOk hs) fun s rows hs => startWith_memOk hs fun s _ hs => hs
  · exact startWith_memOk hs fun s _ hs => startWith_memOk hs fun s _ hs => hs
  · exact hs

theorem startBook_memOk {c : CtxId} {q : EngCmd} {o : E} {s : State} (hs : s.memOk) :
    (startBook c q o s).state.memOk := by
  unfold startBook
  split
  · exact hs
  · refine startWith_memOk (engineSpan_memOk hs) fun s ps hs => ?_
    split <;> exact hs

theorem startCmd_memOk {c : CtxId} {q : EngCmd} {k : EngKind} {o : E} {fromS : Bool} {s : State} (hs : s.memOk) :
    (startCmd c q k o fromS s).state.memOk := by
  unfold startCmd
  extract_lets t n
  split
  · split
    · exact startWrite_memOk hs
    · exact hs
  · exact startWrite_memOk hs
  · exact startBook_memOk hs
  · split
    · exact startFire_memOk hs
    · split
      · exact startFire_memOk hs
      · exact hs

@[simp] theorem engTok_mem (a : ActiveCmd) (f : Ctx → Ctx) (s : State) : (engTok a f s).mem = s.mem := by
  unfold engTok; split <;> rfl

@[simp] theorem engProduce_mem (a : ActiveCmd) (s : State) : (engProduce a s).mem = s.mem := by
  grind [engProduce, engTok_mem]

@[simp] theorem startTake_mem (k : CoreId) (i : Fin 4) (q : EngCmd) (o : E) (s : State) :
    (startTake k i q o s).mem = s.mem := rfl

@[simp] theorem cmdTouch_mem (a : ActiveCmd) (port : Fin 8) (acc : BankAcc) (keys : List Nat) (s : State) :
    (cmdTouch a port acc keys s).mem = s.mem := by
  grind [cmdTouch, presentFar_mem, presentUses_mem]

@[simp] theorem presentCmd_mem (s : State) (a : ActiveCmd) : (presentCmd s a).mem = s.mem := by
  grind [presentCmd, cmdTouch_mem]

@[simp] theorem cmdServed_mem (k : CoreId) (a : ActiveCmd) (s : State) : (cmdServed k a s).mem = s.mem := rfl

@[simp] theorem presentSet_mem (c : CtxId) (kind : EngKind) (o : E) (s : State) :
    (presentSet c kind o s).mem = s.mem := by
  grind [presentSet, touchBanks_mem]

theorem tryStart_memOk {k : CoreId} {i : Fin 4} {s : State} (hs : s.memOk) {t : State} (ht : tryStart k i s = some t) :
    t.memOk := by
  have hstart : ∀ c q kind o fromS, (notingUse c q (startCmd c q kind o fromS) (actFor c q.epoch (flushPosted
    c s))).state.memOk :=
    fun c q kind o fromS => notingUse_memOk (fun _ => startCmd_memOk)
      (memOk_of_mem_eq (actFor_mem c q.epoch _) (flushPosted_memOk hs))
  grind -ring -linarith -lia -order [tryStart, startTake_mem, raiseFault_memOk, engProduce_mem, presentSet_mem,
    presentCmd_mem, State.modCore_mem, Started.state, memOk_iff]

theorem startFrom_memOk {k : CoreId} {n : Nat} {i : Fin 4} {s : State} (hs : s.memOk) :
    (startFrom k n i s).memOk := by
  induction n generalizing i with
  | zero => exact hs
  | succ n ih =>
    unfold startFrom
    split
    · next h => exact tryStart_memOk hs h
    · exact ih

theorem engineStart_memOk {k : CoreId} {s : State} (hs : s.memOk) : (engineStart k s).memOk := by
  grind [engineStart, startFrom_memOk]

@[simp] theorem sampleCmd_mem (k : CoreId) (n : Nat) (s : State) : (sampleCmd k n s).mem = s.mem := rfl

theorem putOuts_memOk {outs : List (Word × Nat × Byte)} {s : State} (hs : s.memOk) : (putOuts outs s).memOk :=
  memWf_foldl _ (fun _ _ h => memWf_write h _ _) _ hs

@[simp] theorem pushCopy_mem (a : ActiveCmd) (s : State) : (pushCopy a s).mem = s.mem := rfl

theorem pushNext_memOk {a : ActiveCmd} {s : State} (hs : s.memOk) {t : State} (ht : (pushNext a s) = some t) :
    t.memOk := by
  grind [pushNext, State.modCtx_mem, State.bumpFree_mem, cmdTouch_mem, pushCopy_mem, memOk_iff]

@[simp] theorem setActive_mem (k : CoreId) (n : Nat) (a : ActiveCmd) (s : State) :
    (setActive k n a s).mem = s.mem := rfl

@[simp] theorem endActive_mem (k : CoreId) (n : Nat) (s : State) : (endActive k n s).mem = s.mem := rfl

theorem arrive_memOk {a : ActiveCmd} {lines : List Nat} {s : State} (hs : s.memOk) :
    (arrive a lines s).memOk := by
  grind [arrive, State.modCore_mem, memWf_putNat, memOk_iff]

@[simp] theorem finish_mem (k : CoreId) (n : Nat) (a : ActiveCmd) (s : State) :
    (finish k n a s).mem = s.mem := by
  grind [finish, endActive_mem, engProduce_mem, cmdServed_mem]

@[simp] theorem placeLate_mem (c : CtxId) (e : Nat) (run : LineRun) (ls : List (Word × LineWrite)) (s : State) :
    (placeLate c e run ls s).2.mem = s.mem := by
  induction ls generalizing s with
  | nil => rfl
  | cons l ls ih =>
    unfold placeLate
    extract_lets h r
    split
    · exact (ih _).trans (weirPlace_mem ..)
    · rfl

theorem completeDram_memOk {k : CoreId} {n : Nat} {a : ActiveCmd} {outs : List (Word × Nat × Byte)} {s : State}
    (hs : s.memOk) :
    (completeDram k n a outs s).memOk := by
  grind [completeDram, finish_mem, placeLate_mem, bumpSeq_mem, setActive_mem, arrive_memOk, raiseFault_memOk,
    discard_memOk, weirPlace_mem, memOk_iff]

theorem completeMove_memOk {k : CoreId} {n : Nat} {a : ActiveCmd} {s : State} (hs : s.memOk) :
    (completeMove k n a s).memOk := by
  grind [completeMove, flushPosted_memOk, finish_mem, putOuts_memOk, State.bumpFree_mem, completeDram_memOk,
    State.modCtx_mem, arrive_memOk, memOk_iff]

theorem cmdLost_memOk {k : CoreId} {n : Nat} {a : ActiveCmd} {va : Word} {s : State} (hs : s.memOk) :
    (cmdLost k n a va s).memOk := by
  unfold cmdLost
  split
  · exact memOk_of_mem_eq (finish_mem ..) hs
  · split
    · have he : (endActive k n (cmdServed k a s)).memOk := memOk_of_mem_eq ((endActive_mem ..).trans
      (cmdServed_mem ..)) hs
      cases a.op with
      | none => exact he
      | some id => exact abortUnc_memOk he
    · exact raiseFault_memOk hs

theorem engineComplete_memOk {k : CoreId} {n : Nat} {s : State} (hs : s.memOk) :
    (engineComplete k n s).memOk := by
  grind [engineComplete, cmdLost_memOk, completeMove_memOk, finish_mem, arrive_memOk, → pushNext_memOk,
    setActive_mem, memOk_iff]

theorem arrivalWrite_memOk {k : CoreId} {n : Nat} {s : State} (hs : s.memOk) : (arrivalWrite k n s).memOk := by
  grind [arrivalWrite, lostWrite_memOk, State.modCore_mem, presentKeys_mem, memWf_putNat, memOk_iff]

end Sys2Proof.Machine

end

section

/-! PROOFS. The canonical form of memory through the matrix array, the objects, the claims, the walker and the tasks. -/

namespace Sys2Proof.Machine

theorem slotWait_memOk {c : CtxId} {e : Nat} {s : State} (hs : s.memOk) : (slotWait c e s).memOk := by
  grind -ring -linarith -lia -order [slotWait, discard_memOk]

@[simp] theorem setSlot_mem (k : CoreId) (i : Nat) (t : Tile) (s : State) : (setSlot k i t s).mem = s.mem := rfl

theorem takeSlot_memOk {c : CtxId} {e t : Nat} {s : State} (hs : s.memOk) {r : Nat × State}
    (hr : (takeSlot c e t s) = some r) :
    r.2.memOk := by
  grind [takeSlot, setSlot_mem, State.modCtx_mem, Option.map_eq_some_iff, memOk_iff]

@[simp] theorem useLease_mem (c : CtxId) (s : State) : (useLease c s).mem = s.mem := by
  grind [useLease, State.modCore_mem, endLease_mem]

theorem withLease_memOk {c : CtxId} {s : State} {k : State → Perform} (hs : s.memOk)
    (hk : ∀ s, s.memOk → (k s).state.memOk) : (withLease c s k).state.memOk := by
  have hl := memOk_of_mem_eq (takeLease_mem c s) hs
  unfold withLease
  split
  · next heq => rwa [heq] at hl
  · next heq => exact hk _ (by rwa [heq] at hl)

@[simp] theorem mmaFinish_mem (m : MmaRun) (new : Tile) (s : State) : (mmaFinish m new s).mem = s.mem := rfl

@[simp] theorem mmaBegin_mem (c : CtxId) (o : MX) (e : QEntry) (a : QaEntry) (b : QbEntry) (slot : Nat)
    (s : State) :
    (mmaBegin c o e a b slot s).state.mem = s.mem := by
  grind [mmaBegin, State.modCtx_mem, useLease_mem, State.modCore_mem, mmaFinish_mem, Perform.state]

theorem mmaOperands_memOk {c : CtxId} {o : MX} {e : QEntry} {s : State} {k : QaEntry → QbEntry → Perform}
    (hs : s.memOk) (hk : ∀ a b, (k a b).state.memOk) : (mmaOperands c o e s k).state.memOk := by
  unfold mmaOperands
  extract_lets x
  split
  · repeat' split
    all_goals first | exact hs | exact hk _ _
  all_goals
    try split
    all_goals exact hs

theorem performMma_memOk {o : MX} {c : CtxId} {e : QEntry} {s : State} (hs : s.memOk) :
    (performMma o c e s).state.memOk := by
  refine withLease_memOk hs fun s hs => ?_
  split
  · exact hs
  · refine mmaOperands_memOk hs fun a b => ?_
    split
    · exact slotWait_memOk hs
    · next ht => exact memOk_of_mem_eq (mmaBegin_mem ..) (takeSlot_memOk hs ht)

@[simp] theorem mmaTurn_mem (k : CoreId) (s : State) : (mmaTurn k s).mem = s.mem := by
  grind [mmaTurn, State.modCore_mem, setSlot_mem, State.modCtx_mem, mmaFinish_mem]

theorem tileWrite_memOk {c : CtxId} {o : MX} {e : QEntry} {q : Queues} {f : Tile → Tile} {s : State}
    (hs : s.memOk) :
    (tileWrite c o e q f s).state.memOk := by
  grind [tileWrite, → takeSlot_memOk, slotWait_memOk, State.modCtx_mem, setSlot_mem, useLease_mem,
    Perform.state, memOk_iff]

theorem performMzero_memOk {o : MX} {c : CtxId} {e : QEntry} {s : State} (hs : s.memOk) :
    (performMzero o c e s).state.memOk := by
  grind [performMzero, withLease_memOk, tileWrite_memOk, Perform.state]

theorem performMwr_memOk {o : MX} {c : CtxId} {e : QEntry} {s : State} (hs : s.memOk) :
    (performMwr o c e s).state.memOk := by
  grind [performMwr, withLease_memOk, tileWrite_memOk, Perform.state]

theorem performMrd_memOk {o : MX} {c : CtxId} {e : QEntry} {s : State} (hs : s.memOk) :
    (performMrd o c e s).state.memOk := by
  refine withLease_memOk hs fun s hs => ?_
  split
  · exact hs
  · exact memOk_of_mem_eq (useLease_mem c s) hs

theorem performMdrain_memOk {o : MX} {c : CtxId} {e : QEntry} {s : State} (hs : s.memOk) :
    (performMdrain o c e s).state.memOk := by
  refine withLease_memOk hs fun s hs => ?_
  split
  · exact hs
  · exact memOk_of_mem_eq (useLease_mem c s) hs

theorem syncXlate_memOk {c : CtxId} {st : Stream} {acc : Access} {n : Nat} {va : Word} {s : State}
    (hs : s.memOk) :
    (syncXlate c st acc n va s).1.memOk := by
  grind [syncXlate, xlateList_memOk]

theorem withRec_memOk {c : CtxId} {st : Stream} {k : ObjKind} {side : Side} {va : Word} {s : State}
    {f : State → Nat → ObjRec → Perform} (hf : ∀ x y z, x.memOk → (f x y z).state.memOk) (hs : s.memOk) :
    (withRec c st k side va s f).state.memOk := by
  grind [withRec, withGot_memOk, syncXlate_memOk, Perform.state]

@[simp] theorem raiseClamp_mem (c : CtxId) (key scope : Nat) (s : State) :
    (raiseClamp c key scope s).mem = s.mem := rfl

@[simp] theorem stampRelease_mem (key : Nat) (p : Releaser) (scope : Nat) (time : Word) (s : State) :
    (stampRelease key p scope time s).mem = s.mem := rfl

theorem registerWait_memOk {c : CtxId} {st : Stream} {role : WaitRole} {key : Nat} {s : State} (hs : s.memOk) :
    (registerWait c st role key s).memOk := by
  grind [registerWait, waitBit_memWf, memOk_iff]

theorem endWait_memOk {c : CtxId} {st : Stream} {s : State} (hs : s.memOk) : (endWait c st s).memOk := by
  grind [endWait, dropWaiters_memOk]

@[simp] theorem takeGrant_mem (c : CtxId) (key : Nat) (s : State) : (takeGrant c key s).mem = s.mem := by
  unfold takeGrant; split <;> rfl

theorem claimOrWait_memOk {c : CtxId} {st : Stream} {e : Nat} {woken : Bool} {role : WaitRole}
    {kind : ClaimKind} {key val : Nat} {cond : Bool} {va : Word} {s : State} {take : State → State}
    {fin : Nat → State → State} (htake : ∀ x, x.memOk → (take x).memOk)
    (hfin : ∀ x y, y.memOk → (fin x y).memOk) (hs : s.memOk) :
    (claimOrWait c st e woken role kind key val cond va s take fin).state.memOk := by
  grind [claimOrWait, State.modCtx_mem, endWait_memOk, touchBanks_mem, takeGrant_mem, registerWait_memOk,
    Perform.state, memOk_iff]

theorem performAcq_memOk {woken : Bool} {o : SY} {c : CtxId} {e : QEntry} {s : State} (hs : s.memOk) :
    (performAcq woken o c e s).state.memOk := by
  grind [performAcq, withRec_memOk, raiseClamp_mem, endWait_memOk, claimOrWait_memOk, memWf_putNat,
    Perform.state, memOk_iff]

theorem waitWord_memOk {o : SY} {c : CtxId} {e : QEntry} {role : WaitRole} {home key : Nat} {s : State}
    (hs : s.memOk) :
    (waitWord o c e role home key s).state.memOk := by
  grind [waitWord, settleReads_memOk, touchBanks_mem, noteRead_mem, raiseClamp_mem, endWait_memOk,
    registerWait_memOk, Perform.state, memOk_iff]

theorem performWaitw_memOk {o : SY} {c : CtxId} {e : QEntry} {s : State} (hs : s.memOk) :
    (performWaitw o c e s).state.memOk := by
  grind [performWaitw, withRec_memOk, waitWord_memOk, withGot_memOk, syncXlate_memOk, Perform.state]

theorem deposit_memOk {c : CtxId} {d : Option Nat} {v : Nat} {s : State} (hs : s.memOk) :
    (deposit c d v s).memOk := by
  unfold deposit
  split
  · exact memOk_of_mem_eq (touchBanks_mem ..) (memWf_putNat hs _ _ _)
  · exact hs

theorem performRingwf_memOk {woken : Bool} {o : SY} {c : CtxId} {e : QEntry} {s : State} (hs : s.memOk) :
    (performRingwf woken o c e s).state.memOk := by
  grind [performRingwf, withRec_memOk, withGot_memOk, claimOrWait_memOk, raiseClamp_mem, deposit_memOk,
    memWf_putNat, Perform.state, memOk_iff]

theorem performTlwait_memOk {o : SY} {c : CtxId} {e : QEntry} {s : State} (hs : s.memOk) :
    (performTlwait o c e s).state.memOk := by
  grind [performTlwait, withRec_memOk, raiseClamp_mem, endWait_memOk, registerWait_memOk, Perform.state, memOk_iff]

theorem performRingwe_memOk {woken : Bool} {o : SY} {c : CtxId} {e : QEntry} {s : State} (hs : s.memOk) :
    (performRingwe woken o c e s).state.memOk := by
  grind [performRingwe, withRec_memOk, claimOrWait_memOk, State.modCtx_mem, raiseClamp_mem, memWf_putNat,
    Perform.state, memOk_iff]

@[simp] theorem deferEff_mem (c : CtxId) (e : QEntry) (st : Stream) (eff : Deferred) (base : Word) (len : Nat)
    (all : Bool) (scope : Nat) (s : State) :
    (deferEff c e st eff base len all scope s).mem = s.mem := rfl

theorem performRingfree_memOk {x : SY} {c : CtxId} {e : QEntry} {s : State} (hs : s.memOk) :
    (performRingfree x c e s).state.memOk := by
  grind [performRingfree, withRec_memOk, deferEff_mem, State.modCtx_mem, Perform.state, memOk_iff]

theorem performRel_memOk {o : SY} {c : CtxId} {e : QEntry} {s : State} (hs : s.memOk) :
    (performRel o c e s).state.memOk := by
  grind [performRel, withRec_memOk, deferEff_mem, Perform.state, memOk_iff]

theorem performRingpub_memOk {o : SY} {c : CtxId} {e : QEntry} {s : State} (hs : s.memOk) :
    (performRingpub o c e s).state.memOk := by
  grind [performRingpub, withRec_memOk, deferEff_mem, State.modCtx_mem, Perform.state, memOk_iff]

theorem performSetw_memOk {o : SY} {c : CtxId} {e : QEntry} {s : State} (hs : s.memOk) :
    (performSetw o c e s).state.memOk := by
  grind [performSetw, withRec_memOk, deferEff_mem, withGot_memOk, syncXlate_memOk, Perform.state, memOk_iff]

theorem performTlsig_memOk {o : SY} {c : CtxId} {e : QEntry} {s : State} (hs : s.memOk) :
    (performTlsig o c e s).state.memOk := by
  grind [performTlsig, withRec_memOk, deferEff_mem, Perform.state, memOk_iff]

theorem partXlate_memOk {h : HalfId} {core : Option CoreId} {asid : BitVec 8} {wr : Bool} {va : Word}
    {s : State} (hs : s.memOk) :
    (partXlate h core asid wr va s).1.memOk := by
  grind [partXlate, firstTouch_memOk]

theorem partBytes_memOk {h : HalfId} {core : Option CoreId} {asid : BitVec 8} {f : Nat} {va : Word} {n : Nat}
    {s : State}
    (hs : s.memOk) : (partBytes h core asid f va n s).1.memOk := by
  induction f generalizing va n s with
  | zero => exact hs
  | succ f ih =>
    unfold partBytes
    split
    · exact hs
    · extract_lets k
      have hx := partXlate_memOk (h := h) (core := core) (asid := asid) (wr := false) (va := va) hs
      split
      · next heq =>
        rw [heq] at hx
        have hi := ih (va := va + BitVec.ofNat 64 k) (n := n - k) hx
        split
        · next heq' => rwa [heq'] at hi
        · exact hi
      · next heq => rwa [heq] at hx
      · next heq => rwa [heq] at hx

theorem partRead_memOk {h : HalfId} {core : Option CoreId} {asid : BitVec 8} {va : Word} {n : Nat} {s : State}
    (hs : s.memOk) :
    (partRead h core asid va n s).1.memOk := by
  grind [partRead, partBytes_memOk]

theorem performTpost_memOk {o : SY} {c : CtxId} {e : QEntry} {s : State} (hs : s.memOk) :
    (performTpost o c e s).state.memOk := by
  grind [performTpost, withGot_memOk, syncXlate_memOk, settleReads_memOk, touchBanks_mem, State.modCasc_mem,
    bumpSeq_mem, deferEff_mem, State.modCtx_mem, Perform.state, memOk_iff]

theorem performTjoin_memOk {o : SY} {c : CtxId} {e : QEntry} {s : State} (hs : s.memOk) :
    (performTjoin o c e s).state.memOk := by
  grind [performTjoin, withRec_memOk, deferEff_mem, Perform.state, memOk_iff]

@[simp] theorem performGrais_mem (o : SY) (c : CtxId) (e : QEntry) (s : State) :
    (performGrais o c e s).state.mem = s.mem := by
  grind [performGrais, State.bumpFree_mem, deferEff_mem, State.modOp_mem, State.modCtx_mem, Perform.state]

end Sys2Proof.Machine

end

section

/-! PROOFS. The canonical form of memory through operations, drains, wakes and events. -/

namespace Sys2Proof.Machine

theorem computeOp_memOk {srcs : List (BitVec 6)} {dst : Option (BitVec 6)} {f : List VReg → Ctx → Ctx} {c : CtxId}
    {e : QEntry} {s : State} (hs : s.memOk) : (computeOp srcs dst f c e s).state.memOk :=
  memOk_of_mem_eq (computeOp_mem ..) hs

theorem vecOp_memOk {srcs : List (BitVec 6)} {vd : BitVec 6} {pred : BitVec 4} {f : List VReg → PReg → VReg → VReg}
    {c : CtxId} {e : QEntry} {s : State} (hs : s.memOk) : (vecOp srcs vd pred f c e s).state.memOk :=
      computeOp_memOk hs

theorem predOp_memOk {srcs : List (BitVec 6)} {f : List VReg → Ctx → Ctx} {c : CtxId} {e : QEntry} {s : State}
    (hs : s.memOk) : (predOp srcs f c e s).state.memOk := computeOp_memOk hs

/-- What the head of a stream performs leaves memory canonical, done or not. -/
theorem headOf_memOk {woken : Bool} {i : Instr} {st : Stream} {tok : Tok} {perf : CtxId → QEntry → State → Perform}
    (hr : headOf woken i = some (st, tok, perf)) {c : CtxId} {e : QEntry} {s : State} (hs : s.memOk) :
    (perf c e s).state.memOk := by
  cases i with
  | csrw _ | csrs _ | csrc _ => cases hr; exact memOk_of_mem_eq (performFpc_mem ..) hs
  | guardMax _ | guardSsq _ => cases hr; exact memOk_of_mem_eq (performGuard_mem ..) hs
  | ldV _ => cases hr; exact performLdV_memOk hs
  | ldVs _ => cases hr; exact performLdVs_memOk hs
  | ldVx _ => cases hr; exact performLdVx_memOk hs
  | ldBc _ => cases hr; exact performLdBc_memOk hs
  | ldQsc _ => cases hr; exact performLdQsc_memOk hs
  | lds _ => cases hr; exact performLds_memOk hs
  | gatA _ => cases hr; exact performGatA_memOk hs
  | acq _ => cases hr; exact performAcq_memOk hs
  | waitw _ => cases hr; exact performWaitw_memOk hs
  | ringwf _ => cases hr; exact performRingwf_memOk hs
  | ringfree o => cases hr; exact performRingfree_memOk (x := o) hs
  | tlwait _ => cases hr; exact performTlwait_memOk hs
  | eset _ | efire _ | eclr _ | cbload _ | esetS _ | efireS _ | eclrS _ | cbloadS _ =>
    cases hr
    exact memOk_of_mem_eq (performEng_mem ..) hs
  | kwaitL _ | kwaitC _ | kwaitS _ => cases hr; exact memOk_of_mem_eq (performKwait_mem ..) hs
  | ksigL _ | ksigC _ | ksigS _ => cases hr; exact memOk_of_mem_eq (performKsig_mem ..) hs
  | vadd _ | vsub _ | vaddSat _ | vsubSat _ | vmul _ | vmulh _ | vmla _ | vmlaW _ | vmulW _ | vabs _ | vneg _ | vmin _
  | vmax _ | vand _ | vor _ | vxor _ | vandn _ | vshl _ | vshr _ | vrshr _ | vclz _ | vpopc _ | vavg _ | vcmp _ | vsel _
  | vdot4 _ | vfadd _ | vfsub _ | vfmul _ | vfma _ | vfnma _ | vfmin _ | vfmax _ | vfabs _ | vfneg _ | vfcmp _ | vfrcp _
  | vfrsq _ | vfsqrt _ | vfexp2 _ | vflog2 _ | vftanh _ | vfsig _ | vfclass _ | vcvt _ | vnarrow _ | vwiden _ | vrqs _
  | vperm _ | vslideup _ | vslidedn _ | vzip _ | vunzip _ | vbcast _ | vredsum _ | vredmax _ | vredmin _ | vscan _
  | vmov _ => cases hr; exact computeOp_memOk hs
  | vli _ | viota _ | vdup _ | vclr _ => cases hr; exact vecOp_memOk hs
  | pfirst _ | ptest _ => cases hr; exact predOp_memOk hs
  | pand _ | por _ | pxor _ | pandn _ =>
    cases hr
    simp only [performPand, performPor, performPxor, performPandn, maskOp2]
    exact predOp_memOk hs
  | pnot _ | pmov _ =>
    cases hr
    simp only [performPnot, performPmov, maskOp1]
    exact predOp_memOk hs
  | mma _ => cases hr; exact performMma_memOk hs
  | mzero _ => cases hr; exact performMzero_memOk hs
  | mwr _ => cases hr; exact performMwr_memOk hs
  | mrd _ => cases hr; exact performMrd_memOk hs
  | mdrain _ => cases hr; exact performMdrain_memOk hs
  | stV _ => cases hr; exact performStV_memOk hs
  | stVs _ => cases hr; exact performStVs_memOk hs
  | stVx _ => cases hr; exact performStVx_memOk hs
  | sts _ => cases hr; exact performSts_memOk hs
  | rel _ => cases hr; exact performRel_memOk hs
  | ringwe _ => cases hr; exact performRingwe_memOk hs
  | ringpub _ => cases hr; exact performRingpub_memOk hs
  | setw _ => cases hr; exact performSetw_memOk hs
  | tlsig _ => cases hr; exact performTlsig_memOk hs
  | amo _ => cases hr; exact performAmo_memOk hs
  | red _ => cases hr; exact performRed_memOk hs
  | vred _ => cases hr; exact performVred_memOk hs
  | tpost _ => cases hr; exact performTpost_memOk hs
  | tjoin _ => cases hr; exact performTjoin_memOk hs
  | grais _ => cases hr; exact memOk_of_mem_eq (performGrais_mem ..) hs
  | _ => cases hr

theorem orElse_memOk {r : Moved} {k : State → Moved} (hk : ∀ x, x.memOk → (k x).2.memOk) (hs : r.2.memOk) :
    (orElse r k).2.memOk := by
  grind [orElse]

theorem headTurn_memOk {woken : Bool} {st : Stream} {c : CtxId} {e : QEntry} {s : State} (hs : s.memOk) :
    (headTurn woken st c e s).2.memOk := by
  unfold headTurn
  split
  · exact hs
  · next t perf hh =>
    have hp := attempt_memOk (st := st) (t := t) (perf := perf) (c := c) (e := e) (fun _ _ _ => headOf_memOk hh) hs
    split
    · extract_lets u
      show (if behindFault (s.ctx c) e = true then s else leaseFor c e.instr s).memOk
      split
      · exact hs
      · exact memOk_of_mem_eq (leaseFor_mem ..) hs
    · split
      · next heq => rwa [heq] at hp
      · next heq => exact tryHead_memOk (by rwa [heq] at hp)
      · exact tryHead_memOk hp

theorem beginHead_memOk {st : Stream} {c : CtxId} {e : QEntry} {s : State} {k : Tok → QEntry → State → State}
    (hs : s.memOk) (hk : ∀ t e s, s.memOk → (k t e s).memOk) : (beginHead st c e s k).memOk := by
  unfold beginHead
  split
  · exact hs
  · next t perf hh =>
    split
    · exact hs
    · have hp : (perf c e (actFor c e.epoch (settleAside c e s))).state.memOk :=
        headOf_memOk hh (memOk_of_mem_eq ((actFor_mem ..).trans (settleAside_mem ..)) hs)
      split
      · exact hk _ _ _ (memOk_of_mem_eq (beginTake_mem ..) hs)
      · next heq =>
        rw [heq] at hp
        exact hk _ _ _ (memOk_of_mem_eq (beginTake_mem ..) hp)
      · exact hs

theorem sampleOf_memOk {c : CtxId} {s : State} (hs : s.memOk) : (sampleOf c s).1.memOk := by
  grind [sampleOf, State.bumpFree_mem, flushPosted_memOk, memOk_iff]

theorem beginTurn_memOk {st : Stream} {c : CtxId} {s : State} (hs : s.memOk) : (beginTurn st c s).memOk := by
  grind [beginTurn, beginHead_memOk, sampleOf_memOk, setHead_mem, memOk_iff]

theorem storeAside_memOk {c : CtxId} {e : QEntry} {s : State} (hs : s.memOk) : (storeAside c e s).memOk := by
  unfold storeAside
  extract_lets q
  split
  · exact hs
  · next st t perf hh =>
    split
    · exact hs
    · have hp : (perf c q (actFor c e.epoch s)).state.memOk := headOf_memOk hh (memOk_of_mem_eq (actFor_mem ..) hs)
      split
      · next heq =>
        rw [heq] at hp
        exact memOk_of_mem_eq ((parkQ_mem ..).trans ((dropHead_mem ..).trans (beginTake_mem ..))) hp
      · exact hs

theorem asideTurn_memOk {st : Stream} {c : CtxId} {s : State} (hs : s.memOk) : (asideTurn st c s).memOk := by
  grind [asideTurn, storeAside_memOk, beginHead_memOk, parkQ_mem, dropHead_mem, memOk_iff]

@[simp] theorem leaveAside_mem (c : CtxId) (e : QEntry) (s : State) : (leaveAside c e s).mem = s.mem := rfl

theorem storeTurn_memOk {t : Tok} {c : CtxId} {e : QEntry} {s : State} (hs : s.memOk) :
    (storeTurn t c e s).2.memOk := by
  grind [storeTurn, landStore_memOk, State.modCtx_mem, leaveAside_mem, memOk_iff]

theorem parkedTurn_memOk {c : CtxId} {e : QEntry} {s : State} (hs : s.memOk) : (parkedTurn c e s).2.memOk := by
  unfold parkedTurn
  split
  · exact hs
  · next st t perf hh =>
    split
    · exact hs
    · split
      · exact storeTurn_memOk hs
      · have hp : (perf c e (actFor c e.epoch (settleAside c e s))).state.memOk :=
          headOf_memOk hh (memOk_of_mem_eq ((actFor_mem ..).trans (settleAside_mem ..)) hs)
        split
        · next heq =>
          rw [heq] at hp
          split
          · exact memOk_of_mem_eq (leaveAside_mem c e _) hp
          · exact hs
        · next heq => rwa [heq] at hp
        · next heq =>
          rw [heq] at hp
          exact raiseFault_memOk hp
        · exact hs

theorem parkedTurns_memOk {c : CtxId} {es : List QEntry} {s : State} (hs : s.memOk) :
    (parkedTurns c es s).2.memOk := by
  induction es generalizing s with
  | nil => exact hs
  | cons e es ih => exact orElse_memOk (fun _ => ih) (parkedTurn_memOk hs)

theorem pastTurn_memOk {st : Stream} {c : CtxId} {s : State} (hs : s.memOk) : (pastTurn st c s).2.memOk := by
  grind [pastTurn, headTurn_memOk]

theorem streamTurn_memOk {st : Stream} {c : CtxId} {s : State} (hs : s.memOk) :
    (streamTurn st c s).2.memOk := by
  grind [streamTurn, orElse_memOk, parkedTurns_memOk, pastTurn_memOk]

theorem orderedTurn_memOk {st : Stream} {c : CtxId} {s : State} (hs : s.memOk) :
    (orderedTurn st c s).2.memOk := by
  grind [orderedTurn, streamTurn_memOk]

theorem weirDrain_memOk {h : HalfId} {n : Nat} {s : State} (hs : s.memOk) : (weirDrain h n s).memOk := by
  grind [weirDrain, lostWrite_memOk, State.modHalf_mem, memWf_line, memOk_iff]

theorem postedAck_memOk {c : CtxId} {n : Nat} {s : State} (hs : s.memOk) : (postedAck c n s).memOk := by
  grind [postedAck, lostSent_memOk, State.modCtx_mem, presentFar_mem, memWf_line, memOk_iff]

@[simp] theorem mergedAway_mem (k : Nat) (a : Addend) (s : State) : (mergedAway k a s).mem = s.mem := rfl

theorem reduceMerged_memOk {c : CtxId} {seq : Nat} {s : State} {i : Nat × Nat} (hs : s.memOk) :
    (reduceMerged c seq s i).memOk := by
  grind [reduceMerged, mergedAway_mem, reduceItem_memWf, foldl_memOk, foldl_mem, memOk_iff]

theorem lostItems_memOk {c : CtxId} {r : RedReq} {s : State} (hs : s.memOk) : (lostItems c r s).memOk := by
  grind [lostItems, lostSent_memOk, State.modCtx_mem, memOk_iff]

theorem reductionApply_memOk {c : CtxId} {s : State} (hs : s.memOk) : (reductionApply c s).memOk := by
  unfold reductionApply
  extract_lets x
  split
  · exact hs
  · next r _ =>
    split
    · exact lostItems_memOk hs
    · split
      · exact hs
      · extract_lets now s' s''
        have h' : s'.memOk := memOk_of_mem_eq (touchBanks_mem ..) hs
        show (if r.fadd = true then now.foldl (reduceMerged c r.seq) s'
          else { s' with mem := now.foldl (reduceItem r.op r.wide) s'.mem }).memOk
        split
        · exact foldl_memOk (fun _ _ => reduceMerged_memOk) _ h'
        · exact memWf_foldl _ (fun _ _ h => reduceItem_memWf h ..) _ h'

@[simp] theorem raiseTimeline_mem (q : QueueId) (v : Word) (s : State) : (raiseTimeline q v s).mem = s.mem := by
  grind [raiseTimeline, queueIrq_mem, State.modQueue_mem]

theorem raiseRecord_memOk {key : Nat} {v : Word} {s : State} (hs : s.memOk) : (raiseRecord key v s).memOk := by
  grind [raiseRecord, raiseTimeline_mem, memWf_putNat, memOk_iff]

theorem postRecord_memOk {p : HeldPost} {s : State} (hs : s.memOk) : (postRecord p s).1.memOk := by
  grind [postRecord, partXlate_memOk]

theorem makePost_memOk {p : HeldPost} {s : State} (hs : s.memOk) {t : State} (ht : (makePost p s) = some t) :
    t.memOk := by
  grind [makePost, postRecord_memOk, abortOp_memOk, State.modCasc_mem, memOk_iff]

theorem joinPost_memOk {p : HeldPost} {s : State} (hs : s.memOk) : (joinPost p s).memOk := by
  unfold joinPost
  extract_lets wait
  split
  · exact getD_memOk (makePost_memOk hs) hs
  · exact hs

theorem joinRetry_memOk {g : CascId} {s : State} (hs : s.memOk) : (joinRetry g s).memOk := by
  unfold joinRetry
  split
  · exact hs
  · split
    · exact getD_memOk (makePost_memOk (s := s.modCasc g _) hs) hs
    · exact hs

@[simp] theorem dropClaims_mem (c : CtxId) (f : Claim → Bool) (s : State) : (dropClaims c f s).mem = s.mem := rfl

theorem putWord_memOk {k : Nat} {v : Word} {s : State} (hs : s.memOk) : (putWord k v s).memOk := by
  grind [putWord, memWf_putNat, memOk_iff]

theorem applyEffect_memOk {c : CtxId} {d : DeferredRec} {s : State} (hs : s.memOk) {t : State}
    (ht : applyEffect c d s = some t) : t.memOk := by
  unfold applyEffect at ht
  extract_lets stamp at ht
  have hstamp : ∀ k s, (stamp k s).mem = s.mem := fun _ _ => stampRelease_mem ..
  split at ht
  all_goals
    grind -ring -linarith -lia -order [putWord_memOk, dropClaims_mem, raiseRecord_memOk, joinPost_memOk,
      State.modOp_mem, memOk_iff]

theorem deferredApply_memOk {c : CtxId} {n : Nat} {s : State} (hs : s.memOk) : (deferredApply c n s).memOk := by
  unfold deferredApply
  split
  · exact hs
  · extract_lets gone
    split
    · exact lostSent_memOk hs
    · split
      · exact hs
      · exact getD_memOk (applyEffect_memOk (s := (touchBanks c 7 .rmw (effKey _).toList s).modCtx c gone)
        (memOk_of_mem_eq (touchBanks_mem c 7 .rmw _ s) hs)) hs

theorem wakeOne_memOk {w : Waiter} {s : State} (hs : s.memOk) : (wakeOne w s).2.memOk := by
  grind [wakeOne, headTurn_memOk]

theorem wakeAll_memOk {ws : List Waiter} {s : State} (hs : s.memOk) : (wakeAll ws s).2.memOk := by
  induction ws generalizing s with
  | nil => exact hs
  | cons w ws ih => exact ih (wakeOne_memOk hs)

theorem wakeKey_memOk {key : Nat} {s : State} (hs : s.memOk) : (wakeKey key s).memOk := by
  grind [wakeKey, wakeAll_memOk]

@[simp] theorem latchWake_mem (key : Nat) (s : State) : (latchWake key s).mem = s.mem := rfl

theorem uncorrectable_memOk {c : CtxId} {e : Nat} {va : Word} {s : State} (hs : s.memOk) :
    (uncorrectable c e va s).memOk := by
  grind [uncorrectable, raiseUnc_memOk]

theorem weirError_memOk {c : CtxId} {n : Nat} {s : State} (hs : s.memOk) : (weirError c n s).memOk := by
  grind [weirError, countedDiscard_memOk, lostWrite_memOk, State.modHalf_mem, memOk_iff]

theorem errorDiscard_memOk {c : CtxId} {e : Nat} {s : State} (hs : s.memOk) : (errorDiscard c e s).memOk := by
  grind [errorDiscard, countedDiscard_memOk]

theorem commandError_memOk {k : CoreId} {n : Nat} {va : Word} {s : State} (hs : s.memOk) :
    (commandError k n va s).memOk := by
  grind [commandError, cmdLost_memOk]

theorem wrongValue_memOk {c : CtxId} {e n : Nat} {s : State} (hs : s.memOk) : (wrongValue c e n s).memOk := by
  grind [wrongValue, State.modCtx_mem, memWf_line, memOk_iff]

theorem namedError_memOk {e : ErrorReport} {s : State} (hs : s.memOk) : (namedError e s).memOk := by
  grind [namedError, commandError_memOk, abortUnc_memOk, State.modSaved_mem, State.modDev_mem, memOk_iff]

theorem detectedError_memOk {e : ErrorReport} {region : Nat} {s : State} (hs : s.memOk) :
    (detectedError e region s).memOk := by
  have hc : (countError (coreOf e.ctx) s).memOk := memOk_of_mem_eq (countError_mem ..) hs
  obtain ⟨c, younger, kind⟩ := e
  cases kind with
  | sent n => exact wrongValue_memOk hs
  | weirEntry n => exact weirError_memOk hc
  | uncorrectable va => exact uncorrectable_memOk hc
  | replay => exact errorDiscard_memOk hc
  | _ => exact namedError_memOk hc

theorem checksumCompare_memOk {k : CoreId} {n : Nat} {u : Upset} {s : State} (hs : s.memOk) :
    (checksumCompare k n u s).memOk := by
  grind [checksumCompare, State.modCore_mem, countedDiscard_memOk, countError_mem, memOk_iff]

theorem preparePage_memOk {h : HalfId} {s : State} (hs : s.memOk) : (preparePage h s).memOk := by
  grind [preparePage, takePage_memOk, State.modHalf_mem, memOk_iff]

@[simp] theorem requestWritten_mem (r : Request) (s : State) : (requestWritten r s).mem = s.mem := by
  unfold requestWritten; split <;> rfl

theorem ringPush_memOk {r : RingReg} {rec : Nat} {s : State} (hs : s.memOk) : (ringPush r rec s).memOk := by
  grind [ringPush, memWf_putNat, memOk_iff]

theorem pageRequestWrite_memOk {h : HalfId} {s : State} (hs : s.memOk) : (pageRequestWrite h s).memOk := by
  grind [pageRequestWrite, State.modHalf_mem, raiseIrq_mem, ringPush_memOk, requestWritten_mem, memOk_iff]

@[simp] theorem icachePut_mem (k : CoreId) (l : ICacheLine) (s : State) : (icachePut k l s).mem = s.mem := rfl

end Sys2Proof.Machine

end

section

/-! PROOFS. The canonical form of memory through the scheduler and the launch of operators. -/

namespace Sys2Proof.Machine

theorem readImage_memOk {c : CtxId} {d : Dispatch} {s : State} (hs : s.memOk) : (readImage c d s).1.memOk := by
  grind [readImage, partBytes_memOk]

theorem loadImage_memOk {c : CtxId} {l : List Byte} {s : State} (hs : s.memOk) : (loadImage c l s).memOk := by
  grind [loadImage, memWf_putBytes, memWf_zero, memOk_iff]

@[simp] theorem takeBank_mem (c : CtxId) (s : State) : (takeBank c s).mem = s.mem := rfl

@[simp] theorem swapIn_mem (k : CoreId) (op : Nat) (fb : Bool) (s : State) :
    (swapIn k op fb s).mem = s.mem := by
  unfold swapIn; split <;> rfl

theorem startIn_memOk {c : CtxId} {w : Work} {regs : Regs} {loops : Vector LoopEntry 6} {s : State}
    (hs : s.memOk) :
    (startIn c w regs loops s).memOk := by
  grind [startIn, readImage_memOk, abortUnc_memOk, abortOp_memOk, swapIn_mem, loadImage_memOk, takeBank_mem,
    State.modCtx_mem, memOk_iff]

theorem haltCtx_memOk {c : CtxId} {s : State} (hs : s.memOk) : (haltCtx c s).memOk := by
  grind [haltCtx, State.modCtx_mem, endLease_mem, discardAll_memOk, memOk_iff]

theorem preempt_memOk {c : CtxId} {s : State} (hs : s.memOk) : (preempt c s).memOk := by
  grind [preempt, haltCtx_memOk, foldl_memOk, foldl_mem]

/-- The kernel must not evaluate `slotKey`, whose numbers are large, so the definition is put in as a function
  and the
key made a variable. -/

theorem writeSlot_memOk {k : CoreId} {i : Nat} {s : State} (hs : s.memOk) : (writeSlot k i s).memOk := by
  suffices h : ∀ f, f = @writeSlot → (f k i s).memOk from h _ rfl
  intro f hf
  delta writeSlot at hf
  subst hf
  beta_reduce
  generalize slotKey s k i = o
  cases o with
  | none => exact hs
  | some a =>
    rw [memOk_iff]
    exact memWf_splice hs (memWf_list ..) fun _ hc => memList_range hc

theorem evict_memOk {c : CtxId} {s : State} (hs : s.memOk) : (evict c s).memOk := by
  grind [evict, writeSlot_memOk, freeSlots_mem, State.modCore_mem, endSwitch_mem, State.modCtx_mem, memOk_iff]

theorem clearBank_memOk {c : CtxId} {s : State} (hs : s.memOk) {t : State} (ht : (clearBank c s) = some t) :
    t.memOk := by
  grind [clearBank, evict_memOk, preempt_memOk]

theorem resume_memOk {c : CtxId} {s : State} (hs : s.memOk) : (resume c s).memOk := by
  grind [resume, State.modCtx_mem, takeTrap_memOk, memOk_iff]

theorem clearWay_memOk {g : CascId} {d : Dispatch} {cur : BitVec 2} {s : State} (hs : s.memOk) :
    (clearWay g d cur s).memOk := by
  grind [clearWay, preempt_memOk, foldl_memOk, foldl_mem]

theorem clearWayFor_memOk {c : CtxId} {x : Ctx} {s : State} (hs : s.memOk) : (clearWayFor c x s).memOk := by
  grind [clearWayFor, clearWay_memOk]

@[simp] theorem restoreTiles_mem (c : CtxId) (l : List (Nat × Tile)) (s : State) :
    (restoreTiles c l s).mem = s.mem := by
  grind [restoreTiles, State.modCtx_mem, setSlot_mem, foldl_mem]

theorem settleSaved_memOk {c : CtxId} {v : SavedCtx} {s : State} (hs : s.memOk) :
    (settleSaved c v s).memOk := by
  grind [settleSaved, resume_memOk, takeFaultTrap_memOk]

theorem memPutCells_memWf {l m : List Host.Cell} (h : memWf m = true) :
    memWf (restoreFrom.memPutCells m l) = true := by
  induction l generalizing m with
  | nil => exact h
  | cons b l ih => exact ih (memWf_write h _ _)

theorem restoreFrom_memOk {c : CtxId} {i : Nat} {v : SavedCtx} {s : State} (hs : s.memOk) :
    (restoreFrom c i v s).memOk := by
  unfold restoreFrom
  refine settleSaved_memOk (memOk_of_mem_eq (restoreTiles_mem ..) (memPutCells_memWf (memWf_zero ?_ _ _)))
  exact memOk_of_mem_eq (takeBank_mem c _) hs

theorem restore_memOk {c : CtxId} {s : State} (hs : s.memOk) : (restore c s).memOk := by
  grind [restore, → clearBank_memOk, restoreFrom_memOk, clearWayFor_memOk]

theorem switchBank_memOk {c : CtxId} {s : State} (hs : s.memOk) : (switchBank c s).memOk := by
  grind [switchBank, haltCtx_memOk, State.modCtx_mem, resume_memOk, clearWayFor_memOk, memOk_iff]

@[simp] theorem formOn_mem (u : Unit_) (h : HalfId) (g : CascId) (s : State) :
    (formOn u h g s).mem = s.mem := by
  grind [formOn, State.modOp_mem, State.modCore_mem, State.modCasc_mem, foldl_mem]

theorem formUnit_memOk {u : Unit_} {h : HalfId} {s : State} (hs : s.memOk) {t : State}
    (ht : (formUnit u h s) = some t) :
    t.memOk := by
  grind [formUnit, formOn_mem, memOk_iff]

theorem firstUnit_memOk {h : HalfId} {us : List Unit_} {s : State} (hs : s.memOk) {t : State}
    (ht : firstUnit h s us = some t) : t.memOk := by
  induction us with
  | nil => cases ht
  | cons u us ih =>
    unfold firstUnit at ht
    split at ht
    · next hu => exact formUnit_memOk hs (hu.trans ht)
    · exact ih ht

theorem firstQueue_memOk {h : HalfId} {l : List Operator} {qs : List QueueId} {s : State} (hs : s.memOk)
    {r : QueueId × State} (hr : firstQueue h l s qs = some r) : r.2.memOk := by
  induction qs with
  | nil => cases hr
  | cons q qs ih =>
    unfold firstQueue at hr
    split at hr
    · next hu =>
      cases hr
      exact firstUnit_memOk hs hu
    · exact ih hr

theorem formStd_memOk {h : HalfId} {s : State} (hs : s.memOk) {t : State} (ht : (formStd h s) = some t) :
    t.memOk := by
  grind [formStd, → firstQueue_memOk, State.modHalf_mem, memOk_iff]

theorem formBg_memOk {h : HalfId} {s : State} (hs : s.memOk) {t : State} (ht : (formBg h s) = some t) :
    t.memOk := by
  grind [formBg, → firstQueue_memOk, State.modHalf_mem, memOk_iff]

theorem formRt_memOk {h : HalfId} {s : State} (hs : s.memOk) {t : State} (ht : (formRt h s) = some t) :
    t.memOk := by
  grind [formRt, → firstUnit_memOk]

theorem gangForm_memOk {h : HalfId} {s : State} (hs : s.memOk) {t : State} (ht : gangForm h s = some t) :
    t.memOk := by
  rcases Option.or_eq_some_iff.1 ht with ht | ⟨-, ht⟩
  · rcases Option.or_eq_some_iff.1 ht with ht | ⟨-, ht⟩
    · exact formRt_memOk hs ht
    · exact formStd_memOk hs ht
  · exact formBg_memOk hs ht

theorem readyTiers_memOk {g : CascId} {cls : Nat} {ts : List (Fin 4 × Option Item)} {s : State} (hs : s.memOk)
    {r : State × List (CtxId × Option Item)} (hr : readyTiers g cls ts s = some r) : r.1.memOk := by
  induction ts generalizing s r with
  | nil => cases hr; exact hs
  | cons t ts ih =>
    unfold readyTiers at hr
    split at hr
    · cases hr
    · split at hr
      · cases hr
      · next hc =>
        split at hr
        · cases hr
        · next hl =>
          cases hr
          have h := ih (clearBank_memOk hs hc) hl
          exact h

theorem startMember_memOk {k : Gang} {m : CtxId × Option Item} {s : State} (hs : s.memOk) :
    (startMember k m s).memOk := by
  grind [startMember, State.modCasc_mem, State.modCtx_mem, startIn_memOk, memOk_iff]

theorem gangReady_memOk {g : CascId} {k : Gang} {s : State} (hs : s.memOk)
    {t : State × List (CtxId × Option Item)} (ht : (gangReady g k s) = some t) :
    t.1.memOk := by
  grind [gangReady, → readyTiers_memOk, clearWay_memOk]

theorem launchGang_memOk {g : CascId} {k : Gang} {l : List (CtxId × Option Item)} {s : State} (hs : s.memOk) :
    (launchGang g k l s).memOk := by
  grind [launchGang, endReservation_mem, State.modHalf_mem, settleFiller_mem, startMember_memOk, foldl_memOk,
    foldl_mem, memOk_iff]

theorem startGang_memOk {g : CascId} {k : Gang} {s : State} (hs : s.memOk) {t : State}
    (ht : (startGang g k s) = some t) :
    t.memOk := by
  grind [startGang, → gangReady_memOk, launchGang_memOk]

theorem startFirst_memOk {g : CascId} {ks : List Gang} {s : State} (hs : s.memOk) {t : State}
    (ht : startFirst g s ks = some t) : t.memOk := by
  induction ks with
  | nil => cases ht
  | cons k ks ih =>
    unfold startFirst at ht
    split at ht
    · next hk => exact startGang_memOk hs (hk.trans ht)
    · exact ih ht

theorem taskPop_memOk {c : CtxId} {s : State} (hs : s.memOk) : (taskPop c s).memOk := by
  grind [taskPop, State.modCasc_mem, startIn_memOk, memOk_iff]

theorem cpThen_memOk {α β : Type} {r : State × CpGot α} {k : State → α → State × CpGot β} (hr : r.1.memOk)
    (hk : ∀ s v, s.memOk → (k s v).1.memOk) : (cpThen r k).1.memOk := by
  obtain ⟨s, g⟩ := r
  cases g with
  | ok v => exact hk s v hr
  | err => exact hr
  | wait => exact hr

theorem cpRead_memOk {q : QueueId} {va : Word} {n : Nat} {s : State} (hs : s.memOk) :
    (cpRead q va n s).1.memOk := by
  grind [cpRead, partRead_memOk]

theorem cpKey_memOk {q : QueueId} {wr : Bool} {va : Word} {s : State} (hs : s.memOk) :
    (cpKey q wr va s).1.memOk := by
  grind [cpKey, partXlate_memOk]

@[simp] theorem settleQueue_mem (q : QueueId) (s : State) : (settleQueue q s).mem = s.mem := rfl

@[simp] theorem modPkt_mem (q : QueueId) (index : Word32) (f : Pkt → Pkt) (s : State) :
    (modPkt q index f s).mem = s.mem := rfl

@[simp] theorem endPkt_mem (q : QueueId) (index : Word32) (s : State) : (endPkt q index s).mem = s.mem := rfl

theorem cpDone_memOk {α : Type} {q : QueueId} {index : Word32} {r : State × CpGot α} {k : State → α → State}
    (hr : r.1.memOk) (hk : ∀ s v, s.memOk → (k s v).memOk) : (cpDone q index r k).memOk := by
  obtain ⟨s, g⟩ := r
  cases g with
  | ok v => exact hk s v hr
  | err => exact queueError_memOk hr
  | wait => exact hr

theorem tlTarget_memOk {q : QueueId} {t : Word} {s : State} (hs : s.memOk) : (tlTarget q t s).1.memOk := by
  unfold tlTarget
  split
  · exact hs
  · refine cpThen_memOk (cpRead_memOk hs) fun s hdr hs => cpThen_memOk (cpRead_memOk hs) fun s w hs => ?_
    extract_lets alias_
    split
    · exact hs
    · split
      · exact hs
      · exact cpThen_memOk (cpKey_memOk hs) fun _ _ hs => hs

@[simp] theorem cpRelease_mem (h : HalfId) (key scope : Nat) (s : State) :
    (cpRelease h key scope s).mem = s.mem := rfl

theorem cpWrite_memOk {q : QueueId} {va : Word} {n scope v : Nat} {s : State} (hs : s.memOk) :
    (cpWrite q va n scope v s).1.memOk := by
  unfold cpWrite
  split
  · exact hs
  · exact cpThen_memOk (partXlate_memOk hs) fun s k hs => memOk_of_mem_eq (cpRelease_mem ..) (memWf_putNat hs ..)

theorem tlRaise_memOk {h : HalfId} {t : TlTarget} {v : Word} {s : State} (hs : s.memOk) :
    (tlRaise h t v s).memOk := by
  unfold tlRaise; split <;> grind [tlRaise, cpRelease_mem, raiseTimeline_mem, raiseRecord_memOk, memOk_iff]

theorem readFallback_memOk {q : QueueId} {w : Vector Word 16} {s : State} (hs : s.memOk) :
    (readFallback q w s).1.memOk := by
  unfold readFallback
  split
  · exact hs
  · refine cpThen_memOk (cpRead_memOk hs) fun s n hs => ?_
    extract_lets f
    split <;> exact hs

theorem readLevels_memOk {q : QueueId} {va : Word} {s : State} (hs : s.memOk) :
    (readLevels q va s).1.memOk := by
  refine cpThen_memOk (cpRead_memOk hs) fun s n hs => ?_
  split <;> exact hs

theorem launchOp_memOk {a : LaunchArgs} {w : Vector Word 16} {s : State} (hs : s.memOk) :
    (launchOp a w s).1.memOk := by
  unfold launchOp
  split
  · exact hs
  · refine cpThen_memOk (readFallback_memOk hs) fun s fb hs => cpThen_memOk (readLevels_memOk hs) fun s l hs => ?_
    extract_lets o
    split
    · exact hs
    · split <;> exact hs

end Sys2Proof.Machine

end

section

/-! PROOFS. The canonical form of memory through the packets, the graphs and the failover. -/

namespace Sys2Proof.Machine

theorem notify_memOk {q : QueueId} {n : Word32} {s : State} (hs : s.memOk) : (notify q n s).memOk := by
  grind [notify, queueError_memOk, settleQueue_mem, State.modQueue_mem, memOk_iff]

theorem takePacket_memOk {q : QueueId} {s : State} (hs : s.memOk) : (takePacket q s).memOk := by
  grind [takePacket, queueError_memOk, State.modHalf_mem, State.modQueue_mem, settleQueue_mem, memWf_putNat,
    memOk_iff]

theorem fetchPacket_memOk {q : QueueId} {s : State} (hs : s.memOk) : (fetchPacket q s).memOk := by
  grind [fetchPacket, takePacket_memOk]

@[simp] theorem beginPkt_mem (q : QueueId) (index : Word32) (s : State) : (beginPkt q index s).mem = s.mem := rfl

theorem launchPkt_memOk {q : QueueId} {p : Pkt} {s : State} (hs : s.memOk) : (launchPkt q p s).memOk := by
  grind [launchPkt, queueError_memOk, cpDone_memOk, cpRead_memOk, launchOp_memOk, settleQueue_mem, modPkt_mem,
    memOk_iff]

@[simp] theorem startWait_mem (q : QueueId) (index : Word32) (s : State) :
    (startWait q index s).mem = s.mem := rfl

theorem evalTimeline_memOk {q : QueueId} {p : Pkt} {target threshold : Word} {s : State} (hs : s.memOk) :
    (evalTimeline q p target threshold s).1.memOk := by
  grind [evalTimeline, cpThen_memOk, tlTarget_memOk, modPkt_mem, memOk_iff]

theorem waitTlPkt_memOk {q : QueueId} {p : Pkt} {s : State} (hs : s.memOk) : (waitTlPkt q p s).memOk := by
  grind [waitTlPkt, cpDone_memOk, evalTimeline_memOk, endPkt_mem, memOk_iff]

theorem evalMemory_memOk {q : QueueId} {va value mask : Word} {cond : Nat} {s : State} (hs : s.memOk) :
    (evalMemory q va value mask cond s).1.memOk := by
  grind [evalMemory, cpThen_memOk, cpRead_memOk]

theorem waitMemPkt_memOk {q : QueueId} {p : Pkt} {s : State} (hs : s.memOk) : (waitMemPkt q p s).memOk := by
  grind [waitMemPkt, cpDone_memOk, evalMemory_memOk, endPkt_mem, modPkt_mem, memOk_iff]

theorem invalRegions_memOk {a : InvalArgs} {s : State} (hs : s.memOk) : (invalRegions a s).memOk := by
  grind [invalRegions, discard_memOk, foldl_memOk, foldl_mem]

@[simp] theorem invalTlbs_mem (a : InvalArgs) (s : State) : (invalTlbs a s).mem = s.mem := rfl

@[simp] theorem answerSaved_mem (c : CtxId) (gen : Word32) (ok : Bool) (s : State) :
    (answerSaved c gen ok s).mem = s.mem := rfl

theorem pageAnswer_memOk {c : CtxId} {gen : Word32} {ok : Bool} {s : State} (hs : s.memOk) :
    (pageAnswer c gen ok s).memOk := by
  grind [pageAnswer, State.modCtx_mem, takeTrap_memOk, answerSaved_mem, memOk_iff]

@[simp] theorem writeQbase_mem (q : QueueId) (v : Word) (s : State) : (writeQbase q v s).mem = s.mem := by
  unfold writeQbase; split <;> rfl

@[simp] theorem enableQueue_mem (q : QueueId) (s : State) : (enableQueue q s).mem = s.mem := by
  grind [enableQueue, settleQueue_mem, State.modQueue_mem]

@[simp] theorem disableQueue_mem (q : QueueId) (s : State) : (disableQueue q s).mem = s.mem := by
  grind [disableQueue, settleQueue_mem, State.modQueue_mem]

@[simp] theorem writeQctl_mem (q : QueueId) (v : Word) (s : State) : (writeQctl q v s).mem = s.mem := by
  grind [writeQctl, State.modQueue_mem, disableQueue_mem, enableQueue_mem]

@[simp] theorem resetQueue_mem (q : QueueId) (s : State) : (resetQueue q s).mem = s.mem := by
  unfold resetQueue; split <;> rfl

theorem queueCfg_memOk {op : Nat} {f : QueueId → Pkt → State → State} {q : QueueId} {s : State}
    (hf : ∀ x y z, z.memOk → (f x y z).memOk) (hs : s.memOk) :
    NextMemOk (queueCfg op f q s) := by
  grind [queueCfg, endPkt_mem, nextMemOk_iff, memOk_iff]

@[simp] theorem modGraph_mem (q : QueueId) (index : Word32) (f : GraphSt → GraphSt) (s : State) :
    (modGraph q index f s).mem = s.mem := rfl

theorem cpStep_memOk {α : Type} {q : QueueId} {index : Word32} {r : State × CpGot α} {k : State → α → Option State}
    (hr : r.1.memOk) (hk : ∀ s v, s.memOk → ∀ t, k s v = some t → t.memOk) {t : State}
    (ht : cpStep q index r k = some t) : t.memOk := by
  obtain ⟨s, g⟩ := r
  cases g with
  | ok v => exact hk s v hr t ht
  | err => cases ht; exact queueError_memOk hr
  | wait => cases ht

theorem dequeueCard_memOk {q : QueueId} {index : Word32} {g : GraphSt} {s : State} (hs : s.memOk) :
    (dequeueCard q index g s).memOk := by
  grind [dequeueCard, queueError_memOk, cpDone_memOk, cpRead_memOk, settleQueue_mem, modPkt_mem, memOk_iff]

theorem passCard_memOk {q : QueueId} {index : Word32} {next : Word} {g : GraphSt} {s : State} (hs : s.memOk) :
    (passCard q index next g s).memOk := by
  grind [passCard, dequeueCard_memOk, modGraph_mem, memOk_iff]

theorem onCards_memOk {l : List Card} {f : Card → State → Option State} {s : State}
    (hf : ∀ c t, f c s = some t → t.memOk) (hs : s.memOk) : NextMemOk (onCards l f s) := by
  refine getD_memOk (fun ht => ?_) hs
  obtain ⟨c, -, hc⟩ := List.exists_of_findSome?_eq_some ht
  exact hf c _ hc

theorem opCard_memOk {q : QueueId} {c : Card} {s : State} (hs : s.memOk) {t : State}
    (ht : (opCard q c s) = some t) :
    t.memOk := by
  grind [opCard, → cpStep_memOk, launchOp_memOk, passCard_memOk, modGraph_mem, settleQueue_mem, memOk_iff]

theorem predicate_memOk {q : QueueId} {w : Vector Word 16} {s : State} (hs : s.memOk) :
    (predicate q w s).1.memOk := by
  grind [predicate, evalMemory_memOk]

theorem condCard_memOk {q : QueueId} {c : Card} {s : State} (hs : s.memOk) {t : State}
    (ht : (condCard q c s) = some t) :
    t.memOk := by
  grind [condCard, → cpStep_memOk, predicate_memOk, passCard_memOk]

theorem passLoop_memOk {q : QueueId} {c : Card} {next : Word} {n : Nat} {s : State} (hs : s.memOk) :
    (passLoop q c next n s).memOk := by
  grind [passLoop, passCard_memOk, modGraph_mem, memOk_iff]

theorem writeCount_memOk {q : QueueId} {va : Word} {n : Nat} {s : State} (hs : s.memOk) :
    (writeCount q va n s).1.memOk := by
  grind [writeCount, cpWrite_memOk]

theorem loopnCard_memOk {q : QueueId} {c : Card} {s : State} (hs : s.memOk) {t : State}
    (ht : (loopnCard q c s) = some t) :
    t.memOk := by
  grind [loopnCard, → cpStep_memOk, predicate_memOk, queueError_memOk, passLoop_memOk, writeCount_memOk]

theorem signalCard_memOk {q : QueueId} {c : Card} {s : State} (hs : s.memOk) {t : State}
    (ht : (signalCard q c s) = some t) :
    t.memOk := by
  grind [signalCard, → cpStep_memOk, tlTarget_memOk, passCard_memOk, tlRaise_memOk]

theorem evalWaitCard_memOk {q : QueueId} {c : Card} {s : State} (hs : s.memOk) :
    (evalWaitCard q c s).1.memOk := by
  grind [evalWaitCard, evalMemory_memOk, evalTimeline_memOk]

theorem waitCard_memOk {q : QueueId} {c : Card} {s : State} (hs : s.memOk) {t : State}
    (ht : (waitCard q c s) = some t) :
    t.memOk := by
  grind [waitCard, modPkt_mem, → cpStep_memOk, evalWaitCard_memOk, passCard_memOk, memOk_iff]

theorem opPassed_memOk {o : Operator} {s : State} (hs : s.memOk) : (opPassed o s).memOk := by
  grind [opPassed, settleQueue_mem, endPkt_mem, passCard_memOk, modGraph_mem, memOk_iff]

theorem completeOp_memOk {o : Operator} {s : State} (hs : s.memOk) : (completeOp o s).memOk := by
  grind [completeOp, State.modHalf_mem, opPassed_memOk, memOk_iff]

@[simp] theorem markStruck_mem (f : HalfId) (s : State) : (markStruck f s).mem = s.mem := rfl

theorem strikeHalf_memOk {f : HalfId} {s : State} (hs : s.memOk) : (strikeHalf f s).memOk := by
  grind [strikeHalf, markStruck_mem, State.modDev_mem, queueError_memOk, abortOp_memOk, foldl_memOk,
    foldl_mem, memOk_iff]

theorem recallFrom_memOk {f : HalfId} {s : State} {c : CtxId} (hs : s.memOk) : (recallFrom f s c).memOk := by
  grind [recallFrom, orLatch_memOk, discard_memOk, State.modCtx_mem, memOk_iff]

@[simp] theorem countAborted_mem (n : Nat) (s : State) : (countAborted n s).mem = s.mem := rfl

theorem wipeHalf_memOk {f : HalfId} {s : State} (hs : s.memOk) : (wipeHalf f s).memOk := by
  grind [wipeHalf, killCtx_memOk, endSavedOf_mem, State.modCtx_mem, State.modHalf_mem, foldl_memOk, foldl_mem,
    memOk_iff]

theorem beginAdoption_memOk {f : HalfId} {s : State} (hs : s.memOk) : (beginAdoption f s).memOk := by
  grind [beginAdoption, State.modDev_mem, wipeHalf_memOk, recallFrom_memOk, foldl_memOk, foldl_mem, memOk_iff]

theorem trigger_memOk {f : HalfId} {s : State} (hs : s.memOk) : (trigger f s).memOk := by
  grind [trigger, State.modHalf_mem, beginAdoption_memOk, strikeHalf_memOk, markStruck_mem, memOk_iff]

theorem failOver_memOk {f : HalfId} {s : State} (hs : s.memOk) : (failOver f s).memOk := by
  grind [failOver, beginAdoption_memOk]

theorem drainHalf_memOk {f : HalfId} {s : State} (hs : s.memOk) : (drainHalf f s).memOk := by
  unfold drainHalf
  extract_lets ws s' s''
  have h' : s'.memOk := memWf_foldl _ (fun _ _ h => memWf_line h _) ws hs
  have h'' : s''.memOk := h'
  refine foldl_memOk (fun s c h => ?_) _ h''
  exact h

@[simp] theorem remap_mem (f : HalfId) (s : State) : (remap f s).mem = s.mem := rfl

@[simp] theorem disownEffects_mem (id new : Nat) (s : State) : (disownEffects id new s).mem = s.mem := rfl

theorem relaunch_memOk {o : Operator} {s : State} (hs : s.memOk) : (relaunch o s).memOk := by
  grind [relaunch, dropOp_memOk, cpDone_memOk, launchOp_memOk, State.modOp_mem, disownEffects_mem, memOk_iff]

theorem settleOp_memOk {s : State} {id : Nat} (hs : s.memOk) : (settleOp s id).memOk := by
  grind [settleOp, relaunch_memOk, abortOp_memOk]

theorem serveNotify_memOk {s : State} {a : Instr} (hs : s.memOk) : (serveNotify s a).memOk := by
  unfold serveNotify; split <;> grind [serveNotify, notify_memOk]

theorem serveLatched_memOk {s : State} (hs : s.memOk) : (serveLatched s).memOk := by
  grind [serveLatched, serveNotify_memOk, foldl_memOk, foldl_mem, memOk_iff]

theorem rerun_memOk {s : State} (hs : s.memOk) : (rerun s).memOk := by
  grind [rerun, countAborted_mem, serveLatched_memOk, settleOp_memOk, State.modDev_mem, foldl_memOk,
    foldl_mem, memOk_iff]

@[simp] theorem completeAdoption_mem (f : HalfId) (s : State) : (completeAdoption f s).mem = s.mem := by
  grind [completeAdoption, State.modHalf_mem, State.modDev_mem, queueIrq_mem, foldl_mem]

@[simp] theorem setPhase_mem (n : BitVec 3) (s : State) : (setPhase n s).mem = s.mem := rfl

end Sys2Proof.Machine

end

section

/-! PROOFS. The canonical form of memory through the host link, the boot, the patches, the power and the registers. -/

namespace Sys2Proof.Machine

@[simp] theorem dropWrite_mem (s : State) : (dropWrite s).mem = s.mem := rfl

theorem ownerWrite_memOk {m : Master} {f : State → State} {s : State} (hf : ∀ x, x.memOk → (f x).memOk)
    (hs : s.memOk) :
    NextMemOk (ownerWrite m f s) := by
  grind [ownerWrite, dropWrite_mem, nextMemOk_iff, memOk_iff]

@[simp] theorem modOwner_mem (f : Owner → Owner) (s : State) : (modOwner f s).mem = s.mem := rfl

@[simp] theorem makeOwner_mem (m : BitVec 2) (s : State) : (makeOwner m s).mem = s.mem := rfl

@[simp] theorem election_mem (s : State) : (election s).mem = s.mem := by
  grind [election, modOwner_mem, makeOwner_mem]

@[simp] theorem claim_mem (m : BitVec 2) (s : State) : (claim m s).mem = s.mem := by
  grind [claim, modOwner_mem, makeOwner_mem]

@[simp] theorem setHandover_mem (ho : Bool) (target : BitVec 2) (s : State) :
    (setHandover ho target s).mem = s.mem := rfl

theorem repartition_memWf {s : State} (hs : s.memOk) (t : State) : memWf (repartition s t) = true :=
  memWf_foldl _ (fun _ _ h => memWf_write h _ _) _ (memWf_sublist hs List.filter_sublist)

theorem setGsz_memOk {v : BitVec 13} {s : State} (hs : s.memOk) : (setGsz v s).memOk := by
  rw [memOk_iff]
  by_cases h : (setGsz v s).dev.gsz = s.dev.gsz
  · rwa [setGsz_mem_of_same h]
  · rw [setGsz_mem_of_changed h]
    exact repartition_memWf hs _

@[simp] theorem modTurnout_mem (n : TurnoutId) (f : Turnout → Turnout) (s : State) :
    (modTurnout n f s).mem = s.mem := rfl

@[simp] theorem turnoutField_mem (n : TurnoutId) (f : Turnout → Turnout) (s : State) :
    (turnoutField n f s).mem = s.mem := by
  unfold turnoutField; split <;> rfl

@[simp] theorem turnoutReg_mem (n : TurnoutId) (off : Nat) (v : Word) (s : State) :
    (turnoutReg n off v s).mem = s.mem := by
  unfold turnoutReg; split <;> grind [turnoutReg, turnoutField_mem, modTurnout_mem]

@[simp] theorem queueReg_mem (q : QueueId) (off : Nat) (v : Word) (s : State) :
    (queueReg q off v s).mem = s.mem := by
  unfold queueReg; split <;> grind [queueReg, writeQbase_mem, State.modQueue_mem]

@[simp] theorem setPrq_mem (h : HalfId) (r : RingReg) (s : State) : (setPrq h r s).mem = s.mem := by
  grind [setPrq, State.modHalf_mem, raiseIrq_mem]

@[simp] theorem ringReg_mem (h : HalfId) (off : Nat) (v : Word) (s : State) :
    (ringReg h off v s).mem = s.mem := by
  unfold ringReg; split <;> grind [ringReg, State.modHalf_mem, setPrq_mem]

@[simp] theorem csaveReg_mem (k : CoreId) (v : Word) (s : State) : (csaveReg k v s).mem = s.mem := rfl

@[simp] theorem sluiceReg_mem (c : CtxId) (k : Nat) (v : Word) (s : State) :
    (sluiceReg c k v s).mem = s.mem := rfl

@[simp] theorem measdReg_mem (i : Nat) (v : Word) (s : State) : (measdReg i v s).mem = s.mem := rfl

@[simp] theorem ownctlReg_mem (m : Master) (v : Word) (s : State) : (ownctlReg m v s).mem = s.mem := by
  grind [ownctlReg, modOwner_mem, setHandover_mem, election_mem, claim_mem]

@[simp] theorem msixReg_mem (fn : Fin 2) (i : Nat) (v : Word) (s : State) : (msixReg fn i v s).mem = s.mem := by
  grind [msixReg, State.modDev_mem]

@[simp] theorem deviceReg_mem (off : Nat) (v : Word) (s : State) : (deviceReg off v s).mem = s.mem := by
  unfold deviceReg; split <;> rfl

@[simp] theorem blockReg_mem (off : Nat) (v : Word) (s : State) : (blockReg off v s).mem = s.mem := by
  grind [blockReg, ringReg_mem, turnoutReg_mem, State.modCasc_mem, State.modQueue_mem, queueReg_mem,
    csaveReg_mem, sluiceReg_mem, measdReg_mem, deviceReg_mem]

@[simp] theorem barReg_mem (m : Master) (off : Nat) (v : Word) (s : State) :
    (barReg m off v s).mem = s.mem := by
  grind [barReg, msixReg_mem, blockReg_mem]

theorem publish_memOk {n : TurnoutId} {k : Nat} {s : State} (hs : s.memOk) : (publish n k s).memOk := by
  grind [publish, putWord_memOk, stampRelease_mem, modTurnout_mem, memOk_iff]

theorem turnoutTake_memOk {n : TurnoutId} {o : Nat} {data : List Byte} {s : State} (hs : s.memOk) :
    (turnoutTake n o data s).memOk := by
  grind [turnoutTake, modTurnout_mem, publish_memOk, memWf_putBytes, memOk_iff]

@[simp] theorem answerRead_mem (l : List Byte) (s : State) : (answerRead l s).mem = s.mem := rfl

@[simp] theorem modBoot_mem (f : Boot → Boot) (s : State) : (modBoot f s).mem = s.mem := rfl

@[simp] theorem loadPatches_mem (l : List Byte) (s : State) : (loadPatches l s).mem = s.mem := rfl

theorem resetMemory_memWf {s : State} (hs : s.memOk) : memWf (resetMemory s) = true := by
  refine memWf_foldl _ (fun m t h => ?_) _ (memWf_sublist hs List.filter_sublist)
  split
  · exact memWf_write h _ _
  · exact h

theorem fullReset_memOk {s : State} (hs : s.memOk) : (fullReset s).memOk := resetMemory_memWf hs

@[simp] theorem bootRom_mem (s : State) : (bootRom s).mem = s.mem := rfl

theorem copyRuntime_memOk {l : List Byte} {at_ : Nat} {s : State} (hs : s.memOk) :
    (copyRuntime l at_ s).memOk := by
  grind [copyRuntime, memWf_putBytes, memOk_iff]

@[simp] theorem setTvec_mem (v : Word) (s : State) : (setTvec v s).mem = s.mem := rfl

theorem loadPackage_memOk {pa : Nat} {s : State} (hs : s.memOk) : (loadPackage pa s).memOk := by
  unfold loadPackage
  simp only [memOk_iff, modBoot_mem, loadPatches_mem, setTvec_mem]
  exact copyRuntime_memOk (memOk_of_mem_eq (modBoot_mem ..) hs)

@[simp] theorem bootGo_mem (s : State) : (bootGo s).mem = s.mem := by
  unfold bootGo; split <;> rfl

@[simp] theorem bootFail_mem (code : BitVec 8) (s : State) : (bootFail code s).mem = s.mem := rfl

theorem bootStep_memOk {s : State} (hs : s.memOk) : (bootStep s).memOk := by
  grind [bootStep, bootRom_mem, bootFail_mem, modBoot_mem, loadPackage_memOk, memOk_iff]

theorem patchImage_memOk {q : QueueId} {p : Pkt} {s : State} (hs : s.memOk) : (patchImage q p s).1.memOk := by
  grind [patchImage, partBytes_memOk]

theorem applyPatch_memOk {q : QueueId} {p : Pkt} {s : State} (hs : s.memOk) : (applyPatch q p s).memOk := by
  grind [applyPatch, cpDone_memOk, patchImage_memOk, endPkt_mem, loadPatches_mem, modBoot_mem,
    queueError_memOk, memOk_iff]

theorem dueTriggers_memOk {s : State} (hs : s.memOk) : (dueTriggers s).memOk := by
  grind [dueTriggers, State.modHalf_mem, trigger_memOk, failOver_memOk, foldl_memOk, foldl_mem, memOk_iff]

theorem resumeCps_memOk {s : State} (hs : s.memOk) : (resumeCps s).memOk := by
  grind [resumeCps, dueTriggers_memOk, serveLatched_memOk, memOk_iff]

theorem deliverLatched_memOk {s : State} {a : Latched} (hs : s.memOk) : (deliverLatched s a).memOk := by
  unfold deliverLatched; split <;> grind [deliverLatched, preempt_memOk, detectedError_memOk,
    pageAnswer_memOk, wakeKey_memOk, uncorrectable_memOk, discard_memOk]

theorem endHold_memOk {g : CascId} {s : State} (hs : s.memOk) : (endHold g s).memOk := by
  grind [endHold, deliverLatched_memOk, State.modCasc_mem, foldl_memOk, foldl_mem, memOk_iff]

@[simp] theorem settleDroop_mem (g : CascId) (s : State) : (settleDroop g s).mem = s.mem := by
  grind [settleDroop, State.modCasc_mem, foldl_mem]

@[simp] theorem fillTier_mem (g : CascId) (r : TierReport) (s : State) (t : Fin 4) :
    (fillTier g r s t).mem = s.mem := by
  unfold fillTier; split <;> rfl

@[simp] theorem balance_mem (g : CascId) (r : TierReport) (s : State) : (balance g r s).mem = s.mem := by
  grind [balance, State.modCasc_mem, fillTier_mem, foldl_mem]

@[simp] theorem powerEval_mem (mw : Nat) (s : State) : (powerEval mw s).mem = s.mem := by
  grind [powerEval, State.modDev_mem, State.bumpFree_mem, State.modCasc_mem]

theorem takeSample_memOk {k : CoreId} {s : State} (hs : s.memOk) : (takeSample k s).memOk := by
  grind [takeSample, State.bumpFree_mem, State.modCore_mem, State.modHalf_mem, ringPush_memOk, memOk_iff]

end Sys2Proof.Machine

end

section

/-! PROOFS. The canonical form of memory through every instruction and every step of the part. -/

namespace Sys2Proof.Machine

theorem execEngineCommandStart_memOk {k : CoreId} {s : State} (hs : s.memOk) :
    NextMemOk (execEngineCommandStart k s) := by
  grind [execEngineCommandStart, engineStart_memOk, nextMemOk_iff]

theorem execEngineCommandComplete_memOk {k : CoreId} {n : Nat} {s : State} (hs : s.memOk) :
    NextMemOk (execEngineCommandComplete k n s) := by
  grind [execEngineCommandComplete, engineComplete_memOk, nextMemOk_iff]

theorem execArrivalWordWrite_memOk {k : CoreId} {n : Nat} {s : State} (hs : s.memOk) :
    NextMemOk (execArrivalWordWrite k n s) := by
  grind [execArrivalWordWrite, arrivalWrite_memOk, nextMemOk_iff]

theorem execWeirDrain_memOk {h : HalfId} {n : Nat} {s : State} (hs : s.memOk) :
    NextMemOk (execWeirDrain h n s) := by
  grind [execWeirDrain, weirDrain_memOk, nextMemOk_iff]

theorem execPostedAck_memOk {c : CtxId} {n : Nat} {s : State} (hs : s.memOk) :
    NextMemOk (execPostedAck c n s) := by
  grind [execPostedAck, postedAck_memOk, nextMemOk_iff]

theorem execReductionApply_memOk {c : CtxId} {s : State} (hs : s.memOk) :
    NextMemOk (execReductionApply c s) := by
  grind [execReductionApply, reductionApply_memOk, nextMemOk_iff]

theorem execJoinPostRetry_memOk {g : CascId} {s : State} (hs : s.memOk) :
    NextMemOk (execJoinPostRetry g s) := by
  grind [execJoinPostRetry, joinRetry_memOk, nextMemOk_iff]

theorem execDeferredEffectApply_memOk {c : CtxId} {n : Nat} {s : State} (hs : s.memOk) :
    NextMemOk (execDeferredEffectApply c n s) := by
  grind [execDeferredEffectApply, deferredApply_memOk, nextMemOk_iff]

theorem execWaiterWake_memOk {key : Nat} {s : State} (hs : s.memOk) : NextMemOk (execWaiterWake key s) := by
  grind [execWaiterWake, wakeKey_memOk, latchWake_mem, nextMemOk_iff, memOk_iff]

theorem execWaitwPoll_memOk {c : CtxId} {s : State} (hs : s.memOk) : NextMemOk (execWaitwPoll c s) := by
  grind [execWaitwPoll, wakeOne_memOk, nextMemOk_iff]

theorem execWaitwTimeout_memOk {c : CtxId} {s : State} (hs : s.memOk) : NextMemOk (execWaitwTimeout c s) := by
  grind [execWaitwTimeout, wakeOne_memOk, nextMemOk_iff]

theorem execRegionRetire_memOk {c : CtxId} {s : State} (hs : s.memOk) : NextMemOk (execRegionRetire c s) := by
  grind [execRegionRetire, tryRetire_memOk, nextMemOk_iff]

theorem execRegionOverrun_memOk {c : CtxId} {s : State} (hs : s.memOk) : NextMemOk (execRegionOverrun c s) := by
  grind [execRegionOverrun, overrun_memOk, nextMemOk_iff]

theorem execDetectedError_memOk {e : ErrorReport} {s : State} (hs : s.memOk) :
    NextMemOk (execDetectedError e s) := by
  grind [execDetectedError, orLatch_memOk, detectedError_memOk, nextMemOk_iff]

theorem execChecksumCompare_memOk {k : CoreId} {n : Nat} {u : Upset} {s : State} (hs : s.memOk) :
    NextMemOk (execChecksumCompare k n u s) := by
  grind [execChecksumCompare, checksumCompare_memOk, nextMemOk_iff]

theorem execTrapEntry_memOk {c : CtxId} {s : State} (hs : s.memOk) : NextMemOk (execTrapEntry c s) := by
  grind [execTrapEntry, takeFault_memOk, nextMemOk_iff]

theorem execPageFault_memOk {c : CtxId} {s : State} (hs : s.memOk) : NextMemOk (execPageFault c s) := by
  grind [execPageFault, takeFault_memOk, nextMemOk_iff]

theorem execPageWalk_memOk {c : CtxId} {va : Word} {acc : Access} {s : State} (hs : s.memOk) :
    NextMemOk (execPageWalk c va acc s) := by
  grind [execPageWalk, preparePage_memOk, xlate_memOk, nextMemOk_iff]

theorem execPageRequestWrite_memOk {h : HalfId} {s : State} (hs : s.memOk) :
    NextMemOk (execPageRequestWrite h s) := by
  grind [execPageRequestWrite, pageRequestWrite_memOk, nextMemOk_iff]

theorem execIcacheRefill_memOk {k : CoreId} {line : Nat} {s : State} (hs : s.memOk) :
    NextMemOk (execIcacheRefill k line s) := by
  unfold execIcacheRefill; split <;> exact hs

theorem execPreemptRequest_memOk {c : CtxId} {s : State} (hs : s.memOk) :
    NextMemOk (execPreemptRequest c s) := by
  grind [execPreemptRequest, orLatch_memOk, preempt_memOk, nextMemOk_iff]

theorem execEvict_memOk {c : CtxId} {s : State} (hs : s.memOk) : NextMemOk (execEvict c s) := by
  grind [execEvict, evict_memOk, nextMemOk_iff]

theorem execRestore_memOk {c : CtxId} {s : State} (hs : s.memOk) : NextMemOk (execRestore c s) := by
  grind [execRestore, restore_memOk, nextMemOk_iff]

theorem execBankSwitch_memOk {k : CoreId} {s : State} (hs : s.memOk) : NextMemOk (execBankSwitch k s) := by
  grind [execBankSwitch, switchBank_memOk, nextMemOk_iff]

theorem execGangForm_memOk {h : HalfId} {s : State} (hs : s.memOk) : NextMemOk (execGangForm h s) :=
  getD_memOk (gangForm_memOk hs) hs

theorem execGangStart_memOk {g : CascId} {s : State} (hs : s.memOk) : NextMemOk (execGangStart g s) :=
  getD_memOk (startFirst_memOk hs) hs

theorem execTaskRefill_memOk {g : CascId} {s : State} (hs : s.memOk) : NextMemOk (execTaskRefill g s) :=
  hs

theorem execTaskPop_memOk {c : CtxId} {s : State} (hs : s.memOk) : NextMemOk (execTaskPop c s) := by
  grind [execTaskPop, taskPop_memOk, nextMemOk_iff]

theorem execNotifyWrite_memOk {n : Notify} {s : State} (hs : s.memOk) : NextMemOk (execNotifyWrite n s) := by
  grind [execNotifyWrite, State.modHalf_mem, notify_memOk, nextMemOk_iff, memOk_iff]

theorem execPacketFetch_memOk {q : QueueId} {s : State} (hs : s.memOk) : NextMemOk (execPacketFetch q s) := by
  grind [execPacketFetch, fetchPacket_memOk, nextMemOk_iff]

theorem execPacketPoll_memOk {q : QueueId} {s : State} (hs : s.memOk) : NextMemOk (execPacketPoll q s) := by
  grind [execPacketPoll, fetchPacket_memOk, nextMemOk_iff]

theorem execLaunch_memOk {q : QueueId} {s : State} (hs : s.memOk) : NextMemOk (execLaunch q s) := by
  grind [execLaunch, launchPkt_memOk, nextMemOk_iff]

theorem execSignal_memOk {q : QueueId} {s : State} (hs : s.memOk) : NextMemOk (execSignal q s) := by
  grind [execSignal, endPkt_mem, tlRaise_memOk, nextMemOk_iff, memOk_iff]

theorem execWrite_memOk {q : QueueId} {s : State} (hs : s.memOk) : NextMemOk (execWrite q s) := by
  grind [execWrite, cpDone_memOk, cpWrite_memOk, endPkt_mem, nextMemOk_iff, memOk_iff]

theorem execFencePacket_memOk {q : QueueId} {s : State} (hs : s.memOk) : NextMemOk (execFencePacket q s) := by
  grind [execFencePacket, queueError_memOk, endPkt_mem, nextMemOk_iff, memOk_iff]

theorem execWaitTl_memOk {q : QueueId} {s : State} (hs : s.memOk) : NextMemOk (execWaitTl q s) := by
  grind [execWaitTl, waitTlPkt_memOk, startWait_mem, nextMemOk_iff, memOk_iff]

theorem execWaitMem_memOk {q : QueueId} {s : State} (hs : s.memOk) : NextMemOk (execWaitMem q s) := by
  grind [execWaitMem, waitMemPkt_memOk, startWait_mem, nextMemOk_iff, memOk_iff]

theorem execWaitMemReread_memOk {q : QueueId} {s : State} (hs : s.memOk) :
    NextMemOk (execWaitMemReread q s) := by
  grind [execWaitMemReread, waitMemPkt_memOk, nextMemOk_iff]

theorem execWaitMemTimeout_memOk {q : QueueId} {s : State} (hs : s.memOk) :
    NextMemOk (execWaitMemTimeout q s) := by
  grind [execWaitMemTimeout, queueError_memOk, nextMemOk_iff]

theorem execInval_memOk {q : QueueId} {s : State} (hs : s.memOk) : NextMemOk (execInval q s) := by
  grind [execInval, queueError_memOk, beginPkt_mem, invalRegions_memOk, invalTlbs_mem, nextMemOk_iff, memOk_iff]

theorem execInvalComplete_memOk {q : QueueId} {s : State} (hs : s.memOk) :
    NextMemOk (execInvalComplete q s) := by
  grind [execInvalComplete, endPkt_mem, nextMemOk_iff, memOk_iff]

theorem execPageResp_memOk {q : QueueId} {s : State} (hs : s.memOk) : NextMemOk (execPageResp q s) := by
  grind [execPageResp, endPkt_mem, orLatch_memOk, pageAnswer_memOk, nextMemOk_iff, memOk_iff]

theorem execQueueCfgWrite_memOk {q : QueueId} {s : State} (hs : s.memOk) :
    NextMemOk (execQueueCfgWrite q s) := by
  grind [execQueueCfgWrite, queueCfg_memOk, State.modQueue_mem, writeQbase_mem, nextMemOk_iff, memOk_iff]

theorem execQueueCfgEnable_memOk {q : QueueId} {s : State} (hs : s.memOk) :
    NextMemOk (execQueueCfgEnable q s) := by
  grind [execQueueCfgEnable, queueCfg_memOk, enableQueue_mem, nextMemOk_iff, memOk_iff]

theorem execQueueCfgDisable_memOk {q : QueueId} {s : State} (hs : s.memOk) :
    NextMemOk (execQueueCfgDisable q s) := by
  grind [execQueueCfgDisable, queueCfg_memOk, disableQueue_mem, nextMemOk_iff, memOk_iff]

theorem execQueueCfgReset_memOk {q : QueueId} {s : State} (hs : s.memOk) :
    NextMemOk (execQueueCfgReset q s) := by
  grind [execQueueCfgReset, queueCfg_memOk, resetQueue_mem, nextMemOk_iff, memOk_iff]

theorem execGraph_memOk {q : QueueId} {s : State} (hs : s.memOk) : NextMemOk (execGraph q s) := by
  grind [execGraph, dequeueCard_memOk, beginPkt_mem, modPkt_mem, nextMemOk_iff, memOk_iff]

theorem execOpCard_memOk {q : QueueId} {s : State} (hs : s.memOk) : NextMemOk (execOpCard q s) := by
  grind [execOpCard, onCards_memOk, → opCard_memOk, nextMemOk_iff]

theorem execCond_memOk {q : QueueId} {s : State} (hs : s.memOk) : NextMemOk (execCond q s) := by
  grind [execCond, onCards_memOk, → condCard_memOk, nextMemOk_iff]

theorem execLoopn_memOk {q : QueueId} {s : State} (hs : s.memOk) : NextMemOk (execLoopn q s) := by
  grind [execLoopn, onCards_memOk, → loopnCard_memOk, nextMemOk_iff]

theorem execSignalCard_memOk {q : QueueId} {s : State} (hs : s.memOk) : NextMemOk (execSignalCard q s) := by
  grind [execSignalCard, onCards_memOk, → signalCard_memOk, nextMemOk_iff]

theorem execWaitCard_memOk {q : QueueId} {s : State} (hs : s.memOk) : NextMemOk (execWaitCard q s) := by
  grind [execWaitCard, onCards_memOk, → waitCard_memOk, nextMemOk_iff]

theorem execWaitCardTimeout_memOk {q : QueueId} {s : State} (hs : s.memOk) :
    NextMemOk (execWaitCardTimeout q s) := by
  grind [execWaitCardTimeout, onCards_memOk, queueError_memOk, nextMemOk_iff]

theorem execJoin_memOk {q : QueueId} {s : State} (hs : s.memOk) : NextMemOk (execJoin q s) := by
  grind [execJoin, onCards_memOk, passCard_memOk, nextMemOk_iff]

theorem execEndCard_memOk {q : QueueId} {s : State} (hs : s.memOk) : NextMemOk (execEndCard q s) := by
  grind [execEndCard, onCards_memOk, endPkt_mem, nextMemOk_iff, memOk_iff]

theorem execOperatorComplete_memOk {id : Nat} {s : State} (hs : s.memOk) :
    NextMemOk (execOperatorComplete id s) := by
  grind [execOperatorComplete, completeOp_memOk, nextMemOk_iff]

theorem execFailoverTrigger_memOk {f : HalfId} {s : State} (hs : s.memOk) :
    NextMemOk (execFailoverTrigger f s) := by
  grind [execFailoverTrigger, State.modHalf_mem, trigger_memOk, nextMemOk_iff, memOk_iff]

theorem execIslandWatchdogExpiry_memOk {h : HalfId} {s : State} (hs : s.memOk) :
    NextMemOk (execIslandWatchdogExpiry h s) :=
  hs

theorem execIslandHealthLoss_memOk {h : HalfId} {x : IslandLoss} {s : State} (hs : s.memOk) :
    NextMemOk (execIslandHealthLoss h x s) :=
  hs

theorem execAdoption_memOk {s : State} (hs : s.memOk) : NextMemOk (execAdoption s) := by
  grind [execAdoption, setPhase_mem, drainHalf_memOk, remap_mem, rerun_memOk, completeAdoption_mem,
    nextMemOk_iff, memOk_iff]

theorem execOwnctlClaim_memOk {m : Master} {s : State} (hs : s.memOk) : NextMemOk (execOwnctlClaim m s) := by
  grind [execOwnctlClaim, claim_mem, nextMemOk_iff, memOk_iff]

theorem execOwnctlRelease_memOk {m : Master} {s : State} (hs : s.memOk) :
    NextMemOk (execOwnctlRelease m s) := by
  grind [execOwnctlRelease, ownerWrite_memOk, election_mem, nextMemOk_iff, memOk_iff]

theorem execOwnctlHandover_memOk {m target : Master} {s : State} (hs : s.memOk) :
    NextMemOk (execOwnctlHandover m target s) := by
  grind [execOwnctlHandover, ownerWrite_memOk, setHandover_mem, nextMemOk_iff, memOk_iff]

theorem execOwnctlCandidate_memOk {m : Master} {on : Bool} {s : State} (hs : s.memOk) :
    NextMemOk (execOwnctlCandidate m on s) :=
  hs

theorem execOwnhbWrite_memOk {m : Master} {s : State} (hs : s.memOk) : NextMemOk (execOwnhbWrite m s) := by
  grind [execOwnhbWrite, ownerWrite_memOk, modOwner_mem, nextMemOk_iff, memOk_iff]

theorem execHeartbeatExpiry_memOk {s : State} (hs : s.memOk) : NextMemOk (execHeartbeatExpiry s) := by
  grind [execHeartbeatExpiry, election_mem, nextMemOk_iff, memOk_iff]

theorem execHandoverTimeout_memOk {s : State} (hs : s.memOk) : NextMemOk (execHandoverTimeout s) := by
  unfold execHandoverTimeout; split <;> exact hs

theorem execMemcfgWrite_memOk {w : RegWrite} {s : State} (hs : s.memOk) : NextMemOk (execMemcfgWrite w s) := by
  grind [execMemcfgWrite, ownerWrite_memOk, setGsz_memOk, State.modDev_mem, nextMemOk_iff, memOk_iff]

theorem execTqctlWrite_memOk {g : CascId} {w : RegWrite} {s : State} (hs : s.memOk) :
    NextMemOk (execTqctlWrite g w s) := by
  grind [execTqctlWrite, ownerWrite_memOk, State.modCasc_mem, nextMemOk_iff, memOk_iff]

theorem execQctlWrite_memOk {q : QueueId} {w : RegWrite} {s : State} (hs : s.memOk) :
    NextMemOk (execQctlWrite q w s) := by
  grind [execQctlWrite, ownerWrite_memOk, writeQctl_mem, nextMemOk_iff, memOk_iff]

theorem execFoctlGo_memOk {w : RegWrite} {s : State} (hs : s.memOk) : NextMemOk (execFoctlGo w s) := by
  grind [execFoctlGo, ownerWrite_memOk, State.modHalf_mem, failOver_memOk, nextMemOk_iff, memOk_iff]

theorem execToctlWrite_memOk {n : TurnoutId} {w : RegWrite} {s : State} (hs : s.memOk) :
    NextMemOk (execToctlWrite n w s) := by
  grind [execToctlWrite, ownerWrite_memOk, modTurnout_mem, nextMemOk_iff, memOk_iff]

theorem execRegisterWrite_memOk {off : Nat} {w : RegWrite} {s : State} (hs : s.memOk) :
    NextMemOk (execRegisterWrite off w s) := by
  grind [execRegisterWrite, ownctlReg_mem, ownerWrite_memOk, barReg_mem, nextMemOk_iff, memOk_iff]

theorem execTurnoutWrite_memOk {w : BarWrite} {s : State} (hs : s.memOk) :
    NextMemOk (execTurnoutWrite w s) := by
  grind [execTurnoutWrite, turnoutTake_memOk, nextMemOk_iff]

theorem execTurnoutRead_memOk {r : BarRead} {s : State} (hs : s.memOk) : NextMemOk (execTurnoutRead r s) := by
  have hr : ∀ l, NextMemOk (.next (answerRead l s)) :=
    fun _ => (nextMemOk_iff _).2 (memOk_of_mem_eq (answerRead_mem ..) hs)
  unfold execTurnoutRead
  split
  · exact hs
  · extract_lets t o
    split
    · exact hr _
    · exact hr _

theorem execBar2Access_memOk {a : BarAccess} {s : State} (hs : s.memOk) :
    NextMemOk (execBar2Access a s) := by
  unfold execBar2Access
  split
  · split
    · exact hs
    · exact (nextMemOk_iff _).2 (memWf_putBytes hs _ _)
  · split
    · exact hs
    · exact (nextMemOk_iff _).2 (memOk_of_mem_eq (answerRead_mem ..) hs)

theorem execOutboundReadTimeout_memOk {c : CtxId} {s : State} (hs : s.memOk) :
    NextMemOk (execOutboundReadTimeout c s) := by
  grind [execOutboundReadTimeout, streamTurn_memOk, orElse_memOk, engineComplete_memOk, nextMemOk_iff, memOk_iff]

theorem execFullReset_memOk {cause : ResetCause} {s : State} (hs : s.memOk) :
    NextMemOk (execFullReset cause s) := by
  unfold execFullReset; split <;> grind [execFullReset, fullReset_memOk, ownerWrite_memOk, nextMemOk_iff]

theorem execFunctionLevelReset_memOk {fn : Fin 2} {s : State} (hs : s.memOk) :
    NextMemOk (execFunctionLevelReset fn s) := by
  unfold execFunctionLevelReset; split <;> exact hs

theorem execResizableBarWrite_memOk {lg : Nat} {s : State} (hs : s.memOk) :
    NextMemOk (execResizableBarWrite lg s) := by
  unfold execResizableBarWrite; split <;> exact hs

theorem execDramTrainingDone_memOk {ok : Bool} {s : State} (hs : s.memOk) :
    NextMemOk (execDramTrainingDone ok s) := by
  unfold execDramTrainingDone; split <;> exact hs

theorem execBootctlGo_memOk {w : RegWrite} {s : State} (hs : s.memOk) : NextMemOk (execBootctlGo w s) := by
  grind [execBootctlGo, ownerWrite_memOk, modBoot_mem, bootGo_mem, nextMemOk_iff, memOk_iff]

theorem execMeasextGo_memOk {w : RegWrite} {s : State} (hs : s.memOk) : NextMemOk (execMeasextGo w s) := by
  grind [execMeasextGo, ownerWrite_memOk, modBoot_mem, nextMemOk_iff, memOk_iff]

theorem execAttest_memOk {q : QueueId} {s : State} (hs : s.memOk) : NextMemOk (execAttest q s) := by
  grind [execAttest, cpDone_memOk, cpWrite_memOk, endPkt_mem, nextMemOk_iff, memOk_iff]

theorem execPatch_memOk {q : QueueId} {s : State} (hs : s.memOk) : NextMemOk (execPatch q s) := by
  grind [execPatch, queueError_memOk, beginPkt_mem, nextMemOk_iff, memOk_iff]

theorem execPatchQuiesce_memOk {h : HalfId} {s : State} (hs : s.memOk) : NextMemOk (execPatchQuiesce h s) := by
  grind [execPatchQuiesce, resumeCps_memOk, State.modHalf_mem, applyPatch_memOk, nextMemOk_iff, memOk_iff]

theorem execCascopWrite_memOk {g : CascId} {w : RegWrite} {s : State} (hs : s.memOk) :
    NextMemOk (execCascopWrite g w s) := by
  grind [execCascopWrite, ownerWrite_memOk, State.modCasc_mem, nextMemOk_iff, memOk_iff]

theorem execOperatingPointStep_memOk {g : CascId} {s : State} (hs : s.memOk) :
    NextMemOk (execOperatingPointStep g s) := by
  unfold execOperatingPointStep; split <;> exact hs

theorem execClockHop_memOk {g : CascId} {s : State} (hs : s.memOk) : NextMemOk (execClockHop g s) :=
  hs

theorem execClockHoldEnd_memOk {g : CascId} {s : State} (hs : s.memOk) : NextMemOk (execClockHoldEnd g s) := by
  grind [execClockHoldEnd, endHold_memOk, State.modCasc_mem, nextMemOk_iff, memOk_iff]

theorem execDroopDetect_memOk {k : CoreId} {mv : Nat} {s : State} (hs : s.memOk) :
    NextMemOk (execDroopDetect k mv s) :=
  hs

theorem execDroopRelease_memOk {k : CoreId} {s : State} (hs : s.memOk) : NextMemOk (execDroopRelease k s) := by
  grind [execDroopRelease, endHold_memOk, settleDroop_mem, State.modCore_mem, nextMemOk_iff, memOk_iff]

theorem execBalanceEval_memOk {g : CascId} {r : TierReport} {s : State} (hs : s.memOk) :
    NextMemOk (execBalanceEval g r s) := by
  grind [execBalanceEval, balance_mem, nextMemOk_iff, memOk_iff]

theorem execPowerLimitEval_memOk {mw : Nat} {s : State} (hs : s.memOk) :
    NextMemOk (execPowerLimitEval mw s) := by
  grind [execPowerLimitEval, powerEval_mem, nextMemOk_iff, memOk_iff]

theorem execThermalLimit_memOk {h : HalfId} {temp : ℤ} {s : State} (hs : s.memOk) :
    NextMemOk (execThermalLimit h temp s) :=
  hs

theorem execThermtrip_memOk {h : HalfId} {s : State} (hs : s.memOk) : NextMemOk (execThermtrip h s) :=
  hs

theorem execPcSample_memOk {k : CoreId} {s : State} (hs : s.memOk) : NextMemOk (execPcSample k s) := by
  grind [execPcSample, takeSample_memOk, nextMemOk_iff]

theorem exec_handedTo_memOk {i : Instr} {st : Stream} (h : handedTo i = some st) {s : State} (hs : s.memOk) :
    NextMemOk (exec i s) := by
  obtain ⟨tok, perf, hhead, hexec⟩ := exec_of_handedTo h s
  rw [hexec]
  refine withLevel_memOk ?_ hs
  split
  · exact hs
  · exact issue_memOk (fun _ _ _ hs => headOf_memOk hhead hs) hs

theorem exec_front_memOk {i : Instr} (h : staysInFront i = true) {s : State} (hs : s.memOk) :
    NextMemOk (exec i s) := by
  cases i with
  | add _ | sub _ | mul _ | mulhS _ | mulhN _ | divS _ | divN _ | remS _ | remN _ | minS _ | minN _ | maxS _
  | maxN _ | and _ | or _ | xor _ | andn _ | shl _ | shrN _ | shrS _ | rot _ | sltS _ | sltN _ | seq _ | sne _
  | clz _ | ctz _ | popc _ | sextB _ | sextH _ | sextW _ | zextB _ | zextH _ | zextW _ | addi _ | andi _ | ori _
  | xori _ | shli _ | shriN _ | shriS _ | sltiS _ | sltiN _ | li _ | lih _ | adr _ | beq _ | bne _ | bltS _
  | bgeS _ | bltN _ | bgeN _ | jal _ | lidx _ => exact frontOp_memOk hs
  | j _ | nop _ =>
    simp only [exec, execJ, execNop]
    exact frontOp_memOk hs
  | bfAny _ | bfNany _ | bfAll _ | bfNall _ | bfCeq _ | bfCne _ | bfCge _ | bfClt _ =>
    simp only [exec, execBfAny, execBfNany, execBfAll, execBfNall, execBfCeq, execBfCne, execBfCge, execBfClt]
    exact flagBranch_memOk hs
  | jr _ | jalr _ =>
    simp only [exec, execJr, execJalr]
    exact jumpReg_memOk hs
  | csrw _ | csrs _ | csrc _ =>
    simp only [exec, execCsrw, execCsrs, execCsrc]
    exact csrWriteOp_memOk hs
  | guardMax _ | guardSsq _ =>
    simp only [exec, execGuardMax, execGuardSsq]
    exact guardOp_memOk hs
  | trapi _ | ebreak _ | done _ =>
    simp only [exec, execTrapi, execEbreak, execDone]
    exact closingPoint_memOk hs
  | commit _ => exact commitPoint_memOk (memOk_of_mem_eq (commitOpen_mem _) hs) hs
  | amo _ => exact afterRetired_memOk (handOver_memOk (fun _ _ _ => performAmo_memOk) hs) hs
  | rett _ =>
    simp only [exec, execRett]
    refine withLevel_memOk ?_ hs
    split
    · exact closingPoint_memOk hs
    · exact afterRetired_memOk (memOk_of_mem_eq (returnTrap_mem ..) hs) hs
  | csrr _ =>
    simp only [exec, execCsrr]
    refine withLevel_memOk ?_ hs
    split
    · exact hs
    · exact frontOp_memOk hs
  | fcnt _ =>
    simp only [exec, execFcnt]
    split
    · exact hs
    · exact frontOp_memOk hs
  | loop _ =>
    simp only [exec, execLoop]
    split
    · exact hs
    · exact enterLoop_memOk hs
  | loopT _ =>
    simp only [exec, execLoopT]
    split
    · exact frontFault_memOk hs
    · exact enterLoop_memOk hs
  | endloop _ =>
    simp only [exec, execEndloop]
    split
    · exact frontFault_memOk hs
    · exact hs
  | brkloop _ =>
    simp only [exec, execBrkloop]
    split
    · exact hs
    split
    · split
      · exact frontFault_memOk hs
      · exact hs
    · exact hs
  | fence _ =>
    simp only [exec, execFence]
    split <;> exact hs
  | _ => cases h

theorem exec_partStep_memOk {i : Instr} (h : encode i = none) {s : State} (hs : s.memOk) :
    NextMemOk (exec i s) := by
  cases i with
  | engineCommandStart _ => exact execEngineCommandStart_memOk hs
  | engineCommandComplete _ _ => exact execEngineCommandComplete_memOk hs
  | arrivalWordWrite _ _ => exact execArrivalWordWrite_memOk hs
  | weirDrain _ _ => exact execWeirDrain_memOk hs
  | postedAck _ _ => exact execPostedAck_memOk hs
  | reductionApply _ => exact execReductionApply_memOk hs
  | joinPostRetry _ => exact execJoinPostRetry_memOk hs
  | deferredEffectApply _ _ => exact execDeferredEffectApply_memOk hs
  | waiterWake _ => exact execWaiterWake_memOk hs
  | waitwPoll _ => exact execWaitwPoll_memOk hs
  | waitwTimeout _ => exact execWaitwTimeout_memOk hs
  | regionRetire _ => exact execRegionRetire_memOk hs
  | regionOverrun _ => exact execRegionOverrun_memOk hs
  | detectedError _ => exact execDetectedError_memOk hs
  | checksumCompare _ _ _ => exact execChecksumCompare_memOk hs
  | trapEntry _ => exact execTrapEntry_memOk hs
  | pageFault _ => exact execPageFault_memOk hs
  | pageWalk _ _ _ => exact execPageWalk_memOk hs
  | pageRequestWrite _ => exact execPageRequestWrite_memOk hs
  | icacheRefill _ _ => exact execIcacheRefill_memOk hs
  | preemptRequest _ => exact execPreemptRequest_memOk hs
  | evict _ => exact execEvict_memOk hs
  | restore _ => exact execRestore_memOk hs
  | bankSwitch _ => exact execBankSwitch_memOk hs
  | gangForm _ => exact execGangForm_memOk hs
  | gangStart _ => exact execGangStart_memOk hs
  | taskRefill _ => exact execTaskRefill_memOk hs
  | taskPop _ => exact execTaskPop_memOk hs
  | notifyWrite _ => exact execNotifyWrite_memOk hs
  | packetFetch _ => exact execPacketFetch_memOk hs
  | packetPoll _ => exact execPacketPoll_memOk hs
  | launch _ => exact execLaunch_memOk hs
  | signal _ => exact execSignal_memOk hs
  | write _ => exact execWrite_memOk hs
  | fencePacket _ => exact execFencePacket_memOk hs
  | waitTl _ => exact execWaitTl_memOk hs
  | waitMem _ => exact execWaitMem_memOk hs
  | waitMemReread _ => exact execWaitMemReread_memOk hs
  | waitMemTimeout _ => exact execWaitMemTimeout_memOk hs
  | inval _ => exact execInval_memOk hs
  | invalComplete _ => exact execInvalComplete_memOk hs
  | pageResp _ => exact execPageResp_memOk hs
  | queueCfgWrite _ => exact execQueueCfgWrite_memOk hs
  | queueCfgEnable _ => exact execQueueCfgEnable_memOk hs
  | queueCfgDisable _ => exact execQueueCfgDisable_memOk hs
  | queueCfgReset _ => exact execQueueCfgReset_memOk hs
  | graph _ => exact execGraph_memOk hs
  | opCard _ => exact execOpCard_memOk hs
  | cond _ => exact execCond_memOk hs
  | loopn _ => exact execLoopn_memOk hs
  | signalCard _ => exact execSignalCard_memOk hs
  | waitCard _ => exact execWaitCard_memOk hs
  | waitCardTimeout _ => exact execWaitCardTimeout_memOk hs
  | join _ => exact execJoin_memOk hs
  | endCard _ => exact execEndCard_memOk hs
  | operatorComplete _ => exact execOperatorComplete_memOk hs
  | failoverTrigger _ => exact execFailoverTrigger_memOk hs
  | islandWatchdogExpiry _ => exact execIslandWatchdogExpiry_memOk hs
  | islandHealthLoss _ c => exact execIslandHealthLoss_memOk (x := c) hs
  | adoption => exact execAdoption_memOk hs
  | ownctlClaim _ => exact execOwnctlClaim_memOk hs
  | ownctlRelease _ => exact execOwnctlRelease_memOk hs
  | ownctlHandover _ _ => exact execOwnctlHandover_memOk hs
  | ownctlCandidate _ _ => exact execOwnctlCandidate_memOk hs
  | ownhbWrite _ => exact execOwnhbWrite_memOk hs
  | heartbeatExpiry => exact execHeartbeatExpiry_memOk hs
  | handoverTimeout => exact execHandoverTimeout_memOk hs
  | memcfgWrite _ => exact execMemcfgWrite_memOk hs
  | tqctlWrite _ _ => exact execTqctlWrite_memOk hs
  | qctlWrite _ _ => exact execQctlWrite_memOk hs
  | foctlGo _ => exact execFoctlGo_memOk hs
  | toctlWrite _ _ => exact execToctlWrite_memOk hs
  | registerWrite _ _ => exact execRegisterWrite_memOk hs
  | turnoutWrite _ => exact execTurnoutWrite_memOk hs
  | turnoutRead _ => exact execTurnoutRead_memOk hs
  | bar2Access _ => exact execBar2Access_memOk hs
  | outboundReadTimeout _ => exact execOutboundReadTimeout_memOk hs
  | fullReset _ => exact execFullReset_memOk hs
  | functionLevelReset _ => exact execFunctionLevelReset_memOk hs
  | resizableBarWrite _ => exact execResizableBarWrite_memOk hs
  | dramTrainingDone _ => exact execDramTrainingDone_memOk hs
  | bootctlGo _ => exact execBootctlGo_memOk hs
  | measextGo _ => exact execMeasextGo_memOk hs
  | attest _ => exact execAttest_memOk hs
  | patch _ => exact execPatch_memOk hs
  | patchQuiesce _ => exact execPatchQuiesce_memOk hs
  | cascopWrite _ _ => exact execCascopWrite_memOk hs
  | operatingPointStep _ => exact execOperatingPointStep_memOk hs
  | clockHop _ => exact execClockHop_memOk hs
  | clockHoldEnd _ => exact execClockHoldEnd_memOk hs
  | droopDetect _ _ => exact execDroopDetect_memOk hs
  | droopRelease _ => exact execDroopRelease_memOk hs
  | balanceEval _ _ => exact execBalanceEval_memOk hs
  | powerLimitEval _ => exact execPowerLimitEval_memOk hs
  | thermalLimit _ _ => exact execThermalLimit_memOk hs
  | thermtrip _ => exact execThermtrip_memOk hs
  | pcSample _ => exact execPcSample_memOk hs
  | _ => cases h

theorem exec_memOk {i : Instr} {s : State} (hs : s.memOk) : NextMemOk (exec i s) := by
  cases hst : handedTo i with
  | some st => exact exec_handedTo_memOk hst hs
  | none =>
    cases hw : encode i with
    | some w => exact exec_front_memOk (by rw [staysInFront, hw, hst]; rfl) hs
    | none => exact exec_partStep_memOk hw hs

end Sys2Proof.Machine

end

section

/-! PROOFS. The canonical form of memory through the turns of the clock and one step of the model (O1). -/

namespace Sys2Proof.Machine

@[simp] theorem readCode_mem (k : CoreId) (key : Nat) (s : State) : (readCode k key s).1.mem = s.mem := by
  grind [readCode, icachePut_mem]

theorem fetch_memOk {c : CtxId} {s : State} (hs : s.memOk) : (fetch c s).1.memOk := by
  grind [fetch, xlate_memOk, actFor_mem, readCode_mem, memOk_iff]

theorem fetchFault_memOk {c : CtxId} {cause : Nat} {tval : Word} {pe : Bool} {s : State} (hs : s.memOk) :
    (fetchFault c cause tval pe s).memOk := by
  grind [fetchFault, raiseFault_memOk]

@[simp] theorem noteDecode_mem (c : CtxId) (s : State) : (noteDecode c s).mem = s.mem := rfl

@[simp] theorem noteIssue_mem (c : CtxId) (i : Instr) (s t : State) : (noteIssue c i s t).mem = t.mem := by
  unfold noteIssue; split <;> rfl

theorem runWord_memOk {w : Word} {s : State} (hs : s.memOk) : NextMemOk (runWord w s) := by
  grind [runWord, exec_memOk, noteIssue_mem, frontFault_memOk, nextMemOk_iff, memOk_iff]

theorem frontTurn_memOk {c : CtxId} {lag : Bool} {s : State} (hs : s.memOk) :
    NextMemOk (frontTurn c lag s) := by
  grind [frontTurn, fetch_memOk, runWord_memOk, noteDecode_mem, fetchFault_memOk, nextMemOk_iff, memOk_iff]

theorem tickCtx_memOk {n : Nat} {c : CtxId} {s : State} (hs : s.memOk) : (tickCtx n c s).memOk := by
  grind [tickCtx, State.modCtx_mem, overrun_memOk, memOk_iff]

@[simp] theorem tickCore_mem (n : Nat) (k : CoreId) (s : State) : (tickCore n k s).mem = s.mem := by
  grind [tickCore, State.modCore_mem, State.modCasc_mem]

theorem tick_memOk {g : CascId} {n : Nat} {s : State} (hs : s.memOk) : (tick g n s).memOk := by
  grind [tick, tickCtx_memOk, tickCore_mem, State.modCasc_mem, foldl_memOk, foldl_mem, memOk_iff]

theorem passNs_memOk {n : Nat} {s : State} (hs : s.memOk) : (passNs n s).memOk := by
  grind [passNs, State.modDev_mem, bootStep_memOk, memOk_iff]

theorem passCasc_memOk {g : CascId} {s : State} (hs : s.memOk) : (passCasc g s).memOk := by
  grind [passCasc, tick_memOk, State.modCasc_mem, memOk_iff]

theorem passTime_memOk {s : State} (hs : s.memOk) : (passTime s).memOk := by
  grind [passTime, passCasc_memOk, passNs_memOk, foldl_memOk, foldl_mem]

theorem moved_memOk {b : Bool} {f : State → State} {s : State} (hf : ∀ x, x.memOk → (f x).memOk)
    (hs : s.memOk) :
    (moved b f s).2.memOk := by
  grind [moved]

theorem arrayTurn_memOk {k : CoreId} {s : State} (hs : s.memOk) : (arrayTurn k s).2.memOk :=
  moved_memOk (f := fun _ => mmaTurn k s) (fun _ _ => memOk_of_mem_eq (mmaTurn_mem k s) hs) hs

theorem contextTurn_memOk {c : CtxId} {s : State} (hs : s.memOk) : (contextTurn c s).2.memOk := by
  grind [contextTurn, orElse_memOk, orderedTurn_memOk, arrayTurn_memOk, moved_memOk, tryRetire_memOk,
    takeFault_memOk]

theorem frontIdle_memOk {c : CtxId} {s : State} (hs : s.memOk) : (frontIdle c s).2.memOk := by
  have hf := frontTurn_memOk (c := c) (lag := s.lag) hs
  unfold frontIdle
  split
  · split
    · next heq =>
      rw [heq] at hf
      exact moved_memOk (fun _ _ => hf) hs
    · exact hs
  · exact hs

theorem firstOf_memOk {fs : List (State → Moved)} {s : State} (hf : ∀ f ∈ fs, ∀ s, s.memOk → (f s).2.memOk)
    (hs : s.memOk) : (firstOf fs s).2.memOk := by
  induction fs generalizing s with
  | nil => exact hs
  | cons f fs ih =>
    exact orElse_memOk (fun _ => ih fun f h => hf f (List.mem_cons_of_mem _ h)) (hf f List.mem_cons_self s hs)

theorem engineTurn_memOk {k : CoreId} {s : State} (hs : s.memOk) : (engineTurn k s).2.memOk := by
  refine firstOf_memOk (fun f hf s hs => ?_) hs
  simp only [List.mem_append, List.mem_cons, List.mem_map] at hf
  obtain (rfl | ⟨n, -, rfl⟩) | ⟨n, -, rfl⟩ := hf
  · exact moved_memOk (fun _ _ => engineStart_memOk hs) hs
  · exact moved_memOk (fun _ _ => engineComplete_memOk hs) hs
  · exact moved_memOk (fun _ _ => arrivalWrite_memOk hs) hs

theorem travelTurn_memOk {c : CtxId} {s : State} (hs : s.memOk) : (travelTurn c s).2.memOk := by
  refine firstOf_memOk (fun f hf s hs => ?_) hs
  simp only [List.mem_cons, List.mem_map] at hf
  obtain rfl | rfl | rfl | ⟨n, -, rfl⟩ := hf
  · exact moved_memOk (fun _ _ => postedAck_memOk hs) hs
  · exact moved_memOk (fun _ _ => reductionApply_memOk hs) hs
  · dsimp only
    split
    · exact weirDrain_memOk hs
    · exact hs
  · exact moved_memOk (fun _ h => deferredApply_memOk h) hs

theorem checkTurn_memOk {k : CoreId} {s : State} (hs : s.memOk) : (checkTurn k s).2.memOk := by
  grind [checkTurn, moved_memOk, checksumCompare_memOk]

theorem wakeTurn_memOk {c : CtxId} {s : State} (hs : s.memOk) : (wakeTurn c s).2.memOk := by
  refine firstOf_memOk (fun f hf s hs => ?_) hs
  obtain ⟨w, -, rfl⟩ := List.mem_map.1 hf
  exact wakeAll_memOk hs

theorem idle_memOk {s : State} (hs : s.memOk) : (idle s).memOk := by
  unfold idle
  extract_lets c k held now r
  have hnow : ∀ (f : State → Moved) (s : State), s.memOk → (f s).2.memOk → (now f s).2.memOk := by
    intro f s hs hf
    show (if held = true then (false, s) else f s).2.memOk
    split
    · exact hs
    · exact hf
  have hr : r.2.memOk := by
    refine firstOf_memOk (fun f hf s hs => ?_) hs
    simp only [List.mem_cons, List.not_mem_nil, or_false] at hf
    obtain rfl | rfl | rfl | rfl | rfl | rfl := hf
    · exact contextTurn_memOk hs
    · exact frontIdle_memOk hs
    · exact hnow _ _ hs (checkTurn_memOk hs)
    · exact hnow _ _ hs (engineTurn_memOk hs)
    · exact travelTurn_memOk hs
    · exact hnow _ _ hs (wakeTurn_memOk hs)
  split
  · exact hr
  · exact passTime_memOk hr

theorem eventTurn_memOk {i : Instr} {s : State} (hs : s.memOk) : NextMemOk (eventTurn i s) := by
  unfold eventTurn
  split
  · trivial
  split
  · exact hs
  · exact exec_memOk hs

theorem streamStep_memOk {c : CtxId} {f : State → State} {s : State} (hf : ∀ x, x.memOk → (f x).memOk)
    (hs : s.memOk) :
    (streamStep c f s).memOk := by
  grind [streamStep, memOk_iff]

theorem looseStep_memOk {c : CtxId} {f : State → State} {s : State} (hf : ∀ x, x.memOk → (f x).memOk)
    (hs : s.memOk) :
    (looseStep c f s).memOk := by
  grind [looseStep, streamStep_memOk]

theorem runTurn_memOk {t : Turn} {s : State} (hs : s.memOk) : NextMemOk (runTurn t s) := by
  unfold runTurn; split <;> grind [runTurn, eventTurn_memOk, frontTurn_memOk, streamStep_memOk,
    orderedTurn_memOk, looseStep_memOk, pastTurn_memOk, beginTurn_memOk, asideTurn_memOk, landLine_memOk,
    sampleCmd_mem, mmaTurn_mem, passNs_memOk, tick_memOk, nextMemOk_iff, memOk_iff]

theorem idleTurn_memOk {s : State} (hs : s.memOk) : NextMemOk (idleTurn s) := by
  grind [idleTurn, passNs_memOk, idle_memOk, nextMemOk_iff]

theorem afterTurn_memOk {keep : Bool} {a : Host.Outcome State Fault Refusal} (ha : NextMemOk a) :
    NextMemOk (afterTurn keep a) := by
  unfold afterTurn; split <;> grind [afterTurn, nextMemOk_iff, memOk_iff]

theorem step_memOk {s : State} (hs : s.memOk) : NextMemOk (step s) := by
  grind [step, afterTurn_memOk, runTurn_memOk, idleTurn_memOk, nextMemOk_iff, memOk_iff]

/-- Settles O1: a step is a turn of the clock, and each turn writes memory only through the rules of Laws/Mem, which
keep the canonical form (`step_memOk`). -/
theorem stepKeepsMemoryCanonical : Obligations.StepKeepsMemoryCanonical := by
  intro s t hs ht
  have hc := step_memOk hs
  rw [ht] at hc
  exact hc

end Sys2Proof.Machine

end

section

/-! PROOFS. What a translation leaves as it was, and the page of a first touch (O31; spec/03 R54 to R60). -/

namespace Sys2Proof.Machine

/-! ## The page of a first touch -/

theorem memRead_zero (m : List Host.Cell) (a n b : Nat) :
    memRead (memZero m a n) b = if a ≤ b ∧ b < a + n then 0 else memRead m b := by
  split
  · next h =>
    refine memRead_of_unlisted fun c hc hcb => ?_
    have hout := (List.mem_filter.1 hc).2
    simp [hcb, h] at hout
  · next h =>
    refine memRead_filter fun c hcb => ?_
    simp only [hcb, Bool.not_eq_true', Bool.and_eq_false_iff, decide_eq_false_iff_not]
    omega

/-- The page that the entry `i` places behind the head of a pool names. -/
def poolNamed (s : State) (r : RingReg) (i : Nat) : Nat :=
  (memWord s.mem (ringKey s (r.base.toNat + 8 * ((r.head + BitVec.ofNat 16 i).toNat % ringEntries r)))).toNat % 2 ^ 44

/-- A page that a first touch of a half may take: aligned and local. -/
abbrev poolUsable (s : State) (h : HalfId) (p : Nat) : Prop :=
  p % 2 ^ 16 = 0 ∧ (localRegion s h).1 ≤ p ∧ p + 2 ^ 16 ≤ (localRegion s h).2

theorem poolPage_eq (e : Word) : poolPage e = e.toNat % 2 ^ 44 := by
  simp [poolPage]

theorem readView_of_not_lost {s : State} (h : s.lostRead = false) (key n : Nat) : readView s key n = s.mem := by
  simp [readView, lostView, h]

theorem poolNamed_next (s : State) (r : RingReg) (i : Nat) :
    poolNamed s { r with head := r.head + 1 } i = poolNamed s r (i + 1) := by
  have hh : r.head + 1 + BitVec.ofNat 16 i = r.head + BitVec.ofNat 16 (i + 1) := by
    bv_omega
  simp only [poolNamed, ringEntries, hh]

/-- One turn of the search: the entry at the head is taken when its page is usable, and discarded when it is not. -/
theorem poolTake_succ {s : State} (hl : s.lostRead = false) (h : HalfId) (n : Nat) (r : RingReg) :
    poolTake s h (n + 1) r =
      if r.head = r.tail then (r, none)
      else if poolUsable s h (poolNamed s r 0) then ({ r with head := r.head + 1 }, some (poolNamed s r 0))
      else poolTake s h n { r with head := r.head + 1 } := by
  simp only [poolTake, readView_of_not_lost hl, poolPage_eq, poolNamed, poolUsable, BitVec.ofNat_eq_ofNat,
    BitVec.add_zero]

/-- The page taken is the first usable one from the head on, and the head moves past it. -/
theorem poolTake_some {s : State} (hl : s.lostRead = false) {h : HalfId} {fuel : Nat} {r r' : RingReg} {page : Nat}
    (ht : poolTake s h fuel r = (r', some page)) :
    ∃ n, page = poolNamed s r n ∧ poolUsable s h page ∧ (∀ i, i < n → ¬ poolUsable s h (poolNamed s r i)) ∧
      r' = { r with head := r.head + BitVec.ofNat 16 (n + 1) } := by
  induction fuel generalizing r with
  | zero => cases ht
  | succ fuel ih =>
    rw [poolTake_succ hl] at ht
    split at ht
    · cases ht
    split at ht
    · next hu =>
      cases ht
      exact ⟨0, rfl, hu, fun i hi => absurd hi (Nat.not_lt_zero i), rfl⟩
    · next hu =>
      obtain ⟨n, hpage, husable, hbefore, rfl⟩ := ih ht
      refine ⟨n + 1, by rw [hpage, poolNamed_next], husable, fun i hi => ?_, ?_⟩
      · cases i with
        | zero => exact hu
        | succ i => exact poolNamed_next s r i ▸ hbefore i (Nat.lt_of_succ_lt_succ hi)
      · have hh : r.head + 1 + BitVec.ofNat 16 (n + 1) = r.head + BitVec.ofNat 16 (n + 1 + 1) := by
          bv_omega
        simp only [hh]

theorem takePage_of_spare {s : State} {h : HalfId} {p : Nat} (hp : (s.half h).spare = some p) :
    takePage s h = (s.modHalf h fun x => { x with spare := none }, some p) := by
  simp only [takePage, hp]

theorem takePage_of_badRing {s : State} {h : HalfId} (hp : (s.half h).spare = none)
    (hok : ringOk s (s.half h).pool 8 = false) :
    takePage s h = (s.modHalf h fun x => { x with pool := { x.pool with berr := true } }, none) := by
  simp only [takePage, hp, hok, Bool.not_false, if_true]

theorem takePage_of_emptyPool {s : State} {h : HalfId} {r : RingReg} (hp : (s.half h).spare = none)
    (hok : ringOk s (s.half h).pool 8 = true) (hr : poolTake s h (2 ^ 16) (s.half h).pool = (r, none)) :
    takePage s h = (s.modHalf h fun x => { x with pool := r }, none) := by
  simp only [takePage, hp, hok, hr, Bool.not_true, Bool.false_eq_true, if_false]

theorem takePage_of_pool {s : State} {h : HalfId} {r : RingReg} {p : Nat} (hp : (s.half h).spare = none)
    (hok : ringOk s (s.half h).pool 8 = true) (hr : poolTake s h (2 ^ 16) (s.half h).pool = (r, some p)) :
    takePage s h =
      ({ s.modHalf h (fun x => { x with pool := r }) with mem := memZero s.mem p (2 ^ 16) }, some p) := by
  simp only [takePage, hp, hok, hr, Bool.not_true, Bool.false_eq_true, if_false, State.modHalf_mem]

theorem takePage_some {s u : State} {h : HalfId} {p : Nat} (hp : (s.half h).spare = none)
    (ht : takePage s h = (u, some p)) :
    ∃ r, poolTake s h (2 ^ 16) (s.half h).pool = (r, some p) ∧
      u = { s.modHalf h (fun x => { x with pool := r }) with mem := memZero s.mem p (2 ^ 16) } := by
  cases hok : ringOk s (s.half h).pool 8 with
  | false =>
    rw [takePage_of_badRing hp hok] at ht
    cases ht
  | true =>
    generalize hq : poolTake s h (2 ^ 16) (s.half h).pool = q
    obtain ⟨r, p' | p'⟩ := q
    · rw [takePage_of_emptyPool hp hok hq] at ht
      cases ht
    · rw [takePage_of_pool hp hok hq] at ht
      cases ht
      exact ⟨r, rfl, rfl⟩

/-- A page that is taken reads 0 unless it is the spare one, which was cleared before. -/
theorem memRead_takePage {s u : State} {h : HalfId} {p : Nat} (ht : takePage s h = (u, some p)) (a : Nat) :
    memRead u.mem a = if (s.half h).spare = none ∧ p ≤ a ∧ a < p + 65536 then 0 else memRead s.mem a := by
  cases hs : (s.half h).spare with
  | some q =>
    rw [takePage_of_spare hs] at ht
    cases ht
    simp
  | none =>
    obtain ⟨r, -, rfl⟩ := takePage_some hs ht
    simp only [memRead_zero, true_and]
    rfl

end Sys2Proof.Machine

end

section

/-! PROOFS. The frame of a translation (O31; spec/03 R54 to R60). -/

namespace Sys2Proof.Machine

/-- What a translation for a context leaves as it was: all but memory, the TLBs of its core and half, the pool and the
spare page of the half, the free values, and the notes of the translations that its regions have used. -/
structure XlatFrame (c : CtxId) (s t : State) : Prop where
  state : t = { s with
    mem := t.mem, ctxs := s.ctxs.set c.val (t.ctx c), cores := s.cores.set (coreOf c).val (t.core (coreOf c))
    halves := s.halves.set (halfOf c).val (t.half (halfOf c)), freeCtr := t.freeCtr }
  core : t.core (coreOf c) = { s.core (coreOf c) with tlb := (t.core (coreOf c)).tlb }
  half : t.half (halfOf c) = { s.half (halfOf c) with
    tlb := (t.half (halfOf c)).tlb, pool := (t.half (halfOf c)).pool, spare := (t.half (halfOf c)).spare }
  ctx : t.ctx c = { s.ctx c with reg := (t.ctx c).reg, older := (t.ctx c).older }
  reg : (t.ctx c).reg = { (s.ctx c).reg with used := (t.ctx c).reg.used }
  older : ((t.ctx c).older.map fun r => { r with used := [] }) = ((s.ctx c).older.map fun r => { r with used := [] })

theorem XlatFrame.withMem (c : CtxId) (s : State) (m : List Host.Cell) : XlatFrame c s { s with mem := m } where
  state := by simp [State.ctx, State.core, State.half]
  core := rfl
  half := rfl
  ctx := rfl
  reg := rfl
  older := rfl

theorem XlatFrame.refl (c : CtxId) (s : State) : XlatFrame c s s := .withMem c s s.mem

theorem XlatFrame.bumpFree (c : CtxId) (s : State) : XlatFrame c s s.bumpFree where
  state := by simp [State.ctx, State.core, State.half, State.bumpFree]
  core := rfl
  half := rfl
  ctx := rfl
  reg := rfl
  older := rfl

theorem XlatFrame.modCore (c : CtxId) (s : State) {f : Core → Core} (hf : ∀ k, f k = { k with tlb := (f k).tlb }) :
    XlatFrame c s (s.modCore (coreOf c) f) where
  state := by simp [State.ctx, State.half]; simp [State.modCore]
  core := by simpa using hf _
  half := rfl
  ctx := rfl
  reg := rfl
  older := rfl

theorem XlatFrame.modHalf (c : CtxId) (s : State) {f : Half → Half}
    (hf : ∀ h, f h = { h with tlb := (f h).tlb, pool := (f h).pool, spare := (f h).spare }) :
    XlatFrame c s (s.modHalf (halfOf c) f) where
  state := by simp [State.ctx, State.core]; simp [State.modHalf]
  core := rfl
  half := by simpa using hf _
  ctx := rfl
  reg := rfl
  older := rfl

theorem XlatFrame.trans {c : CtxId} {s t u : State} (h : XlatFrame c s t) (h' : XlatFrame c t u) :
    XlatFrame c s u where
  state := by
    have hctxs : t.ctxs = s.ctxs.set c.val (t.ctx c) := congrArg State.ctxs h.state
    have hcores : t.cores = s.cores.set (coreOf c).val (t.core (coreOf c)) := congrArg State.cores h.state
    have hhalves : t.halves = s.halves.set (halfOf c).val (t.half (halfOf c)) := congrArg State.halves h.state
    have hrest := congrArg (fun v : State => { v with
      mem := u.mem, ctxs := t.ctxs.set c.val (u.ctx c), cores := t.cores.set (coreOf c).val (u.core (coreOf c))
      halves := t.halves.set (halfOf c).val (u.half (halfOf c)), freeCtr := u.freeCtr }) h.state
    refine h'.state.trans (hrest.trans ?_)
    rw [hctxs, hcores, hhalves, Vector.set_set, Vector.set_set, Vector.set_set]
  core := by rw [h'.core, h.core]
  half := by rw [h'.half, h.half]
  ctx := by rw [h'.ctx, h.ctx]
  reg := by rw [h'.reg, h.reg]
  older := h'.older.trans h.older

/-- A note of a translation used leaves all of a context but the notes of its regions. -/
theorem XlatFrame.noteUse (c : CtxId) (e : TlbEntry) (s : State) : XlatFrame c s (noteUse c e s) where
  state := by simp [Machine.noteUse, State.core, State.half]; simp [State.modCtx, State.setCtx]
  core := rfl
  half := rfl
  ctx := by
    simp only [Machine.noteUse, State.modCtx_ctx_same, modRegion]
    repeat' split
    all_goals rfl
  reg := by
    simp only [Machine.noteUse, State.modCtx_ctx_same, modRegion]
    repeat' split
    all_goals rfl
  older := by
    simp only [Machine.noteUse, State.modCtx_ctx_same, modRegion]
    split
    · split
      · simp [*]
      · split <;> rfl
    · split <;> rfl

theorem fillTlbs_frame (c : CtxId) (e : TlbEntry) (s : State) : XlatFrame c s (fillTlbs c e s) := by
  have hcore : ∀ u : State,
      XlatFrame c u (u.modCore (coreOf c) fun k => { k with tlb := tlbFill 32 u.freeCtr e k.tlb }).bumpFree :=
    fun u => (XlatFrame.modCore c u fun _ => rfl).trans (.bumpFree c _)
  unfold fillTlbs
  split
  · exact hcore s
  · exact ((XlatFrame.modHalf c s fun _ => rfl).trans (.bumpFree c _)).trans (hcore _)

theorem takePage_frame (c : CtxId) (s : State) : XlatFrame c s (takePage s (halfOf c)).1 := by
  have hpool := fun f : RingReg → RingReg =>
    XlatFrame.modHalf c s (f := fun x => { x with pool := f x.pool }) fun _ => rfl
  cases hspare : (s.half (halfOf c)).spare with
  | some p =>
    rw [takePage_of_spare hspare]
    exact .modHalf c s (f := fun x => { x with spare := none }) fun _ => rfl
  | none =>
    cases hok : ringOk s (s.half (halfOf c)).pool 8 with
    | false =>
      rw [takePage_of_badRing hspare hok]
      exact hpool fun r => { r with berr := true }
    | true =>
      generalize hq : poolTake s (halfOf c) (2 ^ 16) (s.half (halfOf c)).pool = q
      obtain ⟨r, p | p⟩ := q
      · rw [takePage_of_emptyPool hspare hok hq]
        exact hpool fun _ => r
      · rw [takePage_of_pool hspare hok hq]
        exact (hpool fun _ => r).trans (.withMem c _ _)

/-- A first touch that finds a page installs it. -/
theorem firstTouch_of_page {s u : State} {h : HalfId} {page : Nat} (ht : takePage s h = (u, some page)) (entry : Nat) :
    ∃ m, m = memPutNat u.mem entry 8 (touchEntry h page).toNat ∧ firstTouch s h entry = ({ u with mem := m }, true) :=
  ⟨_, rfl, by rw [firstTouch, ht]⟩

theorem firstTouch_of_none {s u : State} {h : HalfId} (ht : takePage s h = (u, none)) (entry : Nat) :
    firstTouch s h entry = (u, false) := by
  rw [firstTouch, ht]

theorem firstTouch_frame (c : CtxId) (s : State) (entry : Nat) : XlatFrame c s (firstTouch s (halfOf c) entry).1 := by
  have hpage := takePage_frame c s
  generalize ht : takePage s (halfOf c) = q at hpage
  obtain ⟨u, page | page⟩ := q
  · rw [firstTouch_of_none ht]
    exact hpage
  · obtain ⟨m, -, hm⟩ := firstTouch_of_page ht entry
    rw [hm]
    exact hpage.trans (.withMem c u m)

theorem used_frame (c : CtxId) (e : TlbEntry) (s : State) : XlatFrame c s (noteUse c e (fillTlbs c e s)) :=
  (fillTlbs_frame c e s).trans (.noteUse c e _)

end Sys2Proof.Machine

end

section

/-! PROOFS. What a translation may change (O31; spec/03 R54 to R60). -/

namespace Sys2Proof.Machine

/-- What a translation does to memory: nothing, or a first touch, whose page comes out of the state `u`. -/
def XlatMem (c : CtxId) (va : Word) (s t : State) : Prop :=
  t.mem = s.mem ∨ ∃ entry page u, walk s (asidOf s (s.ctx c)) va.toNat = .touch entry ∧
    takePage s (halfOf c) = (u, some page) ∧ t.mem = memPutNat u.mem entry 8 (touchEntry (halfOf c) page).toNat ∧
    (t.half (halfOf c)).pool = (u.half (halfOf c)).pool ∧ (t.half (halfOf c)).spare = (u.half (halfOf c)).spare

/-- The TLBs and the notes of a translation leave the pool and the spare page alone. -/
theorem used_half (c : CtxId) (e : TlbEntry) (s : State) :
    ((noteUse c e (fillTlbs c e s)).half (halfOf c)).pool = (s.half (halfOf c)).pool ∧
      ((noteUse c e (fillTlbs c e s)).half (halfOf c)).spare = (s.half (halfOf c)).spare := by
  simp only [noteUse, State.modCtx_half, fillTlbs, State.bumpFree_half, State.modCore_half]
  split
  · exact ⟨rfl, rfl⟩
  · simp only [State.bumpFree_half, State.modHalf_half_same, and_self]

theorem used_mem (c : CtxId) (e : TlbEntry) (s : State) : (noteUse c e (fillTlbs c e s)).mem = s.mem :=
  (noteUse_mem ..).trans (fillTlbs_mem ..)

theorem takePage_none_mem {s u : State} {h : HalfId} (ht : takePage s h = (u, none)) : u.mem = s.mem := by
  cases hspare : (s.half h).spare with
  | some p =>
    rw [takePage_of_spare hspare] at ht
    cases ht
  | none =>
    cases hok : ringOk s (s.half h).pool 8 with
    | false =>
      rw [takePage_of_badRing hspare hok] at ht
      cases ht
      rfl
    | true =>
      generalize hq : poolTake s h (2 ^ 16) (s.half h).pool = q
      obtain ⟨r, p | p⟩ := q
      · rw [takePage_of_emptyPool hspare hok hq] at ht
        cases ht
        rfl
      · rw [takePage_of_pool hspare hok hq] at ht
        cases ht

theorem walkTouch_of_touched {s t : State} {c : CtxId} {acc : Access} {va : Word} {entry : Nat}
    (hw : walk s (asidOf s (s.ctx c)) va.toNat = .touch entry) (ht : firstTouch s (halfOf c) entry = (t, true)) :
    (walkTouch s c acc va).1 = t ∨ ∃ e, (walkTouch s c acc va).1 = noteUse c e (fillTlbs c e t) := by
  simp only [walkTouch, hw, ht]
  split
  · exact .inr ⟨_, rfl⟩
  · exact .inl rfl

theorem walkTouch_kept (s : State) (c : CtxId) (acc : Access) (va : Word) :
    XlatFrame c s (walkTouch s c acc va).1 ∧ XlatMem c va s (walkTouch s c acc va).1 := by
  cases hw : walk s (asidOf s (s.ctx c)) va.toNat with
  | leaf e =>
    simp only [walkTouch, hw]
    exact ⟨used_frame c e s, .inl (used_mem c e s)⟩
  | missing | malformed | lost =>
    simp only [walkTouch, hw]
    exact ⟨.refl c s, .inl rfl⟩
  | touch entry =>
    have hframe := firstTouch_frame c s entry
    generalize ht : takePage s (halfOf c) = q
    obtain ⟨u, page | page⟩ := q
    · have hft := firstTouch_of_none ht entry
      rw [hft] at hframe
      simp only [walkTouch, hw, hft]
      exact ⟨hframe, .inl (takePage_none_mem ht)⟩
    · obtain ⟨m, hm, hft⟩ := firstTouch_of_page ht entry
      rw [hft] at hframe
      obtain heq | ⟨e, heq⟩ := walkTouch_of_touched (acc := acc) hw hft
      · rw [heq]
        exact ⟨hframe, .inr ⟨entry, page, u, hw, ht, hm, rfl, rfl⟩⟩
      · rw [heq]
        obtain ⟨hpool, hspare⟩ := used_half c e { u with mem := m }
        exact ⟨hframe.trans (used_frame c e _),
          .inr ⟨entry, page, u, hw, ht, (used_mem ..).trans hm, hpool, hspare⟩⟩

theorem xlatePage_kept (s : State) (c : CtxId) (acc : Access) (va : Word) :
    XlatFrame c s (xlatePage s c acc va).1 ∧ XlatMem c va s (xlatePage s c acc va).1 := by
  unfold xlatePage
  extract_lets x asid
  split
  · exact ⟨.refl c s, .inl rfl⟩
  split
  · exact ⟨.noteUse c _ s, .inl rfl⟩
  split
  · exact ⟨used_frame c _ s, .inl (used_mem c _ s)⟩
  · exact walkTouch_kept s c acc va

theorem xlate_kept (s : State) (c : CtxId) (acc : Access) (va : Word) :
    XlatFrame c s (xlate s c acc va).1 ∧ XlatMem c va s (xlate s c acc va).1 := by
  unfold xlate
  split
  · exact ⟨.refl c s, .inl rfl⟩
  · split <;> exact ⟨.refl c s, .inl rfl⟩
  · exact xlatePage_kept s c acc va

theorem State.withMem_half (s : State) (m : List Host.Cell) (h : HalfId) :
    ({ s with mem := m } : State).half h = s.half h := rfl

theorem touchEntry_toNat (h : HalfId) (page : Nat) :
    (touchEntry h page).toNat = (page + 2 ^ 44 + 128 * h.val + 0x27) % 2 ^ 64 := by
  simp [touchEntry]

/-- Settles O31: each function of a translation stays within `XlatFrame`, and the one that writes memory is the first
touch, whose page is the spare one or the first usable one of the pool. -/
theorem translationKeeps : Obligations.TranslationKeeps := by
  intro s c acc va hs
  obtain ⟨hframe, hmem⟩ := xlate_kept s c acc va
  refine ⟨hframe.state, hframe.core, hframe.half, hframe.ctx, hframe.reg, hframe.older, hmem.imp_right ?_⟩
  rintro ⟨entry, page, u, hw, ht, hm, hpool, hspare⟩
  have hu : memWf u.mem = true := by
    have hok := takePage_memOk (h := halfOf c) hs
    rwa [ht] at hok
  refine ⟨entry, page, hw, fun a ha => ?_, ?_, fun p hp => ?_, fun hp hl => ?_⟩
  · rw [hm, memRead_putNat_other _ _ _ _ (by omega), memRead_takePage ht]
  · rw [hm, memNat_putNat hu, touchEntry_toNat]
    omega
  · rw [takePage_of_spare hp] at ht
    cases ht
    rw [hpool, hspare]
    simp
  · obtain ⟨r, hr, rfl⟩ := takePage_some hp ht
    obtain ⟨n, hpage, husable, hbefore, rfl⟩ := poolTake_some hl hr
    refine ⟨n, hpage, husable, hbefore, ?_, ?_⟩
    · rw [hspare, State.withMem_half, State.modHalf_half_same, hp]
    · rw [hpool, State.withMem_half, State.modHalf_half_same]

end Sys2Proof.Machine

end

section

/-! PROOFS. What a discard and the end of a context leave of the part (spec/13 R256, R257, spec/14 R281,
spec/16 R314). -/

namespace Sys2Proof.Machine

/-! ## Work on contexts -/

/-- A value of a core that a change leaves alone is as it was in every core. -/
theorem State.modCore_core_congr {β : Type} {g : Core → β} (s : State) (k j : CoreId) {f : Core → Core}
    (hf : ∀ x, g (f x) = g x) : g ((s.modCore k f).core j) = g (s.core j) := by
  by_cases h : j = k
  · subst h
    rw [State.modCore_core_same, hf]
  · rw [State.modCore_core_other _ _ _ _ h]

/-- What holds of the states before and after each step of a fold holds of those before and after the fold. -/
theorem foldl_congr_of {σ α : Type} {R : σ → σ → Prop} (hrefl : ∀ s, R s s) (htrans : ∀ s t u, R s t → R t u → R s u)
    {f : σ → α → σ} (hf : ∀ s a, R s (f s a)) (l : List α) (s : σ) : R s (l.foldl f s) := by
  induction l generalizing s with
  | nil => exact hrefl s
  | cons a l ih => exact htrans _ _ _ (hf s a) (ih _)

/-- Work on contexts and their cores: it leaves the queues, the operators, the device, the TLBs, the records of
errors and the gangs of the cascades as they were, and of a half it changes weir entries alone. -/
structure ContextWork (s t : State) : Prop where
  queues : t.queues = s.queues
  ops : t.ops = s.ops
  dev : t.dev = s.dev
  half : ∀ h, t.half h = { s.half h with weir := (t.half h).weir }
  tlb : ∀ k, (t.core k).tlb = (s.core k).tlb
  errTimes : ∀ k, (t.core k).errTimes = (s.core k).errTimes
  gangs : ∀ g, (t.casc g).gangs = (s.casc g).gangs

theorem ContextWork.refl (s : State) : ContextWork s s :=
  ⟨rfl, rfl, rfl, fun _ => rfl, fun _ => rfl, fun _ => rfl, fun _ => rfl⟩

theorem ContextWork.trans {s t u : State} (h : ContextWork s t) (h' : ContextWork t u) : ContextWork s u where
  queues := h'.queues.trans h.queues
  ops := h'.ops.trans h.ops
  dev := h'.dev.trans h.dev
  half k := by rw [h'.half, h.half]
  tlb k := (h'.tlb k).trans (h.tlb k)
  errTimes k := (h'.errTimes k).trans (h.errTimes k)
  gangs g := (h'.gangs g).trans (h.gangs g)

theorem ContextWork.foldl {α : Type} {f : State → α → State} (hf : ∀ s a, ContextWork s (f s a)) (l : List α)
    (s : State) : ContextWork s (l.foldl f s) :=
  foldl_congr_of .refl (fun _ _ _ => .trans) hf l s

theorem ContextWork.modCtx (s : State) (c : CtxId) (f : Ctx → Ctx) : ContextWork s (s.modCtx c f) :=
  ⟨rfl, rfl, rfl, fun _ => rfl, fun _ => rfl, fun _ => rfl, fun _ => rfl⟩

theorem ContextWork.modCore (s : State) (k : CoreId) {f : Core → Core} (htlb : ∀ x, (f x).tlb = x.tlb)
    (herr : ∀ x, (f x).errTimes = x.errTimes) : ContextWork s (s.modCore k f) where
  queues := rfl
  ops := rfl
  dev := rfl
  half _ := rfl
  tlb j := State.modCore_core_congr (g := Core.tlb) s k j htlb
  errTimes j := State.modCore_core_congr (g := Core.errTimes) s k j herr
  gangs _ := rfl

theorem ContextWork.modHalf (s : State) (h : HalfId) {f : Half → Half} (hf : ∀ x, f x = { x with weir := (f x).weir }) :
    ContextWork s (s.modHalf h f) where
  queues := rfl
  ops := rfl
  dev := rfl
  half j := by
    by_cases hj : j = h
    · subst hj
      rw [State.modHalf_half_same]
      exact hf _
    · rw [State.modHalf_half_other _ _ _ _ hj]
  tlb _ := rfl
  errTimes _ := rfl
  gangs _ := rfl

theorem ContextWork.modCasc (s : State) (g : CascId) {f : Casc → Casc} (hf : ∀ x, (f x).gangs = x.gangs) :
    ContextWork s (s.modCasc g f) where
  queues := rfl
  ops := rfl
  dev := rfl
  half _ := rfl
  tlb _ := rfl
  errTimes _ := rfl
  gangs j := by
    by_cases hj : j = g
    · subst hj
      rw [State.modCasc_casc_same, hf]
    · rw [State.modCasc_casc_other _ _ _ _ hj]

/-! ## The parts of a discard -/

theorem freeSlots_work (k : CoreId) (l : List Nat) (s : State) : ContextWork s (freeSlots k l s) :=
  ContextWork.foldl (f := fun s i => freeSlot k i s) (fun s _ => .modCore s k (fun _ => rfl) fun _ => rfl) l s

theorem freeSlots_ctx (k : CoreId) (l : List Nat) (s : State) (d : CtxId) : (freeSlots k l s).ctx d = s.ctx d :=
  foldl_keeps (g := fun s => s.ctx d) (f := fun s i => freeSlot k i s) (fun _ _ => rfl) l s

theorem freeSlots_half (k : CoreId) (l : List Nat) (s : State) (h : HalfId) : (freeSlots k l s).half h = s.half h :=
  foldl_keeps (g := fun s => s.half h) (f := fun s i => freeSlot k i s) (fun _ _ => rfl) l s

/-- What leaves the home of a waiter changes memory, the waiters and the grants, and nothing else. -/
structure OnlyHomes (s t : State) : Prop where
  work : ContextWork s t
  ctx : ∀ d, t.ctx d = s.ctx d
  half : ∀ h, t.half h = s.half h

theorem OnlyHomes.trans {s t u : State} (h : OnlyHomes s t) (h' : OnlyHomes t u) : OnlyHomes s u :=
  ⟨h.work.trans h'.work, fun d => (h'.ctx d).trans (h.ctx d), fun k => (h'.half k).trans (h.half k)⟩

theorem OnlyHomes.of_eq {s t : State} {m : List Host.Cell} {w : List Waiter} {g : List (Nat × CtxId)}
    (h : t = { s with mem := m, waiters := w, grants := g }) : OnlyHomes s t := by
  subst h
  exact ⟨⟨rfl, rfl, rfl, fun _ => rfl, fun _ => rfl, fun _ => rfl, fun _ => rfl⟩, fun _ => rfl, fun _ => rfl⟩

theorem OnlyHomes.refl (s : State) : OnlyHomes s s := .of_eq (m := s.mem) (w := s.waiters) (g := s.grants) rfl

theorem leaveHome_onlyHomes (w : Waiter) (s : State) : OnlyHomes s (leaveHome w s) := by
  unfold leaveHome
  extract_lets rest u
  have hu : OnlyHomes s u := by
    unfold u
    split
    · exact .of_eq (m := _) (w := s.waiters) (g := s.grants) rfl
    · exact .refl s
  split
  · exact hu.trans (.of_eq (m := u.mem) (w := u.waiters) rfl)
  · exact hu

theorem dropWaiters_onlyHomes (f : Waiter → Bool) (s : State) : OnlyHomes s (dropWaiters f s) :=
  (OnlyHomes.of_eq (m := s.mem) (g := s.grants) rfl).trans
    (foldl_congr_of .refl (fun _ _ _ => .trans) (fun s w => leaveHome_onlyHomes w s) _ _)

/-- What the undoing of a region changes in its context. -/
def Undone (x y : Ctx) : Prop := y = { x with tok := y.tok, mat := y.mat, stage := y.stage, fpc := y.fpc }

theorem undoCore_work (c : CtxId) (r : Region) (s : State) : ContextWork s (undoCore c r s) :=
  (freeSlots_work _ _ s).trans ⟨rfl, rfl, rfl, fun _ => rfl, fun _ => rfl, fun _ => rfl, fun _ => rfl⟩

theorem undoCore_half (c : CtxId) (r : Region) (s : State) (h : HalfId) : (undoCore c r s).half h = s.half h :=
  freeSlots_half _ _ s h

theorem undoRegion_undone (r : Region) (x : Ctx) : Undone x (undoRegion r x) := rfl

theorem undoCore_ctx_same (c : CtxId) (r : Region) (s : State) : (undoCore c r s).ctx c = undoRegion r (s.ctx c) := by
  have hfree := freeSlots_ctx (coreOf c) (regionSlots r (s.ctx c)) s c
  simp only [undoCore, State.modCtx_ctx_same]
  exact congrArg (undoRegion r) hfree

theorem undoCore_ctx_other {c d : CtxId} (h : d ≠ c) (r : Region) (s : State) : (undoCore c r s).ctx d = s.ctx d := by
  simp only [undoCore, State.modCtx_ctx_other _ _ _ _ h]
  exact freeSlots_ctx _ _ s d

theorem Undone.refl (x : Ctx) : Undone x x := rfl

theorem Undone.trans {x y z : Ctx} (h : Undone x y) (h' : Undone y z) : Undone x z := by
  unfold Undone at *
  rw [h', h]

theorem dropReserved_undone (e : Nat) (l : List ActiveCmd) (x : Ctx) : Undone x (dropReserved e l x) := by
  refine foldl_congr_of (R := Undone) .refl (fun _ _ _ => .trans) (fun x q => ?_) _ x
  unfold dropRes
  split
  · exact .refl x
  · rfl

/-! ## A discard -/

/-- The region at whose start a discard from an epoch on leaves the context. -/
def replayed (e : Nat) (x : Ctx) : Region := (discarded e x).getLast?.getD x.reg

theorem replayed_of_older {e : Nat} {x : Ctx} {r : Region} (hr : x.older = some r) (he : e ≤ r.epoch) :
    replayed e x = r := by
  simp [replayed, discarded, hr, he]

theorem replayed_of_younger {e : Nat} {x : Ctx} (h : ∀ r, x.older = some r → r.epoch < e) : replayed e x = x.reg := by
  unfold replayed discarded
  split
  · next r hr =>
    rw [if_neg (Nat.not_le.2 (h r hr))]
    rfl
  · rfl

theorem replayed_oldest (x : Ctx) : replayed (oldest x).epoch x = oldest x := by
  unfold oldest
  cases hr : x.older with
  | none => exact replayed_of_younger fun r h => by rw [hr] at h; cases h
  | some r => exact replayed_of_older hr (le_refl _)

/-- A context after a discard: the open region begins where the region `r` did, with its state of the front, and the
streams, tokens and tiles keep what is older. -/
def Reopened (r : Region) (time : Word) (x y : Ctx) : Prop :=
  y = { x with
    regs := { x.regs with pc := r.start }, front := r.front, older := if x.reg.epoch = r.epoch then x.older else none
    reg := Region.fresh (x.epochs + 1) r.start r.front time, epochs := x.epochs + 1, waited := 0
    cnt := { x.cnt with rplTotal := x.cnt.rplTotal + 1 }
    tok := y.tok, mat := y.mat, stage := y.stage, fpc := y.fpc, q := y.q, ptests := y.ptests, engL := y.engL
    engS := y.engS, sync := y.sync }

theorem timeOf_congr {s t : State} {c : CtxId} (hdev : t.dev = s.dev)
    (hclamp : (t.ctx c).cnt.clamp = (s.ctx c).cnt.clamp) : timeOf t c = timeOf s c := by
  unfold timeOf halfTime
  rw [hdev, hclamp]

theorem undoCores_ctx_same (c : CtxId) (l : List Region) (s : State) :
    Undone (s.ctx c) ((l.foldl (fun s r => undoCore c r s) s).ctx c) := by
  refine foldl_congr_of (R := fun s t : State => Undone (s.ctx c) (t.ctx c)) (fun s => .refl _) (fun _ _ _ => .trans)
    (fun s r => ?_) l s
  rw [undoCore_ctx_same]
  exact undoRegion_undone r _

theorem discard_work (c : CtxId) (e : Nat) (s : State) : ContextWork s (discard c e s) := by
  unfold discard
  extract_lets x rs old e s₁ s₂ s₃ s₄ s₅
  have h₁ : ContextWork s s₁ := .foldl (fun s r => undoCore_work c r s) rs s
  have h₂ : ContextWork s₁ s₂ := .modCtx s₁ c _
  have h₃ : ContextWork s₂ s₃ := .modCore s₂ (coreOf c) (fun _ => rfl) fun _ => rfl
  have h₄ : ContextWork s₃ s₄ := .modHalf s₃ (halfOf c) fun _ => rfl
  have h₅ : ContextWork s₄ s₅ :=
    ⟨rfl, rfl, rfl, fun _ => rfl, fun _ => rfl, fun _ => rfl, fun g => by simp [s₅, State.casc]⟩
  exact ((((h₁.trans h₂).trans h₃).trans h₄).trans h₅).trans (dropWaiters_onlyHomes _ s₅).work

theorem discard_ctx_other {c d : CtxId} (h : d ≠ c) (e : Nat) (s : State) : (discard c e s).ctx d = s.ctx d := by
  unfold discard
  extract_lets x rs old e s₁ s₂ s₃ s₄ s₅
  have h₁ : s₁.ctx d = s.ctx d := foldl_keeps (g := fun s => s.ctx d) (fun s r => undoCore_ctx_other h r s) rs s
  have h₂ : s₂.ctx d = s₁.ctx d := State.modCtx_ctx_other _ _ _ _ h
  exact ((dropWaiters_onlyHomes _ s₅).ctx d).trans (h₂.trans h₁)

theorem discard_ctx_same (c : CtxId) (e : Nat) (s : State) :
    Reopened (replayed e (s.ctx c)) (timeOf s c) (s.ctx c) ((discard c e s).ctx c) := by
  unfold discard
  extract_lets x rs old e s₁ s₂ s₃ s₄ s₅
  have h₁ : Undone x (s₁.ctx c) := undoCores_ctx_same c rs s
  have htime : timeOf s₁ c = timeOf s c :=
    timeOf_congr (ContextWork.foldl (fun s r => undoCore_work c r s) rs s).dev (by rw [h₁])
  have h₂ : Reopened old (timeOf s c) x (s₂.ctx c) := by
    unfold s₂
    rw [State.modCtx_ctx_same, htime]
    have hy := h₁.trans
      (dropReserved_undone e ((s₁.core (coreOf c)).active.filter fun a => a.ctx == c && !a.dead) (s₁.ctx c))
    generalize dropReserved e ((s₁.core (coreOf c)).active.filter fun a => a.ctx == c && !a.dead) (s₁.ctx c) = y at hy
    rw [hy]
    rfl
  have hctx : (dropWaiters (fun w => w.ctx == c && ((s₅.ctx c).q.get w.stream).isEmpty) s₅).ctx c = s₂.ctx c :=
    (dropWaiters_onlyHomes _ s₅).ctx c
  rw [hctx]
  exact h₂

theorem discard_half (c : CtxId) (e : Nat) (s : State) (h : HalfId) :
    ((discard c e s).half h).weir = if h = halfOf c then
      (s.half h).weir.filter fun w => !(w.ctx == c && !w.committed && decide ((replayed e (s.ctx c)).epoch ≤ w.epoch))
    else (s.half h).weir := by
  unfold discard
  extract_lets x rs old e s₁ s₂ s₃ s₄ s₅
  have h₁ : s₃.half h = s.half h :=
    foldl_keeps (g := fun s => s.half h) (fun s r => undoCore_half c r s h) rs s
  have h₅ : (dropWaiters (fun w => w.ctx == c && ((s₅.ctx c).q.get w.stream).isEmpty) s₅).half h = s₄.half h :=
    (dropWaiters_onlyHomes _ s₅).half h
  rw [h₅]
  split
  · next heq =>
    subst heq
    unfold s₄
    rw [State.modHalf_half_same, h₁]
    rfl
  · next hne =>
    unfold s₄
    rw [State.modHalf_half_other _ _ _ _ hne, h₁]

end Sys2Proof.Machine

end

section

/-! PROOFS. The end of a context, of an item and of an operator (spec/14 R281, spec/16 R314, spec/17 R337, R350). -/

namespace Sys2Proof.Machine

/-! ## The end of a context -/

theorem endLease_work (c : CtxId) (s : State) : ContextWork s (endLease c s) := by
  unfold endLease
  extract_lets next
  refine .modCore s (coreOf c) (fun x => ?_) fun x => ?_
  · split <;> rfl
  · split <;> rfl

@[simp] theorem endLease_ctx (c d : CtxId) (s : State) : (endLease c s).ctx d = s.ctx d := rfl

@[simp] theorem endLease_half (c : CtxId) (s : State) (h : HalfId) : (endLease c s).half h = s.half h := rfl

theorem endSwitch_work (c : CtxId) (s : State) : ContextWork s (endSwitch c s) := .modCtx s _ _

theorem endCtx_work (c : CtxId) (s : State) : ContextWork s (endCtx c s) := by
  unfold endCtx
  extract_lets s₁ s₂
  have h₁ : ContextWork s s₁ := (discard_work ..).trans (endLease_work ..)
  have h₂ : ContextWork s₁ s₂ := freeSlots_work ..
  have h₃ : ContextWork s₂ ((s₂.modCtx c (emptyBank .empty)).modCore (coreOf c) (disownUses c)) :=
    (ContextWork.modCtx s₂ c (emptyBank .empty)).trans (.modCore _ (coreOf c) (fun _ => rfl) fun _ => rfl)
  exact ((h₁.trans h₂).trans h₃).trans (endSwitch_work c _)

theorem otherBank_ne : ∀ c, otherBank c ≠ c := by decide

/-- The bank of a context that has ended runs nothing. -/
theorem endCtx_ctx_same (c : CtxId) (s : State) :
    ((endCtx c s).ctx c).bank = .empty ∧ ((endCtx c s).ctx c).work = none := by
  unfold endCtx endSwitch
  extract_lets s₁ s₂
  rw [State.modCtx_ctx_other _ _ _ _ (otherBank_ne c).symm, State.modCore_ctx, State.modCtx_ctx_same]
  exact ⟨rfl, rfl⟩

theorem killCtx_work (c : CtxId) (s : State) : ContextWork s (killCtx c s) :=
  (endCtx_work c s).trans (.modCtx _ c _)

theorem discardAll_half (c : CtxId) (s : State) (h : HalfId) :
    ((discardAll c s).half h).weir = if h = halfOf c then
      (s.half h).weir.filter fun w => !(w.ctx == c && !w.committed && decide ((oldest (s.ctx c)).epoch ≤ w.epoch))
    else (s.half h).weir := by
  have hd := discard_half c (oldest (s.ctx c)).epoch s h
  rwa [replayed_oldest] at hd

/-- The uncommitted writes of a context that ends are gone from the weir buffer of its half. -/
theorem endCtx_weir (c : CtxId) (s : State) :
    ∀ u ∈ ((endCtx c s).half (halfOf c)).weir, u.ctx = c → u.committed = false →
      u.epoch < (oldest (s.ctx c)).epoch := by
  have hfree : (endCtx c s).half (halfOf c) = (discardAll c s).half (halfOf c) := by
    unfold endCtx endSwitch
    extract_lets s₁ s₂
    rw [State.modCtx_half, State.modCore_half, State.modCtx_half, freeSlots_half, endLease_half]
  rw [hfree, discardAll_half, if_pos rfl]
  intro u hu hc hcom
  have hkeep := (List.mem_filter.1 hu).2
  simpa [hc, hcom] using hkeep

/-! ## Operators -/

/-- A change to an operator is seen under its number and under no other. -/
theorem State.modOp_op_eq (s : State) (id j : Nat) {f : Operator → Operator} (hf : ∀ o, (f o).id = o.id) :
    (s.modOp id f).op j = (s.op j).map fun o => if o.id = id then f o else o := by
  have hid : ((fun o : Operator => o.id == j) ∘ fun o => if o.id = id then f o else o) = fun o => o.id == j := by
    funext o
    by_cases h : o.id = id
    · simp [h, hf]
    · simp [h]
  simp only [State.op, State.modOp, List.find?_map, hid]

theorem State.op_id {s : State} {j : Nat} {o : Operator} (h : s.op j = some o) : o.id = j := by
  simpa using List.find?_some h

theorem State.modOp_op (s : State) (id : Nat) {f : Operator → Operator} (hf : ∀ o, (f o).id = o.id) :
    (s.modOp id f).op id = (s.op id).map f := by
  rw [State.modOp_op_eq s id id hf]
  exact Option.map_congr fun o ho => if_pos (State.op_id ho)

theorem State.modOp_op_other (s : State) {id j : Nat} (h : j ≠ id) {f : Operator → Operator}
    (hf : ∀ o, (f o).id = o.id) : (s.modOp id f).op j = s.op j := by
  rw [State.modOp_op_eq s id j hf]
  exact (Option.map_congr fun o ho => if_neg (State.op_id ho ▸ h)).trans Option.map_id'

@[simp] theorem State.modOp_ctx (s : State) (id : Nat) (f : Operator → Operator) (c : CtxId) :
    (s.modOp id f).ctx c = s.ctx c := rfl

theorem State.op_congr {s t : State} (h : t.ops = s.ops) (id : Nat) : t.op id = s.op id := by
  rw [State.op, State.op, h]

/-! ## Fillers -/

theorem settleFiller_work (g : CascId) (s : State) : ContextWork s (settleFiller g s) := by
  unfold settleFiller
  extract_lets ended s₁
  have h₁ : ContextWork s s₁ :=
    ContextWork.foldl (f := fun s (t : CtxId × Nat) => s.modCtx t.1 unfill) (fun s t => .modCtx s t.1 _) ended s
  exact h₁.trans (.modCasc s₁ g fun _ => rfl)

theorem fillBank_work (c : CtxId) (n : Nat) (s : State) : ContextWork s (fillBank c n s) := by
  unfold fillBank
  split
  · exact (ContextWork.modCtx s c _).trans (.modCasc _ _ fun _ => rfl)
  · exact .refl s

theorem settleFiller_half (g : CascId) (s : State) (h : HalfId) : (settleFiller g s).half h = s.half h :=
  foldl_keeps (g := fun s => s.half h) (f := fun s (t : CtxId × Nat) => s.modCtx t.1 unfill) (fun _ _ => rfl) _ s

theorem fillBank_half (c : CtxId) (n : Nat) (s : State) (h : HalfId) : (fillBank c n s).half h = s.half h := by
  unfold fillBank
  split <;> rfl

/-- The bank runs nothing, or filler. -/
def BankIdle (x : Ctx) : Prop := (x.bank = .empty ∨ x.bank = .filler) ∧ x.work = none

theorem unfill_idle {x : Ctx} (h : BankIdle x) : BankIdle (unfill x) := by
  unfold unfill
  split
  · exact ⟨.inl rfl, h.2⟩
  · exact h

theorem settleFiller_idle {g : CascId} {s : State} {c : CtxId} (h : BankIdle (s.ctx c)) :
    BankIdle ((settleFiller g s).ctx c) := by
  refine foldl_congr_of (R := fun s t : State => BankIdle (s.ctx c) → BankIdle (t.ctx c)) (fun _ h => h)
    (fun _ _ _ hst htu h => htu (hst h)) (f := fun s (t : CtxId × Nat) => s.modCtx t.1 unfill) (fun s t h => ?_) _ s h
  by_cases ht : c = t.1
  · subst ht
    rw [State.modCtx_ctx_same]
    exact unfill_idle h
  · rwa [State.modCtx_ctx_other _ _ _ _ ht]

theorem fillBank_idle {c : CtxId} {n : Nat} {s : State} (h : BankIdle (s.ctx c)) :
    BankIdle ((fillBank c n s).ctx c) := by
  unfold fillBank
  split
  · rw [State.modCasc_ctx, State.modCtx_ctx_same]
    exact ⟨.inr rfl, h.2⟩
  · exact h

/-! ## The end of an item -/

theorem endItem_of_noWork {c : CtxId} {how : ItemEnd} {s : State} (hw : (s.ctx c).work = none) :
    endItem c how s = endCtx c s := by
  simp only [endItem, hw]

theorem endItem_of_work {c : CtxId} {how : ItemEnd} {s : State} {w : Work} (hw : (s.ctx c).work = some w) :
    endItem c how s = settleFiller (cascOf c)
      (fillBank c w.gang ((endCtx c s).modOp w.disp.op (opAfter how w.item (cascOf c)))) := by
  simp only [endItem, hw]

theorem endItem_ended (c : CtxId) (how : ItemEnd) (s : State) : itemEnded (endItem c how s) c := by
  have hend : BankIdle ((endCtx c s).ctx c) := ⟨.inl (endCtx_ctx_same c s).1, (endCtx_ctx_same c s).2⟩
  cases hw : (s.ctx c).work with
  | none =>
    rw [endItem_of_noWork hw]
    exact hend
  | some w =>
    rw [endItem_of_work hw]
    refine settleFiller_idle (fillBank_idle ?_)
    rwa [State.modOp_ctx]

theorem opAfter_id (how : ItemEnd) (it : Item) (g : CascId) (o : Operator) : (opAfter how it g o).id = o.id := by
  cases how with
  | done =>
    simp only [opAfter, freeEntry]
    split <;> rfl
  | guardFailed => simp only [opAfter, addFallback]
  | restarted =>
    simp only [opAfter, addFallback, addRestart]
    split <;> rfl

/-- What the end of an item leaves of the operators: its own is as `opAfter` says. -/
theorem endItem_ops {c : CtxId} {how : ItemEnd} {s : State} {w : Work} (hw : (s.ctx c).work = some w) :
    (endItem c how s).ops = ((endCtx c s).modOp w.disp.op (opAfter how w.item (cascOf c))).ops := by
  rw [endItem_of_work hw]
  exact ((fillBank_work ..).trans (settleFiller_work ..)).ops

theorem endItem_op {c : CtxId} {how : ItemEnd} {s : State} {w : Work} (hw : (s.ctx c).work = some w) :
    (endItem c how s).op w.disp.op = (s.op w.disp.op).map (opAfter how w.item (cascOf c)) := by
  rw [State.op_congr (endItem_ops hw), State.modOp_op _ _ (opAfter_id how w.item (cascOf c)),
    State.op_congr (endCtx_work c s).ops]

/-- An item put in its place stands in the list. -/
theorem mem_insertItem (before : Item → Item → Bool) (it : Item) (l : List Item) : it ∈ insertItem before it l := by
  induction l with
  | nil => exact List.mem_singleton_self it
  | cons i l ih =>
    rw [insertItem]
    split
    · exact List.mem_cons_self
    · exact List.mem_cons_of_mem _ ih

/-- An item that comes before none of a list is put at its end. -/
theorem insertItem_last {before : Item → Item → Bool} {it : Item} {l : List Item} (h : ∀ i ∈ l, before it i = false) :
    insertItem before it l = l ++ [it] := by
  induction l with
  | nil => rfl
  | cons i l ih =>
    rw [insertItem, h i List.mem_cons_self, if_neg Bool.false_ne_true, ih fun j hj => h j (List.mem_cons_of_mem _ hj)]
    rfl

end Sys2Proof.Machine

end

section

/-! PROOFS. Traps and retirement (spec/13 R251, R269, R270, spec/18 R354 to R358). -/

namespace Sys2Proof.Machine

/-! ## A context after a discard -/

theorem Reopened.id {r : Region} {n : Word} {x y : Ctx} (h : Reopened r n x y) : y.id = x.id := by rw [h]

theorem Reopened.trap {r : Region} {n : Word} {x y : Ctx} (h : Reopened r n x y) : y.trap = x.trap := by rw [h]

theorem Reopened.regs {r : Region} {n : Word} {x y : Ctx} (h : Reopened r n x y) :
    y.regs = { x.regs with pc := r.start } := by rw [h]

theorem Reopened.front {r : Region} {n : Word} {x y : Ctx} (h : Reopened r n x y) : y.front = r.front := by rw [h]

theorem Reopened.reg {r : Region} {n : Word} {x y : Ctx} (h : Reopened r n x y) :
    y.reg = Region.fresh (x.epochs + 1) r.start r.front n := by rw [h]

theorem Reopened.older {r : Region} {n : Word} {x y : Ctx} (h : Reopened r n x y) :
    y.older = if x.reg.epoch = r.epoch then x.older else none := by rw [h]

theorem Reopened.cnt {r : Region} {n : Word} {x y : Ctx} (h : Reopened r n x y) :
    y.cnt = { x.cnt with rplTotal := x.cnt.rplTotal + 1 } := by rw [h]

theorem Reopened.bank {r : Region} {n : Word} {x y : Ctx} (h : Reopened r n x y) : y.bank = x.bank := by rw [h]

theorem discardAll_ctx_same (c : CtxId) (s : State) :
    Reopened (oldest (s.ctx c)) (timeOf s c) (s.ctx c) ((discardAll c s).ctx c) := by
  have h := discard_ctx_same c (oldest (s.ctx c)).epoch s
  rwa [replayed_oldest] at h

/-! ## Traps -/

/-- A context at user level that has a handler. -/
def InKernel (x : Ctx) : Prop := x.id.sys = false ∧ x.trap.tvec ≠ 0

theorem trapNested_of_inKernel {x : Ctx} (h : InKernel x) : trapNested x = false := by
  simpa [trapNested, h.1] using h.2

theorem takeTrap_of_inKernel {c : CtxId} {s : State} (h : InKernel (s.ctx c)) (cause : Nat) (tpc tval : Word)
    (kind : Bool) :
    takeTrap c cause tpc tval kind s =
      (endLease c s).modCtx c (enterHandler cause tpc tval kind (timeOf s c)) := by
  rw [takeTrap, trapNested_of_inKernel h, if_neg Bool.false_ne_true]

theorem takeTrap_ctx_same {c : CtxId} {s : State} (h : InKernel (s.ctx c)) (cause : Nat) (tpc tval : Word)
    (kind : Bool) :
    (takeTrap c cause tpc tval kind s).ctx c = enterHandler cause tpc tval kind (timeOf s c) (s.ctx c) := by
  rw [takeTrap_of_inKernel h, State.modCtx_ctx_same, endLease_ctx]

theorem trapped_of_takeTrap {c : CtxId} {s : State} (h : InKernel (s.ctx c)) (cause : Nat) (tpc tval : Word)
    (kind : Bool) : trapped (s.ctx c) ((takeTrap c cause tpc tval kind s).ctx c) cause tval tpc := by
  rw [takeTrap_ctx_same h]
  exact ⟨rfl, rfl, rfl, rfl, rfl, rfl⟩

/-- Where a context enters its handler depends on its vector alone. -/
theorem trapped_congr {x x' y : Ctx} {cause : Nat} {tval tpc : Word} (ht : x'.trap = x.trap)
    (h : trapped x' y cause tval tpc) : trapped x y cause tval tpc := by
  unfold trapped at h ⊢
  rwa [ht] at h

theorem InKernel.reopened {r : Region} {n : Word} {x y : Ctx} (h : InKernel x) (hr : Reopened r n x y) :
    InKernel y := by
  unfold InKernel
  rwa [hr.id, hr.trap]

theorem trapped_of_takeFaultTrap {c : CtxId} {s : State} (h : InKernel (s.ctx c)) (cause : Nat) (tval : Word) :
    trapped (s.ctx c) ((takeFaultTrap c cause tval s).ctx c) cause tval (oldest (s.ctx c)).start := by
  have hd := discardAll_ctx_same c s
  have ht := trapped_of_takeTrap (h.reopened hd) cause ((discardAll c s).ctx c).regs.pc tval false
  rw [hd.regs] at ht
  refine trapped_congr hd.trap ?_
  unfold takeFaultTrap
  extract_lets u
  rw [show u = discardAll c s from rfl, hd.regs]
  exact ht

/-! ## Faults -/

theorem takeFault_of_trap {c : CtxId} {s : State} {f : FaultRec} (hf : (oldest (s.ctx c)).fault = some f)
    (hbad : (oldest (s.ctx c)).bad = false) (hp : isPageFault f.cause = false) :
    takeFault c s = takeFaultTrap c f.cause f.tval s := by
  simp only [takeFault, hf, hbad, hp, Bool.false_eq_true, if_false]

theorem takeFault_of_page {c : CtxId} {s : State} {f : FaultRec} (hf : (oldest (s.ctx c)).fault = some f)
    (hbad : (oldest (s.ctx c)).bad = false) (hp : isPageFault f.cause = true) : takeFault c s = parkPage c f s := by
  simp only [takeFault, hf, hbad, hp, Bool.false_eq_true, if_false, if_true]

/-- A fault recorded in the open region of a context that has no other one. -/
theorem recordFault_open {x : Ctx} {f : FaultRec} (ho : x.older = none) (hf : x.reg.fault = none) :
    recordFault x.reg.epoch f x = { x with reg := { x.reg with fault := some f } } := by
  simp [recordFault, modRegion, ho, earlierFault, hf]

theorem oldest_of_none {x : Ctx} (h : x.older = none) : oldest x = x.reg := by
  rw [oldest, h]
  rfl

theorem oldest_of_some {x : Ctx} {r : Region} (h : x.older = some r) : oldest x = r := by
  rw [oldest, h]
  rfl

theorem oldest_recordFault {x : Ctx} {f : FaultRec} (ho : x.older = none) (hf : x.reg.fault = none) :
    oldest (recordFault x.reg.epoch f x) = { x.reg with fault := some f } := by
  rw [recordFault_open ho hf]
  exact oldest_of_none ho

/-- A fault of the open region, recorded and taken. -/
theorem trapped_of_recordFault {c : CtxId} {s : State} {f : FaultRec} (h : InKernel (s.ctx c))
    (ho : (s.ctx c).older = none) (hf : (s.ctx c).reg.fault = none) (hbad : (s.ctx c).reg.bad = false)
    (hp : isPageFault f.cause = false) :
    trapped (s.ctx c) ((takeFault c (s.modCtx c (recordFault (s.ctx c).reg.epoch f))).ctx c) f.cause f.tval
      (s.ctx c).reg.start := by
  have hx : (s.modCtx c (recordFault (s.ctx c).reg.epoch f)).ctx c =
      { s.ctx c with reg := { (s.ctx c).reg with fault := some f } } := by
    rw [State.modCtx_ctx_same, recordFault_open ho hf]
  have hold : oldest ((s.modCtx c (recordFault (s.ctx c).reg.epoch f)).ctx c) =
      { (s.ctx c).reg with fault := some f } := by
    rw [State.modCtx_ctx_same, oldest_recordFault ho hf]
  rw [takeFault_of_trap (by rw [hold]) (by rw [hold]; exact hbad) hp]
  have hk : InKernel ((s.modCtx c (recordFault (s.ctx c).reg.epoch f)).ctx c) := by
    rw [hx]
    exact h
  have ht := trapped_of_takeFaultTrap hk f.cause f.tval
  rw [hold] at ht
  exact trapped_congr (by rw [hx]) ht

/-! ## Retirement -/

theorem tryRetire_of_done {c : CtxId} {s : State} {r : Region} {how : Closing} (hr : oldest (s.ctx c) = r)
    (hclosed : r.closed = some how) (hfault : r.fault = none) (hbad : r.bad = false) (hlong : overlong s c = false)
    (hleft : leftover s c r.epoch = none) (hdone : regionDone s c r.epoch = true) :
    tryRetire c s =
      if (s.ctx c).older.isSome then
        (retireEffects c r s).modCtx c fun x => { x with older := none, reg := { x.reg with len := 0 } }
      else retireHeld c r how s := by
  simp only [tryRetire, hr, hclosed, hfault, hbad, hlong, hleft, hdone, Option.isSome_none, Bool.false_eq_true,
    if_false, Bool.not_true]

/-- The context at the retirement of a region. -/
def retiredCtx (e : Nat) (x : Ctx) : Ctx :=
  { foldFlags e x with sync := commitSync (ctxOp x) e x.sync, cnt := { x.cnt with att := 0 } }

theorem retireEffects_ctx_same (c : CtxId) (r : Region) (s : State) :
    (retireEffects c r s).ctx c = retiredCtx r.epoch (s.ctx c) := by
  unfold retireEffects
  extract_lets s₁ s₂ s₃ s₄
  have h : s₄.ctx c = s.ctx c := freeSlots_ctx ..
  rw [State.modCtx_ctx_same, h]
  rfl

theorem retireEffects_weir (c : CtxId) (r : Region) (s : State) :
    ∀ w ∈ ((retireEffects c r s).half (halfOf c)).weir, w.ctx = c → w.epoch = r.epoch → w.committed = true := by
  unfold retireEffects
  extract_lets s₁ s₂ s₃ s₄
  have h : s₄.half (halfOf c) = s₂.half (halfOf c) := rfl
  rw [State.modCtx_half, h]
  unfold s₂
  rw [State.modHalf_half_same]
  intro w hw hc he
  rcases List.mem_append.1 hw with hw | hw
  · simpa [hc, he] using (List.mem_filter.1 hw).2
  · obtain ⟨v, -, rfl⟩ := List.mem_map.1 hw
    rfl

theorem commitSync_red {op : Option Nat} {e : Nat} {y : SyncSt} :
    ∀ w ∈ (commitSync op e y).red, w.epoch = e → w.committed = true := by
  intro w hw he
  obtain ⟨v, -, rfl⟩ := List.mem_map.1 hw
  split
  · rfl
  · next h =>
    rw [if_neg h] at he
    exact absurd he h

theorem commitSync_deferred {op : Option Nat} {e : Nat} {y : SyncSt} :
    ∀ d ∈ (commitSync op e y).deferred, d.epoch = e → d.retired = true := by
  intro d hd he
  rcases List.mem_append.1 hd with hd | hd
  · obtain ⟨v, -, rfl⟩ := List.mem_map.1 hd
    split
    · rfl
    · next h =>
      rw [if_neg h] at he
      exact absurd he h
  · obtain ⟨k, -, rfl⟩ := List.mem_map.1 hd
    rfl

theorem retireEffects_work (c : CtxId) (r : Region) (s : State) : ContextWork s (retireEffects c r s) := by
  unfold retireEffects
  extract_lets s₁ s₂ s₃ s₄
  have h₁ : ContextWork s s₁ := freeSlots_work ..
  have h₂ : ContextWork s₁ s₂ := .modHalf s₁ (halfOf c) fun _ => rfl
  have h₃ : ContextWork s₂ s₃ := .modCore s₂ (coreOf c) (fun _ => rfl) fun _ => rfl
  exact (((h₁.trans h₂).trans h₃).trans (endLease_work c s₃)).trans (.modCtx s₄ c _)

/-- The state in which a held commit point leaves the part before it does what it is for. -/
def heldRetired (c : CtxId) (r : Region) (s : State) : State :=
  (retireEffects c r s).modCtx c (freshRegion r.next (timeOf s c))

theorem heldRetired_ctx_same (c : CtxId) (r : Region) (s : State) :
    (heldRetired c r s).ctx c = freshRegion r.next (timeOf s c) (retiredCtx r.epoch (s.ctx c)) := by
  rw [heldRetired, State.modCtx_ctx_same, retireEffects_ctx_same]

theorem heldRetired_inKernel {c : CtxId} {r : Region} {s : State} (h : InKernel (s.ctx c)) :
    InKernel ((heldRetired c r s).ctx c) := by
  rw [heldRetired_ctx_same]
  exact h

theorem verdict_pass {x : Ctx} {max : Bool} (h : x.id.sys = true ∨ x.id.gd = false ∨
    ((∀ w, x.work = some w → w.disp.met ≠ max) ∧ (x.id.task = true ∨ x.id.fb = true ∨ guardPasses x = true))) :
    verdict x max = .pass := by
  unfold verdict
  rcases h with h | h | ⟨hmet, h⟩
  · simp [h]
  · simp [h]
  · have hany : (x.work.any fun w => w.disp.met == max) = false := by
      cases hw : x.work with
      | none => rfl
      | some w => simpa using hmet w hw
    rw [hany]
    rcases h with h | h | h <;> simp [h]

theorem verdict_fail {x : Ctx} {max : Bool} {w : Work} (hsys : x.id.sys = false) (hgd : x.id.gd = true)
    (hw : x.work = some w) (hmet : w.disp.met ≠ max) (htask : x.id.task = false) (hfb : x.id.fb = false)
    (hg : guardPasses x = false) : verdict x max = .fail := by
  simp [verdict, hsys, hgd, hw, hmet, htask, hfb, hg]

theorem verdict_mismatch {x : Ctx} {max : Bool} {w : Work} (hsys : x.id.sys = false) (hgd : x.id.gd = true)
    (hw : x.work = some w) (hmet : w.disp.met = max) : verdict x max = .mismatch := by
  simp [verdict, hsys, hgd, hw, hmet]

end Sys2Proof.Machine

end

section

/-! PROOFS. Regions retire or close as their commit points say, overrun, or fault (O42; spec/13 R250 to R255, R268 to
R270, spec/18 R354 to R358). -/

namespace Sys2Proof.Machine

theorem exec_regionRetire {s : State} {c : CtxId} (h : canRun s c = true) :
    exec (.regionRetire c) s = .next (tryRetire c s) := by
  show Host.Outcome.next (if canRun s c = true then tryRetire c s else s) = _
  rw [if_pos h]

/-- An older region that is complete retires. -/
theorem tryRetire_older {c : CtxId} {s : State} {r : Region} {how : Closing} (hr : (s.ctx c).older = some r)
    (hclosed : r.closed = some how) (hfault : r.fault = none) (hbad : r.bad = false) (hlong : overlong s c = false)
    (hleft : leftover s c r.epoch = none) (hdone : regionDone s c r.epoch = true) :
    tryRetire c s =
      (retireEffects c r s).modCtx c fun x => { x with older := none, reg := { x.reg with len := 0 } } := by
  rw [tryRetire_of_done (oldest_of_some hr) hclosed hfault hbad hlong hleft hdone, hr]
  rfl

/-- The region at which the front is held retires. -/
theorem tryRetire_held {c : CtxId} {s : State} {how : Closing} (ho : (s.ctx c).older = none)
    (hclosed : (s.ctx c).reg.closed = some how) (hfault : (s.ctx c).reg.fault = none)
    (hbad : (s.ctx c).reg.bad = false) (hlong : overlong s c = false)
    (hleft : leftover s c (s.ctx c).reg.epoch = none) (hdone : regionDone s c (s.ctx c).reg.epoch = true) :
    tryRetire c s = retireHeld c (s.ctx c).reg how s := by
  rw [tryRetire_of_done (oldest_of_none ho) hclosed hfault hbad hlong hleft hdone, ho]
  rfl

theorem retireHeld_done {c : CtxId} {r : Region} {s : State} (h : (s.ctx c).id.sys = false) :
    retireHeld c r .done s = endItem c .done (heldRetired c r s) := by
  have hsys : ((heldRetired c r s).ctx c).id.sys = false := by
    rw [heldRetired_ctx_same]
    exact h
  show retireDone c (heldRetired c r s) = _
  simp only [retireDone, hsys, Bool.false_eq_true, false_and, if_false]

theorem retireHeld_guard_pass {c : CtxId} {r : Region} {s : State} {max : Bool}
    (h : verdict (s.ctx c) max = .pass) : retireHeld c r (.guard max) s = heldRetired c r s := by
  simp only [retireHeld, h, heldRetired]

theorem retireHeld_guard_fail {c : CtxId} {r : Region} {s : State} {max : Bool}
    (h : verdict (s.ctx c) max = .fail) : retireHeld c r (.guard max) s = endItem c .guardFailed s := by
  simp only [retireHeld, h]

theorem retireHeld_guard_mismatch {c : CtxId} {r : Region} {s : State} {max : Bool}
    (h : verdict (s.ctx c) max = .mismatch) :
    retireHeld c r (.guard max) s = markerFault c r.epoch 10 (if max then 2 else 3) s := by
  simp only [retireHeld, h]

theorem heldRetired_work (c : CtxId) (r : Region) (s : State) : ContextWork s (heldRetired c r s) :=
  (retireEffects_work c r s).trans (.modCtx _ c _)

theorem heldRetired_mem (c : CtxId) (r : Region) (s : State) : (heldRetired c r s).mem = s.mem :=
  retireEffects_mem c r s

theorem heldRetired_work_eq (c : CtxId) (r : Region) (s : State) :
    ((heldRetired c r s).ctx c).work = (s.ctx c).work := by
  rw [heldRetired_ctx_same]
  rfl

/-- A `done` gives the fallback entry of its item back, and changes nothing else of the operators. -/
theorem endItem_done_ops {c : CtxId} {s : State} (h : ((s.ctx c).work.all fun w => !w.item.res) = true) :
    (endItem c .done s).ops = s.ops := by
  cases hw : (s.ctx c).work with
  | none =>
    rw [endItem_of_noWork hw]
    exact (endCtx_work c s).ops
  | some w =>
    have hres : w.item.res = false := by simpa [hw] using h
    have hid : opAfter .done w.item (cascOf c) = id := by
      funext o
      simp [opAfter, freeEntry, hres]
    rw [endItem_ops hw, State.modOp, hid]
    simpa using (endCtx_work c s).ops

theorem faultDue_of_idle {x : Ctx} {f : FaultRec} (hf : (oldest x).fault = some f) (hq : queued x = []) :
    faultDue x = true := by
  simp [faultDue, hf, hq]

/-- A fault at the end of a region that nothing is left of in the streams is taken at once. -/
theorem trapped_of_markerFault {c : CtxId} {s : State} (h : InKernel (s.ctx c)) (ho : (s.ctx c).older = none)
    (hf : (s.ctx c).reg.fault = none) (hbad : (s.ctx c).reg.bad = false) (hq : queued (s.ctx c) = []) {cause : Nat}
    (hp : isPageFault cause = false) (tval : Word) :
    trapped (s.ctx c) ((markerFault c (s.ctx c).reg.epoch cause tval s).ctx c) cause tval (s.ctx c).reg.start := by
  have hdue : faultDue ((s.modCtx c (recordFault (s.ctx c).reg.epoch
      (faultRec cause tval (s.ctx c).pos false))).ctx c) = true := by
    rw [State.modCtx_ctx_same]
    exact faultDue_of_idle (by rw [oldest_recordFault ho hf]) (by rw [recordFault_open ho hf]; exact hq)
  unfold markerFault raiseFault
  extract_lets u
  rw [if_pos hdue]
  exact trapped_of_recordFault h ho hf hbad hp

theorem entryBefore_late {it i : Item} (hit : it.avoid = none) (h : i.ord ≤ it.ord) : entryBefore it i = false := by
  cases hi : i.avoid with
  | none => simpa [entryBefore, hit, hi] using h
  | some _ => simp [entryBefore, hit, hi]

/-- A failed guard counts a failure and puts the item on the fallback list. -/
theorem endItem_guardFailed_op {c : CtxId} {s : State} {w : Work} {o : Operator} (hw : (s.ctx c).work = some w)
    (ho : s.op w.disp.op = some o) :
    let it : Item := { w.item with fb := true, avoid := none, ord := o.entered + 1 }
    ∃ p, (endItem c .guardFailed s).op w.disp.op = some p ∧
      p = { o with gfail := o.gfail + 1, entered := o.entered + 1, fallback := p.fallback } ∧ it ∈ p.fallback ∧
      ((∀ i ∈ o.fallback, i.ord ≤ o.entered) → p.fallback = o.fallback ++ [it]) := by
  intro it
  refine ⟨opAfter .guardFailed w.item (cascOf c) o, ?_, rfl, mem_insertItem .., fun h => ?_⟩
  · rw [endItem_op hw, ho]
    rfl
  · exact insertItem_last fun i hi => entryBefore_late rfl (Nat.le_succ_of_le (h i hi))

/-- An item dropped by a failed guard leaves none of its uncommitted writes. -/
theorem endItem_weir {c : CtxId} {how : ItemEnd} {s : State} :
    ∀ u ∈ ((endItem c how s).half (halfOf c)).weir, u.ctx = c → u.committed = false →
      u.epoch < (oldest (s.ctx c)).epoch := by
  have hhalf : (endItem c how s).half (halfOf c) = (endCtx c s).half (halfOf c) := by
    cases hw : (s.ctx c).work with
    | none => rw [endItem_of_noWork hw]
    | some w =>
      rw [endItem_of_work hw, settleFiller_half, fillBank_half]
      rfl
  rw [hhalf]
  exact endCtx_weir c s

end Sys2Proof.Machine

end

section

/-! PROOFS. The statement about retirement, overruns and page faults (O42). -/

namespace Sys2Proof.Machine

/-- After a commit point that goes on the next region begins, and the writes of the region are committed. -/
theorem heldRetired_goesOn (c : CtxId) (r : Region) (s : State) :
    ((heldRetired c r s).ctx c).reg = Region.fresh ((s.ctx c).epochs + 1) r.next (s.ctx c).front (timeOf s c) ∧
      ((heldRetired c r s).ctx c).older = none ∧ ((heldRetired c r s).ctx c).regs = (s.ctx c).regs ∧
      ((heldRetired c r s).ctx c).cnt = { (s.ctx c).cnt with att := 0 } ∧ (heldRetired c r s).mem = s.mem ∧
      ∀ w ∈ ((heldRetired c r s).half (halfOf c)).weir, w.ctx = c → w.epoch = r.epoch → w.committed = true := by
  have hx := heldRetired_ctx_same c r s
  refine ⟨?_, ?_, ?_, ?_, heldRetired_mem c r s, retireEffects_weir c r s⟩
  all_goals
    rw [hx]
    rfl

/-- A trap of its own at the end of a region, with the next region's start in TPC. -/
theorem retireHeld_trap {c : CtxId} {r : Region} {s : State} (h : InKernel (s.ctx c)) (cause : Nat) (tval : Word) :
    trapped (s.ctx c) ((takeTrap c cause r.next tval true (heldRetired c r s)).ctx c) cause tval r.next ∧
      ((takeTrap c cause r.next tval true (heldRetired c r s)).ctx c).trap.kind = true ∧
      ((takeTrap c cause r.next tval true (heldRetired c r s)).ctx c).regs =
        { (s.ctx c).regs with pc := (s.ctx c).trap.tvec } := by
  have hk := heldRetired_inKernel (r := r) h
  have hctx := heldRetired_ctx_same c r s
  refine ⟨trapped_congr (by rw [hctx]; rfl) (trapped_of_takeTrap hk cause r.next tval true), ?_, ?_⟩
  · rw [takeTrap_ctx_same hk]
    rfl
  · rw [takeTrap_ctx_same hk, hctx]
    rfl

theorem halfOfCasc_cascOf (c : CtxId) : halfOfCasc (cascOf c) = halfOf c :=
  Fin.ext (Nat.div_div_eq_div_mul ..)

/-- What the end of an item at its `done` leaves: the bank runs nothing, and a fallback entry is free again. -/
theorem retireHeld_done_ends {c : CtxId} {r : Region} {s : State} (h : (s.ctx c).id.sys = false) :
    itemEnded (retireHeld c r .done s) c ∧
      (((s.ctx c).work.all fun w => !w.item.res) = true → (retireHeld c r .done s).ops = s.ops) ∧
      (∀ w o, (s.ctx c).work = some w → w.item.res = true → s.op w.disp.op = some o →
        (retireHeld c r .done s).op w.disp.op =
          some { o with fbUsed := o.fbUsed.set (halfOf c).val (o.fbUsed[(halfOf c).val] - 1) }) := by
  have hwork := heldRetired_work_eq c r s
  have hops := (heldRetired_work c r s).ops
  rw [retireHeld_done h]
  refine ⟨endItem_ended .., fun hres => ?_, fun w o hw hres ho => ?_⟩
  · rw [endItem_done_ops (by rwa [hwork]), hops]
  · rw [endItem_op (by rwa [hwork]), State.op_congr hops, ho]
    simp only [Option.map_some, opAfter, halfOfCasc_cascOf, freeEntry, hres, if_true]

theorem exec_regionOverrun {s : State} {c : CtxId} (h : canRun s c = true) (hl : overlong s c = true) :
    exec (.regionOverrun c) s = .next (overrun c s) := by
  show Host.Outcome.next (if (canRun s c && overlong s c) = true then overrun c s else s) = _
  rw [h, hl]
  rfl

theorem exec_trapEntry {s : State} {c : CtxId} (h : canRun s c = true) (hk : faultKind (s.ctx c) = some false) :
    exec (.trapEntry c) s = .next (takeFault c s) := by
  show Host.Outcome.next (if (canRun s c && faultKind (s.ctx c) == some false) = true then takeFault c s else s) = _
  rw [h, hk]
  rfl

theorem exec_pageFault {s : State} {c : CtxId} (h : canRun s c = true) (hk : faultKind (s.ctx c) = some true) :
    exec (.pageFault c) s = .next (takeFault c s) := by
  show Host.Outcome.next (if (canRun s c && faultKind (s.ctx c) == some true) = true then takeFault c s else s) = _
  rw [h, hk]
  rfl

theorem parkPage_ctx_same {c : CtxId} {f : FaultRec} {s : State} (h : (s.ctx c).id.sys = false) :
    (parkPage c f s).ctx c = { (discardAll c s).ctx c with
      bank := .faulted, preq := some ⟨f.tval, f.cause, f.fetch, f.pe, timeOf s c, false, none⟩ } := by
  unfold parkPage
  rw [if_neg (by rw [h]; exact Bool.false_ne_true)]
  extract_lets time
  rw [State.modCtx_ctx_same, endLease_ctx]

/-- A page fault parks the bank at the start of the region. -/
theorem parkPage_parks {c : CtxId} {f : FaultRec} {s : State} (h : (s.ctx c).id.sys = false) :
    ((parkPage c f s).ctx c).bank = .faulted ∧
      ((parkPage c f s).ctx c).preq = some ⟨f.tval, f.cause, f.fetch, f.pe, timeOf s c, false, none⟩ ∧
      ((parkPage c f s).ctx c).regs = { (s.ctx c).regs with pc := (oldest (s.ctx c)).start } ∧
      ((parkPage c f s).ctx c).id.sys = false ∧ ((parkPage c f s).ctx c).trap = (s.ctx c).trap := by
  have hd := discardAll_ctx_same c s
  rw [parkPage_ctx_same h]
  exact ⟨rfl, rfl, hd.regs, by rw [← h, ← hd.id], hd.trap⟩

/-- Settles O42: each kind of closing by the equation of `retireHeld` for it, the faults by `takeFault`. -/
theorem regionsRetire : Obligations.RegionsRetire := by
  refine ⟨fun s c hrun hlong => ?_, fun s c hrun => ?_⟩
  · refine ⟨fun r hr hclosed hfault hbad hleft hdone => ?_, fun how ho hclosed hfault hbad hleft hdone => ?_⟩
    · obtain ⟨how, hhow⟩ := Option.isSome_iff_exists.1 hclosed
      refine ⟨_, (exec_regionRetire hrun).trans
        (congrArg _ (tryRetire_older hr hhow hfault hbad hlong hleft hdone)), ?_⟩
      dsimp only
      rw [State.modCtx_ctx_same, retireEffects_ctx_same]
      exact ⟨rfl, rfl, rfl, rfl, retireEffects_mem c r s, retireEffects_weir c r s, commitSync_red, commitSync_deferred⟩
    · have hexec : exec (.regionRetire c) s = .next (retireHeld c (s.ctx c).reg how s) :=
        (exec_regionRetire hrun).trans (congrArg _ (tryRetire_held ho hclosed hfault hbad hlong hleft hdone))
      refine ⟨?_, ?_, ?_, ?_, ?_, ?_, ?_⟩
      · rintro rfl
        exact ⟨_, hexec, heldRetired_goesOn c (s.ctx c).reg s⟩
      · rintro imm rfl hk
        exact ⟨_, hexec, retireHeld_trap hk 12 (imm.setWidth 64)⟩
      · rintro rfl hk
        obtain ⟨htrap, hkind, -⟩ := retireHeld_trap (r := (s.ctx c).reg) hk 13 0
        exact ⟨_, hexec, htrap, hkind⟩
      · rintro rfl hsys
        exact ⟨_, hexec, retireHeld_done_ends hsys⟩
      · rintro max rfl hpass
        rw [retireHeld_guard_pass (verdict_pass hpass)] at hexec
        exact ⟨_, hexec, heldRetired_goesOn c (s.ctx c).reg s⟩
      · rintro max w o rfl hsys hgd hw hmet htask hfb hg hop
        rw [retireHeld_guard_fail (verdict_fail hsys hgd hw hmet htask hfb hg)] at hexec
        have hweir := endItem_weir (c := c) (how := .guardFailed) (s := s)
        rw [oldest_of_none ho] at hweir
        exact ⟨_, hexec, endItem_ended .., hweir, endItem_guardFailed_op hw hop⟩
      · rintro max w rfl hk hgd hw hmet hq
        rw [retireHeld_guard_mismatch (verdict_mismatch hk.1 hgd hw hmet)] at hexec
        exact ⟨_, hexec, trapped_of_markerFault hk ho hfault hbad hq rfl _⟩
  · intro x ho hsys htvec hbad
    have hold : oldest (s.ctx c) = (s.ctx c).reg := oldest_of_none ho
    refine ⟨fun hfault hlen => ?_, fun f hf hp => ?_, fun f hf hp => ?_⟩
    · have hlong : overlong s c = true := by
        rw [overlong, hold]
        exact decide_eq_true hlen
      refine ⟨_, exec_regionOverrun hrun hlong, ?_⟩
      rw [overrun, hold]
      exact trapped_of_recordFault ⟨hsys, htvec⟩ ho hfault hbad rfl
    · have hkind : faultKind (s.ctx c) = some false := by
        rw [faultKind, hold, hf, Option.map_some, hp]
      refine ⟨_, exec_trapEntry hrun hkind, ?_⟩
      rw [takeFault_of_trap (by rw [hold]; exact hf) (by rw [hold]; exact hbad) hp, ← hold]
      exact trapped_of_takeFaultTrap ⟨hsys, htvec⟩ f.cause f.tval
    · have hkind : faultKind (s.ctx c) = some true := by
        rw [faultKind, hold, hf, Option.map_some, hp]
      refine ⟨_, exec_pageFault hrun hkind, ?_⟩
      rw [takeFault_of_page (by rw [hold]; exact hf) (by rw [hold]; exact hbad) hp]
      have hparks := parkPage_parks (c := c) (f := f) (s := s) hsys
      rwa [hold] at hparks

end Sys2Proof.Machine

end

section

/-! PROOFS. Queues: packets that begin and end, and the error state (spec/17 R337). -/

namespace Sys2Proof.Machine

/-! ## A queue that is served -/

/-- A queue that is neither disabled, nor being disabled, nor in its error state. -/
def Serving (st : QState) : Prop := st ≠ .disabled ∧ st ≠ .error ∧ st ≠ .draining

theorem serving_of_served {s : State} {q : QueueId} (h : served s q = true) : Serving (s.queue q).st := by
  have hst := (Bool.and_eq_true_iff.1 h).2
  unfold Serving
  cases hq : (s.queue q).st <;> simp [hq] at hst ⊢

theorem served_of_beginning {s : State} {q : QueueId} {ty : Nat} {p : Pkt} (h : beginning s q ty = some p) :
    served s q = true ∧ p ∈ (s.queue q).pkts ∧ p.begun = false := by
  unfold beginning at h
  split at h
  · next hs =>
    have hfind := (Option.filter_eq_some_iff.1 h).1
    exact ⟨hs, List.mem_of_find?_eq_some hfind, by simpa using List.find?_some hfind⟩
  · cases h

theorem served_of_openPkt {s : State} {q : QueueId} {ty : Nat} {p : Pkt} (h : openPkt s q ty = some p) :
    served s q = true := by
  unfold openPkt at h
  split at h
  · next hs => exact hs
  · cases h

theorem queueState_serving {s : State} {q : QueueId} (h : Serving (s.queue q).st) : queueState s q ≠ .disabled := by
  obtain ⟨hdis, herr, hdrain⟩ := h
  unfold queueState
  extract_lets x
  split
  · next hx => exact absurd hx hdis
  · next hx => exact absurd hx herr
  · next hx => exact absurd hx hdrain
  · split
    · exact fun h => by cases h
    · split <;> exact fun h => by cases h

theorem settleQueue_queue_same {s : State} {q : QueueId} (h : Serving (s.queue q).st) :
    (settleQueue q s).queue q = { s.queue q with st := queueState s q } := by
  unfold settleQueue
  extract_lets st
  rw [State.modQueue_queue_same, if_neg (queueState_serving h)]

theorem settleQueue_queuesSame (q : QueueId) (s : State) : queuesSame s (settleQueue q s) q :=
  fun _ hr => State.modQueue_queue_other _ _ _ _ hr

/-- A packet that completes leaves its queue. -/
theorem endPkt_ends {s : State} {q : QueueId} (h : Serving (s.queue q).st) (p : Pkt) :
    pktEnded (s.queue q) ((endPkt q p.index s).queue q) p := by
  unfold endPkt pktEnded
  rw [settleQueue_queue_same (by rw [State.modQueue_queue_same]; exact h), State.modQueue_queue_same]

theorem endPkt_queuesSame (q : QueueId) (i : Word32) (s : State) : queuesSame s (endPkt q i s) q := by
  intro r hr
  exact (settleQueue_queuesSame q _ r hr).trans (State.modQueue_queue_other _ _ _ _ hr)

/-- A packet that begins stands in its queue. -/
theorem beginPkt_has {s : State} {q : QueueId} {p : Pkt} (h : Serving (s.queue q).st) (hp : p ∈ (s.queue q).pkts) :
    hasPkt (beginPkt q p.index s) q p.index fun _ => True := by
  unfold hasPkt beginPkt
  rw [settleQueue_queue_same (by rw [modPkt, State.modQueue_queue_same]; exact h), modPkt, State.modQueue_queue_same]
  exact ⟨{ p with begun := true }, List.mem_map.2 ⟨p, hp, if_pos rfl⟩, rfl, rfl, trivial⟩

theorem beginPkt_queuesSame (q : QueueId) (i : Word32) (s : State) : queuesSame s (beginPkt q i s) q := by
  intro r hr
  exact (settleQueue_queuesSame q _ r hr).trans (State.modQueue_queue_other _ _ _ _ hr)

/-! ## What an error leaves -/

theorem raiseIrq_queues (fn : Fin 2) (vec : Fin 66) (s : State) : (raiseIrq fn vec s).queues = s.queues := by
  unfold raiseIrq
  split <;> rfl

theorem queueIrq_queues (q : QueueId) (s : State) : (queueIrq q s).queues = s.queues := by
  unfold queueIrq
  split
  · exact raiseIrq_queues ..
  · rfl

theorem State.queue_congr {s t : State} (h : t.queues = s.queues) (q : QueueId) : t.queue q = s.queue q := by
  rw [State.queue, State.queue, h]

theorem endSavedOf_work (f : Ctx → Bool) (k : CoreId) (s : State) : ContextWork s (endSavedOf f k s) := by
  refine ContextWork.foldl (fun s v => ?_) _ s
  split
  · exact .refl s
  · split
    · exact .modCtx s _ _
    · exact .refl s

theorem bumpSaved_work (id : Nat) (s : State) : ContextWork s (bumpSaved id s) :=
  ContextWork.foldl (fun s k => endSavedOf_work _ k s) _ s

theorem State.modOp_queues (s : State) (id : Nat) (f : Operator → Operator) : (s.modOp id f).queues = s.queues := rfl

theorem dropOp_queues (id : Nat) (s : State) : (dropOp id s).queues = s.queues := by
  unfold dropOp
  extract_lets s₁ s₂ s₃ s₄
  have h₁ : s₁.queues = s.queues := foldl_keeps (g := State.queues) (fun s c => (killCtx_work c s).queues) _ s
  have h₂ : s₂.queues = s₁.queues := (bumpSaved_work id s₁).queues
  have h₃ : s₃.queues = s₂.queues := by
    clear_value s₂
    rfl
  have h₄ : s₄.queues = s₃.queues := State.modOp_queues ..
  rw [foldl_keeps (g := State.queues) (fun s g => (settleFiller_work g s).queues), h₄, h₃, h₂, h₁]

theorem enterError_queue_same (q : QueueId) (code : Nat) (e : Word32) (s : State) :
    (enterError q code e s).queue q = errorQueue code e (s.queue q) := by
  unfold enterError
  extract_lets s₁ s₂
  have h₂ : s₂.queues = s.queues := foldl_keeps (g := State.queues) (fun s id => dropOp_queues id s) _ s
  rw [State.queue_congr (queueIrq_queues ..), State.modQueue_queue_same, State.queue_congr h₂]

theorem enterError_queue_other {q r : QueueId} (h : r ≠ q) (code : Nat) (e : Word32) (s : State) :
    (enterError q code e s).queue r = s.queue r := by
  unfold enterError
  extract_lets s₁ s₂
  have h₂ : s₂.queues = s.queues := foldl_keeps (g := State.queues) (fun s id => dropOp_queues id s) _ s
  rw [State.queue_congr (queueIrq_queues ..), State.modQueue_queue_other _ _ _ _ h, State.queue_congr h₂]

theorem tlWaiter_of_noPkts {s : State} {q r : QueueId} (h : (s.queue r).pkts = []) : tlWaiter s q r = none := by
  rw [tlWaiter, h]
  rfl

/-- The errors of other queues leave a queue without packets as it is: it waits on no timeline. -/
theorem errorWave_queue_of_noPkts {n : Nat} {q r : QueueId} (h : r ≠ q) (code : Nat) (e : Word32) {s : State}
    (hq : (s.queue q).pkts = []) : (errorWave n r code e s).queue q = s.queue q := by
  induction n generalizing r code e s with
  | zero => rfl
  | succ n ih =>
    unfold errorWave
    split
    · rfl
    · have henter := enterError_queue_other h.symm code e s
      refine (foldl_congr_of (R := fun s t : State => (s.queue q).pkts = [] → t.queue q = s.queue q) (fun _ _ => rfl)
        (fun s t u hst htu hs => ?_) (fun s i hs => ?_) _ _ (by rw [henter]; exact hq)).trans henter
      · rw [htu (by rw [hst hs]; exact hs), hst hs]
      · by_cases hi : i = q
        · subst hi
          rw [tlWaiter_of_noPkts hs]
        · split
          · exact ih hi _ _ hs
          · rfl

/-- A queue that enters the error state is as `errorQueue` says, whatever the queues that wait on it do. -/
theorem queueError_queue_same {q : QueueId} {s : State} (h : (s.queue q).st ≠ .error) (code : Nat) (e : Word32) :
    (queueError q code e s).queue q = errorQueue code e (s.queue q) := by
  rw [queueError, errorWave, if_neg h]
  have henter := enterError_queue_same q code e s
  refine (foldl_congr_of (R := fun s t : State => (s.queue q).pkts = [] → t.queue q = s.queue q) (fun _ _ => rfl)
    (fun s t u hst htu hs => ?_) (fun s i hs => ?_) _ _ (by rw [henter]; rfl)).trans henter
  · rw [htu (by rw [hst hs]; exact hs), hst hs]
  · by_cases hi : i = q
    · subst hi
      rw [tlWaiter_of_noPkts hs]
    · split
      · exact errorWave_queue_of_noPkts hi _ _ hs
      · rfl

/-- A queue that is served and meets an error stands in its error state. -/
theorem queueError_errored {q : QueueId} {s : State} (h : Serving (s.queue q).st) {code : Nat} (hc : code < 256)
    (e : Word32) : errored ((queueError q code e s).queue q) code e := by
  rw [queueError_queue_same h.2.1]
  refine ⟨if_neg h.2.2, ?_, rfl, rfl⟩
  simp only [errorQueue, BitVec.toNat_ofNat]
  exact Nat.mod_eq_of_lt hc

end Sys2Proof.Machine

end

section

/-! PROOFS. Invalidations (O54; spec/03 R59, R60, spec/17 R344). -/

namespace Sys2Proof.Machine

/-! ## What a packet names -/

/-- The translations that an INVAL packet names, by the fields of its words. -/
def InvalNamed (p : Pkt) (e : TlbEntry) : Prop :=
  let hint := p.words[1].toNat / 2 ^ 12 % 8
  let base := p.words[2].toNat % 2 ^ 32
  let len := p.words[3].toNat % 2 ^ 32
  let meets := fun (u n : Nat) => len = 0 ∨ (base < u + n ∧ u < base + len)
  (if e.gl = true then p.words[1].getLsbD 9 = true
    else p.words[1].getLsbD 8 = true ∨ e.asid.toNat = p.words[1].toNat % 256) ∧
  (hint = 0 ∨ (e.big = true ∧ hint = 3) ∨ (e.big = false ∧ hint = 4)) ∧
  (if e.big = true then meets (32 * e.vpage) 32 else meets e.vpage 1)

theorem invalArgs_hint (p : Pkt) : (invalArgs p).hint = p.words[1].toNat / 2 ^ 12 % 8 := by
  simp [invalArgs, Nat.shiftRight_eq_div_pow]

theorem invalArgs_base (p : Pkt) : (invalArgs p).base = p.words[2].toNat % 2 ^ 32 := by
  simp [invalArgs]

theorem invalArgs_len (p : Pkt) : (invalArgs p).len = p.words[3].toNat % 2 ^ 32 := by
  simp [invalArgs]

theorem invalArgs_asid (p : Pkt) (b : BitVec 8) :
    (b == (invalArgs p).asid) = true ↔ b.toNat = p.words[1].toNat % 256 := by
  simp [invalArgs, ← BitVec.toNat_inj]

theorem invalArgs_meets (p : Pkt) (u n : Nat) :
    (invalArgs p).meets u n = true ↔ p.words[3].toNat % 2 ^ 32 = 0 ∨
      (p.words[2].toNat % 2 ^ 32 < u + n ∧ u < p.words[2].toNat % 2 ^ 32 + p.words[3].toNat % 2 ^ 32) := by
  simp only [InvalArgs.meets, invalArgs_base, invalArgs_len, Bool.or_eq_true, Bool.and_eq_true, beq_iff_eq,
    decide_eq_true_eq]

theorem names_iff (p : Pkt) (e : TlbEntry) : (invalArgs p).names e = true ↔ InvalNamed p e := by
  have hall : (invalArgs p).all = p.words[1].getLsbD 8 := rfl
  have hglb : (invalArgs p).glb = p.words[1].getLsbD 9 := rfl
  simp only [InvalArgs.names, InvalNamed, Bool.and_eq_true, Bool.or_eq_true, and_assoc]
  refine and_congr ?_ (and_congr ?_ ?_)
  · cases e.gl <;> simp only [Bool.false_eq_true, if_false, if_true, Bool.or_eq_true, hall, hglb, invalArgs_asid]
  · cases e.big <;> simp [invalArgs_hint]
  · cases e.big <;> simp only [Bool.false_eq_true, if_false, if_true, invalArgs_meets]

/-- A region has used a translation that a packet names. -/
def InvalHit (p : Pkt) (r : Region) : Prop := ∃ e ∈ r.used, InvalNamed p e

theorem hit_iff (p : Pkt) (r : Region) : (r.used.any (invalArgs p).names) = true ↔ InvalHit p r := by
  simp only [List.any_eq_true, names_iff, InvalHit]

/-- A region of a context has used a translation that a packet names. -/
def InvalUsed (p : Pkt) (x : Ctx) : Prop := InvalHit p x.reg ∨ ∃ r, x.older = some r ∧ InvalHit p r

theorem usedBy_of_older {p : Pkt} {x : Ctx} {r : Region} (hr : x.older = some r) (hit : InvalHit p r) :
    usedBy (invalArgs p) x = some r.epoch := by
  simp only [usedBy, hr, (hit_iff p r).2 hit, if_true]

theorem usedBy_of_open {p : Pkt} {x : Ctx} (ho : ∀ r, x.older = some r → ¬ InvalHit p r) (hit : InvalHit p x.reg) :
    usedBy (invalArgs p) x = some x.reg.epoch := by
  have hreg := (hit_iff p x.reg).2 hit
  cases hr : x.older with
  | none => simp only [usedBy, hr, hreg, if_true]
  | some r =>
    have hr' : ¬ (r.used.any (invalArgs p).names) = true := fun h => ho r hr ((hit_iff p r).1 h)
    simp only [usedBy, hr, hreg, if_neg hr', if_true]

theorem usedBy_of_unused {p : Pkt} {x : Ctx} (h : ¬ InvalUsed p x) : usedBy (invalArgs p) x = none := by
  have hreg : ¬ (x.reg.used.any (invalArgs p).names) = true := fun hx => h (.inl ((hit_iff p _).1 hx))
  cases hr : x.older with
  | none => simp only [usedBy, hr, if_neg hreg]
  | some r =>
    have hr' : ¬ (r.used.any (invalArgs p).names) = true := fun hx => h (.inr ⟨r, hr, (hit_iff p r).1 hx⟩)
    simp only [usedBy, hr, if_neg hr', if_neg hreg]

theorem usedBy_isSome_iff (p : Pkt) (x : Ctx) : (usedBy (invalArgs p) x).isSome = true ↔ InvalUsed p x := by
  constructor
  · intro h
    by_contra hn
    rw [usedBy_of_unused hn] at h
    cases h
  · intro h
    by_cases ho : ∃ r, x.older = some r ∧ InvalHit p r
    · obtain ⟨r, hr, hit⟩ := ho
      rw [usedBy_of_older hr hit]
      rfl
    · have hreg : InvalHit p x.reg := h.resolve_right ho
      rw [usedBy_of_open (fun r hr hit => ho ⟨r, hr, hit⟩) hreg]
      rfl

theorem invalHeld_iff (p : Pkt) (s : State) : invalHeld (invalArgs p) s = true ↔
    ∃ c, ((s.ctx c).bank = .running ∧ InvalUsed p (s.ctx c)) ∧ (s.casc (cascOf c)).hold = true := by
  simp only [invalHeld, List.any_eq_true, List.mem_finRange, true_and, Bool.and_eq_true, beq_iff_eq, heldClock,
    usedBy_isSome_iff, and_comm (b := (s.ctx _).bank = .running)]

/-! ## The regions that are discarded -/

/-- The turn of a context at an INVAL: its oldest region that has used a translation named is discarded. -/
def invalTurn (a : InvalArgs) (s : State) (c : CtxId) : State :=
  match usedBy a (s.ctx c) with
  | some e => if (s.ctx c).bank = .running then discard c e s else s
  | none => s

theorem invalRegions_eq (a : InvalArgs) (s : State) :
    invalRegions a s = (List.finRange 128).foldl (invalTurn a) s := rfl

theorem invalTurn_of_some {a : InvalArgs} {s : State} {c : CtxId} {e : Nat} (he : usedBy a (s.ctx c) = some e)
    (hb : (s.ctx c).bank = .running) : invalTurn a s c = discard c e s := by
  simp only [invalTurn, he, hb, if_true]

theorem invalTurn_cases (a : InvalArgs) (s : State) (c : CtxId) :
    invalTurn a s c = s ∨ ∃ e, invalTurn a s c = discard c e s := by
  unfold invalTurn
  split
  · next e _ =>
    split
    · exact .inr ⟨e, rfl⟩
    · exact .inl rfl
  · exact .inl rfl

theorem invalTurn_work (a : InvalArgs) (s : State) (c : CtxId) : ContextWork s (invalTurn a s c) := by
  obtain h | ⟨e, h⟩ := invalTurn_cases a s c
  · rw [h]
    exact .refl s
  · rw [h]
    exact discard_work c e s

theorem invalTurn_ctx_other (a : InvalArgs) (s : State) {c d : CtxId} (hd : d ≠ c) :
    (invalTurn a s c).ctx d = s.ctx d := by
  obtain h | ⟨e, h⟩ := invalTurn_cases a s c
  · rw [h]
  · rw [h, discard_ctx_other hd]

theorem invalTurn_weir (a : InvalArgs) (s : State) (c : CtxId) (h : HalfId) :
    ((invalTurn a s c).half h).weir ⊆ (s.half h).weir := by
  obtain hc | ⟨e, hc⟩ := invalTurn_cases a s c
  · rw [hc]
    exact List.Subset.refl _
  · rw [hc, discard_half]
    split
    · exact List.filter_subset_self _
    · exact List.Subset.refl _

/-- What a packet leaves of the context that had been `x`. -/
def InvalLeaves (p : Pkt) (x : Ctx) (c : CtxId) (t : State) : Prop :=
  if x.bank = .running then
    match usedBy (invalArgs p) x with
    | some e => (∃ n, Reopened (replayed e x) n x (t.ctx c)) ∧
        ∀ w ∈ (t.half (halfOf c)).weir, w.ctx = c → w.committed = false → w.epoch < (replayed e x).epoch
    | none => t.ctx c = x
  else t.ctx c = x

theorem invalTurn_leaves (p : Pkt) (s : State) (c : CtxId) :
    InvalLeaves p (s.ctx c) c (invalTurn (invalArgs p) s c) := by
  unfold InvalLeaves
  split
  · next hb =>
    split
    · next e he =>
      rw [invalTurn_of_some he hb]
      refine ⟨⟨_, discard_ctx_same c e s⟩, ?_⟩
      rw [discard_half, if_pos rfl]
      intro w hw hc hcom
      simpa [hc, hcom] using (List.mem_filter.1 hw).2
    · next he => simp only [invalTurn, he]
  · next hb =>
    have hs : invalTurn (invalArgs p) s c = s := by
      unfold invalTurn
      split
      · rw [if_neg hb]
      · rfl
    rw [hs]

/-- The turns of other contexts keep what a turn has left. -/
theorem InvalLeaves.turn {p : Pkt} {x : Ctx} {c d : CtxId} {s : State} (h : InvalLeaves p x c s) (hd : c ≠ d) :
    InvalLeaves p x c (invalTurn (invalArgs p) s d) := by
  have hctx := invalTurn_ctx_other (invalArgs p) s hd
  unfold InvalLeaves at h ⊢
  rw [hctx]
  split
  · next hb =>
    rw [if_pos hb] at h
    split
    · next e he =>
      rw [he] at h
      exact ⟨h.1, fun w hw => h.2 w (invalTurn_weir _ s d _ hw)⟩
    · next he =>
      rw [he] at h
      exact h
  · next hb =>
    rw [if_neg hb] at h
    exact h

theorem invalTurns_keep {p : Pkt} {x : Ctx} {c : CtxId} {l : List CtxId} (hc : c ∉ l) {s : State}
    (h : InvalLeaves p x c s) : InvalLeaves p x c (l.foldl (invalTurn (invalArgs p)) s) := by
  induction l generalizing s with
  | nil => exact h
  | cons d l ih =>
    exact ih (fun hl => hc (List.mem_cons_of_mem _ hl)) (h.turn fun hcd => hc (hcd ▸ List.mem_cons_self))

theorem invalTurns_leave {p : Pkt} {c : CtxId} {l : List CtxId} (hl : l.Nodup) (hc : c ∈ l) (s : State) :
    InvalLeaves p (s.ctx c) c (l.foldl (invalTurn (invalArgs p)) s) := by
  induction l generalizing s with
  | nil => cases hc
  | cons d l ih =>
    obtain ⟨hd, hl⟩ := List.nodup_cons.1 hl
    rcases List.mem_cons.1 hc with rfl | hc
    · exact invalTurns_keep hd (invalTurn_leaves p s c)
    · have hcd : c ≠ d := fun h => hd (h ▸ hc)
      have h := ih hl hc (invalTurn (invalArgs p) s d)
      rwa [invalTurn_ctx_other _ s hcd] at h

theorem invalRegions_leaves (p : Pkt) (s : State) (c : CtxId) :
    InvalLeaves p (s.ctx c) c (invalRegions (invalArgs p) s) := by
  rw [invalRegions_eq]
  exact invalTurns_leave (List.nodup_finRange 128) (List.mem_finRange c) s

theorem invalRegions_work (a : InvalArgs) (s : State) : ContextWork s (invalRegions a s) := by
  rw [invalRegions_eq]
  exact .foldl (invalTurn_work a) _ s

end Sys2Proof.Machine

end

section

/-! PROOFS. The statement about INVAL and PAGE_RESP (O54; spec/03 R59 to R62, spec/17 R344, spec/18 R358, R364). -/

namespace Sys2Proof.Machine

/-! ## INVAL -/

theorem invalTlbs_core (a : InvalArgs) (s : State) (k : CoreId) :
    ((invalTlbs a s).core k).tlb = (s.core k).tlb.filter fun t => !a.names t := by
  simp [invalTlbs, State.core]

theorem invalTlbs_half (a : InvalArgs) (s : State) (h : HalfId) :
    ((invalTlbs a s).half h).tlb = (s.half h).tlb.filter fun t => !a.names t := by
  simp [invalTlbs, State.half]

theorem mem_unnamed_iff (p : Pkt) (l : List TlbEntry) (e : TlbEntry) :
    e ∈ l.filter (fun t => !(invalArgs p).names t) ↔ e ∈ l ∧ ¬ InvalNamed p e := by
  rw [List.mem_filter, ← names_iff, Bool.not_eq_true', Bool.not_eq_true]

/-- The state of the part once a packet has cleared the TLBs and discarded the regions. -/
def invalidated (p : Pkt) (s : State) : State := invalRegions (invalArgs p) (invalTlbs (invalArgs p) s)

theorem invalidated_queues (p : Pkt) (s : State) : (invalidated p s).queues = s.queues :=
  (invalRegions_work _ _).queues

theorem invalidated_core (p : Pkt) (s : State) (k : CoreId) (e : TlbEntry) :
    e ∈ ((invalidated p s).core k).tlb ↔ e ∈ (s.core k).tlb ∧ ¬ InvalNamed p e := by
  rw [invalidated, (invalRegions_work _ _).tlb, invalTlbs_core, mem_unnamed_iff]

theorem invalidated_half (p : Pkt) (s : State) (h : HalfId) (e : TlbEntry) :
    e ∈ ((invalidated p s).half h).tlb ↔ e ∈ (s.half h).tlb ∧ ¬ InvalNamed p e := by
  rw [invalidated, (invalRegions_work _ _).half, ← mem_unnamed_iff, ← invalTlbs_half]

theorem invalidated_leaves (p : Pkt) (s : State) (c : CtxId) : InvalLeaves p (s.ctx c) c (invalidated p s) :=
  invalRegions_leaves p (invalTlbs (invalArgs p) s) c

/-- A context no region of which is discarded is as it was. -/
theorem invalidated_ctx_of_unstruck {p : Pkt} {s : State} {c : CtxId}
    (h : ¬ ((s.ctx c).bank = .running ∧ InvalUsed p (s.ctx c))) : (invalidated p s).ctx c = s.ctx c := by
  have hl := invalidated_leaves p s c
  unfold InvalLeaves at hl
  split at hl
  · next hb =>
    rw [usedBy_of_unused fun hu => h ⟨hb, hu⟩] at hl
    exact hl
  · exact hl

/-- A running context is at the start of the oldest region that has used a translation named. -/
theorem invalidated_ctx_of_struck {p : Pkt} {s : State} {c : CtxId} {r : Region} (hb : (s.ctx c).bank = .running)
    (hu : InvalUsed p (s.ctx c)) (hlt : ∀ o, (s.ctx c).older = some o → o.epoch < (s.ctx c).reg.epoch)
    (hr : ((s.ctx c).older = some r ∧ InvalHit p r) ∨
      (r = (s.ctx c).reg ∧ ∀ o, (s.ctx c).older = some o → ¬ InvalHit p o)) :
    let y := (invalidated p s).ctx c
    y.regs = { (s.ctx c).regs with pc := r.start } ∧ y.front = r.front ∧ y.reg.count = 0 ∧ y.reg.used = [] ∧
      y.older = (if (s.ctx c).older = some r then none else (s.ctx c).older) ∧
      ∀ w ∈ ((invalidated p s).half (halfOf c)).weir, w.ctx = c → w.committed = false → w.epoch < r.epoch := by
  have hkey : usedBy (invalArgs p) (s.ctx c) = some r.epoch ∧ replayed r.epoch (s.ctx c) = r ∧
      (if (s.ctx c).reg.epoch = r.epoch then (s.ctx c).older else none) =
        if (s.ctx c).older = some r then none else (s.ctx c).older := by
    rcases hr with ⟨hr, hit⟩ | ⟨rfl, ho⟩
    · have hne : (s.ctx c).reg.epoch ≠ r.epoch := (hlt r hr).ne'
      exact ⟨usedBy_of_older hr hit, replayed_of_older hr (le_refl _), by rw [if_neg hne, if_pos hr]⟩
    · have hne : (s.ctx c).older ≠ some (s.ctx c).reg := fun h => absurd (hlt _ h) (Nat.lt_irrefl _)
      have hreg : InvalHit p (s.ctx c).reg := hu.resolve_right fun ⟨o, h, hit⟩ => ho o h hit
      exact ⟨usedBy_of_open ho hreg, replayed_of_younger hlt, by rw [if_pos rfl, if_neg hne]⟩
  obtain ⟨hused, hrep, holder⟩ := hkey
  have hl := invalidated_leaves p s c
  rw [InvalLeaves, if_pos hb, hused] at hl
  simp only [hrep] at hl
  obtain ⟨⟨n, hre⟩, hweir⟩ := hl
  intro y
  exact ⟨hre.regs, hre.front, by rw [hre.reg]; rfl, by rw [hre.reg]; rfl, hre.older.trans holder, hweir⟩

theorem exec_inval {s : State} {q : QueueId} {p : Pkt} (hp : beginning s q 0x20 = some p) :
    exec (.inval q) s =
      if (invalArgs p).hint ≠ 0 ∧ (invalArgs p).hint ≠ 3 ∧ (invalArgs p).hint ≠ 4 then .next (queueError q 1 p.index s)
      else if invalHeld (invalArgs p) s then .next s
      else .next (beginPkt q p.index (invalidated p s)) := by
  show execInval q s = _
  rw [execInval, hp]
  rfl

theorem exec_invalComplete {s : State} {q : QueueId} {p : Pkt} (hp : openPkt s q 0x20 = some p) :
    exec (.invalComplete q) s =
      if invalSettled (invalArgs p) s then .next (endPkt q p.index s) else .next s := by
  show execInvalComplete q s = _
  rw [execInvalComplete, hp]

theorem invalSettled_iff (p : Pkt) (s : State) : invalSettled (invalArgs p) s = true ↔
    (∀ h : HalfId, s.dev.fo.fenced ≠ some h → ∀ w ∈ (s.half h).weir, w.committed = true →
      ∀ e ∈ w.used, ¬ InvalNamed p e) ∧
    ∀ k : CoreId, s.dev.fo.fenced ≠ some (halfOfCore k) → ∀ a ∈ (s.core k).active, ∀ e ∈ a.used, ¬ InvalNamed p e := by
  simp only [invalSettled, Bool.and_eq_true, Bool.not_eq_true', List.any_eq_false, List.mem_finRange, true_implies,
    bne_iff_ne, List.any_eq_true, names_iff, not_and, not_exists]

/-! ## PAGE_RESP -/

/-- The context that an answer names. -/
def answered (p : Pkt) : CtxId :=
  ctxIn (Fin.ofNat 64 (p.words[1].toNat % 64)) (Fin.ofNat 2 (p.words[1].toNat / 64 % 2))

theorem exec_pageResp {s : State} {q : QueueId} {p : Pkt} (hp : beginning s q 0x21 = some p) :
    exec (.pageResp q) s = .next (endPkt q p.index (orLatch (cascOf (answered p))
      (.answer (answered p) (p.words[1].extractLsb' 32 32) (!p.words[1].getLsbD 7))
      (pageAnswer (answered p) (p.words[1].extractLsb' 32 32) (!p.words[1].getLsbD 7)) s)) := by
  have hcore : (p.words[1].extractLsb' 0 6).toNat = p.words[1].toNat % 64 := by
    simp
  have hbank : (p.words[1].extractLsb' 6 1).toNat = p.words[1].toNat / 64 % 2 := by
    simp [Nat.shiftRight_eq_div_pow]
  show execPageResp q s = _
  simp only [execPageResp, hp, hcore, hbank, answered]

theorem gen_eq_iff (w : Word) (g : Word32) : g = w.extractLsb' 32 32 ↔ g.toNat = w.toNat / 2 ^ 32 := by
  have hw : w.toNat / 2 ^ 32 < 2 ^ 32 := by omega
  rw [← BitVec.toNat_inj, BitVec.extractLsb'_toNat, Nat.shiftRight_eq_div_pow, Nat.mod_eq_of_lt hw]

theorem orLatch_of_held {g : CascId} {i : Latched} {f : State → State} {s : State} (h : (s.casc g).hold = true) :
    orLatch g i f s = s.modCasc g fun k => { k with latched := k.latched ++ [i] } := by
  rw [orLatch, if_pos h]

theorem orLatch_of_running {g : CascId} {i : Latched} {f : State → State} {s : State} (h : (s.casc g).hold = false) :
    orLatch g i f s = f s := by
  rw [orLatch, if_neg (by rw [h]; exact Bool.false_ne_true)]

theorem pageAnswer_of_ready {c : CtxId} {gen : Word32} {s : State} {r : PageReq} (hg : (s.ctx c).id.gen = gen)
    (hb : (s.ctx c).bank = .faulted) (hr : (s.ctx c).preq = some r) :
    pageAnswer c gen true s = s.modCtx c fun x => { x with bank := .running, preq := none } := by
  simp only [pageAnswer, hg, hb, hr, and_self, if_true]

theorem pageAnswer_of_failed {c : CtxId} {gen : Word32} {s : State} {r : PageReq} (hg : (s.ctx c).id.gen = gen)
    (hb : (s.ctx c).bank = .faulted) (hr : (s.ctx c).preq = some r) :
    pageAnswer c gen false s = takeTrap c r.cause (s.ctx c).regs.pc r.va false s := by
  simp only [pageAnswer, hg, hb, hr, and_self, if_true, Bool.false_eq_true, if_false]

theorem pageAnswer_of_halted {c : CtxId} {gen : Word32} {s : State} {ok : Bool} (hg : (s.ctx c).id.gen = gen)
    (hb : (s.ctx c).bank = .halted) : pageAnswer c gen ok s = s.modCtx c (keepAnswer ok) := by
  have hne : ¬ (Bank.halted = Bank.faulted) := by decide
  simp only [pageAnswer, hg, hb, hne, and_false, if_false, and_self, if_true]

theorem pageAnswer_of_other {c : CtxId} {gen : Word32} {s : State} {ok : Bool}
    (h : (s.ctx c).id.gen ≠ gen ∨ ((s.ctx c).bank ≠ .faulted ∧ (s.ctx c).bank ≠ .halted)) :
    pageAnswer c gen ok s = answerSaved c gen ok s := by
  have hf : ¬ ((s.ctx c).id.gen = gen ∧ (s.ctx c).bank = .faulted) := fun ⟨hg, hb⟩ =>
    h.elim (fun hn => hn hg) fun hn => hn.1 hb
  have hh : ¬ ((s.ctx c).id.gen = gen ∧ (s.ctx c).bank = .halted) := fun ⟨hg, hb⟩ =>
    h.elim (fun hn => hn hg) fun hn => hn.2 hb
  simp only [pageAnswer, if_neg hf, if_neg hh]

/-- A packet that completes after work that leaves the queues alone. -/
theorem endPkt_after {s u : State} {q : QueueId} (hu : u.queues = s.queues) (h : Serving (s.queue q).st) (p : Pkt) :
    pktEnded (s.queue q) ((endPkt q p.index u).queue q) p := by
  have hq := State.queue_congr hu q
  have he := endPkt_ends (s := u) (q := q) (by rwa [hq]) p
  rwa [hq] at he

theorem endPkt_ctx (q : QueueId) (i : Word32) (s : State) (c : CtxId) : (endPkt q i s).ctx c = s.ctx c := rfl

theorem endPkt_casc (q : QueueId) (i : Word32) (s : State) (g : CascId) : (endPkt q i s).casc g = s.casc g := rfl

theorem beginPkt_ctx (q : QueueId) (i : Word32) (s : State) (c : CtxId) : (beginPkt q i s).ctx c = s.ctx c := rfl

theorem beginPkt_core (q : QueueId) (i : Word32) (s : State) (k : CoreId) : (beginPkt q i s).core k = s.core k := rfl

theorem beginPkt_half (q : QueueId) (i : Word32) (s : State) (h : HalfId) : (beginPkt q i s).half h = s.half h := rfl

/-- Settles O54: INVAL by what its turns leave of each context (`InvalLeaves`), PAGE_RESP by the equations of
`pageAnswer`. -/
theorem invalidationsAndAnswers : Obligations.InvalidationsAndAnswers := by
  refine ⟨fun s q p => ?_, fun s q p hp => ?_⟩
  · refine ⟨fun hp => ?_, fun hp => ?_⟩
    · obtain ⟨hserved, hmem, -⟩ := served_of_beginning hp
      have hserving := serving_of_served hserved
      have hexec := exec_inval hp
      rw [invalArgs_hint] at hexec
      refine ⟨fun hhint hheld => ?_, fun hhint hheld => ?_, fun h0 h3 h4 => ?_⟩
      · have hok : ¬ (p.words[1].toNat / 2 ^ 12 % 8 ≠ 0 ∧ p.words[1].toNat / 2 ^ 12 % 8 ≠ 3 ∧
            p.words[1].toNat / 2 ^ 12 % 8 ≠ 4) := fun ⟨h0, h3, h4⟩ => hhint.elim h0 fun h => h.elim h3 h4
        rw [if_neg hok, if_neg fun h => hheld ((invalHeld_iff p s).1 h)] at hexec
        have hq := State.queue_congr (invalidated_queues p s)
        refine ⟨_, hexec, fun k e => ?_, fun h e => ?_, ?_, fun c hc => ?_, ?_, ?_⟩
        · rw [beginPkt_core]
          exact invalidated_core p s k e
        · rw [beginPkt_half]
          exact invalidated_half p s h e
        · rintro c r ⟨hb, hu⟩ hlt hr
          rw [beginPkt_ctx, beginPkt_half]
          exact invalidated_ctx_of_struck hb hu hlt hr
        · rw [beginPkt_ctx]
          exact invalidated_ctx_of_unstruck hc
        · exact beginPkt_has (by rwa [hq]) (by rwa [hq])
        · exact fun r hr => (beginPkt_queuesSame q _ _ r hr).trans (hq r)
      · have hok : ¬ (p.words[1].toNat / 2 ^ 12 % 8 ≠ 0 ∧ p.words[1].toNat / 2 ^ 12 % 8 ≠ 3 ∧
            p.words[1].toNat / 2 ^ 12 % 8 ≠ 4) := fun ⟨h0, h3, h4⟩ => hhint.elim h0 fun h => h.elim h3 h4
        rwa [if_neg hok, if_pos ((invalHeld_iff p s).2 hheld)] at hexec
      · rw [if_pos ⟨h0, h3, h4⟩] at hexec
        exact ⟨_, hexec, queueError_errored hserving (by decide) _⟩
    · have hserving := serving_of_served (served_of_openPkt hp)
      have hexec := exec_invalComplete hp
      refine ⟨fun hsettled => ?_, fun hsettled => ?_⟩
      · rw [if_pos ((invalSettled_iff p s).2 hsettled)] at hexec
        exact ⟨_, hexec, endPkt_ends hserving p, endPkt_queuesSame q _ s, rfl⟩
      · rwa [if_neg fun h => hsettled ((invalSettled_iff p s).1 h)] at hexec
  · intro w c hc
    have hserving := serving_of_served (served_of_beginning hp).1
    have hexec := exec_pageResp hp
    rw [show answered p = c from hc.symm] at hexec
    intro x own
    have hown : own ↔ (s.ctx c).id.gen = w.extractLsb' 32 32 := (gen_eq_iff w _).symm
    refine ⟨fun hheld => ?_, fun hfree => ?_⟩
    · rw [orLatch_of_held hheld] at hexec
      refine ⟨_, hexec, rfl, rfl, ?_, endPkt_after rfl hserving p⟩
      rw [endPkt_casc, State.modCasc_casc_same]
    · rw [orLatch_of_running hfree] at hexec
      refine ⟨fun r ho hb hr => ⟨fun hok => ?_, fun hok hsys htvec _ => ?_⟩, fun ho hb => ?_, fun ho => ?_⟩
      · rw [hok, Bool.not_false, pageAnswer_of_ready (hown.1 ho) hb hr] at hexec
        exact ⟨_, hexec, (endPkt_ctx ..).trans (State.modCtx_ctx_same ..), endPkt_after rfl hserving p,
          fun d hd => (endPkt_ctx ..).trans (State.modCtx_ctx_other _ _ _ _ hd), rfl⟩
      · rw [hok, Bool.not_true, pageAnswer_of_failed (hown.1 ho) hb hr,
          takeTrap_of_inKernel ⟨hsys, htvec⟩] at hexec
        refine ⟨_, hexec, ?_⟩
        dsimp only
        rw [endPkt_ctx, State.modCtx_ctx_same]
        exact ⟨rfl, rfl, rfl, rfl, rfl, rfl, endPkt_after rfl hserving p,
          fun d hd => (endPkt_ctx ..).trans (State.modCtx_ctx_other _ _ _ _ hd), rfl⟩
      · rw [pageAnswer_of_halted (hown.1 ho) hb] at hexec
        exact ⟨_, hexec, (endPkt_ctx ..).trans (State.modCtx_ctx_same ..),
          fun d hd => (endPkt_ctx ..).trans (State.modCtx_ctx_other _ _ _ _ hd), rfl, endPkt_after rfl hserving p⟩
      · rw [pageAnswer_of_other (ho.imp_left fun hn h => hn (hown.2 h))] at hexec
        exact ⟨_, hexec, rfl, rfl, endPkt_after rfl hserving p⟩

end Sys2Proof.Machine

end

section

/-! PROOFS. The records of detected errors: what counts them, and what keeps them (spec/13 R264, R266, spec/16 R328). -/

namespace Sys2Proof.Machine

/-! ## What keeps the records -/

/-- The records of errors are as they were: the counts and marks of the halves, the times of the cores, the fields of
the failover block, and a cascade that is reserved for no gang stays so. -/
structure RecordsKept (s t : State) : Prop where
  derr : ∀ h, (t.half h).derr = (s.half h).derr
  unc : ∀ h, (s.half h).unc = true → (t.half h).unc = true
  errTimes : ∀ k, (t.core k).errTimes = (s.core k).errTimes
  fo : t.dev.fo = s.dev.fo
  gangs : ∀ g, (s.casc g).gangs = [] → (t.casc g).gangs = []

theorem RecordsKept.refl (s : State) : RecordsKept s s :=
  ⟨fun _ => rfl, fun _ h => h, fun _ => rfl, rfl, fun _ h => h⟩

theorem RecordsKept.trans {s t u : State} (h : RecordsKept s t) (h' : RecordsKept t u) : RecordsKept s u where
  derr k := (h'.derr k).trans (h.derr k)
  unc k hk := h'.unc k (h.unc k hk)
  errTimes k := (h'.errTimes k).trans (h.errTimes k)
  fo := h'.fo.trans h.fo
  gangs g hg := h'.gangs g (h.gangs g hg)

theorem RecordsKept.foldl {α : Type} {f : State → α → State} (hf : ∀ s a, RecordsKept s (f s a)) (l : List α)
    (s : State) : RecordsKept s (l.foldl f s) :=
  foldl_congr_of .refl (fun _ _ _ => .trans) hf l s

theorem ContextWork.records {s t : State} (h : ContextWork s t) : RecordsKept s t where
  derr k := by rw [h.half]
  unc k hk := by rw [h.half]; exact hk
  errTimes := h.errTimes
  fo := by rw [h.dev]
  gangs g hg := by rw [h.gangs, hg]

theorem modOp_records (s : State) (id : Nat) (f : Operator → Operator) : RecordsKept s (s.modOp id f) :=
  ⟨fun _ => rfl, fun _ h => h, fun _ => rfl, rfl, fun _ h => h⟩

theorem markUnc_records (h : HalfId) (s : State) : RecordsKept s (markUnc h s) where
  derr j := by
    by_cases hj : j = h
    · subst hj
      rw [markUnc, State.modHalf_half_same]
    · rw [markUnc, State.modHalf_half_other _ _ _ _ hj]
  unc j hu := by
    by_cases hj : j = h
    · subst hj
      rw [markUnc, State.modHalf_half_same]
    · rwa [markUnc, State.modHalf_half_other _ _ _ _ hj]
  errTimes _ := rfl
  fo := rfl
  gangs _ hg := hg

theorem endItem_records (c : CtxId) (how : ItemEnd) (s : State) : RecordsKept s (endItem c how s) := by
  cases hw : (s.ctx c).work with
  | none =>
    rw [endItem_of_noWork hw]
    exact (endCtx_work c s).records
  | some w =>
    rw [endItem_of_work hw]
    exact (((endCtx_work c s).records.trans (modOp_records ..)).trans (fillBank_work ..).records).trans
      (settleFiller_work ..).records

theorem takeFaultTrap_records {c : CtxId} {s : State} (h : InKernel (s.ctx c)) (cause : Nat) (tval : Word) :
    RecordsKept s (takeFaultTrap c cause tval s) := by
  unfold takeFaultTrap
  extract_lets u
  have hu : InKernel (u.ctx c) := h.reopened (discardAll_ctx_same c s)
  rw [takeTrap_of_inKernel hu]
  exact ((discard_work ..).trans ((endLease_work c u).trans (.modCtx _ c _))).records

theorem raiseIrq_records (fn : Fin 2) (vec : Fin 66) (s : State) : RecordsKept s (raiseIrq fn vec s) := by
  unfold raiseIrq
  split
  · exact ⟨fun _ => rfl, fun _ h => h, fun _ => rfl, rfl, fun _ h => h⟩
  · exact ⟨fun _ => rfl, fun _ h => h, fun _ => rfl, rfl, fun _ h => h⟩

theorem queueIrq_records (q : QueueId) (s : State) : RecordsKept s (queueIrq q s) := by
  unfold queueIrq
  split
  · exact raiseIrq_records ..
  · exact .refl s

/-- The saved contexts and the reservations of an operator are dropped. -/
theorem dropSaved_records (id : Nat) (s : State) :
    RecordsKept s { s with cores := s.cores.map (dropSaved id), cascs := s.cascs.map (dropCasc id) } where
  derr _ := rfl
  unc _ h := h
  errTimes k := by simp [State.core, dropSaved]
  fo := rfl
  gangs g hg := by
    simp only [State.casc] at hg
    simp [State.casc, dropCasc, hg]

theorem dropOp_records (id : Nat) (s : State) : RecordsKept s (dropOp id s) := by
  unfold dropOp
  extract_lets s₁ s₂ s₃ s₄
  have h₁ : RecordsKept s s₁ := .foldl (fun s c => (killCtx_work c s).records) _ s
  have h₂ : RecordsKept s₁ s₂ := (bumpSaved_work id s₁).records
  have h₃ : RecordsKept s₂ s₃ := dropSaved_records id s₂
  have h₄ : RecordsKept s₃ s₄ := modOp_records s₃ id _
  exact (((h₁.trans h₂).trans h₃).trans h₄).trans (.foldl (fun s g => (settleFiller_work g s).records) _ s₄)

theorem enterError_records (q : QueueId) (code : Nat) (e : Word32) (s : State) :
    RecordsKept s (enterError q code e s) := by
  unfold enterError
  extract_lets s₁ s₂
  have h₁ : RecordsKept s s₁ := .foldl (fun s id => dropOp_records id s) _ s
  have h₂ : RecordsKept s₁ s₂ := ⟨fun _ => rfl, fun _ h => h, fun _ => rfl, rfl, fun _ h => h⟩
  have h₃ : RecordsKept s₂ (s₂.modQueue q (errorQueue code e)) :=
    ⟨fun _ => rfl, fun _ h => h, fun _ => rfl, rfl, fun _ h => h⟩
  exact ((h₁.trans h₂).trans h₃).trans (queueIrq_records q _)

theorem errorWave_records (n : Nat) (q : QueueId) (code : Nat) (e : Word32) (s : State) :
    RecordsKept s (errorWave n q code e s) := by
  induction n generalizing q code e s with
  | zero => exact .refl s
  | succ n ih =>
    unfold errorWave
    split
    · exact .refl s
    · refine (enterError_records q code e s).trans (.foldl (fun s r => ?_) _ _)
      split
      · exact ih ..
      · exact .refl s

theorem queueError_records (q : QueueId) (code : Nat) (e : Word32) (s : State) :
    RecordsKept s (queueError q code e s) := errorWave_records 64 q code e s

/-! ## The gangs of a cascade dropped -/

/-- Reservations dropped: their items are dealt again, which leaves the contexts, the queues, the device and the halves
alone, of a core all but its shadow set, and of an operator its queue, its packet and the count of its entries. -/
structure GangsDropped (s t : State) : Prop where
  ctxs : t.ctxs = s.ctxs
  queues : t.queues = s.queues
  dev : t.dev = s.dev
  halves : t.halves = s.halves
  core : ∀ k, t.core k = { s.core k with shadow := (t.core k).shadow }
  gangs : ∀ g, (t.casc g).gangs ⊆ (s.casc g).gangs
  op : ∀ id o, s.op id = some o → ∃ p, t.op id = some p ∧ p.queue = o.queue ∧ p.entered = o.entered

theorem GangsDropped.refl (s : State) : GangsDropped s s :=
  ⟨rfl, rfl, rfl, rfl, fun _ => rfl, fun _ => List.Subset.refl _, fun _ o h => ⟨o, h, rfl, rfl⟩⟩

theorem GangsDropped.trans {s t u : State} (h : GangsDropped s t) (h' : GangsDropped t u) : GangsDropped s u where
  ctxs := h'.ctxs.trans h.ctxs
  queues := h'.queues.trans h.queues
  dev := h'.dev.trans h.dev
  halves := h'.halves.trans h.halves
  core k := by rw [h'.core, h.core]
  gangs g := List.Subset.trans (h'.gangs g) (h.gangs g)
  op id o ho := by
    obtain ⟨p, hp, hq, he⟩ := h.op id o ho
    obtain ⟨r, hr, hq', he'⟩ := h'.op id p hp
    exact ⟨r, hr, hq'.trans hq, he'.trans he⟩

theorem GangsDropped.foldl {α : Type} {f : State → α → State} (hf : ∀ s a, GangsDropped s (f s a)) (l : List α)
    (s : State) : GangsDropped s (l.foldl f s) :=
  foldl_congr_of .refl (fun _ _ _ => .trans) hf l s

/-- What dealing an item again keeps of its operator. -/
def SameEntry (o p : Operator) : Prop := p.id = o.id ∧ p.queue = o.queue ∧ p.entered = o.entered

theorem returnItem_same (fold : Option (Fin 2)) (it : Item) (o : Operator) : SameEntry o (returnItem fold it o) := by
  unfold returnItem addFallback addRestart
  split
  · exact ⟨rfl, rfl, rfl⟩
  · split
    · exact ⟨rfl, rfl, rfl⟩
    · exact ⟨rfl, rfl, rfl⟩

theorem returnItems_same (fold : Option (Fin 2)) (l : List Item) (o : Operator) :
    SameEntry o (l.foldl (fun o it => returnItem fold it o) o) :=
  foldl_congr_of (R := SameEntry) (fun _ => ⟨rfl, rfl, rfl⟩)
    (fun _ _ _ h h' => ⟨h'.1.trans h.1, h'.2.1.trans h.2.1, h'.2.2.trans h.2.2⟩)
    (fun o it => returnItem_same fold it o) l o

theorem returnGang_dropped (k : Gang) (s : State) : GangsDropped s (returnGang k s) where
  ctxs := rfl
  queues := rfl
  dev := rfl
  halves := rfl
  core _ := rfl
  gangs _ := List.Subset.refl _
  op id o ho := by
    have hsame := returnItems_same s.dev.fo.fold (k.items.filterMap (·.2))
    have hid : ∀ o, ((k.items.filterMap (·.2)).foldl (fun o it => returnItem s.dev.fo.fold it o) o).id = o.id :=
      fun o => (hsame o).1
    unfold returnGang
    by_cases h : id = k.op
    · subst h
      rw [State.modOp_op _ _ hid, ho]
      exact ⟨_, rfl, (hsame o).2⟩
    · rw [State.modOp_op_other _ h hid]
      exact ⟨o, ho, rfl, rfl⟩

theorem modShadow_dropped (s : State) (k : CoreId) (d : Option Dispatch) :
    GangsDropped s (s.modCore k fun c => { c with shadow := d }) where
  ctxs := rfl
  queues := rfl
  dev := rfl
  halves := rfl
  core j := by
    by_cases h : j = k
    · subst h
      rw [State.modCore_core_same]
    · rw [State.modCore_core_other _ _ _ _ h]
  gangs _ := List.Subset.refl _
  op _ o h := ⟨o, h, rfl, rfl⟩

theorem modGangs_dropped (s : State) (g : CascId) (f : Gang → Bool) :
    GangsDropped s (s.modCasc g fun x => { x with gangs := x.gangs.filter f }) where
  ctxs := rfl
  queues := rfl
  dev := rfl
  halves := rfl
  core _ := rfl
  gangs j := by
    by_cases h : j = g
    · subst h
      rw [State.modCasc_casc_same]
      exact List.filter_subset_self _
    · rw [State.modCasc_casc_other _ _ _ _ h]
      exact List.Subset.refl _
  op _ o h := ⟨o, h, rfl, rfl⟩

/-- The turn of a tier when a reservation ends: its shadow dispatch bank is set again. -/
def shadowTurn (g : CascId) (s : State) (i : Fin 4 × Option Item) : State :=
  s.modCore (coreAt g i.1) fun c => { c with shadow := swapShadow s g i.1 }

theorem endReservation_eq (g : CascId) (k : Gang) (s : State) :
    endReservation g k s = k.items.foldl (shadowTurn g)
      (s.modCasc g fun x => { x with gangs := x.gangs.filter fun j => j.num != k.num }) := rfl

theorem endReservation_dropped (g : CascId) (k : Gang) (s : State) : GangsDropped s (endReservation g k s) := by
  rw [endReservation_eq]
  exact (modGangs_dropped s g _).trans
    (.foldl (f := shadowTurn g) (fun s i => modShadow_dropped s (coreAt g i.1) _) _ _)

theorem dropGang_dropped (g : CascId) (k : Gang) (s : State) : GangsDropped s (dropGang g k s) :=
  (returnGang_dropped k s).trans (endReservation_dropped g k _)

/-- A reservation that is dropped is gone. -/
theorem dropGang_gone (g : CascId) (k : Gang) (s : State) : ∀ j ∈ ((dropGang g k s).casc g).gangs, j.num ≠ k.num := by
  rw [dropGang, endReservation_eq, foldl_keeps (g := fun s : State => s.casc g) (f := shadowTurn g) (fun _ _ => rfl),
    State.modCasc_casc_same]
  intro j hj
  simpa using (List.mem_filter.1 hj).2

/-- The turn of a reservation that goes with another one. -/
def partnerTurn (s : State) (j : CascId × Gang) : State := dropGang j.1 j.2 s

theorem partnerTurn_dropped (s : State) (j : CascId × Gang) : GangsDropped s (partnerTurn s j) :=
  dropGang_dropped j.1 j.2 s

/-- The turn of a reservation when all of its cascade are dropped. -/
def dropTurn (g : CascId) (s : State) (k : Gang) : State := (formedWith s k).foldl partnerTurn (dropGang g k s)

theorem dropGangs_eq (g : CascId) (s : State) : dropGangs g s = (s.casc g).gangs.reverse.foldl (dropTurn g) s := rfl

theorem dropTurn_dropped (g : CascId) (s : State) (k : Gang) : GangsDropped s (dropTurn g s k) :=
  (dropGang_dropped g k s).trans (.foldl partnerTurn_dropped _ _)

theorem dropTurn_gone (g : CascId) (s : State) (k : Gang) : ∀ j ∈ ((dropTurn g s k).casc g).gangs, j.num ≠ k.num :=
  fun j hj => dropGang_gone g k s j <|
    (GangsDropped.foldl partnerTurn_dropped (formedWith s k) (dropGang g k s)).gangs g hj

theorem dropTurns_gone (g : CascId) (l : List Gang) (s : State) :
    ∀ k ∈ l, ∀ j ∈ ((l.foldl (dropTurn g) s).casc g).gangs, j.num ≠ k.num := by
  induction l generalizing s with
  | nil => exact fun k hk => by cases hk
  | cons i l ih =>
    intro k hk j hj
    rcases List.mem_cons.1 hk with rfl | hk
    · exact dropTurn_gone g s k j ((GangsDropped.foldl (dropTurn_dropped g) l _).gangs g hj)
    · exact ih _ k hk j hj

theorem dropGangs_dropped (g : CascId) (s : State) : GangsDropped s (dropGangs g s) := by
  rw [dropGangs_eq]
  exact .foldl (dropTurn_dropped g) _ s

theorem dropGangs_gangs (g : CascId) (s : State) : ((dropGangs g s).casc g).gangs = [] := by
  refine List.eq_nil_iff_forall_not_mem.2 fun j hj => ?_
  have hmem := (dropGangs_dropped g s).gangs g hj
  rw [dropGangs_eq] at hj
  exact dropTurns_gone g _ s j (List.mem_reverse.2 hmem) j hj rfl

theorem dropGangs_of_nil {g : CascId} {s : State} (h : (s.casc g).gangs = []) : dropGangs g s = s := by
  rw [dropGangs, h]
  rfl

end Sys2Proof.Machine

end

section

/-! PROOFS. Detected errors: counted, replayed and escalated (spec/10 R193, spec/13 R258 to R266). -/

namespace Sys2Proof.Machine

/-! ## A counted error -/

/-- The times of the errors of a core that still lie in the window. -/
def errorsInWindow (s : State) (k : CoreId) : List Word :=
  (s.core k).errTimes.filter fun t => decide ((s.dev.time - t).toNat < relWindow s)

/-- One more error is too many for a core. -/
def tooManyErrors (s : State) (k : CoreId) : Prop :=
  s.dev.fo.thr ≠ 0 ∧ s.dev.fo.thr.toNat < (errorsInWindow s k).length + 1

/-- The counts after an error has been counted, before a core is retired for it. -/
def errorNoted (k : CoreId) (s : State) : State :=
  (s.modHalf (halfOfCore k) fun h => { h with derr := h.derr + 1 }).modCore k fun x =>
    { x with errTimes := errorsInWindow s k ++ [s.dev.time] }

theorem countError_eq (k : CoreId) (s : State) :
    countError k s = if s.dev.fo.thr ≠ 0 ∧ s.dev.fo.thr.toNat < (errorsInWindow s k ++ [s.dev.time]).length ∧
      !coreRetired s k then retireCore k (errorNoted k s) else errorNoted k s := rfl

theorem countError_cases (k : CoreId) (s : State) :
    (tooManyErrors s k ∧ coreRetired s k = false ∧ countError k s = retireCore k (errorNoted k s)) ∨
      (¬ (tooManyErrors s k ∧ coreRetired s k = false) ∧ countError k s = errorNoted k s) := by
  have hiff : (s.dev.fo.thr ≠ 0 ∧ s.dev.fo.thr.toNat < (errorsInWindow s k ++ [s.dev.time]).length ∧
      (!coreRetired s k) = true) ↔ tooManyErrors s k ∧ coreRetired s k = false := by
    simp [tooManyErrors, and_assoc]
  rw [countError_eq]
  by_cases h : tooManyErrors s k ∧ coreRetired s k = false
  · rw [if_pos (hiff.2 h)]
    exact .inl ⟨h.1, h.2, rfl⟩
  · rw [if_neg fun hc => h (hiff.1 hc)]
    exact .inr ⟨h, rfl⟩

/-- The state in which the mark of a retired core is set, with its cascade still reserved. -/
def retireMarked (k : CoreId) (s : State) : State :=
  s.modDev fun d => { d with fo := { d.fo with coreret := d.fo.coreret ||| (1#64 <<< k.val) } }

theorem retireCore_eq (k : CoreId) (s : State) : retireCore k s = dropGangs (cascOfCore k) (retireMarked k s) := rfl

/-- A counted error leaves the contexts, the queues and the limits of the cores alone, and of an operator its queue and
the count of its entries. -/
structure ErrorCounted (s t : State) : Prop where
  ctx : ∀ c, t.ctx c = s.ctx c
  queue : ∀ q, t.queue q = s.queue q
  replayMax : ∀ k, replayMax (t.core k) = replayMax (s.core k)
  op : ∀ id o, s.op id = some o → ∃ p, t.op id = some p ∧ p.queue = o.queue ∧ p.entered = o.entered

theorem errorNoted_core (k j : CoreId) (s : State) :
    (errorNoted k s).core j = { s.core j with errTimes := ((errorNoted k s).core j).errTimes } := by
  unfold errorNoted
  by_cases h : j = k
  · subst h
    rw [State.modCore_core_same]
    rfl
  · rw [State.modCore_core_other _ _ _ _ h]
    rfl

theorem errorNoted_counted (k : CoreId) (s : State) : ErrorCounted s (errorNoted k s) where
  ctx _ := rfl
  queue _ := rfl
  replayMax j := by rw [errorNoted_core]; rfl
  op _ o h := ⟨o, h, rfl, rfl⟩

theorem retireCore_counted (k : CoreId) (s : State) : ErrorCounted s (retireCore k s) := by
  have h := dropGangs_dropped (cascOfCore k) (retireMarked k s)
  rw [retireCore_eq]
  exact ⟨fun c => by rw [State.ctx, h.ctxs]; rfl, fun q => State.queue_congr h.queues q,
    fun j => by rw [h.core]; rfl, h.op⟩

theorem countError_counted (k : CoreId) (s : State) : ErrorCounted s (countError k s) := by
  have hn := errorNoted_counted k s
  obtain ⟨-, -, h⟩ | ⟨-, h⟩ := countError_cases k s
  · have hr := retireCore_counted k (errorNoted k s)
    rw [h]
    refine ⟨fun c => (hr.ctx c).trans (hn.ctx c), fun q => (hr.queue q).trans (hn.queue q),
      fun j => (hr.replayMax j).trans (hn.replayMax j), fun id o ho => ?_⟩
    obtain ⟨p, hp, hq, he⟩ := hn.op id o ho
    obtain ⟨p', hp', hq', he'⟩ := hr.op id p hp
    exact ⟨p', hp', hq'.trans hq, he'.trans he⟩
  · rw [h]
    exact hn

/-- The operators are as they were when the cascade of the core is reserved for no gang. -/
theorem countError_ops {k : CoreId} {s : State} (h : (s.casc (cascOfCore k)).gangs = []) :
    (countError k s).ops = s.ops := by
  obtain ⟨-, -, hc⟩ | ⟨-, hc⟩ := countError_cases k s
  · rw [hc, retireCore_eq, dropGangs_of_nil (s := retireMarked k (errorNoted k s)) h]
    rfl
  · rw [hc]
    rfl

/-- An error has been counted on the half and the core of a context, and a core with too many is retired. -/
def Recorded (c : CtxId) (s t : State) : Prop :=
  (t.half (halfOf c)).derr = (s.half (halfOf c)).derr + 1 ∧
    (t.core (coreOf c)).errTimes = errorsInWindow s (coreOf c) ++ [s.dev.time] ∧
    (t.dev.fo.coreret.getLsbD (coreOf c).val = true ↔
      s.dev.fo.coreret.getLsbD (coreOf c).val = true ∨ tooManyErrors s (coreOf c)) ∧
    (s.dev.fo.coreret.getLsbD (coreOf c).val = false → tooManyErrors s (coreOf c) → (t.casc (cascOf c)).gangs = [])

theorem errorNoted_derr (c : CtxId) (s : State) :
    ((errorNoted (coreOf c) s).half (halfOf c)).derr = (s.half (halfOf c)).derr + 1 := by
  rw [errorNoted, State.modCore_half, show halfOfCore (coreOf c) = halfOf c from rfl, State.modHalf_half_same]

theorem errorNoted_errTimes (k : CoreId) (s : State) :
    ((errorNoted k s).core k).errTimes = errorsInWindow s k ++ [s.dev.time] := by
  rw [errorNoted, State.modCore_core_same]

theorem retireMarked_coreret (k : CoreId) (s : State) : (retireMarked k s).dev.fo.coreret.getLsbD k.val = true := by
  show (s.dev.fo.coreret ||| (1#64 <<< k.val)).getLsbD k.val = true
  simp

theorem recorded_countError (c : CtxId) (s : State) : Recorded c s (countError (coreOf c) s) := by
  obtain ⟨hmany, hret, h⟩ | ⟨hnot, h⟩ := countError_cases (coreOf c) s
  · have hd := dropGangs_dropped (cascOfCore (coreOf c)) (retireMarked (coreOf c) (errorNoted (coreOf c) s))
    rw [h, retireCore_eq]
    refine ⟨?_, ?_, ⟨fun _ => .inr hmany, fun _ => ?_⟩, fun _ _ => dropGangs_gangs _ _⟩
    · rw [State.half, hd.halves]
      exact errorNoted_derr c s
    · rw [hd.core]
      exact errorNoted_errTimes (coreOf c) s
    · rw [hd.dev]
      exact retireMarked_coreret (coreOf c) _
  · rw [h]
    refine ⟨errorNoted_derr c s, errorNoted_errTimes (coreOf c) s, ⟨fun hr => .inl hr, fun hr => ?_⟩,
      fun hr hmany => ?_⟩
    · by_contra hn
      exact hn (hr.resolve_right fun hmany => hnot ⟨hmany, Bool.not_eq_true _ ▸ hn⟩)
    · exact absurd ⟨hmany, hr⟩ hnot

/-- What keeps the records keeps what the count of an error has left. -/
theorem Recorded.kept {c : CtxId} {s t u : State} (h : Recorded c s t) (hk : RecordsKept t u) : Recorded c s u := by
  obtain ⟨hderr, htimes, hret, hgangs⟩ := h
  exact ⟨(hk.derr _).trans hderr, (hk.errTimes _).trans htimes, by rw [hk.fo]; exact hret,
    fun hr hm => hk.gangs _ (hgangs hr hm)⟩

/-! ## Replay and escalation -/

theorem countedDiscard_of_below {c : CtxId} {e : Nat} {s : State}
    (h : (s.ctx c).cnt.att < replayMax (s.core (coreOf c))) :
    countedDiscard c e s = (discard c e s).modCtx c fun x => { x with cnt := { x.cnt with att := x.cnt.att + 1 } } := by
  rw [countedDiscard, if_pos h]

theorem countedDiscard_of_limit {c : CtxId} {e : Nat} {s : State}
    (h : replayMax (s.core (coreOf c)) ≤ (s.ctx c).cnt.att) : countedDiscard c e s = escalate c e s := by
  rw [countedDiscard, if_neg (Nat.not_lt.2 h)]

theorem escalate_of_handler {c : CtxId} {e : Nat} {s : State} (h : (s.ctx c).id.sys = true) :
    escalate c e s = abortFatal c true s := by
  simp only [escalate, h, if_true]

theorem escalate_of_reexec {c : CtxId} {e : Nat} {s : State} (h : (s.ctx c).id.sys = false)
    (hrx : (s.ctx c).id.rx = true) (ht : (s.ctx c).id.task = false) : escalate c e s = endItem c .restarted s := by
  simp only [escalate, h, hrx, ht, Bool.false_eq_true, if_false, Bool.not_false, Bool.and_self, if_true]

theorem escalate_of_trap {c : CtxId} {e : Nat} {s : State} (h : (s.ctx c).id.sys = false)
    (hre : ¬ ((s.ctx c).id.rx = true ∧ (s.ctx c).id.task = false)) : escalate c e s = raiseUnc c e 0 s := by
  have hre' : ((s.ctx c).id.rx && !(s.ctx c).id.task) = false := by
    rw [← Bool.not_eq_true, Bool.and_eq_true, Bool.not_eq_true']
    exact hre
  simp only [escalate, h, hre', Bool.false_eq_true, if_false]

/-- Below the limit the region runs again from its start. -/
theorem countedDiscard_replays {c : CtxId} {s : State} (h : (s.ctx c).cnt.att < replayMax (s.core (coreOf c)))
    (ho : (s.ctx c).older = none) :
    let t := countedDiscard c (s.ctx c).reg.epoch s
    RecordsKept s t ∧ (t.ctx c).cnt.att = (s.ctx c).cnt.att + 1 ∧ (t.ctx c).cnt.rplTotal = (s.ctx c).cnt.rplTotal + 1 ∧
      (t.ctx c).regs = { (s.ctx c).regs with pc := (s.ctx c).reg.start } ∧ (t.ctx c).front = (s.ctx c).reg.front := by
  have hd := discard_ctx_same c (s.ctx c).reg.epoch s
  rw [replayed_of_younger fun r hr => by rw [ho] at hr; cases hr] at hd
  intro t
  have ht : t = _ := countedDiscard_of_below h
  refine ⟨?_, ?_⟩
  · rw [ht]
    exact ((discard_work ..).trans (.modCtx _ c _)).records
  · rw [ht, State.modCtx_ctx_same]
    exact ⟨by rw [hd.cnt], by rw [hd.cnt], hd.regs, hd.front⟩

/-- At the limit the item of an operator that lets it be run again goes back to its operator. -/
theorem endItem_restarted_op {c : CtxId} {s : State} {w : Work} {p : Operator} (hw : (s.ctx c).work = some w)
    (hp : s.op w.disp.op = some p) :
    let again : Item := { w.item with avoid := some (cascOf c), ord := p.entered + 1 }
    ∃ r, (endItem c .restarted s).op w.disp.op = some r ∧
      (w.item.fb = false → r.restart = insertItem entryBefore again p.restart) ∧
      (w.item.fb = true → again ∈ r.fallback) := by
  intro again
  have hafter : opAfter .restarted w.item (cascOf c) p =
      if w.item.fb = true then addFallback again { p with entered := p.entered + 1 }
      else addRestart again { p with entered := p.entered + 1 } := rfl
  refine ⟨opAfter .restarted w.item (cascOf c) p, by rw [endItem_op hw, hp]; rfl, fun hfb => ?_, fun hfb => ?_⟩
  · rw [hafter, if_neg (by rw [hfb]; exact Bool.false_ne_true)]
    rfl
  · rw [hafter, if_pos hfb]
    exact mem_insertItem ..

theorem entryBefore_later {it i : Item} (hi : i.avoid.isSome = true) (h : i.ord ≤ it.ord) :
    entryBefore it i = false := by
  have hn : i.avoid.isNone = false := by
    rw [← Option.not_isSome, hi]
    rfl
  simp [entryBefore, hn, h]

/-- In a handler the operator is aborted, and its queue has the error code of uncorrectable data. -/
theorem abortFatal_queue {c : CtxId} {s : State} {id : Nat} {o : Operator} (hid : ctxOp (s.ctx c) = some id)
    (ho : s.op id = some o) (hst : (s.queue o.queue).st ≠ .error) :
    let t := abortFatal c true s
    (t.queue o.queue).ecode = 5 ∧ ((t.queue o.queue).st = .error ∨ (t.queue o.queue).st = .disabled) ∧
      (t.half (halfOf c)).unc = true ∧ RecordsKept s t := by
  intro t
  have ht : t = queueError o.queue 5 o.pkt (markUnc (halfOf c) s) := by
    show abortCtx c 5 (markUnc (halfOf c) s) = _
    have hid' : ctxOp ((markUnc (halfOf c) s).ctx c) = some id := hid
    have ho' : (markUnc (halfOf c) s).op id = some o := ho
    simp only [abortCtx, hid', ho']
  have hunc : ((markUnc (halfOf c) s).half (halfOf c)).unc = true := by
    rw [markUnc, State.modHalf_half_same]
  have hq := queueError_queue_same (q := o.queue) (s := markUnc (halfOf c) s) hst 5 o.pkt
  have hkept := queueError_records o.queue 5 o.pkt (markUnc (halfOf c) s)
  rw [ht, hq]
  refine ⟨rfl, ?_, hkept.unc _ hunc, (markUnc_records ..).trans hkept⟩
  simp only [errorQueue]
  split
  · exact .inr rfl
  · exact .inl rfl

end Sys2Proof.Machine

end

section

/-! PROOFS. The statement about errors, page walks and page requests (O43; spec/03 R54, R55, R61, spec/13 R258 to
R266). -/

namespace Sys2Proof.Machine

/-! ## Errors -/

/-- A step counts an error and does something about it. -/
def Strikes (c : CtxId) (s : State) (i : Instr) (f : State → Prop) : Prop :=
  ∃ t, exec i s = .next t ∧ f t ∧ Recorded c s t

section
variable {c : CtxId} {s : State} {i : Instr}

/-- The step discards the only region of a context for an error that it has counted. -/
def StrikesOpen (c : CtxId) (s : State) (i : Instr) : Prop :=
  exec i s = .next (countedDiscard c (s.ctx c).reg.epoch (countError (coreOf c) s))

theorem strikes_of_below (h : StrikesOpen c s i) (ho : (s.ctx c).older = none)
    (hatt : (s.ctx c).cnt.att < replayMax (s.core (coreOf c))) :
    Strikes c s i fun t => (t.ctx c).cnt.att = (s.ctx c).cnt.att + 1 ∧
      (t.ctx c).cnt.rplTotal = (s.ctx c).cnt.rplTotal + 1 ∧
      (t.ctx c).regs = { (s.ctx c).regs with pc := (s.ctx c).reg.start } ∧ (t.ctx c).front = (s.ctx c).reg.front := by
  have hu := countError_counted (coreOf c) s
  have hr := countedDiscard_replays (c := c) (s := countError (coreOf c) s)
    (by rw [hu.ctx, hu.replayMax]; exact hatt) (by rw [hu.ctx]; exact ho)
  rw [hu.ctx] at hr
  exact ⟨_, h, hr.2, (recorded_countError c s).kept hr.1⟩

theorem strikes_of_limit (h : StrikesOpen c s i) (hatt : replayMax (s.core (coreOf c)) ≤ (s.ctx c).cnt.att) :
    exec i s = .next (escalate c (s.ctx c).reg.epoch (countError (coreOf c) s)) := by
  have hu := countError_counted (coreOf c) s
  rw [StrikesOpen, countedDiscard_of_limit (by rw [hu.ctx, hu.replayMax]; exact hatt)] at h
  exact h

theorem strikes_of_reexec (h : StrikesOpen c s i) (hatt : replayMax (s.core (coreOf c)) ≤ (s.ctx c).cnt.att)
    (hsys : (s.ctx c).id.sys = false) (hrx : (s.ctx c).id.rx = true) (htask : (s.ctx c).id.task = false) {w : Work}
    {o : Operator} (hw : (s.ctx c).work = some w) (hop : s.op w.disp.op = some o) :
    Strikes c s i fun t => itemEnded t c ∧ ∃ p, t.op w.disp.op = some p ∧
      let again : Item := { w.item with avoid := some (cascOf c), ord := o.entered + 1 }
      (w.item.fb = false → again ∈ p.restart ∧ ((s.casc (cascOf c)).gangs = [] →
        (∀ i ∈ o.restart, i.avoid.isSome = true ∧ i.ord ≤ o.entered) → p.restart = o.restart ++ [again])) ∧
      (w.item.fb = true → again ∈ p.fallback) := by
  have hu := countError_counted (coreOf c) s
  obtain ⟨p, hp, -, hent⟩ := hu.op _ o hop
  have hexec := strikes_of_limit h hatt
  rw [escalate_of_reexec (by rw [hu.ctx]; exact hsys) (by rw [hu.ctx]; exact hrx)
    (by rw [hu.ctx]; exact htask)] at hexec
  obtain ⟨r, hr, hrestart, hfallback⟩ := endItem_restarted_op (by rw [hu.ctx]; exact hw) hp
  rw [hent] at hrestart hfallback
  refine ⟨_, hexec, ⟨endItem_ended .., r, hr, fun hfb => ⟨?_, fun hg hl => ?_⟩, hfallback⟩,
    (recorded_countError c s).kept (endItem_records ..)⟩
  · rw [hrestart hfb]
    exact mem_insertItem ..
  · have hpo : p = o := by
      rw [State.op_congr (countError_ops hg), hop] at hp
      exact (Option.some.inj hp).symm
    rw [hrestart hfb, hpo]
    exact insertItem_last fun i hi => entryBefore_later (hl i hi).1 (Nat.le_succ_of_le (hl i hi).2)

theorem strikes_of_trap (h : StrikesOpen c s i) (ho : (s.ctx c).older = none)
    (hatt : replayMax (s.core (coreOf c)) ≤ (s.ctx c).cnt.att) (hk : InKernel (s.ctx c))
    (hre : ¬ ((s.ctx c).id.rx = true ∧ (s.ctx c).id.task = false)) :
    Strikes c s i fun t => trapped (s.ctx c) (t.ctx c) 11 0 (s.ctx c).reg.start := by
  have hu := countError_counted (coreOf c) s
  have hk' : InKernel ((countError (coreOf c) s).ctx c) := by rw [hu.ctx]; exact hk
  have hexec := strikes_of_limit h hatt
  have hold : oldest ((countError (coreOf c) s).ctx c) = (s.ctx c).reg := by
    rw [hu.ctx]
    exact oldest_of_none ho
  rw [escalate_of_trap hk'.1 (by rw [hu.ctx]; exact hre), raiseUnc, hold, if_pos rfl] at hexec
  have ht := trapped_of_takeFaultTrap hk' 11 0
  rw [hold, hu.ctx] at ht
  exact ⟨_, hexec, ht, (recorded_countError c s).kept (takeFaultTrap_records hk' 11 0)⟩

theorem strikes_of_handler (h : StrikesOpen c s i) (hatt : replayMax (s.core (coreOf c)) ≤ (s.ctx c).cnt.att)
    (hsys : (s.ctx c).id.sys = true) {id : Nat} {o : Operator} (hid : ctxOp (s.ctx c) = some id)
    (hop : s.op id = some o) (hst : (s.queue o.queue).st ≠ .error) :
    Strikes c s i fun t => (t.queue o.queue).ecode = 5 ∧
      ((t.queue o.queue).st = .error ∨ (t.queue o.queue).st = .disabled) ∧ (t.half (halfOf c)).unc = true := by
  have hu := countError_counted (coreOf c) s
  obtain ⟨p, hp, hq, -⟩ := hu.op _ o hop
  have hexec := strikes_of_limit h hatt
  rw [escalate_of_handler (by rw [hu.ctx]; exact hsys)] at hexec
  obtain ⟨hcode, hstate, hunc, hkept⟩ := abortFatal_queue (c := c) (by rw [hu.ctx]; exact hid) hp
    (by rw [hu.queue, hq]; exact hst)
  rw [hq] at hcode hstate
  exact ⟨_, hexec, ⟨hcode, hstate, hunc⟩, (recorded_countError c s).kept hkept⟩

end

theorem exec_detectedError {c : CtxId} {s : State} (b : Bool) (hold : (s.casc (cascOf c)).hold = false) :
    exec (.detectedError ⟨c, b, .replay⟩) s =
      .next (errorDiscard c (errorRegion (s.ctx c) b) (countError (coreOf c) s)) := by
  show Host.Outcome.next (orLatch (cascOf c) _ _ s) = _
  rw [orLatch_of_running hold]
  rfl

theorem errorDiscard_of_issued {c : CtxId} {e : Nat} {s : State} {r : Region} (hb : (s.ctx c).bank = .running)
    (hr : regionOf (s.ctx c) e = some r) (hn : ¬ (0 < (s.ctx c).cnt.att ∧ r.count = 0)) :
    errorDiscard c e s = countedDiscard c e s := by
  have hb' : ¬ ((s.ctx c).bank ≠ .running) := not_not.2 hb
  simp only [errorDiscard, if_neg hb', hr, if_neg hn]

theorem errorDiscard_of_unissued {c : CtxId} {e : Nat} {s : State} {r : Region} (hb : (s.ctx c).bank = .running)
    (hr : regionOf (s.ctx c) e = some r) (hn : 0 < (s.ctx c).cnt.att ∧ r.count = 0) : errorDiscard c e s = s := by
  have hb' : ¬ ((s.ctx c).bank ≠ .running) := not_not.2 hb
  simp only [errorDiscard, if_neg hb', hr, if_pos hn]

theorem regionOf_open (x : Ctx) : regionOf x x.reg.epoch = some x.reg := by
  rw [regionOf, if_pos rfl]

theorem errorRegion_of_none {x : Ctx} (ho : x.older = none) (b : Bool) : errorRegion x b = x.reg.epoch := by
  simp [errorRegion, ho, oldest_of_none ho]

theorem errorRegion_of_some {x : Ctx} {r : Region} (hr : x.older = some r) : errorRegion x true = x.reg.epoch := by
  simp [errorRegion, hr]

/-- A replay error in a region that has issued something discards it. -/
theorem exec_detectedError_issued {c : CtxId} {s : State} {b : Bool} (hold : (s.casc (cascOf c)).hold = false)
    (hb : (s.ctx c).bank = .running) (he : errorRegion (s.ctx c) b = (s.ctx c).reg.epoch)
    (hn : ¬ (0 < (s.ctx c).cnt.att ∧ (s.ctx c).reg.count = 0)) : StrikesOpen c s (.detectedError ⟨c, b, .replay⟩) := by
  have hu := countError_counted (coreOf c) s
  rw [StrikesOpen, exec_detectedError b hold, he,
    errorDiscard_of_issued (by rw [hu.ctx]; exact hb) (by rw [hu.ctx]; exact regionOf_open _)
      (by rw [hu.ctx]; exact hn)]

theorem exec_checksumCompare {k : CoreId} {n : Nat} {u : Upset} {s : State}
    (hold : (s.casc (cascOfCore k)).hold = false) :
    exec (.checksumCompare k n u) s = .next (checksumCompare k n u s) := by
  show Host.Outcome.next (if (s.casc (cascOfCore k)).hold = true then s else checksumCompare k n u s) = _
  rw [hold]
  rfl

theorem checksumCompare_of_fail {k : CoreId} {n : Nat} {u : Upset} {s : State} {d : CheckRec}
    (hd : (s.core k).checks[n]? = some d) (hhit : u.hit = true)
    (hfail : checksumPass { d.due with new := flipBit d.due.new u } = false) :
    checksumCompare k n u s = countedDiscard d.ctx d.epoch (countError k s) := by
  simp only [checksumCompare, hd, hhit, if_true, hfail, Bool.false_eq_true, if_false]

theorem checksumCompare_of_pass {k : CoreId} {n : Nat} {u : Upset} {s : State} {d : CheckRec}
    (hd : (s.core k).checks[n]? = some d) (hhit : u.hit = false) (hpass : checksumPass d.due = true) :
    checksumCompare k n u s = s.modCore k fun q => { q with checks := q.checks.eraseIdx n } := by
  simp only [checksumCompare, hd, hhit, Bool.false_eq_true, if_false, hpass, if_true]

/-- A fault recorded in the younger of two regions. -/
theorem recordFault_younger {x : Ctx} {r : Region} {f : FaultRec} (hr : x.older = some r)
    (hne : r.epoch ≠ x.reg.epoch) (hf : x.reg.fault = none) :
    recordFault x.reg.epoch f x = { x with reg := { x.reg with fault := some f } } := by
  simp only [recordFault, modRegion, hr, if_neg hne, if_true, earlierFault, hf]

/-- In the younger of two regions an error at the limit is a fault that waits for the older one. -/
theorem raiseUnc_younger {c : CtxId} {s : State} {r : Region} (hr : (s.ctx c).older = some r)
    (hlt : r.epoch < (s.ctx c).reg.epoch) (hep : (s.ctx c).reg.epoch ≤ (s.ctx c).epochs) :
    let t := raiseUnc c (s.ctx c).reg.epoch 0 s
    RecordsKept s t ∧ (t.ctx c).older = some r ∧ (t.ctx c).trap = (s.ctx c).trap ∧
      (t.ctx c).bank = (s.ctx c).bank ∧ (t.ctx c).reg.start = (s.ctx c).reg.start ∧
      ((t.ctx c).reg.fault.map (·.cause)) = some 11 := by
  have hd := discard_ctx_same c (s.ctx c).reg.epoch s
  rw [replayed_of_younger fun o ho => by rw [hr] at ho; cases ho; exact hlt] at hd
  have holder : ((discard c (s.ctx c).reg.epoch s).ctx c).older = some r := by
    rw [hd.older, if_pos rfl, hr]
  have hne : r.epoch ≠ ((discard c (s.ctx c).reg.epoch s).ctx c).reg.epoch := by
    rw [hd.reg]
    exact (lt_of_lt_of_le hlt (Nat.le_succ_of_le hep)).ne
  have hfault : ((discard c (s.ctx c).reg.epoch s).ctx c).reg.fault = none := by
    rw [hd.reg]
    rfl
  intro t
  have ht : t = (discard c (s.ctx c).reg.epoch s).modCtx c fun x =>
      recordFault x.reg.epoch (faultRec 11 0 0 false) x := by
    show raiseUnc c (s.ctx c).reg.epoch 0 s = _
    rw [raiseUnc, oldest_of_some hr, if_neg hlt.ne']
  rw [ht]
  refine ⟨((discard_work ..).trans (.modCtx _ c _)).records, ?_⟩
  rw [State.modCtx_ctx_same, recordFault_younger holder hne hfault]
  exact ⟨holder, hd.trap, hd.bank, by rw [hd.reg]; rfl, rfl⟩

/-! ## Walks -/

theorem classOf_translated (k : CoreId) {va : Nat} (h : va < 0x7F00_0000_0000) : classOf k va = .translated := by
  rw [classOf, if_pos h]

theorem walkTouches_of_leaf {s : State} {c : CtxId} {va : Word} {e : TlbEntry}
    (hw : walk s (asidOf s (s.ctx c)) va.toNat = .leaf e) : walkTouches s c va = false := by
  unfold walkTouches
  extract_lets x asid
  rw [show walk s asid va.toNat = .leaf e from hw]
  cases classOf (coreOf c) va.toNat <;> exact Bool.and_false _

theorem mem_tlbFill (cap free : Nat) (e : TlbEntry) (l : List TlbEntry) : e ∈ tlbFill cap free e l := by
  unfold tlbFill
  split
  · exact List.mem_cons_self
  · exact List.mem_cons_self

theorem mem_fillTlbs_core (c : CtxId) (e : TlbEntry) (s : State) : e ∈ ((fillTlbs c e s).core (coreOf c)).tlb := by
  unfold fillTlbs
  extract_lets u
  rw [State.bumpFree_core, State.modCore_core_same]
  exact mem_tlbFill ..

theorem mem_fillTlbs_half (c : CtxId) (e : TlbEntry) (s : State) : e ∈ ((fillTlbs c e s).half (halfOf c)).tlb := by
  unfold fillTlbs
  rw [State.bumpFree_half, State.modCore_half]
  split
  · next h => simpa using h
  · rw [State.bumpFree_half, State.modHalf_half_same]
    exact mem_tlbFill ..

theorem xlate_of_leaf {s : State} {c : CtxId} {acc : Access} {va : Word} {e : TlbEntry}
    (hva : va.toNat < 0x7F00_0000_0000) (hheap : inHeap (s.ctx c).heap va = false)
    (hcore : ((s.core (coreOf c)).tlb.find? fun t => t.hit (asidOf s (s.ctx c)) va.toNat) = none)
    (hhalf : ((s.half (halfOf c)).tlb.find? fun t => t.hit (asidOf s (s.ctx c)) va.toNat) = none)
    (hw : walk s (asidOf s (s.ctx c)) va.toNat = .leaf e) :
    (xlate s c acc va).1 = noteUse c e (fillTlbs c e s) := by
  simp only [xlate, classOf_translated _ hva, xlatePage, hheap, Bool.false_eq_true, if_false, hcore, hhalf,
    walkTouch, hw]

theorem exec_pageWalk {s : State} {c : CtxId} {va : Word} {acc : Access} (hb : (s.ctx c).bank = .running)
    (ht : walkTouches s c va = false) : exec (.pageWalk c va acc) s = .next (xlate s c acc va).1 := by
  show Host.Outcome.next (if (s.ctx c).bank = .running then
    if (s.lag && walkTouches s c va) = true then preparePage (halfOf c) s else (xlate s c acc va).1 else s) = _
  rw [if_pos hb, ht, Bool.and_false, if_neg Bool.false_ne_true]

/-! ## Page requests -/

theorem raiseIrq_ctx (fn : Fin 2) (vec : Fin 66) (s : State) (c : CtxId) : (raiseIrq fn vec s).ctx c = s.ctx c := by
  unfold raiseIrq
  split <;> rfl

theorem raiseIrq_core (fn : Fin 2) (vec : Fin 66) (s : State) (k : CoreId) : (raiseIrq fn vec s).core k = s.core k := by
  unfold raiseIrq
  split <;> rfl

theorem requestWritten_half (r : Request) (s : State) (h : HalfId) : (requestWritten r s).half h = s.half h := by
  unfold requestWritten
  extract_lets done
  split <;> rfl

theorem requestWritten_of_bank {r : Request} (h : r.slot = none) (s : State) :
    requestWritten r s = s.modCtx r.ctx fun x => { x with preq := some { r.req with written := true } } := by
  simp only [requestWritten, h]

theorem requestWritten_of_slot {r : Request} {i : Nat} (h : r.slot = some i) (s : State) :
    requestWritten r s = s.modSaved (coreOf r.ctx) i fun v =>
      { v with ctx := { v.ctx with preq := some { r.req with written := true } } } := by
  simp only [requestWritten, h]

/-- A save slot that holds a context is changed where a change of it is made. -/
theorem modSaved_core_saved {s : State} {k : CoreId} {i : Nat} {f : SavedCtx → SavedCtx} {v : SavedCtx}
    (h : (s.core k).saved[i]? = some (some v)) : ((s.modSaved k i f).core k).saved[i]? = some (some (f v)) := by
  obtain ⟨hi, hv⟩ := Vector.getElem?_eq_some_iff.1 h
  rw [State.modSaved, State.modCore_core_same]
  simp [hi, hv]

/-- The part once the request `q` of a half is in its ring, whose bytes `m` holds, but for the interrupt. -/
def requestPut (h : HalfId) (q : Request) (m : List Host.Cell) (s : State) : State :=
  requestWritten q (({ s with mem := m } : State).modHalf h
    fun x => { x with prq := { x.prq with tail := x.prq.tail + 1 } })

theorem ringPush_eq (r : RingReg) (rec : Nat) (s : State) :
    ∃ m, m = memPutNat s.mem (ringKey s (r.base.toNat + 32 * (r.tail.toNat % ringEntries r))) 32 rec ∧
      ringPush r rec s = { s with mem := m } := ⟨_, rfl, rfl⟩

theorem pageRequestWrite_of_room {s : State} {h : HalfId} {q : Request} (hq : firstRequest (unwritten s h) = some q)
    (hok : ringOk s (s.half h).prq 32 = true) (hfull : ringFull (s.half h).prq = false)
    (hquiet : (s.half h).cpQuiet = false) :
    ∃ m fn vec, m = memPutNat s.mem
        (ringKey s ((s.half h).prq.base.toNat + 32 * ((s.half h).prq.tail.toNat % ringEntries (s.half h).prq))) 32
        (prqRecord s q.ctx q.x q.req) ∧
      pageRequestWrite h s = raiseIrq fn vec (requestPut h q m s) := by
  obtain ⟨m, hm, hpush⟩ := ringPush_eq (s.half h).prq (prqRecord s q.ctx q.x q.req) s
  refine ⟨m, ownerFn (requestPut h q m s), ⟨64 + h.val, by omega⟩, hm, ?_⟩
  simp only [pageRequestWrite, hq, hok, hfull, hquiet, Bool.not_true, Bool.false_eq_true, if_false, Bool.or_self,
    hpush, requestPut]

theorem requestPut_mem (h : HalfId) (q : Request) (m : List Host.Cell) (s : State) : (requestPut h q m s).mem = m := by
  rw [requestPut, requestWritten_mem, State.modHalf_mem]

theorem requestPut_prq (h : HalfId) (q : Request) (m : List Host.Cell) (s : State) :
    ((requestPut h q m s).half h).prq = { (s.half h).prq with tail := (s.half h).prq.tail + 1 } := by
  rw [requestPut, requestWritten_half, State.modHalf_half_same]
  rfl

theorem requestPut_of_bank {h : HalfId} {q : Request} (hs : q.slot = none) (m : List Host.Cell) (s : State) :
    (requestPut h q m s).ctx q.ctx = { s.ctx q.ctx with preq := some { q.req with written := true } } := by
  rw [requestPut, requestWritten_of_bank hs, State.modCtx_ctx_same]
  rfl

theorem requestPut_of_slot {h : HalfId} {q : Request} {i : Nat} (hs : q.slot = some i) (m : List Host.Cell)
    (s : State) :
    (requestPut h q m s).ctx q.ctx = s.ctx q.ctx ∧ ∀ v, (s.core (coreOf q.ctx)).saved[i]? = some (some v) →
      ((requestPut h q m s).core (coreOf q.ctx)).saved[i]? =
        some (some { v with ctx := { v.ctx with preq := some { q.req with written := true } } }) := by
  rw [requestPut, requestWritten_of_slot hs]
  exact ⟨rfl, fun v hv => modSaved_core_saved hv⟩

/-- Settles O43: a replay error and a failed comparison are both a counted discard (`StrikesOpen`), whose outcomes the
lemmas on `countedDiscard` give; a walk leaves its leaf by `mem_tlbFill`; a request is a push to its ring. -/
theorem errorsReplay : Obligations.ErrorsReplay := by
  refine ⟨fun s c k hk hold => ?_, fun s c va acc e hb hva hheap hcore hhalf hw => ?_,
    fun s h q hs hq => ?_⟩
  · subst hk
    intro x fo times tooMany strikes reexec struck
    have hstruck : ∀ i, x.older = none → StrikesOpen c s i → struck i := fun i ho hi =>
      ⟨strikes_of_below hi ho, fun hatt hsys hre _ _ hw hop => strikes_of_reexec hi hatt hsys hre.1 hre.2 hw hop,
        fun hatt hsys hre htvec => strikes_of_trap hi ho hatt ⟨hsys, htvec⟩ hre,
        fun hatt hsys _ _ hid hop hst => strikes_of_handler hi hatt hsys hid hop hst⟩
    have hu := countError_counted (coreOf c) s
    refine ⟨fun ho => ⟨fun b hb hn => ?_, fun n d u hd hc he hhit hfail => ?_⟩,
      fun r hr hlt hep hb hatt hn hsys hre => ?_, fun b r hb hr hatt hcount => ?_, fun n d hd hpass => ?_⟩
    · refine hstruck _ ho (exec_detectedError_issued hold hb (errorRegion_of_none ho b) ?_)
      exact fun ⟨hpos, hzero⟩ => hn.elim (fun h => hpos.ne' h) fun h => h hzero
    · refine hstruck _ ho ((exec_checksumCompare hold).trans ?_)
      rw [checksumCompare_of_fail hd hhit hfail, hc, he]
    · have hexec := strikes_of_limit (exec_detectedError_issued hold hb (errorRegion_of_some hr)
        fun ⟨_, hzero⟩ => hn hzero) hatt
      rw [escalate_of_trap (by rw [hu.ctx]; exact hsys) (by rw [hu.ctx]; exact hre)] at hexec
      have ht := raiseUnc_younger (c := c) (s := countError (coreOf c) s) (r := r) (by rw [hu.ctx]; exact hr)
        (by rw [hu.ctx]; exact hlt) (by rw [hu.ctx]; exact hep)
      rw [hu.ctx] at ht
      obtain ⟨hkept, holder, htrap, hbank, hstart, hfault⟩ := ht
      exact ⟨_, hexec, ⟨holder, htrap, hbank.trans hb, hstart, hfault⟩, (recorded_countError c s).kept hkept⟩
    · have hexec := exec_detectedError b hold
      rw [errorDiscard_of_unissued (by rw [hu.ctx]; exact hb) (by rw [hu.ctx]; exact hr)
        (by rw [hu.ctx]; exact ⟨hatt, hcount⟩)] at hexec
      exact ⟨_, hexec, hu.ctx c, recorded_countError c s⟩
    · exact (exec_checksumCompare hold).trans (congrArg _ (checksumCompare_of_pass hd rfl hpass))
  · have hexec := exec_pageWalk (acc := acc) hb (walkTouches_of_leaf hw)
    rw [xlate_of_leaf hva hheap hcore hhalf hw] at hexec
    refine ⟨_, hexec, mem_fillTlbs_core c e s, mem_fillTlbs_half c e s, used_mem c e s, ?_⟩
    rw [(used_frame c e s).ctx]
  · intro r hok hfull hquiet at_
    obtain ⟨m, fn, vec, hm, heq⟩ := pageRequestWrite_of_room hq hok hfull hquiet
    have hexec : exec (.pageRequestWrite h) s = .next (pageRequestWrite h s) := rfl
    rw [heq] at hexec
    refine ⟨_, hexec, ?_, fun b hb => ?_, ?_, ?_, ?_⟩
    · rw [raiseIrq_mem, requestPut_mem, hm]
      exact memNat_putNat hs at_ 32 _
    · rw [raiseIrq_mem, requestPut_mem, hm]
      exact memRead_putNat_other s.mem at_ 32 _ (by omega)
    · rw [raiseIrq_half]
      exact requestPut_prq h q m s
    · rw [raiseIrq_ctx]
      cases hslot : q.slot with
      | none => rw [requestPut_of_bank hslot]
      | some i => rw [(requestPut_of_slot hslot m s).1]
    · cases hslot : q.slot with
      | none =>
        dsimp only
        rw [raiseIrq_ctx, requestPut_of_bank hslot]
      | some i =>
        dsimp only
        obtain ⟨hctx, hsaved⟩ := requestPut_of_slot (h := h) hslot m s
        rw [raiseIrq_ctx, raiseIrq_core, hctx]
        exact ⟨rfl, hsaved⟩

end Sys2Proof.Machine

end

section

/-! PROOFS. Accesses of the aperture and of the turnouts' windows (O50; spec/04 R64, R65, spec/21 R394). -/

namespace Sys2Proof.Machine

/-! ## Bytes and words of memory -/

theorem memRead_putBytes {m : List Host.Cell} (h : memWf m = true) (a : Nat) (l : List Byte) {i : Nat}
    (hi : i < l.length) : memRead (memPutBytes m a l) (a + i) = l[i] := by
  induction l generalizing m a i with
  | nil => exact absurd hi (Nat.not_lt_zero i)
  | cons b l ih =>
    cases i with
    | zero => exact (memRead_putBytes_other _ _ l (.inl (Nat.lt_succ_self a))).trans (memRead_write_same h a b)
    | succ i =>
      have hrest := ih (memWf_write h a b) (a + 1) (Nat.lt_of_succ_lt_succ hi)
      rwa [Nat.add_assoc, Nat.add_comm 1 i] at hrest

/-- Every byte of a list that has been written, as an entry of the list. -/
theorem some_memRead_putBytes {m : List Host.Cell} (h : memWf m = true) (a : Nat) (l : List Byte) (i : Nat)
    (hi : i < l.length) : some (memRead (memPutBytes m a l) (a + i)) = l[i]? := by
  rw [memRead_putBytes h a l hi, List.getElem?_eq_getElem hi]

theorem memWord_congr {m m' : List Host.Cell} {k : Nat}
    (h : ∀ b, k ≤ b → b < k + 8 → memRead m b = memRead m' b) : memWord m k = memWord m' k :=
  congrArg (BitVec.ofNat 64) (memNat_congr m m' k 8 h)

theorem memWord_putNat_same {m : List Host.Cell} (h : memWf m = true) (k : Nat) (v : Word) :
    memWord (memPutNat m k 8 v.toNat) k = v := by
  rw [memWord, memNat_putNat h, Nat.mod_eq_of_lt (show v.toNat < 256 ^ 8 from v.isLt), BitVec.ofNat_toNat,
    BitVec.setWidth_eq]

theorem memWord_putNat_other (m : List Host.Cell) {k a n : Nat} (v : Nat) (hk : k + 8 ≤ a ∨ a + n ≤ k) :
    memWord (memPutNat m a n v) k = memWord m k :=
  memWord_congr fun b _ _ => memRead_putNat_other m a n v (by omega)

theorem objRead_congr {m m' : List Host.Cell} {k : Nat}
    (h : ∀ b, k ≤ b → b < k + 64 → memRead m b = memRead m' b) : objRead m k = objRead m' k := by
  have hword : ∀ i, i + 8 ≤ 64 → memWord m (k + i) = memWord m' (k + i) := fun i hi =>
    memWord_congr fun b _ _ => h b (by omega) (by omega)
  simp only [objRead, ObjRec.mk.injEq]
  exact ⟨hword 0 (by omega), hword 8 (by omega), hword 0x10 (by omega), hword 0x18 (by omega), hword 0x20 (by omega),
    hword 0x28 (by omega), hword 0x30 (by omega)⟩

/-! ## The aperture (spec/21 R394) -/

theorem exec_bar2Write {s : State} {w : BarWrite} (hat : turnoutAt s w.off = none)
    (hbar : w.off + w.data.length ≤ barSize s) (hdram : w.off + w.data.length ≤ dramC s) :
    exec (.bar2Access (.write w)) s = .next { s with mem := memPutBytes s.mem w.off w.data } := by
  have htake : w.data.take (dramC s - w.off) = w.data := List.take_of_length_le (by omega)
  have hin : ¬ barSize s < w.off + w.data.length := Nat.not_lt.2 hbar
  simp [exec, execBar2Access, hat, htake, hin]

theorem exec_bar2Read {s : State} {r : BarRead} (hat : turnoutAt s r.off = none) (hbar : r.off + r.len ≤ barSize s) :
    exec (.bar2Access (.read r)) s = .next (answerRead (apertureBytes s r.off r.len) s) := by
  have hin : ¬ barSize s < r.off + r.len := Nat.not_lt.2 hbar
  simp [exec, execBar2Access, hat, hin]

/-! ## Windows (spec/04 R64, R65) -/

theorem exec_turnoutWrite {s : State} {w : BarWrite} {n : TurnoutId} (hat : turnoutAt s w.off = some n)
    (hwait : turnoutWaits s n = false) :
    exec (.turnoutWrite w) s = .next (turnoutTake n (w.off - (s.turnout n).window) w.data s) := by
  simp [exec, execTurnoutWrite, hat, hwait]

theorem exec_turnoutRead {s : State} {r : BarRead} {n : TurnoutId} (hat : turnoutAt s r.off = some n) :
    let t := s.turnout n
    let o := r.off - t.window
    exec (.turnoutRead r) s = .next (answerRead
      (if o + r.len ≤ t.size then memBytes s.mem (t.buffer + o) r.len else List.replicate r.len 255) s) := by
  intro t o
  simp only [exec, execTurnoutRead, hat]
  by_cases h : o + r.len ≤ t.size
  · rw [if_neg (Nat.not_lt.2 h), if_pos h]
  · rw [if_pos (Nat.not_le.1 h), if_neg h]

theorem modTurnout_turnout_same (n : TurnoutId) (f : Turnout → Turnout) (s : State) :
    (modTurnout n f s).turnout n = f (s.turnout n) := by
  simp [modTurnout, State.turnout]

/-- The slots whose frame end a write touches. -/
def endsTouched (t : Turnout) (o n : Nat) : List Nat := (slotsOf t o n).filter fun j => touches8 o n (frameEnd t j)

/-- The slots whose frame end a write fills. -/
def endsFilled (t : Turnout) (o n : Nat) : List Nat := (endsTouched t o n).filter fun j => covers8 o n (frameEnd t j)

/-- What a turnout notes of the frame ends that a write touches and fills. -/
def noteEnds (touched filled : List Nat) (t : Turnout) : Turnout :=
  { t with
    perr := t.perr || decide (filled.length < touched.length)
    pending := t.pending ++ filled.filter fun j => !t.pending.contains j }

theorem noteEnds_nil (t : Turnout) : noteEnds [] [] t = t := by simp [noteEnds]

theorem noteEnds_one {t : Turnout} (h : t.pending = []) (j : Nat) : noteEnds [j] [j] t = { t with pending := [j] } := by
  simp [noteEnds, h]

/-- The buffer of a turnout written, and what the turnout notes of it. -/
def windowWritten (n : TurnoutId) (o : Nat) (data : List Byte) (s : State) : State :=
  modTurnout n (noteEnds (endsTouched (s.turnout n) o data.length) (endsFilled (s.turnout n) o data.length))
    { s with mem := memPutBytes s.mem ((s.turnout n).buffer + o) data }

theorem windowWritten_mem (n : TurnoutId) (o : Nat) (data : List Byte) (s : State) :
    (windowWritten n o data s).mem = memPutBytes s.mem ((s.turnout n).buffer + o) data := rfl

theorem windowWritten_turnout (n : TurnoutId) (o : Nat) (data : List Byte) (s : State) :
    (windowWritten n o data s).turnout n = noteEnds (endsTouched (s.turnout n) o data.length)
      (endsFilled (s.turnout n) o data.length) (s.turnout n) :=
  modTurnout_turnout_same _ _ _

/-- A write within the window, to slots that are not held, under a record that fits the turnout: the buffer takes it,
and the frame ends that it fills are published. -/
theorem turnoutTake_of_free {s : State} {n : TurnoutId} {o k : Nat} {data : List Byte}
    (hsize : o + data.length ≤ (s.turnout n).size) (hrec : turnoutRec s (s.turnout n) = some k)
    (hkind : (objRead s.mem k).hdr.toNat % 16 = 2) (hlgn : (objRead s.mem k).lgn = (s.turnout n).lgn.toNat)
    (hfree : (slotsOf (s.turnout n) o data.length).any (slotHeld (s.turnout n) (objRead s.mem k)) = false) :
    turnoutTake n o data s = if (endsFilled (s.turnout n) o data.length).isEmpty then windowWritten n o data s
      else publish n k (windowWritten n o data s) := by
  have hin : ¬ (s.turnout n).size < o + data.length := Nat.not_lt.2 hsize
  have hnib : ((objRead s.mem k).hdr.extractLsb' 0 4).toNat = 2 := by
    rw [BitVec.extractLsb'_toNat, Nat.shiftRight_zero]
    exact hkind
  have hfits : ¬ (((objRead s.mem k).hdr.extractLsb' 0 4).toNat ≠ 2 ∨
      (objRead s.mem k).lgn ≠ (s.turnout n).lgn.toNat) := fun h => h.elim (· hnib) (· hlgn)
  unfold turnoutTake
  extract_lets t len
  rw [if_neg hin, hrec]
  dsimp only
  rw [if_neg hfits, hfree, if_neg Bool.false_ne_true]
  rfl

theorem endsFilled_of_none_touched {t : Turnout} {o n : Nat} (h : endsTouched t o n = []) : endsFilled t o n = [] := by
  rw [endsFilled, h, List.filter_nil]

/-- A write in one slot that fills its frame end. -/
theorem ends_of_filled {t : Turnout} {o n j : Nat} (hslot : slotsOf t o n = [j])
    (hcover : covers8 o n (frameEnd t j) = true) : endsTouched t o n = [j] ∧ endsFilled t o n = [j] := by
  have htouch : touches8 o n (frameEnd t j) = true := by
    simp only [covers8, touches8, Bool.and_eq_true, decide_eq_true_eq] at hcover ⊢
    omega
  have htouched : endsTouched t o n = [j] := by simp [endsTouched, hslot, htouch]
  exact ⟨htouched, by simp [endsFilled, htouched, hcover]⟩

theorem publishSlots_tail (slots fuel tail : Nat) :
    publishSlots slots (fuel + 2) tail [tail % slots] = ([], 1) := by
  simp [publishSlots]

/-- The state after one slot has been published (spec/04 R65). -/
def publishedOne (n : TurnoutId) (k : Nat) (s : State) : State :=
  stampRelease k (.half turnoutHalf) 5 (halfTime s turnoutHalf)
    (modTurnout n (fun t => { t with pending := [], pub := t.pub + 1 })
      (putWord (k + 0x18) ((objRead s.mem k).w0 + 1) (putWord (k + 0x20) ((objRead s.mem k).w1 + 1) s)))

/-- The slot at the tail of the ring, and no other one, is pending: it is published. -/
theorem publish_of_tail {s : State} {n : TurnoutId} {k : Nat}
    (hpend : (s.turnout n).pending = [(objRead s.mem k).w1.toNat % (s.turnout n).slots]) :
    publish n k s = publishedOne n k s := by
  simp only [publish, hpend, publishSlots_tail]
  rfl

theorem publishedOne_mem (n : TurnoutId) (k : Nat) (s : State) : (publishedOne n k s).mem =
    memPutNat (memPutNat s.mem (k + 0x20) 8 ((objRead s.mem k).w1 + 1).toNat) (k + 0x18) 8
      ((objRead s.mem k).w0 + 1).toNat := rfl

theorem publishedOne_turnout (n : TurnoutId) (k : Nat) (s : State) :
    (publishedOne n k s).turnout n = { s.turnout n with pending := [], pub := (s.turnout n).pub + 1 } :=
  modTurnout_turnout_same n (fun t => { t with pending := [], pub := t.pub + 1 }) _

theorem publishedOne_words {s : State} (hs : s.memOk) (n : TurnoutId) (k : Nat) :
    memWord (publishedOne n k s).mem (k + 0x18) = (objRead s.mem k).w0 + 1 ∧
      memWord (publishedOne n k s).mem (k + 0x20) = (objRead s.mem k).w1 + 1 := by
  rw [publishedOne_mem]
  refine ⟨memWord_putNat_same (memWf_putNat hs _ _ _) _ _, ?_⟩
  rw [memWord_putNat_other _ _ (.inr (by omega)), memWord_putNat_same hs]

theorem publishedOne_stamps (n : TurnoutId) (k : Nat) (s : State) :
    (⟨k, .half 0, 5, halfTime s 0⟩ : Stamp) ∈ (publishedOne n k s).stamps := List.mem_cons_self

/-- A write that touches no frame end reaches the buffer, and leaves the turnout as it is. -/
theorem turnoutTake_of_none_touched {s : State} {n : TurnoutId} {o k : Nat} {data : List Byte}
    (hsize : o + data.length ≤ (s.turnout n).size) (hrec : turnoutRec s (s.turnout n) = some k)
    (hkind : (objRead s.mem k).hdr.toNat % 16 = 2) (hlgn : (objRead s.mem k).lgn = (s.turnout n).lgn.toNat)
    (hfree : (slotsOf (s.turnout n) o data.length).any (slotHeld (s.turnout n) (objRead s.mem k)) = false)
    (hends : endsTouched (s.turnout n) o data.length = []) :
    turnoutTake n o data s = windowWritten n o data s ∧ (windowWritten n o data s).turnout n = s.turnout n := by
  have hfilled := endsFilled_of_none_touched hends
  rw [turnoutTake_of_free hsize hrec hkind hlgn hfree, windowWritten_turnout, hends, hfilled, noteEnds_nil]
  exact ⟨rfl, rfl⟩

/-- A write to the slot at the tail that fills its frame end, apart from the record, publishes the slot. -/
theorem turnoutTake_of_filled {s : State} {n : TurnoutId} {o k : Nat} {data : List Byte}
    (hsize : o + data.length ≤ (s.turnout n).size) (hrec : turnoutRec s (s.turnout n) = some k)
    (hkind : (objRead s.mem k).hdr.toNat % 16 = 2) (hlgn : (objRead s.mem k).lgn = (s.turnout n).lgn.toNat) {j : Nat}
    (hslot : slotsOf (s.turnout n) o data.length = [j]) (hheld : slotHeld (s.turnout n) (objRead s.mem k) j = false)
    (hcover : covers8 o data.length (frameEnd (s.turnout n) j) = true) (hpend : (s.turnout n).pending = [])
    (htail : (objRead s.mem k).w1.toNat % (s.turnout n).slots = j)
    (hapart : (s.turnout n).buffer + o + data.length ≤ k ∨ k + 64 ≤ (s.turnout n).buffer) :
    turnoutTake n o data s = publishedOne n k (windowWritten n o data s) ∧
      objRead (windowWritten n o data s).mem k = objRead s.mem k ∧
      (windowWritten n o data s).turnout n = { s.turnout n with pending := [j] } := by
  obtain ⟨htouched, hfilled⟩ := ends_of_filled hslot hcover
  have hfree : (slotsOf (s.turnout n) o data.length).any (slotHeld (s.turnout n) (objRead s.mem k)) = false := by
    rw [hslot, List.any_cons, hheld, List.any_nil, Bool.or_self]
  have hrecord : objRead (windowWritten n o data s).mem k = objRead s.mem k :=
    objRead_congr fun b _ _ => memRead_putBytes_other s.mem _ data (by omega)
  have hturn : (windowWritten n o data s).turnout n = { s.turnout n with pending := [j] } := by
    rw [windowWritten_turnout, htouched, hfilled, noteEnds_one hpend]
  refine ⟨?_, hrecord, hturn⟩
  rw [turnoutTake_of_free hsize hrec hkind hlgn hfree, hfilled]
  refine publish_of_tail ?_
  rw [hrecord, hturn, ← htail]
  rfl

/-- Settles O50: a window takes a write by `turnoutTake_of_free`, and a frame end that it fills is the slot at the tail,
which `publishedOne` publishes. -/
theorem hostAccesses : Obligations.HostAccesses := by
  refine ⟨fun s w hs hat hbar hdram => ?_, fun s r hat hbar => exec_bar2Read hat hbar,
    fun s w n k hs hat hwait hsize hrec hkind hlgn hfree hends => ?_,
    fun s w n k j hs hat hwait hsize hrec hkind hlgn hslot hheld hcover hpend _ htail hapart => ?_,
    fun s r n hat => exec_turnoutRead hat⟩
  · exact ⟨_, exec_bar2Write hat hbar hdram, rfl, some_memRead_putBytes hs w.off w.data,
      fun b hb => memRead_putBytes_other s.mem w.off w.data hb⟩
  · obtain ⟨htake, hturn⟩ := turnoutTake_of_none_touched hsize hrec hkind hlgn (by simpa using hfree)
      (by simpa [endsTouched] using hends)
    refine ⟨_, exec_turnoutWrite hat hwait, ?_⟩
    rw [htake, windowWritten_mem]
    exact ⟨hturn, some_memRead_putBytes hs _ _, fun b hb => memRead_putBytes_other s.mem _ _ hb⟩
  · obtain ⟨htake, hrecord, hturn⟩ :=
      turnoutTake_of_filled hsize hrec hkind hlgn hslot hheld hcover hpend htail hapart
    obtain ⟨hw0, hw1⟩ := publishedOne_words (s := windowWritten n (w.off - (s.turnout n).window) w.data s)
      (memWf_putBytes hs _ _) n k
    rw [hrecord] at hw0 hw1
    refine ⟨_, exec_turnoutWrite hat hwait, ?_⟩
    rw [htake, publishedOne_turnout, hturn]
    exact ⟨hw0, hw1, rfl, rfl, publishedOne_stamps n k _⟩

end Sys2Proof.Machine

end

section

/-! PROOFS. What the start and the end of an engine command leave of the cores and of its context (spec/04 R75, R76,
spec/05 R89). -/

namespace Sys2Proof.Machine

/-! ## Accesses presented to the banks -/

/-- A state in which line accesses have been presented: nothing else has changed. -/
structure Presented (s t : State) : Prop where
  rest : OnlyCores s t
  core : ∀ j, t.core j = { s.core j with now := (t.core j).now }

theorem Presented.refl (s : State) : Presented s s := ⟨.refl s, fun _ => rfl⟩

theorem Presented.trans {s t u : State} (h : Presented s t) (h' : Presented t u) : Presented s u :=
  ⟨h.rest.trans h'.rest, fun j => by rw [h'.core, h.core]⟩

theorem Presented.modCore (s : State) (k : CoreId) {f : Core → Core} (hf : ∀ x, f x = { x with now := (f x).now }) :
    Presented s (s.modCore k f) := by
  refine ⟨.modCore s k f, fun j => ?_⟩
  by_cases hj : j = k
  · subst hj
    rw [State.modCore_core_same]
    exact hf _
  · rw [State.modCore_core_other _ _ _ _ hj]

theorem Presented.mem {s t : State} (h : Presented s t) : t.mem = s.mem := h.rest.frame.2.1

theorem Presented.ctx {s t : State} (h : Presented s t) (c : CtxId) : t.ctx c = s.ctx c := by
  rw [State.ctx, h.rest.frame.1]
  rfl

theorem Presented.active {s t : State} (h : Presented s t) (k : CoreId) : (t.core k).active = (s.core k).active := by
  rw [h.core]

theorem Presented.engPtr {s t : State} (h : Presented s t) (k : CoreId) : (t.core k).engPtr = (s.core k).engPtr := by
  rw [h.core]

theorem presentUses_presented (k : CoreId) (us : List BankUse) (s : State) : Presented s (presentUses k us s) := by
  unfold presentUses
  split
  · exact .refl s
  · exact .modCore s k fun _ => rfl

theorem presentFar_presented (acc : BankAcc) (ls : List Nat) (s : State) : Presented s (presentFar acc ls s) := by
  induction ls generalizing s with
  | nil => exact .refl s
  | cons l ls ih => exact (presentUses_presented _ _ s).trans (ih _)

theorem presentKeys_presented (k : CoreId) (by_ : Option CtxId) (port : Fin 8) (acc : BankAcc) (keys : List Nat)
    (s : State) : Presented s (presentKeys k by_ port acc keys s) :=
  (presentUses_presented _ _ s).trans (presentFar_presented _ _ _)

theorem touchBanks_presented (c : CtxId) (port : Fin 8) (acc : BankAcc) (keys : List Nat) (s : State) :
    Presented s (touchBanks c port acc keys s) := presentKeys_presented _ _ _ _ _ s

theorem cmdTouch_presented (a : ActiveCmd) (port : Fin 8) (acc : BankAcc) (keys : List Nat) (s : State) :
    Presented s (cmdTouch a port acc keys s) :=
  (presentUses_presented _ _ s).trans (presentFar_presented _ _ _)

theorem presentSet_presented (c : CtxId) (kind : EngKind) (o : E) (s : State) :
    Presented s (presentSet c kind o s) := by
  unfold presentSet
  extract_lets lines read
  have hread : Presented s read := by
    unfold read
    split
    · exact touchBanks_presented ..
    · exact .refl s
  exact hread.trans (touchBanks_presented ..)

theorem presentCmd_presented (s : State) (a : ActiveCmd) : Presented s (presentCmd s a) := by
  have hmoves : ∀ (ls ls' : List Nat) (u : State), Presented u (cmdTouch a 4 .write ls (cmdTouch a 4 .read ls' u)) :=
    fun _ _ u => (cmdTouch_presented ..).trans (cmdTouch_presented ..)
  unfold presentCmd
  extract_lets word
  split
  · extract_lets read moved
    have hread : Presented s read := cmdTouch_presented ..
    split
    · exact hread.trans ((cmdTouch_presented ..).trans (cmdTouch_presented ..))
    · split
      · exact hread.trans (hmoves _ _ _)
      · exact (hread.trans (hmoves _ _ _)).trans (cmdTouch_presented ..)
  · exact hmoves _ _ _

/-! ## The counters of a context -/

theorem State.modCtx_of_fixed {s : State} {c : CtxId} {f : Ctx → Ctx} (h : f (s.ctx c) = s.ctx c) :
    s.modCtx c f = s := by
  rw [State.modCtx, h]
  simp [State.setCtx, State.ctx]

theorem modRegion_eq (e : Nat) (f : Region → Region) (x : Ctx) :
    modRegion e f x = { x with reg := (modRegion e f x).reg, older := (modRegion e f x).older } := by
  unfold modRegion
  split
  · split
    · rfl
    · split <;> rfl
  · split <;> rfl

/-- A context of which counters and the notes of its regions have changed, and those in the frame of its trap. -/
def CountsMoved (x y : Ctx) : Prop :=
  y = { x with tok := y.tok, trap := y.trap, reg := y.reg, older := y.older }

theorem CountsMoved.refl (x : Ctx) : CountsMoved x x := rfl

theorem CountsMoved.trans {x y z : Ctx} (h : CountsMoved x y) (h' : CountsMoved y z) : CountsMoved x z := by
  unfold CountsMoved at h h' ⊢
  rw [h] at h'
  exact h'

theorem CountsMoved.engQ {x y : Ctx} (h : CountsMoved x y) (st : Stream) : engQ y st = engQ x st := by
  rw [h]
  rfl

theorem CountsMoved.q {x y : Ctx} (h : CountsMoved x y) : y.q = x.q := by rw [h]

theorem bumpK_moved (e : Nat) (k : BitVec 4) (d : Int) (x : Ctx) : CountsMoved x (bumpK e k d x) := by
  unfold CountsMoved bumpK
  extract_lets t
  rw [modRegion_eq]

theorem bumpK_k (e : Nat) (k : BitVec 4) (d : Int) (x : Ctx) :
    (bumpK e k d x).tok.k = x.tok.k.set k.toNat ((x.tok.k[k.toNat] : Int) + d).toNat := by
  unfold bumpK
  extract_lets t
  rw [modRegion_eq]

theorem takeNeeds_moved (e : Nat) (o : E) (x : Ctx) : CountsMoved x (takeNeeds e o x) := by
  unfold takeNeeds
  generalize engNeeds o = l
  induction l generalizing x with
  | nil => exact .refl x
  | cons k l ih => exact (bumpK_moved e k (-1) x).trans (ih _)

/-- Each counter falls by one for each time that the command names it (spec/04 R76). -/
theorem tokensStarted_takeNeeds (e : Nat) (o : E) (x : Ctx) : tokensStarted o x (takeNeeds e o x) := by
  intro j
  unfold takeNeeds
  generalize engNeeds o = l
  induction l generalizing x with
  | nil => rfl
  | cons k l ih =>
    rw [List.foldl_cons, ih]
    simp only [bumpK_k, Vector.getElem_set, List.filter_cons]
    by_cases hk : k.toNat = j.val
    · simp only [hk, beq_self_eq_true, if_true, List.length_cons]
      omega
    · simp [hk]

/-- What a command that has completed gives: one increment of its counter, unless that is counter 0 (spec/04 R76). -/
structure CounterGiven (kp : BitVec 4) (x y : Ctx) : Prop where
  moved : CountsMoved x y
  given : kp ≠ 0 → y.tok.k[kp.toNat] = x.tok.k[kp.toNat] + 1
  others : ∀ j : Fin 16, kp.toNat ≠ j.val → y.tok.k[j.val] = x.tok.k[j.val]

theorem CounterGiven.refl (x : Ctx) : CounterGiven 0 x x := ⟨.refl x, fun h => absurd rfl h, fun _ _ => rfl⟩

/-- A change of the counters of a context, and of those in the frame of its trap. -/
def withFrame (f : Ctx → Ctx) (x : Ctx) : Ctx :=
  let y := f x
  { y with trap := { y.trap with
      frame := y.trap.frame.map fun k => { k with tok := (f { y with tok := k.tok }).tok } } }

theorem engTok_of_home {a : ActiveCmd} {s : State} (hgen : (s.ctx a.ctx).id.gen = a.gen) (f : Ctx → Ctx) :
    engTok a f s = s.modCtx a.ctx (withFrame f) := if_pos hgen

/-- An increment that had been reserved. -/
def giveCounter (e : Nat) (kp : BitVec 4) (x : Ctx) : Ctx := bumpK e kp 1 (bumpRes kp (-1) x)

theorem giveCounter_given (e : Nat) {kp : BitVec 4} (x : Ctx) :
    CounterGiven kp x (withFrame (giveCounter e kp) x) where
  moved := by
    have hres : CountsMoved x (bumpRes kp (-1) x) := rfl
    have hframe : CountsMoved (giveCounter e kp x) (withFrame (giveCounter e kp) x) := rfl
    exact (hres.trans (bumpK_moved e kp 1 _)).trans hframe
  given _ := by
    simp only [withFrame, giveCounter, bumpK_k, bumpRes, Vector.getElem_set_self]
    omega
  others j hj := by
    simp only [withFrame, giveCounter, bumpK_k, bumpRes, Vector.getElem_set_ne _ _ hj]

/-- A command of a context that is in its bank gives its counter to the context, and changes nothing else. -/
theorem engProduce_of_home {a : ActiveCmd} {s : State} (hgen : (s.ctx a.ctx).id.gen = a.gen) (hdead : a.dead = false) :
    ∃ f, engProduce a s = s.modCtx a.ctx f ∧ CounterGiven (engKp a.cmd.instr) (s.ctx a.ctx) (f (s.ctx a.ctx)) := by
  unfold engProduce
  extract_lets kp
  by_cases hkp : kp = 0
  · refine ⟨id, ?_, ?_⟩
    · rw [if_pos (by simp [hkp]), State.modCtx_of_fixed rfl]
    · rw [show engKp a.cmd.instr = 0 from hkp]
      exact .refl _
  · refine ⟨withFrame (giveCounter a.cmd.epoch kp), ?_, giveCounter_given _ _⟩
    have hgives : ¬ (a.dead || decide (kp = 0)) = true := by
      rw [hdead, Bool.false_or, decide_eq_true_eq]
      exact hkp
    rw [if_neg hgives, engTok_of_home hgen]
    rfl

end Sys2Proof.Machine

end

section

/-! PROOFS. Templates patched, and the plans of commands (spec/04 R70, R79, R80). -/

namespace Sys2Proof.Machine

/-! ## Patches -/

theorem copyField_fits {f : Nat} {p : Nat × Nat} (h : copyField f = some p) : p.1 + p.2 ≤ 1024 := by
  unfold copyField at h
  split at h
  all_goals cases h
  all_goals decide

theorem windowField_fits {f : Nat} {p : Nat × Nat} (h : windowField f = some p) : p.1 + p.2 ≤ 1024 := by
  unfold windowField at h
  split at h
  all_goals cases h
  all_goals decide

theorem tmplField_fits {kind f : Nat} {p : Nat × Nat} (h : tmplField kind f = some p) : p.1 + p.2 ≤ 1024 := by
  unfold tmplField at h
  split at h
  · exact copyField_fits h
  · exact windowField_fits h
  · split at h
    · cases h
      decide
    · cases h

/-- The value that a patch leaves in a field (spec/04 R79). -/
def patchValue (add : Bool) (v : Word) (p : Nat × Nat) (t : BitVec 1024) : Nat :=
  ((if add then tf t p.1 p.2 else 0) + v.toNat) % 2 ^ p.2

theorem getLsbD_patchField (add : Bool) (v : Word) (p : Nat × Nat) (t : BitVec 1024) {i : Nat} (hi : i < 1024) :
    (patchField add v p t).getLsbD i =
      if p.1 ≤ i ∧ i < p.1 + p.2 then (patchValue add v p t).testBit (i - p.1) else t.getLsbD i := by
  have hnew : (if add then tf t p.1 p.2 + v.toNat else v.toNat) % 2 ^ p.2 = patchValue add v p t := by
    unfold patchValue
    cases add <;> simp
  have hlt : patchValue add v p t < 2 ^ p.2 := Nat.mod_lt _ (Nat.two_pow_pos _)
  simp only [patchField, hnew, BitVec.getLsbD_or, BitVec.getLsbD_and, BitVec.getLsbD_not, BitVec.getLsbD_ofNat, hi,
    Nat.testBit_mul_two_pow, Nat.testBit_two_pow_sub_one, decide_true, Bool.true_and]
  by_cases hlow : p.1 ≤ i
  · by_cases hhigh : i - p.1 < p.2
    · have hin : i < p.1 + p.2 := by omega
      simp [hlow, hhigh, hin]
    · have hout : ¬ i < p.1 + p.2 := by omega
      have hzero : (patchValue add v p t).testBit (i - p.1) = false :=
        Nat.testBit_lt_two_pow (hlt.trans_le (Nat.pow_le_pow_right Nat.two_pos (by omega)))
      simp [hlow, hhigh, hout, hzero]
  · simp [hlow]

theorem extractLsb'_patchField (add : Bool) (v : Word) {p : Nat × Nat} (hp : p.1 + p.2 ≤ 1024) (t : BitVec 1024) :
    ((patchField add v p t).extractLsb' p.1 p.2).toNat = patchValue add v p t := by
  have hlt : patchValue add v p t < 2 ^ p.2 := Nat.mod_lt _ (Nat.two_pow_pos _)
  refine Nat.eq_of_testBit_eq fun j => ?_
  by_cases hj : j < p.2
  · have hfield : p.1 ≤ p.1 + j ∧ p.1 + j < p.1 + p.2 := by omega
    rw [BitVec.testBit_toNat, BitVec.getLsbD_extractLsb', getLsbD_patchField _ _ _ _ (by omega), if_pos hfield]
    simp [hj]
  · rw [Nat.testBit_lt_two_pow (hlt.trans_le (Nat.pow_le_pow_right Nat.two_pos (by omega))), BitVec.testBit_toNat]
    exact BitVec.getLsbD_of_ge _ _ (by omega)

/-- A template whose kind has the field is patched in it alone. -/
theorem patchesTo_of_patched {o : E} {v : Word} {old new : BitVec 1024} (h : patched o v old = some new) :
    patchesTo o v old new := by
  obtain ⟨p, hp, rfl⟩ := Option.map_eq_some_iff.1 h
  refine ⟨p, hp, ?_, fun i hi hout => ?_⟩
  · rw [extractLsb'_patchField _ _ (tmplField_fits hp), patchValue]
    simp [tf]
  · rw [getLsbD_patchField _ _ _ _ hi, if_neg hout]

theorem patched_of_field {o : E} {v : Word} {old : BitVec 1024} {p : Nat × Nat}
    (h : tmplField (tKind old) o.fsel.toNat = some p) : ∃ new, patched o v old = some new := by
  unfold patched
  rw [h]
  exact ⟨_, rfl⟩

theorem patched_of_no_field {o : E} {v : Word} {old : BitVec 1024}
    (h : tmplField (tKind old) o.fsel.toNat = none) : patched o v old = none := by
  rw [patched, h]
  rfl

theorem toNat_lt_pow_bytes {n : Nat} (v : BitVec (8 * n)) : v.toNat < 256 ^ n :=
  v.isLt.trans_eq (pow_mul 2 8 n)

theorem tmplRead_putNat {m : List Host.Cell} (h : memWf m = true) (c : CtxId) (t : Nat) (v : BitVec 1024) :
    tmplRead (memPutNat m (tmplKey c t) 128 v.toNat) c t = v := by
  rw [tmplRead, memNat_putNat h, Nat.mod_eq_of_lt (toNat_lt_pow_bytes (n := 128) v), BitVec.ofNat_toNat,
    BitVec.setWidth_eq]

theorem memRead_putNat_zero {m : List Host.Cell} (h : memWf m = true) (a n : Nat) {i : Nat} (hi : i < n) :
    memRead (memPutNat m a n 0) (a + i) = 0 := by
  induction n generalizing m a i with
  | zero => exact absurd hi (Nat.not_lt_zero i)
  | succ n ih =>
    rw [memPutNat, Nat.zero_div]
    cases i with
    | zero => exact (memRead_putNat_other _ _ _ _ (.inl (Nat.lt_succ_self a))).trans (memRead_write_same h a _)
    | succ i =>
      have hrest := ih (memWf_write h a (BitVec.ofNat 8 0)) (a + 1) (Nat.lt_of_succ_lt_succ hi)
      rwa [Nat.add_assoc, Nat.add_comm 1 i] at hrest

/-! ## Plans -/

theorem xlateList_frame (c : CtxId) (acc : Access) (n : Nat) (l : List (Nat × Word)) (s : State) :
    XlatFrame c s (xlateList c acc n l s).1 := by
  induction l generalizing s with
  | nil => exact .refl c s
  | cons p l ih =>
    obtain ⟨j, va⟩ := p
    have hone := (xlate_kept s c acc va).1
    unfold xlateList
    split
    · exact .refl c s
    split
    · exact .refl c s
    split
    · next hx => rwa [hx] at hone
    · next hx => rwa [hx] at hone
    · next u k hx =>
      rw [hx] at hone
      have hrest := hone.trans (ih u)
      split
      · next hl => rwa [hl] at hrest
      · exact hrest

theorem engineSpan_frame (c : CtxId) (acc : Access) (va : Word) (n : Nat) (s : State) :
    XlatFrame c s (engineSpan c acc va n s).1 := by
  unfold engineSpan
  split
  · exact .refl c s
  split
  · exact .refl c s
  extract_lets cut
  have hlist := xlateList_frame c acc 1 (cut.map fun p => (p.1, va + BitVec.ofNat 64 p.1)) s
  split
  all_goals next hx => rwa [hx] at hlist

theorem planRow_frame (c : CtxId) (t : BitVec 1024) (i : Nat × Nat × Nat) (s : State) :
    XlatFrame c s (planRow c t i s).1 := by
  obtain ⟨i1, i2, i3⟩ := i
  unfold planRow
  dsimp only
  generalize hsrc : engineSpan _ _ _ _ s = r
  have hr : XlatFrame c s r.1 := hsrc ▸ engineSpan_frame ..
  obtain ⟨u, src | ⟨a, v, p⟩ | _⟩ := r
  · dsimp only
    generalize hdst : engineSpan _ _ _ _ u = r'
    have hr' : XlatFrame c u r'.1 := hdst ▸ engineSpan_frame ..
    obtain ⟨w, dst | ⟨a, v, p⟩ | _⟩ := r'
    all_goals exact hr.trans hr'
  · exact hr
  · exact hr

theorem planRows_frame (c : CtxId) (t : BitVec 1024) (l : List (Nat × Nat × Nat)) (s : State) :
    XlatFrame c s (planRows c t l s).1 := by
  induction l generalizing s with
  | nil => exact .refl c s
  | cons i l ih =>
    have hone := planRow_frame c t i s
    unfold planRows
    split
    · next hx => rwa [hx] at hone
    · next hx => rwa [hx] at hone
    · next u r hx =>
      rw [hx] at hone
      have hrest := hone.trans (ih u)
      split
      · next hl => rwa [hl] at hrest
      · exact hrest

theorem planCopy_frame (c : CtxId) (t : BitVec 1024) (fromS : Bool) (tmpl : Word) (s : State) :
    XlatFrame c s (planCopy c t fromS tmpl s).1 := by
  unfold planCopy
  split
  · exact .refl c s
  split
  · exact .refl c s
  have hrows := planRows_frame c t (rowIndices t) s
  split
  · next hx =>
    rw [hx] at hrows
    split
    · exact hrows
    · split <;> exact hrows
  · exact hrows

/-! ## Commands that become active -/

theorem startWith_active {α : Type} {r : State × Got α} {k : State → α → Started} {u : State} {a : ActiveCmd}
    (h : startWith r k = .active u a) : ∃ v, r.2 = .ok v ∧ k r.1 v = .active u a := by
  obtain ⟨s, g⟩ := r
  cases g with
  | ok v => exact ⟨v, rfl, h⟩
  | fault => cases h
  | hold => cases h

/-- A start that has changed what translations may change, and left its own command active. -/
structure Activated (c : CtxId) (q : EngCmd) (s u : State) (a : ActiveCmd) : Prop where
  frame : XlatFrame c s u
  cmd : a.cmd = q

theorem startFire_active {c : CtxId} {q : EngCmd} {o : E} {fromS : Bool} {t : BitVec 1024} {s u : State}
    {a : ActiveCmd} (h : startFire c q o fromS t s = .active u a) : Activated c q s u a ∧ a.tmpl = t := by
  unfold startFire at h
  extract_lets n at h
  split at h
  · split at h
    · cases h
    · obtain ⟨rows, -, hrows⟩ := startWith_active h
      obtain ⟨_, -, hactive⟩ := startWith_active hrows
      cases hactive
      exact ⟨⟨planCopy_frame .., rfl⟩, rfl⟩
  · obtain ⟨_, -, hwindow⟩ := startWith_active h
    obtain ⟨_, -, hactive⟩ := startWith_active hwindow
    cases hactive
    exact ⟨⟨.refl c s, rfl⟩, rfl⟩
  · cases h

theorem startBook_active {c : CtxId} {q : EngCmd} {o : E} {s u : State} {a : ActiveCmd}
    (h : startBook c q o s = .active u a) : Activated c q s u a := by
  unfold startBook at h
  split at h
  · cases h
  · obtain ⟨ps, -, hps⟩ := startWith_active h
    split at hps
    · cases hps
    · cases hps
      exact ⟨engineSpan_frame .., rfl⟩

/-- The template that an `efire` runs with (spec/04 R81). -/
def firesWith (o : E) (v : Word) (old new : BitVec 1024) : Prop :=
  if o.fsel = 63 then new = old else patchesTo o v old new

theorem startWrite_not_active {c : CtxId} {q : EngCmd} {t : Nat} {v : BitVec 1024} {s u : State} {a : ActiveCmd}
    (h : startWrite c q t v s = .active u a) : False := by
  unfold startWrite at h
  generalize writeTemplate c q.epoch t v s = w at h
  split at h
  · split at h <;> cases h
  · cases h

theorem startCmd_active {c : CtxId} {q : EngCmd} {kind : EngKind} {o : E} {fromS : Bool} {s u : State} {a : ActiveCmd}
    (h : startCmd c q kind o fromS s = .active u a) :
    Activated c q s u a ∧ (kind = .fire → firesWith o q.val (tmplRead s.mem c o.tmpl.toNat) a.tmpl) := by
  unfold startCmd at h
  extract_lets t n at h
  split at h
  · split at h
    · exact (startWrite_not_active h).elim
    · cases h
  · exact (startWrite_not_active h).elim
  · exact ⟨startBook_active h, nofun⟩
  · split at h
    · next hsel =>
      obtain ⟨hact, htmpl⟩ := startFire_active h
      exact ⟨hact, fun _ => by rw [firesWith, if_pos hsel, htmpl]⟩
    · next hsel =>
      split at h
      · next v hv =>
        obtain ⟨hact, htmpl⟩ := startFire_active h
        refine ⟨hact, fun _ => ?_⟩
        rw [firesWith, if_neg hsel, htmpl]
        exact patchesTo_of_patched hv
      · cases h

end Sys2Proof.Machine

end

section

/-! PROOFS. The start of an engine command (spec/04 R75, R76, R79 to R81, R85). -/

namespace Sys2Proof.Machine

/-! ## The context of a command as it starts -/

/-- A context of which the posted writes, the acting region and the notes of regions have changed. -/
def StartFrame (x y : Ctx) : Prop :=
  y = { x with sync := y.sync, acting := y.acting, reg := y.reg, older := y.older }

theorem StartFrame.trans {x y z : Ctx} (h : StartFrame x y) (h' : StartFrame y z) : StartFrame x z := by
  unfold StartFrame at h h' ⊢
  rw [h] at h'
  exact h'

theorem StartFrame.tok {x y : Ctx} (h : StartFrame x y) : y.tok = x.tok := by rw [h]

theorem StartFrame.engQ {x y : Ctx} (h : StartFrame x y) (st : Stream) : engQ y st = engQ x st := by
  rw [h]
  rfl

theorem StartFrame.modRegion (e : Nat) (f : Region → Region) (x : Ctx) : StartFrame x (modRegion e f x) := by
  rw [StartFrame, modRegion_eq]

theorem StartFrame.setUsed (c : CtxId) (q : EngCmd) (l : List TlbEntry) (s : State) :
    StartFrame (s.ctx c) ((setUsed c q l s).ctx c) := by
  rw [Machine.setUsed, State.modCtx_ctx_same]
  exact .modRegion ..

theorem XlatFrame.startFrame {c : CtxId} {s t : State} (h : XlatFrame c s t) : StartFrame (s.ctx c) (t.ctx c) := by
  rw [StartFrame, h.ctx]

theorem flushPosted_ctx_same (c : CtxId) (s : State) : (flushPosted c s).ctx c =
    { s.ctx c with sync := { (s.ctx c).sync with posted := [] } } := by
  unfold flushPosted
  extract_lets ps u
  have hu : Presented { s with mem := ps.foldl (fun m p => memLine m p.w) s.mem } u := presentFar_presented ..
  rw [State.modCtx_ctx_same, hu.ctx]
  rfl

/-- Without posted writes there is nothing to flush. -/
theorem flushPosted_of_none {c : CtxId} {s : State} (h : (s.ctx c).sync.posted = []) : flushPosted c s = s := by
  unfold flushPosted
  rw [h]
  refine State.modCtx_of_fixed ?_
  show { s.ctx c with sync := { (s.ctx c).sync with posted := [] } } = s.ctx c
  rw [← h]

/-- The state in which the head of an engine queue finds the part: the posted writes of its context have landed, and
the translations of its region are noted afresh. -/
def startView (c : CtxId) (q : EngCmd) (s : State) : State :=
  setUsed c q [] (actFor c q.epoch (flushPosted c s))

theorem startView_frame (c : CtxId) (q : EngCmd) (s : State) : StartFrame (s.ctx c) ((startView c q s).ctx c) := by
  have hflush : StartFrame (s.ctx c) ((flushPosted c s).ctx c) := by
    rw [flushPosted_ctx_same]
    exact rfl
  have hact : StartFrame ((flushPosted c s).ctx c) ((actFor c q.epoch (flushPosted c s)).ctx c) := by
    rw [actFor, State.modCtx_ctx_same]
    exact rfl
  exact (hflush.trans hact).trans (.setUsed ..)

theorem startView_mem {c : CtxId} {s : State} (h : (s.ctx c).sync.posted = []) (q : EngCmd) :
    (startView c q s).mem = s.mem := by
  rw [startView, flushPosted_of_none h]
  rfl

/-- The translations of a start, noted beside those that its region had used before. -/
def notedUse (c : CtxId) (q : EngCmd) (s u : State) : State :=
  setUsed c q (cmdUsed c q u ++ (cmdUsed c q (actFor c q.epoch (flushPosted c s))).filter fun t =>
    !(cmdUsed c q u).contains t) u

theorem notedUse_frame (c : CtxId) (q : EngCmd) (s u : State) : StartFrame (u.ctx c) ((notedUse c q s u).ctx c) :=
  .setUsed ..

theorem notedUse_mem (c : CtxId) (q : EngCmd) (s u : State) : (notedUse c q s u).mem = u.mem := rfl

/-! ## The head of a queue tried -/

/-- The command at the head of the queue whose turn it is may start (spec/04 R75, R76). -/
structure HeadReady (s : State) (k : CoreId) (c : CtxId) (st : Stream) (q : EngCmd) (qs : List EngCmd)
    (kind : EngKind) (o : E) (fromS : Bool) : Prop where
  slot : engSlot k (s.core k).engPtr = (c, st)
  runs : coreHeld s k = false
  room : (s.core k).active.length < 8
  head : engQ (s.ctx c) st = q :: qs
  fields : engFields q.instr = some (kind, o, fromS)
  sluice : sluiceOpen (s.ctx c) (engSluice st) = true
  tokens : engTokens o (s.ctx c) = true
  sound : ((regionOf (s.ctx c) q.epoch).all fun r => r.fault.isSome) = false

section tried

variable {s : State} {k : CoreId} {c : CtxId} {st : Stream} {q : EngCmd} {qs : List EngCmd} {kind : EngKind} {o : E}
  {fromS : Bool}

theorem exec_engineStart (h : HeadReady s k c st q qs kind o fromS) {t : State}
    (ht : tryStart k (s.core k).engPtr s = some t) : exec (.engineCommandStart k) s = .next t := by
  have hroom : ¬ 8 ≤ (s.core k).active.length := Nat.not_le.2 h.room
  show Host.Outcome.next (if coreHeld s k then s else engineStart k s) = _
  rw [h.runs, if_neg Bool.false_ne_true, engineStart, if_neg hroom]
  simp only [startFrom, ht]

theorem tryStart_of_active (h : HeadReady s k c st q qs kind o fromS) {u : State} {a : ActiveCmd}
    (hs : startCmd c q kind o fromS (startView c q s) = .active u a) :
    tryStart k (s.core k).engPtr s = some (presentCmd
      ((startTake k (s.core k).engPtr q o (notedUse c q s u)).modCore k fun x =>
        { x with active := x.active ++ [{ a with used := cmdUsed c q u }] }) { a with used := cmdUsed c q u }) := by
  unfold startView at hs
  simp only [tryStart, h.slot, h.head, h.fields, h.sluice, h.tokens, h.sound, notingUse, hs, Bool.not_true,
    Bool.or_self, Bool.false_eq_true, if_false]
  rfl

theorem tryStart_of_done (h : HeadReady s k c st q qs kind o fromS) {u : State}
    (hs : startCmd c q kind o fromS (startView c q s) = .done u) :
    ∃ v, v = startTake k (s.core k).engPtr q o (notedUse c q s u) ∧ tryStart k (s.core k).engPtr s =
      some (engProduce (activeOf c q 0 0 [] v) (presentSet c kind o v)) := by
  unfold startView at hs
  refine ⟨_, rfl, ?_⟩
  simp only [tryStart, h.slot, h.head, h.fields, h.sluice, h.tokens, h.sound, notingUse, hs, Bool.not_true,
    Bool.or_self, Bool.false_eq_true, if_false]
  rfl

theorem tryStart_of_fault (h : HeadReady s k c st q qs kind o fromS) {u : State} {cause : Nat} {tval : Word}
    {pe : Bool} (hs : startCmd c q kind o fromS (startView c q s) = .fault u cause tval pe) :
    tryStart k (s.core k).engPtr s =
      some (raiseFault c q.epoch (faultRec cause tval q.pos pe) (notedUse c q s u)) := by
  unfold startView at hs
  simp only [tryStart, h.slot, h.head, h.fields, h.sluice, h.tokens, h.sound, notingUse, hs, Bool.not_true,
    Bool.or_self, Bool.false_eq_true, if_false]
  rfl

end tried

/-! ## What follows a start -/

/-- The context after the head of an engine queue has left it (spec/04 R76). -/
def headTaken (st : Stream) (q : EngCmd) (o : E) (x : Ctx) : Ctx :=
  dequeued (engSluice st) (takeNeeds q.epoch o (setEngQ st (engQ x st).tail x))

theorem engQ_setEngQ (st : Stream) (l : List EngCmd) (x : Ctx) : engQ (setEngQ st l x) st = l := by
  unfold engQ setEngQ
  split <;> rfl

theorem setEngQ_tok (st : Stream) (l : List EngCmd) (x : Ctx) : (setEngQ st l x).tok = x.tok := by
  unfold setEngQ
  split <;> rfl

theorem headTaken_engQ (st : Stream) (q : EngCmd) (o : E) (x : Ctx) :
    engQ (headTaken st q o x) st = (engQ x st).tail :=
  ((takeNeeds_moved ..).engQ st).trans (engQ_setEngQ ..)

theorem headTaken_tokens (st : Stream) (q : EngCmd) (o : E) (x : Ctx) : tokensStarted o x (headTaken st q o x) := by
  intro j
  exact (tokensStarted_takeNeeds q.epoch o (setEngQ st (engQ x st).tail x) j).trans (by rw [setEngQ_tok])

theorem tokensStarted_congr {o : E} {x x' y : Ctx} (hx : x'.tok = x.tok) (h : tokensStarted o x' y) :
    tokensStarted o x y := by
  unfold tokensStarted at h ⊢
  rwa [hx] at h

section taken

variable {k : CoreId} {i : Fin 4} {c : CtxId} {st : Stream}

theorem startTake_ctx (h : engSlot k i = (c, st)) (q : EngCmd) (o : E) (s : State) :
    (startTake k i q o s).ctx c = headTaken st q o (s.ctx c) := by
  simp only [startTake, h, State.modCore_ctx, State.modCtx_ctx_same]
  rfl

theorem startTake_core (h : engSlot k i = (c, st)) (q : EngCmd) (o : E) (s : State) :
    (startTake k i q o s).core k = { s.core k with engPtr := i + 1 } := by
  simp only [startTake, h, State.modCore_core_same, State.modCtx_core]

end taken

end Sys2Proof.Machine

end

section

/-! PROOFS. What the start of an engine command leaves: an active command, a stored template, or a fault (spec/04 R76,
R79 to R81, R85). -/

namespace Sys2Proof.Machine

section started

variable {s : State} {k : CoreId} {c : CtxId} {st : Stream} {q : EngCmd} {qs : List EngCmd} {kind : EngKind} {o : E}
  {fromS : Bool}

/-- The context of a head that has left its queue. -/
theorem headTaken_of_ready (h : HeadReady s k c st q qs kind o fromS) {x : Ctx} (hx : StartFrame (s.ctx c) x) :
    engQ (headTaken st q o x) st = qs ∧ tokensStarted o (s.ctx c) (headTaken st q o x) := by
  refine ⟨?_, tokensStarted_congr hx.tok (headTaken_tokens st q o x)⟩
  rw [headTaken_engQ, hx.engQ, h.head, List.tail_cons]

/-- A command that stays active (spec/04 R75, R76, R81). -/
theorem exec_start_active (h : HeadReady s k c st q qs kind o fromS) {u : State} {a : ActiveCmd}
    (hs : startCmd c q kind o fromS (startView c q s) = .active u a) :
    ∃ t, exec (.engineCommandStart k) s = .next t ∧ (t.core k).engPtr = (s.core k).engPtr + 1 ∧
      tokensStarted o (s.ctx c) (t.ctx c) ∧
      (t.core k).active = (u.core k).active ++ [{ a with used := cmdUsed c q u }] ∧ engQ (t.ctx c) st = qs ∧
      t.mem = u.mem := by
  have hu : StartFrame (s.ctx c) ((notedUse c q s u).ctx c) :=
    ((startView_frame c q s).trans (startCmd_active hs).1.frame.startFrame).trans (notedUse_frame ..)
  obtain ⟨hq, htok⟩ := headTaken_of_ready h hu
  refine ⟨_, exec_engineStart h (tryStart_of_active h hs), ?_⟩
  rw [(presentCmd_presented ..).ctx, (presentCmd_presented ..).engPtr, (presentCmd_presented ..).active,
    (presentCmd_presented ..).mem, State.modCore_core_same, State.modCore_ctx, startTake_ctx h.slot,
    startTake_core h.slot]
  exact ⟨rfl, htok, rfl, hq, rfl⟩

/-- A command that ends with its start and has stored a template (spec/04 R76, R79, R80). -/
theorem exec_start_stored (h : HeadReady s k c st q qs kind o fromS) (hpost : (s.ctx c).sync.posted = [])
    {t : Nat} {v : BitVec 1024}
    (hs : startCmd c q kind o fromS (startView c q s) = .done (writeTemplate c q.epoch t v (startView c q s))) :
    ∃ r y, exec (.engineCommandStart k) s = .next r ∧ (r.core k).engPtr = (s.core k).engPtr + 1 ∧
      engQ (r.ctx c) st = qs ∧ tokensStarted o (s.ctx c) y ∧ CounterGiven (engKp q.instr) y (r.ctx c) ∧
      r.mem = memPutNat s.mem (tmplKey c t) 128 v.toNat := by
  obtain ⟨w, hw, htry⟩ := tryStart_of_done h hs
  have hstored : StartFrame ((startView c q s).ctx c) ((writeTemplate c q.epoch t v (startView c q s)).ctx c) := by
    unfold writeTemplate
    rw [State.modCtx_ctx_same]
    exact .modRegion ..
  obtain ⟨hq, htok⟩ := headTaken_of_ready h
    (((startView_frame c q s).trans hstored).trans (notedUse_frame c q s _))
  have hpres := presentSet_presented c kind o w
  have hctx := (hpres.ctx c).trans ((congrArg (State.ctx · c) hw).trans (startTake_ctx h.slot ..))
  obtain ⟨f, hprod, hgiven⟩ := engProduce_of_home (a := activeOf c q 0 0 [] w) (s := presentSet c kind o w)
    (congrArg (fun x : Ctx => x.id.gen) (hpres.ctx c)) rfl
  refine ⟨_, _, exec_engineStart h htry, ?_, ?_, htok, ?_, ?_⟩
  all_goals rw [hprod]
  · rw [State.modCtx_core, hpres.engPtr, hw, startTake_core h.slot]
  · rw [show (activeOf c q 0 0 [] w).ctx = c from rfl, State.modCtx_ctx_same]
    exact (hgiven.moved.engQ st).trans ((congrArg (engQ · st) hctx).trans hq)
  · rw [show (activeOf c q 0 0 [] w).ctx = c from rfl, State.modCtx_ctx_same, ← hctx]
    exact hgiven
  · rw [State.modCtx_mem, hpres.mem, hw, startTake_mem, notedUse_mem]
    exact congrArg (memPutNat · _ _ _) (startView_mem hpost q)

end started

/-! ## Stored templates -/

theorem undoCount_modRegion (e : Nat) {f : Region → Region} (hf : ∀ r, (f r).undo = r.undo) (x : Ctx) :
    undoCount (modRegion e f x) = undoCount x := by
  unfold undoCount modRegion
  split
  · next ho =>
    split
    · simp [ho, hf]
    · split <;> simp [ho, hf]
  · split <;> simp [hf]

theorem undoCount_startView (c : CtxId) (q : EngCmd) (s : State) :
    undoCount ((startView c q s).ctx c) = undoCount (s.ctx c) := by
  have hact : (actFor c q.epoch (flushPosted c s)).ctx c =
      { s.ctx c with sync := { (s.ctx c).sync with posted := [] }, acting := q.epoch } := by
    rw [actFor, State.modCtx_ctx_same, flushPosted_ctx_same]
  rw [startView, setUsed, State.modCtx_ctx_same,
    undoCount_modRegion q.epoch (f := fun r => { r with used := [] }) fun _ => rfl, hact]
  rfl

theorem startWrite_of_room {c : CtxId} {q : EngCmd} {s : State} (h : undoCount (s.ctx c) < 16) (t : Nat)
    (v : BitVec 1024) : startWrite c q t v s = .done (writeTemplate c q.epoch t v s) :=
  if_neg (Nat.not_le.2 h)

theorem startCmd_clear {c : CtxId} {q : EngCmd} {o : E} {fromS : Bool} {s : State} (h : undoCount (s.ctx c) < 16) :
    startCmd c q .clear o fromS s = .done (writeTemplate c q.epoch o.tmpl.toNat 0 s) := by
  unfold startCmd
  exact startWrite_of_room h _ _

theorem startCmd_set {c : CtxId} {q : EngCmd} {o : E} {fromS : Bool} {s : State} (h : undoCount (s.ctx c) < 16)
    {v : BitVec 1024} (hv : patched o q.val (tmplRead s.mem c o.tmpl.toNat) = some v) :
    startCmd c q .set o fromS s = .done (writeTemplate c q.epoch o.tmpl.toNat v s) := by
  unfold startCmd
  extract_lets t n
  dsimp only
  rw [hv]
  exact startWrite_of_room h _ _

theorem startCmd_no_field {c : CtxId} {q : EngCmd} {kind : EngKind} {o : E} {fromS : Bool} {s : State}
    (hk : kind = .set ∨ kind = .fire ∧ o.fsel ≠ 63)
    (hf : tmplField (tKind (tmplRead s.mem c o.tmpl.toNat)) o.fsel.toNat = none) :
    startCmd c q kind o fromS s = .fault s 10 (o.tmpl.setWidth 64) false := by
  have hnone : patched o q.val (tmplRead s.mem c o.tmpl.toNat) = none := patched_of_no_field hf
  unfold startCmd
  extract_lets t n
  obtain rfl | ⟨rfl, hsel⟩ := hk
  · dsimp only
    rw [hnone]
  · dsimp only
    rw [if_neg hsel, hnone]

/-! ## Faults -/

/-- A fault of the open region with nothing before it in the streams is recorded and taken. -/
theorem trapped_of_raiseFault {c : CtxId} {s : State} {f : FaultRec} (h : InKernel (s.ctx c))
    (ho : (s.ctx c).older = none) (hf : (s.ctx c).reg.fault = none) (hbad : (s.ctx c).reg.bad = false)
    (hq : ∀ e ∈ queued (s.ctx c), f.pos ≤ e.pos) (hp : isPageFault f.cause = false) :
    trapped (s.ctx c) ((raiseFault c (s.ctx c).reg.epoch f s).ctx c) f.cause f.tval (s.ctx c).reg.start := by
  have hdue : faultDue ((s.modCtx c (recordFault (s.ctx c).reg.epoch f)).ctx c) = true := by
    rw [State.modCtx_ctx_same]
    simp only [faultDue, oldest_recordFault ho hf]
    rw [recordFault_open ho hf, Bool.not_eq_true', List.any_eq_false]
    exact fun e he => by simpa using hq e he
  unfold raiseFault
  extract_lets u
  rw [if_pos hdue]
  exact trapped_of_recordFault h ho hf hbad hp

theorem modRegion_open {x : Ctx} (ho : x.older = none) (f : Region → Region) :
    modRegion x.reg.epoch f x = { x with reg := f x.reg } := by
  simp [modRegion, ho]

/-- A context of which posted writes, the acting region and the translations of the open region have changed. -/
structure OpenFrame (x y : Ctx) : Prop where
  rest : StartFrame x y
  older : y.older = x.older
  reg : y.reg = { x.reg with used := y.reg.used }

theorem OpenFrame.trans {x y z : Ctx} (h : OpenFrame x y) (h' : OpenFrame y z) : OpenFrame x z :=
  ⟨h.rest.trans h'.rest, h'.older.trans h.older, by rw [h'.reg, h.reg]⟩

theorem OpenFrame.queued {x y : Ctx} (h : OpenFrame x y) : queued y = queued x := by
  rw [h.rest]
  rfl

theorem OpenFrame.trap {x y : Ctx} (h : OpenFrame x y) : y.trap = x.trap := by rw [h.rest]

theorem OpenFrame.inKernel {x y : Ctx} (h : OpenFrame x y) (hk : InKernel x) : InKernel y := by
  have hid : y.id = x.id := by rw [h.rest]
  unfold InKernel at hk ⊢
  rwa [hid, h.trap]

theorem OpenFrame.setUsed {c : CtxId} {q : EngCmd} {s : State} (ho : (s.ctx c).older = none)
    (he : q.epoch = (s.ctx c).reg.epoch) (l : List TlbEntry) : OpenFrame (s.ctx c) ((setUsed c q l s).ctx c) := by
  rw [Machine.setUsed, State.modCtx_ctx_same, he, modRegion_open ho]
  exact ⟨rfl, rfl, rfl⟩

/-- The context of a start whose region is the open one, and the only one. -/
theorem notedView_open {s : State} {c : CtxId} {q : EngCmd} (ho : (s.ctx c).older = none)
    (he : q.epoch = (s.ctx c).reg.epoch) : OpenFrame (s.ctx c) ((notedUse c q s (startView c q s)).ctx c) := by
  have hact : OpenFrame (s.ctx c) ((actFor c q.epoch (flushPosted c s)).ctx c) := by
    rw [actFor, State.modCtx_ctx_same, flushPosted_ctx_same]
    exact ⟨rfl, rfl, rfl⟩
  have hview : OpenFrame (s.ctx c) ((startView c q s).ctx c) :=
    hact.trans (.setUsed (hact.older.trans ho) (he.trans (by rw [hact.reg])) [])
  exact hview.trans (.setUsed (hview.older.trans ho) (he.trans (by rw [hview.reg])) _)

/-- A start that finds a fault in the open region traps (spec/04 R85, spec/18 R354). -/
theorem exec_start_fault {s : State} {k : CoreId} {c : CtxId} {st : Stream} {q : EngCmd} {qs : List EngCmd}
    {kind : EngKind} {o : E} {fromS : Bool} (h : HeadReady s k c st q qs kind o fromS) {cause : Nat} {tval : Word}
    (hs : startCmd c q kind o fromS (startView c q s) = .fault (startView c q s) cause tval false)
    (hp : isPageFault cause = false) (ho : (s.ctx c).older = none) (he : q.epoch = (s.ctx c).reg.epoch)
    (hq : ∀ e ∈ queued (s.ctx c), q.pos ≤ e.pos) (hbad : (s.ctx c).reg.bad = false) (hk : InKernel (s.ctx c)) :
    ∃ t, exec (.engineCommandStart k) s = .next t ∧ trapped (s.ctx c) (t.ctx c) cause tval (s.ctx c).reg.start := by
  have hx := notedView_open ho he
  have hfault : (s.ctx c).reg.fault = none := by simpa [regionOf, he] using h.sound
  have hepoch : ((notedUse c q s (startView c q s)).ctx c).reg.epoch = q.epoch := by rw [hx.reg, he]
  have hstart : ((notedUse c q s (startView c q s)).ctx c).reg.start = (s.ctx c).reg.start := by rw [hx.reg]
  have ht := trapped_of_raiseFault (c := c) (f := faultRec cause tval q.pos false) (hx.inKernel hk)
    (hx.older.trans ho) (by rw [hx.reg]; exact hfault) (by rw [hx.reg]; exact hbad) (by rw [hx.queued]; exact hq) hp
  rw [hepoch, hstart] at ht
  exact ⟨_, exec_engineStart h (tryStart_of_fault h hs), trapped_congr hx.trap ht⟩

end Sys2Proof.Machine

end

section

/-! PROOFS. How an engine command ends, and its arrival word (spec/04 R74, R76). -/

namespace Sys2Proof.Machine

/-! ## The arrival word of a payload that has drained -/

theorem exec_arrivalWordWrite {s : State} {k : CoreId} {n : Nat} {d : ArrivalDue} (hheld : coreHeld s k = false)
    (hd : (s.core k).arrivals[n]? = some d) (hstruck : struckAt s d.addr = false) (hshut : homeShut s d.addr = false)
    (hdrained : ((s.half (halfOf d.ctx)).weir.any fun w =>
      w.ctx == d.ctx && w.epoch == d.epoch && d.lines.contains w.w.line) = false) :
    ∃ by_, exec (.arrivalWordWrite k n) s = .next
      ((presentKeys k by_ 4 .write [d.addr] { s with mem := memPutNat s.mem d.addr 8 d.val.toNat }).modCore k fun x =>
        { x with arrivals := x.arrivals.eraseIdx n }) := by
  refine ⟨if (s.ctx d.ctx).id.gen = d.gen then some d.ctx else none, ?_⟩
  show Host.Outcome.next (if coreHeld s k then s else arrivalWrite k n s) = _
  rw [hheld, if_neg Bool.false_ne_true, arrivalWrite, hd]
  simp only [hstruck, hshut, hdrained, Bool.or_self, Bool.false_eq_true, if_false]

/-! ## Slices -/

theorem struckAt_congr {s u : State} (hdev : u.dev = s.dev) (hstruck : ∀ h, (u.half h).struck = (s.half h).struck)
    (k : Nat) : struckAt u k = struckAt s k := by
  have hdram : dramC u = dramC s := by rw [dramC, dramC, hdev]
  have hshared : dramG u = dramG s := by rw [dramG, dramG, hdram, hdev]
  have hchannel : channelOf u k = channelOf s k := by
    unfold channelOf
    rw [hshared, hdram]
  have hhome : homeHalf u k = homeHalf s k := by rw [homeHalf, homeHalf, hchannel]
  simp only [struckAt, hhome, hstruck]

/-- Where a byte of a slice lies does not depend on what a command changes. -/
theorem sliceByte_congr {s u : State} (hdev : u.dev = s.dev) (hstruck : ∀ h, (u.half h).struck = (s.half h).struck)
    (c : CtxId) (va : Word) : sliceByte u c va = sliceByte s c va := by
  unfold sliceByte
  split
  · simp only [xlateSlice, hdev, struckAt_congr hdev hstruck]
  · rfl

/-! ## Arrival words -/

theorem State.modCore_of_fixed {s : State} {k : CoreId} {f : Core → Core} (h : f (s.core k) = s.core k) :
    s.modCore k f = s := by
  rw [State.modCore, h]
  simp [State.core]

/-- The arrival word of a command without a payload to wait for is written at once. -/
theorem arrive_nil (a : ActiveCmd) (u : State) : ∃ m, arrive a [] u = { u with mem := m } ∧
    (cpAw a.tmpl = false → m = u.mem) ∧
    (cpAw a.tmpl = true → ∀ key, sliceByte u a.ctx (tAwaddr a.tmpl) = .ok key →
      m = memPutNat u.mem key 8 (tAwval a.tmpl).toNat) := by
  unfold arrive
  cases haw : cpAw a.tmpl with
  | false => exact ⟨u.mem, rfl, fun _ => rfl, nofun⟩
  | true =>
    simp only [Bool.not_true, Bool.false_eq_true, if_false, List.isEmpty_nil, if_true]
    split
    · next key hkey =>
      refine ⟨_, rfl, nofun, fun _ key' hkey' => ?_⟩
      cases hkey.symm.trans hkey'
      rfl
    · next hno => exact ⟨u.mem, rfl, nofun, fun _ key hkey => absurd hkey (hno key)⟩

/-- The arrival word of a command with a payload on its way is due. -/
theorem arrive_lines {a : ActiveCmd} {lines : List Nat} (hl : lines ≠ []) (hdead : a.dead = false) (u : State) :
    ∃ due, arrive a lines u = u.modCore (coreOf a.ctx) (fun x => { x with arrivals := x.arrivals ++ due }) ∧
      (cpAw a.tmpl = false → due = []) ∧
      (cpAw a.tmpl = true → ∀ key, sliceByte u a.ctx (tAwaddr a.tmpl) = .ok key →
        due = [{ ctx := a.ctx, gen := a.gen, op := a.op, epoch := a.cmd.epoch, lines := lines, addr := key
                 val := tAwval a.tmpl }]) := by
  have hnone : u = u.modCore (coreOf a.ctx) fun x => { x with arrivals := x.arrivals ++ [] } :=
    (State.modCore_of_fixed (by rw [List.append_nil])).symm
  have hsome : lines.isEmpty = false := List.isEmpty_eq_false_iff.2 hl
  unfold arrive
  cases haw : cpAw a.tmpl with
  | false => exact ⟨[], hnone, fun _ => rfl, nofun⟩
  | true =>
    simp only [Bool.not_true, Bool.false_eq_true, if_false, hsome, hdead]
    split
    · next key hkey =>
      refine ⟨_, rfl, nofun, fun _ key' hkey' => ?_⟩
      cases hkey.symm.trans hkey'
      rfl
    · next hno => exact ⟨[], hnone, nofun, fun _ key hkey => absurd hkey (hno key)⟩

/-! ## The end of a command -/

theorem engKp_of_fields {i : Instr} {kind : EngKind} {o : E} {fromS : Bool} (h : engFields i = some (kind, o, fromS)) :
    engKp i = o.kp := by
  cases i with
  | eset _ | efire _ | eclr _ | cbload _ => cases h; rfl
  | esetS _ | efireS _ | eclrS _ | cbloadS _ => cases h; rfl
  | _ => cases h

/-- A command that ends is active no longer and gives its counter, and changes nothing else that is read later. -/
structure CommandEnded (k : CoreId) (n : Nat) (a : ActiveCmd) (u t : State) : Prop where
  active : (t.core k).active = (u.core k).active.eraseIdx n
  arrivals : (t.core k).arrivals = (u.core k).arrivals
  mem : t.mem = u.mem
  halves : t.halves = u.halves
  counter : CounterGiven (engKp a.cmd.instr) (u.ctx a.ctx) (t.ctx a.ctx)

theorem finish_ended {a : ActiveCmd} {u : State} (hgen : (u.ctx a.ctx).id.gen = a.gen) (hdead : a.dead = false)
    (k : CoreId) (n : Nat) : CommandEnded k n a u (finish k n a u) := by
  obtain ⟨f, hprod, hgiven⟩ := engProduce_of_home (s := cmdServed k a u) hgen hdead
  have hcore : (cmdServed k a u).core k = { u.core k with
      now := (u.core k).now.filter fun b => !cmdUse a b
      served := (u.core k).served.filter fun b => !cmdUse a b } := State.modCore_core_same ..
  refine ⟨?_, ?_, ?_, ?_, ?_⟩
  all_goals rw [finish, endActive, hprod]
  · rw [State.modCore_core_same, State.modCtx_core, hcore]
  · rw [State.modCore_core_same, State.modCtx_core, hcore]
  · rfl
  · rfl
  · rw [State.modCore_ctx, State.modCtx_ctx_same]
    exact hgiven

/-! ## Commands whose data may move -/

/-- An active command of a context in its bank whose data may move: it waits for no bank, no half and no window, its
context has no posted write on its way, and nothing that it reads is lost. -/
structure DataReady (s : State) (k : CoreId) (n : Nat) (a : ActiveCmd) : Prop where
  runs : coreHeld s k = false
  active : (s.core k).active[n]? = some a
  sound : cmdStruck s a = false
  reads : s.lostRead = false
  unsampled : a.sample = none
  turn : windowBusy s k n a = false
  reached : cmdFenced s a = false
  word : arrivalHeld s a = false
  granted : cmdWaits s k a = false
  landed : (s.ctx a.ctx).sync.posted = []
  alive : a.dead = false
  home : (s.ctx a.ctx).id.gen = a.gen
  core : k = coreOf a.ctx

theorem cmdView_of_ready {s : State} {k : CoreId} {n : Nat} {a : ActiveCmd} (h : DataReady s k n a) (lines : List Nat)
    (ps : List Part) : cmdView a lines ps s = s.mem := by
  simp [cmdView, h.unsampled, lostView, h.reads]

theorem exec_complete {s : State} {k : CoreId} {n : Nat} {a : ActiveCmd} (h : DataReady s k n a) :
    exec (.engineCommandComplete k n) s = .next (engineComplete k n s) := by
  show Host.Outcome.next (if coreHeld s k then s else engineComplete k n s) = _
  rw [h.runs, if_neg Bool.false_ne_true]

theorem exec_complete_move {s : State} {k : CoreId} {n : Nat} {a : ActiveCmd} (h : DataReady s k n a)
    (hp : pushes a = false) : exec (.engineCommandComplete k n) s = .next (completeMove k n a s) := by
  rw [exec_complete h, engineComplete, h.active]
  simp only [h.sound, h.turn, h.reached, h.word, h.granted, hp, Bool.or_self, Bool.not_false, Bool.false_eq_true,
    if_false, if_true]

theorem exec_complete_push {s : State} {k : CoreId} {n : Nat} {a : ActiveCmd} (h : DataReady s k n a)
    (hp : pushes a = true) {u : State} (hu : pushNext a s = some u) :
    exec (.engineCommandComplete k n) s = .next
      (if a.pushed + 1 < tmplPushes a.tmpl then setActive k n { a with pushed := a.pushed + 1 } u
       else finish k n { a with pushed := a.pushed + 1 } (arrive { a with pushed := a.pushed + 1 } [] u)) := by
  rw [exec_complete h, engineComplete, h.active]
  simp only [h.sound, h.turn, h.reached, h.word, h.granted, h.alive, hp, hu, Bool.or_self, Bool.not_true,
    Bool.false_eq_true, if_false]

end Sys2Proof.Machine

end

section

/-! PROOFS. Engine commands that move bytes: `cbload`, and COPY to a slice and to DRAM (spec/04 R70, R74, R76, R77,
R83, spec/11 R212). -/

namespace Sys2Proof.Machine

/-! ## Bytes moved -/

theorem memBytes_length (m : List Host.Cell) (a n : Nat) : (memBytes m a n).length = n := by
  induction n generalizing a with
  | zero => rfl
  | succ n ih => rw [memBytes, List.length_cons, ih]

theorem memBytes_getElem? (m : List Host.Cell) (a : Nat) {n i : Nat} (hi : i < n) :
    (memBytes m a n)[i]? = some (memRead m (a + i)) := by
  induction n generalizing a i with
  | zero => exact absurd hi (Nat.not_lt_zero i)
  | succ n ih =>
    cases i with
    | zero => rfl
    | succ i =>
      rw [memBytes, List.getElem?_cons_succ, ih (a + 1) (Nat.lt_of_succ_lt_succ hi), Nat.add_assoc, Nat.add_comm 1 i]

/-- Bytes copied from one range to another, read in the memory in which they were taken. -/
theorem memRead_copied {m : List Host.Cell} (h : memWf m = true) (src dst n : Nat) :
    (∀ i, i < n → memRead (memPutBytes m dst (memBytes m src n)) (dst + i) = memRead m (src + i)) ∧
      ∀ b, ¬ (dst ≤ b ∧ b < dst + n) → memRead (memPutBytes m dst (memBytes m src n)) b = memRead m b := by
  have hlen := memBytes_length m src n
  refine ⟨fun i hi => ?_, fun b hb => memRead_putBytes_other m dst _ (by rw [hlen]; omega)⟩
  have hsame := some_memRead_putBytes h dst (memBytes m src n) i (hlen.symm ▸ hi)
  rw [memBytes_getElem? m src hi] at hsame
  exact Option.some.inj hsame

/-- Bytes written one by one to rising addresses. -/
theorem foldl_memWrite_zip (f : Nat → Word) (key : Nat) (l : List Byte) (i : Nat) (m : List Host.Cell) :
    ((((List.range' i l.length).map fun j => (f j, key + j)).zip l).map fun t => (t.1.1, t.1.2, t.2)).foldl
      (fun m (t : Word × Nat × Byte) => memWrite m t.2.1 t.2.2) m = memPutBytes m (key + i) l := by
  induction l generalizing i m with
  | nil => rfl
  | cons b l ih =>
    rw [List.length_cons, List.range'_succ]
    exact ih (i + 1) _

/-! ## Commands that end -/

/-- A command that is active no longer and has given its counter. -/
def EndedFrom (s : State) (k : CoreId) (n : Nat) (c : CtxId) (o : E) (t : State) : Prop :=
  (t.core k).active = (s.core k).active.eraseIdx n ∧
    (o.kp ≠ 0 → (t.ctx c).tok.k[o.kp.toNat] = (s.ctx c).tok.k[o.kp.toNat] + 1)

/-- A command whose arrival word has been written over a memory, if it has one. -/
def ArrivedOn (s : State) (a : ActiveCmd) (m : List Host.Cell) (t : State) : Prop :=
  (cpAw a.tmpl = false → t.mem = m) ∧
    (cpAw a.tmpl = true → ∀ key, sliceByte s a.ctx (tAwaddr a.tmpl) = .ok key →
      t.mem = memPutNat m key 8 (tAwval a.tmpl).toNat)

/-- What a command that is about to end has left as it was. -/
structure BeforeEnd (s : State) (k : CoreId) (a : ActiveCmd) (u : State) : Prop where
  dev : u.dev = s.dev
  struck : ∀ h, (u.half h).struck = (s.half h).struck
  active : (u.core k).active = (s.core k).active
  tok : (u.ctx a.ctx).tok = (s.ctx a.ctx).tok
  home : (u.ctx a.ctx).id.gen = a.gen

theorem EndedFrom.of_ended {s u t : State} {k : CoreId} {n : Nat} {a : ActiveCmd} {o : E}
    (hkp : engKp a.cmd.instr = o.kp) (hu : BeforeEnd s k a u) (h : CommandEnded k n a u t) :
    EndedFrom s k n a.ctx o t := by
  obtain ⟨hactive, -, -, -, hcounter⟩ := h
  rw [hkp] at hcounter
  refine ⟨hactive.trans (by rw [hu.active]), fun hne => ?_⟩
  rw [hcounter.given hne, hu.tok]

/-- A command without a payload on its way ends, and its arrival word is written. -/
theorem finish_arrived {s u : State} {k : CoreId} {n : Nat} {a : ActiveCmd} {o : E} (hkp : engKp a.cmd.instr = o.kp)
    (hdead : a.dead = false) (hu : BeforeEnd s k a u) :
    EndedFrom s k n a.ctx o (finish k n a (arrive a [] u)) ∧
      ArrivedOn s a u.mem (finish k n a (arrive a [] u)) := by
  obtain ⟨m, hm, hnone, hword⟩ := arrive_nil a u
  have hended := finish_ended (u := { u with mem := m }) hu.home hdead k n
  rw [hm]
  refine ⟨.of_ended (u := { u with mem := m }) hkp ⟨hu.dev, hu.struck, hu.active, hu.tok, hu.home⟩ hended, ?_⟩
  rw [ArrivedOn, hended.mem]
  exact ⟨hnone, fun haw key hkey => hword haw key ((sliceByte_congr hu.dev hu.struck _ _).trans hkey)⟩

section moved

variable {s : State} {k : CoreId} {n : Nat} {a : ActiveCmd}

/-! ## Codebooks -/

/-- A range of bytes copied to another place. -/
def rangeCopied (src dst n : Nat) (s : State) : State :=
  { s.bumpFree with mem := memPutBytes s.mem dst (memBytes s.mem src n) }

/-- A `cbload` of one span copies it to its codebooks. -/
theorem completeMove_book (h : DataReady s k n a) {o : E} {fromS : Bool} {src dst : Part} {r : CopyRow}
    (hf : engFields a.cmd.instr = some (.book, o, fromS)) (hrows : a.rows = [r]) (hsrc : r.src = [src])
    (hdst : r.dst = [dst]) (hlen : src.len = dst.len) (hoff : dst.off = 0) :
    completeMove k n a s = finish k n a (rangeCopied src.key dst.key dst.len s) := by
  have hout : (((destBytes r).zip (memBytes s.mem src.key dst.len)).map fun t => (t.1.1, t.1.2, t.2)).foldl
      (fun m (t : Word × Nat × Byte) => memWrite m t.2.1 t.2.2) s.mem =
      memPutBytes s.mem dst.key (memBytes s.mem src.key dst.len) := by
    have hzip := foldl_memWrite_zip (fun j => r.dva + BitVec.ofNat 64 (0 + j)) dst.key
      (memBytes s.mem src.key dst.len) 0 s.mem
    rw [memBytes_length, ← List.range_eq_range'] at hzip
    rw [destBytes, hdst, List.flatMap_singleton, hoff]
    exact hzip
  simp only [completeMove, flushPosted_of_none h.landed, hf, cmdView_of_ready h, hrows, planSrc,
    List.flatMap_singleton, hsrc, partsBytes, hlen]
  exact congrArg (fun m => finish k n a { s.bumpFree with mem := m }) hout

/-! ## COPY -/

/-- A COPY none of whose bytes is read or written otherwise writes what its rows give. -/
theorem settleOuts_of_apart (hself : selfMeet (planDst a.rows) = false)
    (hapart : ((planDst a.rows).any fun p => (planSrc a.rows).any (partsMeet p)) = false) (free : Nat)
    (outs : List (Word × Nat × Byte)) : settleOuts free a outs = outs := by
  unfold settleOuts
  rw [hself, hapart, if_neg (by simp)]

theorem completeMove_copy (h : DataReady s k n a) {kind : EngKind} {o : E} {fromS : Bool}
    (hf : engFields a.cmd.instr = some (kind, o, fromS)) (hk : kind ≠ .book)
    (hself : selfMeet (planDst a.rows) = false)
    (hapart : ((planDst a.rows).any fun p => (planSrc a.rows).any (partsMeet p)) = false) :
    completeMove k n a s =
      if anyDram (planDst a.rows) then completeDram k n a (copyOuts s.mem a) s.bumpFree
      else finish k n a (arrive a [] (putOuts (copyOuts s.mem a)
        (s.bumpFree.modCtx a.ctx (noteSent a.cmd.epoch ((outLines (copyOuts s.mem a)).map (·.2)))))) := by
  cases kind with
  | book => exact absurd rfl hk
  | _ =>
    simp only [completeMove, flushPosted_of_none h.landed, hf, cmdView_of_ready h, settleOuts_of_apart hself hapart]

/-! ## The weir buffer -/

theorem State.modHalf_of_fixed {s : State} {h : HalfId} {f : Half → Half} (hf : f (s.half h) = s.half h) :
    s.modHalf h f = s := by
  rw [State.modHalf, hf]
  simp [State.half]

theorem State.modHalf_modHalf (s : State) (h : HalfId) (f g : Half → Half) :
    (s.modHalf h f).modHalf h g = s.modHalf h fun x => g (f x) := by
  simp [State.modHalf, State.half]

theorem foldl_modHalf {α : Type} (h : HalfId) (g : α → Half → Half) (l : List α) (s : State) :
    l.foldl (fun s x => s.modHalf h (g x)) s = s.modHalf h fun y => l.foldl (fun y x => g x y) y := by
  induction l generalizing s with
  | nil => exact (State.modHalf_of_fixed rfl).symm
  | cons x l ih =>
    rw [List.foldl_cons, ih, State.modHalf_modHalf]
    rfl

theorem weirPlace_eq (c : CtxId) (e : Nat) (late : Bool) (run : LineRun) (ls : List (Word × LineWrite)) (s : State) :
    weirPlace c e late run ls s = s.modHalf (halfOf c) fun h =>
      ls.foldl (fun h l => weirPut (s.ctx c) c e late run l.1 l.2 h) h :=
  foldl_modHalf (halfOf c) (fun l : Word × LineWrite => weirPut (s.ctx c) c e late run l.1 l.2) ls s

theorem weirPut_struck (x : Ctx) (c : CtxId) (e : Nat) (late : Bool) (run : LineRun) (va : Word) (w : LineWrite)
    (h : Half) : (weirPut x c e late run va w h).struck = h.struck := by
  unfold weirPut
  extract_lets f new
  split <;> rfl

theorem foldl_weirPut_struck (x : Ctx) (c : CtxId) (e : Nat) (late : Bool) (run : LineRun)
    (ls : List (Word × LineWrite)) (h : Half) :
    (ls.foldl (fun h l => weirPut x c e late run l.1 l.2 h) h).struck = h.struck := by
  induction ls generalizing h with
  | nil => rfl
  | cons l ls ih => exact (ih _).trans (weirPut_struck ..)

/-- The state in which a COPY to DRAM has entered its lines into the weir buffer. -/
def payloadPlaced (a : ActiveCmd) (ls : List (Word × LineWrite)) (s : State) : State :=
  weirPlace a.ctx a.cmd.epoch false (cmdRun a) ls (bumpSeq a.ctx s.bumpFree)

theorem completeDram_of_room (h : DataReady s k n a) (hlate : a.late = false) {outs : List (Word × Nat × Byte)}
    (hroom : weirRoom s a.ctx a.cmd.epoch (newLines s a.ctx a.cmd.epoch (outLines outs)) = .ok) :
    completeDram k n a outs s.bumpFree =
      finish k n a (arrive a ((outLines outs).map fun l => l.2.line) (payloadPlaced a (outLines outs) s)) := by
  have hroom' : weirRoom s.bumpFree a.ctx a.cmd.epoch (newLines s.bumpFree a.ctx a.cmd.epoch (outLines outs)) = .ok :=
    hroom
  simp only [completeDram, h.alive, hlate, hroom', Bool.false_eq_true, if_false]
  rfl

theorem payloadPlaced_half (a : ActiveCmd) (ls : List (Word × LineWrite)) (s : State) :
    (payloadPlaced a ls s).half (halfOf a.ctx) = ls.foldl (fun h l => weirPut
      { s.ctx a.ctx with sync := { (s.ctx a.ctx).sync with seq := (s.ctx a.ctx).sync.seq + 1 } }
      a.ctx a.cmd.epoch false (cmdRun a) l.1 l.2 h) (s.half (halfOf a.ctx)) := by
  rw [payloadPlaced, weirPlace_eq, State.modHalf_half_same, bumpSeq, State.modCtx_ctx_same]
  rfl

theorem payloadPlaced_beforeEnd (h : DataReady s k n a) (ls : List (Word × LineWrite)) :
    BeforeEnd s k a (payloadPlaced a ls s) := by
  have hctx : (payloadPlaced a ls s).ctx a.ctx =
      { s.ctx a.ctx with sync := { (s.ctx a.ctx).sync with seq := (s.ctx a.ctx).sync.seq + 1 } } := by
    rw [payloadPlaced, weirPlace_eq, State.modHalf_ctx, bumpSeq, State.modCtx_ctx_same]
    rfl
  refine ⟨?_, fun i => ?_, ?_, ?_, ?_⟩
  · rw [payloadPlaced, weirPlace_eq]
    rfl
  · by_cases hi : i = halfOf a.ctx
    · rw [hi, payloadPlaced_half, foldl_weirPut_struck]
    · rw [payloadPlaced, weirPlace_eq, State.modHalf_half_other _ _ _ _ hi]
      rfl
  · rw [payloadPlaced, weirPlace_eq]
    rfl
  · rw [hctx]
  · rw [hctx]
    exact h.home

/-- A COPY to DRAM that has room in the weir buffer: its lines are entered, and its arrival word is due. -/
theorem completeDram_ended (h : DataReady s k n a) {o : E} (hkp : engKp a.cmd.instr = o.kp) (hlate : a.late = false)
    {outs : List (Word × Nat × Byte)} (hls : outLines outs ≠ [])
    (hroom : weirRoom s a.ctx a.cmd.epoch (newLines s a.ctx a.cmd.epoch (outLines outs)) = .ok) :
    ∃ t, t = completeDram k n a outs s.bumpFree ∧ EndedFrom s k n a.ctx o t ∧ t.mem = s.mem ∧
      t.half (halfOf a.ctx) = (payloadPlaced a (outLines outs) s).half (halfOf a.ctx) ∧
      (cpAw a.tmpl = false → (t.core k).arrivals = (s.core k).arrivals) ∧
      (cpAw a.tmpl = true → ∀ key, sliceByte s a.ctx (tAwaddr a.tmpl) = .ok key →
        (t.core k).arrivals = (s.core k).arrivals ++
          [{ ctx := a.ctx, gen := a.gen, op := a.op, epoch := a.cmd.epoch
             lines := (outLines outs).map fun l => l.2.line, addr := key, val := tAwval a.tmpl }]) := by
  have hu := payloadPlaced_beforeEnd h (outLines outs)
  have hlines : ((outLines outs).map fun l => l.2.line) ≠ [] := by simpa using hls
  obtain ⟨due, hdue, hnone, hword⟩ := arrive_lines hlines h.alive (payloadPlaced a (outLines outs) s)
  have hcore := State.modCore_core_same (payloadPlaced a (outLines outs) s) (coreOf a.ctx)
    fun x => { x with arrivals := x.arrivals ++ due }
  rw [← h.core] at hdue hcore
  have hu' : BeforeEnd s k a ((payloadPlaced a (outLines outs) s).modCore k fun x =>
      { x with arrivals := x.arrivals ++ due }) :=
    ⟨hu.dev, hu.struck, (congrArg Core.active hcore).trans hu.active, hu.tok, hu.home⟩
  have hended := finish_ended hu'.home h.alive k n
  have harrivals : (payloadPlaced a (outLines outs) s).core k = s.core k := by
    rw [payloadPlaced, weirPlace_eq]
    rfl
  refine ⟨_, rfl, ?_⟩
  rw [completeDram_of_room h hlate hroom, hdue]
  refine ⟨.of_ended hkp hu' hended, ?_, ?_, fun haw => ?_, fun haw key hkey => ?_⟩
  · rw [hended.mem, State.modCore_mem, payloadPlaced, weirPlace_mem]
    rfl
  · rw [State.half, hended.halves]
    rfl
  · rw [hended.arrivals, hcore, harrivals, hnone haw, List.append_nil]
  · rw [hended.arrivals, hcore, harrivals, hword haw key ((sliceByte_congr hu.dev hu.struck _ _).trans hkey)]

end moved

end Sys2Proof.Machine

end

section

/-! PROOFS. Latch entries that engine commands push (spec/04 R70, R71, R73). -/

namespace Sys2Proof.Machine

/-! ## Rows at their places -/

/-- A list of row values with those of some rows put at their places. -/
def placeRows (g : CopyRow → Nat) (rows : List CopyRow) (l : List Nat) : List Nat :=
  rows.foldl (fun l r => l.set r.i1 (g r)) l

/-- A field that is 0 takes a value. -/
theorem packFields_set {w : Nat} {l : List Nat} {i v : Nat} (hl : l[i]? = some 0) (hv : v < 2 ^ w) :
    packFields w (l.set i v) = packFields w l + v * 2 ^ (w * i) := by
  induction l generalizing i with
  | nil => cases hl
  | cons x xs ih =>
    cases i with
    | zero =>
      cases hl
      simp only [List.set_cons_zero, packFields, Nat.mod_eq_of_lt hv, Nat.zero_mod, Nat.mul_zero, pow_zero]
      omega
    | succ i =>
      rw [List.set_cons_succ, packFields, packFields, ih hl, Nat.mul_succ, Nat.add_comm (w * i), pow_add]
      ring

theorem placeRows_length (g : CopyRow → Nat) (rows : List CopyRow) (l : List Nat) :
    (placeRows g rows l).length = l.length := by
  induction rows generalizing l with
  | nil => rfl
  | cons r rows ih => exact (ih _).trans List.length_set

/-- The place of a row holds its value, and every other place what it held. -/
theorem placeRows_getElem? {rows : List CopyRow} (hn : (rows.map (·.i1)).Nodup) (g : CopyRow → Nat) {l : List Nat}
    {i x : Nat} (hl : l[i]? = some x) :
    (placeRows g rows l)[i]? = some (((rows.find? fun r => r.i1 == i).map g).getD x) := by
  induction rows generalizing l x with
  | nil => exact hl
  | cons r rows ih =>
    obtain ⟨hr, hrows⟩ := List.nodup_cons.1 hn
    have hlt : i < l.length := (List.getElem?_eq_some_iff.1 hl).1
    by_cases hi : r.i1 = i
    · have hnone : (rows.find? fun r => r.i1 == i) = none := List.find?_eq_none.2 fun t ht hti =>
        hr (List.mem_map.2 ⟨t, ht, (beq_iff_eq.1 hti).trans hi.symm⟩)
      have hset : (l.set r.i1 (g r))[i]? = some (g r) := by rw [hi, List.getElem?_set_self hlt]
      rw [placeRows, List.foldl_cons]
      refine (ih hrows hset).trans ?_
      simp [hnone, hi]
    · have hset : (l.set r.i1 (g r))[i]? = some x := by rw [List.getElem?_set_ne hi, hl]
      rw [placeRows, List.foldl_cons]
      refine (ih hrows hset).trans ?_
      simp [hi]

/-- Rows added at their places to fields that are 0 there. -/
theorem foldl_placeRows {w : Nat} {rows : List CopyRow} (hn : (rows.map (·.i1)).Nodup) {g : CopyRow → Nat}
    {l : List Nat} (hg : ∀ r ∈ rows, g r < 2 ^ w) (hl : ∀ r ∈ rows, l[r.i1]? = some 0) :
    rows.foldl (fun d r => d + g r * 2 ^ (w * r.i1)) (packFields w l) = packFields w (placeRows g rows l) := by
  induction rows generalizing l with
  | nil => rfl
  | cons r rows ih =>
    obtain ⟨hr, hrows⟩ := List.nodup_cons.1 hn
    rw [List.foldl_cons, placeRows, List.foldl_cons,
      ← packFields_set (hl r List.mem_cons_self) (hg r List.mem_cons_self)]
    refine ih hrows (fun t ht => hg t (List.mem_cons_of_mem _ ht)) fun t ht => ?_
    have hne : r.i1 ≠ t.i1 := fun h => hr (List.mem_map.2 ⟨t, ht, h.symm⟩)
    rw [List.getElem?_set_ne hne]
    exact hl t (List.mem_cons_of_mem _ ht)

/-- The fields of n rows: each row at its place, and zeros elsewhere. -/
def rowFields (g : CopyRow → Nat) (rows : List CopyRow) (n : Nat) : List Nat :=
  placeRows g rows (List.replicate n 0)

theorem rowFields_length (g : CopyRow → Nat) (rows : List CopyRow) (n : Nat) : (rowFields g rows n).length = n :=
  (placeRows_length ..).trans List.length_replicate

theorem packFields_zeros (w n : Nat) : packFields w (List.replicate n 0) = 0 := by
  induction n with
  | zero => rfl
  | succ n ih => simp [List.replicate_succ, packFields, ih]

theorem foldl_rowFields {w n : Nat} {rows : List CopyRow} (hn : (rows.map (·.i1)).Nodup) {g : CopyRow → Nat}
    (hg : ∀ r ∈ rows, g r < 2 ^ w) (hi : ∀ r ∈ rows, r.i1 < n) :
    rows.foldl (fun d r => d + g r * 2 ^ (w * r.i1)) 0 = packFields w (rowFields g rows n) := by
  rw [← packFields_zeros w n]
  exact foldl_placeRows hn hg fun r hr => by rw [List.getElem?_replicate, if_pos (hi r hr)]

/-- Row i of rows packed at their places. -/
theorem packFields_rowFields {w n i : Nat} {rows : List CopyRow} (hn : (rows.map (·.i1)).Nodup) {g : CopyRow → Nat}
    (hg : ∀ r ∈ rows, g r < 2 ^ w) (hi : i < n) :
    packFields w (rowFields g rows n) / 2 ^ (w * i) % 2 ^ w = ((rows.find? fun r => r.i1 == i).map g).getD 0 := by
  have hzero : (List.replicate n 0)[i]? = some 0 := by rw [List.getElem?_replicate, if_pos hi]
  rw [packFields_field, rowFields, placeRows_getElem? hn g hzero, Option.getD_some]
  refine Nat.mod_eq_of_lt ?_
  cases hf : rows.find? fun r => r.i1 == i with
  | none => exact Nat.two_pow_pos w
  | some r => exact hg r (List.mem_of_find?_eq_some hf)

/-! ## Bytes and masks of a row -/

theorem bytesAt_lt (l : List Byte) : latchRowBits.bytesAt l < 2 ^ (8 * l.length) := by
  induction l with
  | nil => exact Nat.one_pos
  | cons b l ih =>
    have hb := b.isLt
    rw [latchRowBits.bytesAt, List.length_cons, Nat.mul_succ, pow_add]
    omega

theorem bytesAt_byte (l : List Byte) (b : Nat) :
    BitVec.ofNat 8 (latchRowBits.bytesAt l / 2 ^ (8 * b)) = l[b]?.getD 0 := by
  induction l generalizing b with
  | nil => simp [latchRowBits.bytesAt]
  | cons x l ih =>
    have hx := x.isLt
    cases b with
    | zero =>
      refine BitVec.eq_of_toNat_eq ?_
      rw [latchRowBits.bytesAt, Nat.mul_zero, pow_zero, Nat.div_one, BitVec.toNat_ofNat]
      show (x.toNat + 256 * latchRowBits.bytesAt l) % 2 ^ 8 = x.toNat
      omega
    | succ b =>
      have hdiv : (x.toNat + 256 * latchRowBits.bytesAt l) / 2 ^ 8 = latchRowBits.bytesAt l := by omega
      rw [latchRowBits.bytesAt, Nat.mul_succ, Nat.add_comm (8 * b), pow_add, ← Nat.div_div_eq_div_mul, hdiv, ih,
        List.getElem?_cons_succ]

/-- Bits lo to below hi. -/
theorem testBit_span {lo hi : Nat} (h : lo ≤ hi) (b : Nat) :
    (2 ^ hi - 2 ^ lo).testBit b = decide (lo ≤ b ∧ b < hi) := by
  have hmul : 2 ^ hi - 2 ^ lo = (2 ^ (hi - lo) - 1) * 2 ^ lo := by
    rw [Nat.sub_mul, one_mul, ← pow_add, Nat.sub_add_cancel h]
  rw [hmul, Nat.testBit_mul_two_pow, Nat.testBit_two_pow_sub_one]
  by_cases hlo : lo ≤ b
  · simp only [hlo, decide_true, Bool.true_and, true_and, decide_eq_decide]
    omega
  · simp [hlo]

/-- A byte of a latch entry is one of the field of its row. -/
theorem latchByte_eq (d i : Nat) {pitch b : Nat} (hb : b < pitch) : latchByte d pitch i b =
    BitVec.ofNat 8 (d / 2 ^ (8 * pitch * i) % 2 ^ (8 * pitch) / 2 ^ (8 * b)) := by
  have hsplit : 2 ^ (8 * pitch) = 2 ^ (8 * b) * 2 ^ (8 * (pitch - b)) := by
    rw [← pow_add, ← Nat.mul_add]
    congr 2
    omega
  have hbyte : 2 ^ 8 ∣ 2 ^ (8 * (pitch - b)) := Nat.pow_dvd_pow 2 (by omega)
  refine BitVec.eq_of_toNat_eq ?_
  rw [latchByte, BitVec.toNat_ofNat, BitVec.toNat_ofNat, hsplit, Nat.mod_mul_right_div_self, Nat.mod_mod_of_dvd _ hbyte,
    Nat.mul_add, ← Nat.mul_assoc, pow_add, Nat.div_div_eq_div_mul]

theorem testBit_field (d i : Nat) {w b : Nat} (hb : b < w) :
    d.testBit (w * i + b) = (d / 2 ^ (w * i) % 2 ^ w).testBit b := by
  rw [Nat.testBit_mod_two_pow, Nat.testBit_div_two_pow, decide_eq_true hb, Bool.true_and, Nat.add_comm]

/-! ## The entry of a COPY -/

/-- The bytes of a row as a number. -/
def rowData (m : List Host.Cell) (a : ActiveCmd) (r : CopyRow) : Nat := latchRowBits.bytesAt (rowBytes m a r)

/-- The bytes of a row that have a source, one bit each. -/
def rowMask (a : ActiveCmd) (r : CopyRow) : Nat := 2 ^ (r.hi * cpE a.tmpl) - 2 ^ (r.lo * cpE a.tmpl)

/-- The rows of a COPY fit a latch entry of n rows at a pitch. -/
structure RowsFit (m : List Host.Cell) (a : ActiveCmd) (n pitch : Nat) : Prop where
  apart : (a.rows.map (·.i1)).Nodup
  inside : ∀ r ∈ a.rows, r.i1 < n
  ordered : ∀ r ∈ a.rows, r.lo ≤ r.hi
  bytes : ∀ r ∈ a.rows, (rowBytes m a r).length ≤ pitch
  source : ∀ r ∈ a.rows, r.hi * cpE a.tmpl ≤ pitch

section fit

variable {m : List Host.Cell} {a : ActiveCmd} {n pitch : Nat}

theorem RowsFit.data_lt (h : RowsFit m a n pitch) : ∀ r ∈ a.rows, rowData m a r < 2 ^ (8 * pitch) := fun r hr =>
  (bytesAt_lt _).trans_le (Nat.pow_le_pow_right Nat.two_pos (Nat.mul_le_mul_left 8 (h.bytes r hr)))

theorem RowsFit.mask_lt (h : RowsFit m a n pitch) : ∀ r ∈ a.rows, rowMask a r < 2 ^ pitch := fun r hr => by
  have hle := Nat.pow_le_pow_right Nat.two_pos (h.source r hr)
  have hpos := Nat.two_pow_pos (r.lo * cpE a.tmpl)
  have hpos' := Nat.two_pow_pos (r.hi * cpE a.tmpl)
  unfold rowMask
  omega

theorem foldl_pair {α : Type} (f g : α → Nat) (l : List α) (x y : Nat) :
    l.foldl (fun (d : Nat × Nat) r => (d.1 + f r, d.2 + g r)) (x, y) =
      (l.foldl (fun d r => d + f r) x, l.foldl (fun d r => d + g r) y) := by
  induction l generalizing x y with
  | nil => rfl
  | cons r l ih => exact ih _ _

theorem latchRowBits_eq (h : RowsFit m a n pitch) : latchRowBits m a pitch =
    (packFields (8 * pitch) (rowFields (rowData m a) a.rows n), packFields pitch (rowFields (rowMask a) a.rows n)) := by
  rw [← foldl_rowFields h.apart h.data_lt h.inside, ← foldl_rowFields h.apart h.mask_lt h.inside]
  unfold latchRowBits
  simp only [Nat.mul_assoc]
  exact foldl_pair (fun r => rowData m a r * 2 ^ (8 * (pitch * r.i1))) (fun r => rowMask a r * 2 ^ (pitch * r.i1)) _ _ _

/-- A latch entry of a COPY holds the bytes and the mask of each of its rows (spec/04 R71). -/
theorem latchRowsHeld_of_fit (h : RowsFit m a n pitch) {wd wm : Nat} (hwd : 8 * pitch * n ≤ wd) (hwm : pitch * n ≤ wm) :
    latchRowsHeld (BitVec.ofNat wd (latchRowBits m a pitch).1).toNat
      (~~~BitVec.ofNat wm (latchRowBits m a pitch).2).getLsbD n pitch m a := by
  have hdata := packFields_lt (8 * pitch) (rowFields (rowData m a) a.rows n)
  rw [rowFields_length] at hdata
  have hd : (BitVec.ofNat wd (latchRowBits m a pitch).1).toNat =
      packFields (8 * pitch) (rowFields (rowData m a) a.rows n) := by
    rw [latchRowBits_eq h, BitVec.toNat_ofNat,
      Nat.mod_eq_of_lt (hdata.trans_le (Nat.pow_le_pow_right Nat.two_pos hwd))]
  intro i b hi hb
  have hbyte := latchByte_eq (packFields (8 * pitch) (rowFields (rowData m a) a.rows n)) i hb
  rw [packFields_rowFields h.apart h.data_lt hi] at hbyte
  have hin : pitch * i + b < wm := by nlinarith
  have hmask : (~~~BitVec.ofNat wm (latchRowBits m a pitch).2).getLsbD (pitch * i + b) =
      !(((a.rows.find? fun r => r.i1 == i).map (rowMask a)).getD 0).testBit b := by
    rw [BitVec.getLsbD_not, BitVec.getLsbD_ofNat, latchRowBits_eq h, testBit_field _ _ hb,
      packFields_rowFields h.apart h.mask_lt hi]
    simp [hin]
  rw [hd, hbyte, hmask]
  cases hf : a.rows.find? fun r => r.i1 == i with
  | none => simp
  | some r =>
    have hr := List.mem_of_find?_eq_some hf
    have hspan := testBit_span (Nat.mul_le_mul_right (cpE a.tmpl) (h.ordered r hr)) b
    refine ⟨bytesAt_byte _ _, ?_⟩
    show (!(rowMask a r).testBit b) = _
    rw [rowMask, hspan, decide_not]

end fit

/-! ## The entry of a WINDOW -/

theorem getElem?_flatMap_range {α : Type} (f : Nat → Nat → α) {n m i k : Nat} (hi : i < n) (hk : k < m) :
    ((List.range n).flatMap fun i => (List.range m).map (f i))[m * i + k]? = some (f i k) := by
  have hlen : ∀ n, ((List.range n).flatMap fun i => (List.range m).map (f i)).length = m * n := fun n => by
    induction n with
    | zero => rfl
    | succ n ih => simp [List.range_succ, ih, Nat.mul_succ]
  induction n with
  | zero => exact absurd hi (Nat.not_lt_zero i)
  | succ n ih =>
    rw [List.range_succ, List.flatMap_append, List.flatMap_singleton]
    by_cases hlast : i < n
    · rw [List.getElem?_append_left (by rw [hlen]; nlinarith), ih hlast]
    · have hin : i = n := by omega
      subst hin
      rw [List.getElem?_append_right (by rw [hlen]; omega), hlen, Nat.add_sub_cancel_left]
      simp [hk]

/-- The bytes of entry n of a WINDOW in a memory, row after row, each with its mask bit. -/
def windowBytes (s : State) (a : ActiveCmd) (n : Nat) : List (Nat × Nat) :=
  (List.range 64).flatMap fun i => (List.range 64).map fun k =>
    windowByte s s.mem a.ctx a.tmpl (n / wNk a.tmpl) (n % wNk a.tmpl) i k

theorem windowBytes_length (s : State) (a : ActiveCmd) (n : Nat) : (windowBytes s a n).length = 4096 := by
  simp [windowBytes, List.length_flatMap]

theorem windowEntry_eq {s : State} {a : ActiveCmd} (hs : a.sample = none) (hl : s.lostRead = false) (n : Nat) :
    windowEntry s a n =
      { data := BitVec.ofNat 32768 (packFields 8 ((windowBytes s a n).map (·.1)))
        mask := BitVec.ofNat 4096 (packFields 1 ((windowBytes s a n).map (·.2)))
        scales := a.cmd.stage.a, epoch := a.cmd.epoch } := by
  simp only [windowEntry, cmdView, hs, lostView, hl, Bool.false_eq_true, if_false, windowBytes]

/-- Byte b of row i of a latch entry that is packed byte by byte. -/
theorem latchByte_packFields {l : List Nat} {wd pitch i b x : Nat} (hwd : 8 * l.length ≤ wd)
    (hx : l[pitch * i + b]? = some x) :
    latchByte (BitVec.ofNat wd (packFields 8 l)).toNat pitch i b = BitVec.ofNat 8 x := by
  rw [BitVec.toNat_ofNat,
    Nat.mod_eq_of_lt ((packFields_lt 8 l).trans_le (Nat.pow_le_pow_right Nat.two_pos hwd))]
  refine BitVec.eq_of_toNat_eq ?_
  rw [latchByte, BitVec.toNat_ofNat, BitVec.toNat_ofNat, packFields_field, hx, Option.getD_some]

theorem getLsbD_packFields {l : List Nat} {j x : Nat} (hj : j < 4096) (hx : l[j]? = some x) :
    (BitVec.ofNat 4096 (packFields 1 l)).getLsbD j = decide (x % 2 = 1) := by
  have hfield := packFields_field 1 l j
  rw [hx, Nat.one_mul, Option.getD_some, pow_one] at hfield
  rw [BitVec.getLsbD_ofNat, decide_eq_true hj, Bool.true_and, Nat.testBit_eq_decide_div_mod_eq, hfield]

/-- A latch entry of a WINDOW holds the bytes that it reads (spec/04 R73). -/
theorem windowEntry_held {s : State} {a : ActiveCmd} (hs : a.sample = none) (hl : s.lostRead = false) (n : Nat) :
    windowHeld (windowEntry s a n) s a n := by
  intro i k hi hk
  have hbyte := getElem?_flatMap_range
    (windowByte s s.mem a.ctx a.tmpl (n / wNk a.tmpl) (n % wNk a.tmpl)) hi hk
  rw [← windowBytes] at hbyte
  have hdata : latchByte (windowEntry s a n).data.toNat 64 i k = BitVec.ofNat 8
      (windowByte s s.mem a.ctx a.tmpl (n / wNk a.tmpl) (n % wNk a.tmpl) i k).1 := by
    rw [windowEntry_eq hs hl]
    exact latchByte_packFields (by rw [List.length_map, windowBytes_length]) (by rw [List.getElem?_map, hbyte]; rfl)
  have hmask : (windowEntry s a n).mask.getLsbD (64 * i + k) =
      decide ((windowByte s s.mem a.ctx a.tmpl (n / wNk a.tmpl) (n % wNk a.tmpl) i k).2 % 2 = 1) := by
    rw [windowEntry_eq hs hl]
    exact getLsbD_packFields (by omega) (by rw [List.getElem?_map, hbyte]; rfl)
  rw [hdata, hmask]
  unfold windowByte
  cases windowAddr a.tmpl (n / wNk a.tmpl) (n % wNk a.tmpl) i k with
  | none => exact ⟨rfl, rfl⟩
  | some va =>
    intro key hkey
    simp only [hkey]
    exact ⟨BitVec.ofNat_toNat _ _, rfl⟩

end Sys2Proof.Machine

end

section

/-! PROOFS. Engine commands that push latch entries (spec/04 R70, R71, R73, R76). -/

namespace Sys2Proof.Machine

theorem BeforeEnd.presented {s u v : State} {k : CoreId} {a : ActiveCmd} (h : BeforeEnd s k a u)
    (hv : Presented u v) : BeforeEnd s k a v where
  dev := (congrArg State.dev hv.rest).trans h.dev
  struck i := by
    rw [State.half, hv.rest.frame.2.2.1]
    exact h.struck i
  active := (hv.active k).trans h.active
  tok := by rw [hv.ctx, h.tok]
  home := by rw [hv.ctx, h.home]

theorem pushes_of_fillsTo {a : ActiveCmd} {b : Bool} (h : fillsTo a = some b) :
    pushes a = true ∧ a.pushed < tmplPushes a.tmpl := by
  unfold fillsTo at h
  split at h
  · cases h
  · next hno =>
    simp only [Bool.or_eq_true, decide_eq_true_eq, not_or, Nat.not_le] at hno
    exact ⟨decide_eq_true (Nat.zero_lt_of_lt hno.2), hno.2⟩

/-- A COPY pushes one entry at most (spec/04 R71). -/
theorem tmplPushes_copy {t : BitVec 1024} (h : tKind t = 1) : tmplPushes t ≤ 1 := by
  have hne : t.extractLsb' 0 4 ≠ 2 := fun he => by
    rw [tKind, he] at h
    cases h
  rw [tmplPushes, if_neg hne]
  split <;> omega

/-- A context with entries of the queues of the array pushed. -/
theorem BeforeEnd.pushed {s : State} {k : CoreId} {n : Nat} {a : ActiveCmd} (h : DataReady s k n a) {f : Ctx → Ctx}
    (hf : ∀ x, f x = { x with q := (f x).q }) (p : Nat) :
    BeforeEnd s k { a with pushed := p } (s.bumpFree.modCtx a.ctx f) where
  dev := rfl
  struck _ := rfl
  active := rfl
  tok := by
    rw [State.modCtx_ctx_same, hf]
    rfl
  home := by
    rw [State.modCtx_ctx_same, hf]
    exact h.home

section pushed

variable {s : State} {k : CoreId} {n : Nat} {a : ActiveCmd} {b : Bool} {o : E}

theorem pushNext_copy (hfill : fillsTo a = some b) (hbefore : pusherBefore s a.ctx b a.cmd.pos = false)
    (hroom : latchRoom (s.ctx a.ctx) b = true) (hkind : tKind a.tmpl = 1) : pushNext a s = some (pushCopy a s) := by
  simp [pushNext, hfill, hbefore, hroom, hkind]

/-- A COPY with lq = 1 pushes its entry and ends (spec/04 R71, R76). -/
theorem exec_push_copy (h : DataReady s k n a) (hkp : engKp a.cmd.instr = o.kp) (hfill : fillsTo a = some b)
    (hbefore : pusherBefore s a.ctx b a.cmd.pos = false) (hroom : latchRoom (s.ctx a.ctx) b = true)
    (hkind : tKind a.tmpl = 1) :
    ∃ t, exec (.engineCommandComplete k n) s = .next t ∧ EndedFrom s k n a.ctx o t ∧ ArrivedOn s a s.mem t ∧
      (t.ctx a.ctx).q = ((pushCopy a s).ctx a.ctx).q := by
  obtain ⟨hpush, -⟩ := pushes_of_fillsTo hfill
  have hlast : ¬ a.pushed + 1 < tmplPushes a.tmpl := by
    have := tmplPushes_copy hkind
    omega
  have hu : BeforeEnd s k { a with pushed := a.pushed + 1 } (pushCopy a s) := by
    unfold pushCopy
    extract_lets _ e src m
    refine .pushed h (fun x => ?_) _
    split <;> rfl
  obtain ⟨hended, harrived⟩ := finish_arrived (n := n) (a := { a with pushed := a.pushed + 1 }) (o := o) hkp h.alive hu
  refine ⟨_, exec_complete_push h hpush (pushNext_copy hfill hbefore hroom hkind), ?_⟩
  rw [if_neg hlast]
  refine ⟨hended, harrived, ?_⟩
  obtain ⟨m, hm, -, -⟩ := arrive_nil { a with pushed := a.pushed + 1 } (pushCopy a s)
  rw [hm]
  exact (finish_ended (a := { a with pushed := a.pushed + 1 }) (u := { pushCopy a s with mem := m }) hu.home h.alive
    k n).counter.moved.q

/-- The rows of a COPY that its template admits for a latch entry. -/
theorem RowsFit.of_bounds {m : List Host.Cell} {n pitch : Nat} (hn : (a.rows.map (·.i1)).Nodup)
    (hrows : ∀ r ∈ a.rows, r.lo ≤ r.hi ∧ r.hi ≤ cpExt a.tmpl 0 ∧
      (rowBytes m a r).length = cpExt a.tmpl 0 * cpE a.tmpl)
    (hpitch : cpExt a.tmpl 0 * cpE a.tmpl ≤ pitch) (hin : ∀ r ∈ a.rows, r.i1 < n) : RowsFit m a n pitch where
  apart := hn
  inside := hin
  ordered r hr := (hrows r hr).1
  bytes r hr := (hrows r hr).2.2.trans_le hpitch
  source r hr := (Nat.mul_le_mul_right _ (hrows r hr).2.1).trans hpitch

/-- A COPY to qa pushes the entry that holds its rows (spec/04 R71). -/
theorem pushCopy_qa (h : DataReady s k n a) (hdst : (cpDst a.tmpl).getLsbD 0 = false) (hfit : RowsFit s.mem a 64 64) :
    ∃ e, ((pushCopy a s).ctx a.ctx).q.qa = (s.ctx a.ctx).q.qa ++ [e] ∧ e.scales = a.cmd.stage.a ∧
      e.epoch = a.cmd.epoch ∧ latchRowsHeld e.data.toNat e.mask.getLsbD 64 64 s.mem a := by
  simp only [pushCopy, State.modCtx_ctx_same, hdst, cmdView_of_ready h, Bool.false_eq_true, if_false]
  exact ⟨_, rfl, rfl, rfl, latchRowsHeld_of_fit (wd := 32768) (wm := 4096) hfit (by omega) (by omega)⟩

/-- A COPY to qb pushes the entry that holds its rows (spec/04 R71). -/
theorem pushCopy_qb (h : DataReady s k n a) (hdst : (cpDst a.tmpl).getLsbD 0 = true)
    (hfit : RowsFit s.mem a (cpExt a.tmpl 1) (8192 / cpExt a.tmpl 1)) :
    ∃ e, ((pushCopy a s).ctx a.ctx).q.qb = (s.ctx a.ctx).q.qb ++ [e] ∧ e.scales = a.cmd.stage.b ∧
      e.epoch = a.cmd.epoch ∧ e.k = cpExt a.tmpl 1 ∧ e.width = 8 * cpE a.tmpl ∧
      latchRowsHeld e.data.toNat e.mask.getLsbD (cpExt a.tmpl 1) (8192 / cpExt a.tmpl 1) s.mem a := by
  have hmask := Nat.div_mul_le_self 8192 (cpExt a.tmpl 1)
  have hdata : 8 * (8192 / cpExt a.tmpl 1) * cpExt a.tmpl 1 ≤ 65536 := by
    rw [Nat.mul_assoc]
    omega
  simp only [pushCopy, State.modCtx_ctx_same, hdst, cmdView_of_ready h, if_true]
  exact ⟨_, rfl, rfl, rfl, rfl, rfl, latchRowsHeld_of_fit (wd := 65536) (wm := 8192) hfit hdata hmask⟩

/-- The state in which a WINDOW has pushed its next entry. -/
def windowPushed (a : ActiveCmd) (s : State) : State :=
  s.bumpFree.modCtx a.ctx fun x => { x with q := { x.q with qa := x.q.qa ++ [windowEntry s a a.pushed] } }

theorem pushNext_window (hfill : fillsTo a = some b) (hbefore : pusherBefore s a.ctx b a.cmd.pos = false)
    (hroom : latchRoom (s.ctx a.ctx) b = true) (hkind : tKind a.tmpl = 2) :
    ∃ u, pushNext a s = some u ∧ Presented (windowPushed a s) u := by
  simp only [pushNext, hfill, hbefore, hroom, hkind, Bool.not_true, Bool.or_self, Bool.false_eq_true, if_false, if_true]
  refine ⟨_, rfl, ?_⟩
  split
  · exact cmdTouch_presented ..
  · exact .refl _

/-- A WINDOW pushes its next entry, and ends with the last (spec/04 R73, R76). -/
theorem exec_push_window (h : DataReady s k n a) (hkp : engKp a.cmd.instr = o.kp) (hfill : fillsTo a = some b)
    (hbefore : pusherBefore s a.ctx b a.cmd.pos = false) (hroom : latchRoom (s.ctx a.ctx) b = true)
    (hkind : tKind a.tmpl = 2) :
    ∃ t, exec (.engineCommandComplete k n) s = .next t ∧
      (t.ctx a.ctx).q.qa = (s.ctx a.ctx).q.qa ++ [windowEntry s a a.pushed] ∧
      (tmplPushes a.tmpl ≤ a.pushed + 1 → EndedFrom s k n a.ctx o t ∧ ArrivedOn s a s.mem t) ∧
      (a.pushed + 1 < tmplPushes a.tmpl → t.mem = s.mem ∧
        (t.core k).active = (s.core k).active.set n { a with pushed := a.pushed + 1 }) := by
  obtain ⟨hpush, -⟩ := pushes_of_fillsTo hfill
  obtain ⟨u, hnext, hpres⟩ := pushNext_window hfill hbefore hroom hkind
  have hu : BeforeEnd s k { a with pushed := a.pushed + 1 } u := (BeforeEnd.pushed h (fun _ => rfl) _).presented hpres
  have hmem : u.mem = s.mem := hpres.mem
  have hqa : (u.ctx a.ctx).q.qa = (s.ctx a.ctx).q.qa ++ [windowEntry s a a.pushed] := by
    rw [hpres.ctx, windowPushed, State.modCtx_ctx_same]
    rfl
  refine ⟨_, exec_complete_push h hpush hnext, ?_⟩
  by_cases hmore : a.pushed + 1 < tmplPushes a.tmpl
  · rw [if_pos hmore]
    refine ⟨hqa, fun hdone => absurd hmore (Nat.not_lt.2 hdone), fun _ => ⟨hmem, ?_⟩⟩
    rw [setActive, State.modCore_core_same, hu.active]
  · rw [if_neg hmore]
    obtain ⟨hended, harrived⟩ := finish_arrived (n := n) (a := { a with pushed := a.pushed + 1 }) (o := o) hkp
      h.alive hu
    rw [hmem] at harrived
    refine ⟨?_, fun _ => ⟨hended, harrived⟩, fun hlt => absurd hlt hmore⟩
    obtain ⟨m, hm, -, -⟩ := arrive_nil { a with pushed := a.pushed + 1 } u
    rw [hm, ← hqa]
    exact congrArg Queues.qa (finish_ended (a := { a with pushed := a.pushed + 1 }) (u := { u with mem := m }) hu.home
      h.alive k n).counter.moved.q

end pushed

end Sys2Proof.Machine

end

section

/-! PROOFS. The statement about engine commands (O41; spec/04 R70, R71, R73 to R77, R79 to R81, R83). -/

namespace Sys2Proof.Machine

section stored

variable {s : State} {k : CoreId} {c : CtxId} {st : Stream} {q : EngCmd} {qs : List EngCmd} {kind : EngKind} {o : E}
  {fromS : Bool}

/-- A start that writes the stored template alone of memory, takes its counters and gives its own (spec/04 R76, R79,
R80). -/
def StoredBy (s : State) (k : CoreId) (c : CtxId) (st : Stream) (qs : List EngCmd) (o : E) (t : State) : Prop :=
  ∃ y, exec (.engineCommandStart k) s = .next t ∧ (t.core k).engPtr = (s.core k).engPtr + 1 ∧
    engQ (t.ctx c) st = qs ∧ tokensStarted o (s.ctx c) y ∧
    (∀ j : Fin 16, o.kp.toNat ≠ j.val → (t.ctx c).tok.k[j.val] = y.tok.k[j.val]) ∧
    (o.kp ≠ 0 → (t.ctx c).tok.k[o.kp.toNat] = y.tok.k[o.kp.toNat] + 1) ∧
    ∀ b, ¬ (tmplKey c o.tmpl.toNat ≤ b ∧ b < tmplKey c o.tmpl.toNat + 128) → memRead t.mem b = memRead s.mem b

theorem storedBy_of_start (h : HeadReady s k c st q qs kind o fromS) (hpost : (s.ctx c).sync.posted = [])
    {v : BitVec 1024} (hs : startCmd c q kind o fromS (startView c q s) =
      .done (writeTemplate c q.epoch o.tmpl.toNat v (startView c q s))) :
    ∃ t, StoredBy s k c st qs o t ∧ t.mem = memPutNat s.mem (tmplKey c o.tmpl.toNat) 128 v.toNat := by
  obtain ⟨t, y, hexec, hptr, hq, htok, hgiven, hmem⟩ := exec_start_stored h hpost hs
  rw [engKp_of_fields h.fields] at hgiven
  refine ⟨t, ⟨y, hexec, hptr, hq, htok, hgiven.others, hgiven.given, fun b hb => ?_⟩, hmem⟩
  rw [hmem]
  exact memRead_putNat_other _ _ _ _ (by omega)

/-- `eclr` leaves 128 zero bytes (spec/04 R79). -/
theorem clear_stored (h : HeadReady s k c st q qs .clear o fromS) (hs : s.memOk) (hundo : undoCount (s.ctx c) < 16)
    (hpost : (s.ctx c).sync.posted = []) :
    ∃ t, StoredBy s k c st qs o t ∧ ∀ n, n < 128 → memRead t.mem (tmplKey c o.tmpl.toNat + n) = 0 := by
  obtain ⟨t, hstored, hmem⟩ := storedBy_of_start h hpost
    (startCmd_clear ((undoCount_startView c q s).trans_lt hundo))
  refine ⟨t, hstored, fun n hn => ?_⟩
  rw [hmem, BitVec.ofNat_eq_ofNat, BitVec.toNat_zero]
  exact memRead_putNat_zero hs _ _ hn

/-- `eset` patches the stored template (spec/04 R79). -/
theorem set_stored (h : HeadReady s k c st q qs .set o fromS) (hs : s.memOk) (hundo : undoCount (s.ctx c) < 16)
    (hpost : (s.ctx c).sync.posted = []) {p : Nat × Nat}
    (hp : tmplField (tKind (tmplRead s.mem c o.tmpl.toNat)) o.fsel.toNat = some p) :
    ∃ t, StoredBy s k c st qs o t ∧
      patchesTo o q.val (tmplRead s.mem c o.tmpl.toNat) (tmplRead t.mem c o.tmpl.toNat) := by
  obtain ⟨v, hv⟩ := patched_of_field (v := q.val) hp
  obtain ⟨t, hstored, hmem⟩ := storedBy_of_start h hpost (startCmd_set
    ((undoCount_startView c q s).trans_lt hundo) (by rw [startView_mem hpost]; exact hv))
  refine ⟨t, hstored, ?_⟩
  rw [hmem, tmplRead_putNat hs]
  exact patchesTo_of_patched hv

end stored

section completed

variable {s : State} {k : CoreId} {n : Nat} {a : ActiveCmd} {kind : EngKind} {o : E} {fromS : Bool}

/-- A `cbload` of one span ends with its bytes in the codebooks (spec/04 R83). -/
theorem exec_book (h : DataReady s k n a) (hs : s.memOk) (hf : engFields a.cmd.instr = some (.book, o, fromS))
    (hp : pushes a = false) {src dst : Part} {r : CopyRow} (hrows : a.rows = [r]) (hsrc : r.src = [src])
    (hdst : r.dst = [dst]) (hlen : src.len = dst.len) (hoff : dst.off = 0) :
    ∃ t, exec (.engineCommandComplete k n) s = .next t ∧ EndedFrom s k n a.ctx o t ∧
      (∀ i, i < dst.len → memRead t.mem (dst.key + i) = memRead s.mem (src.key + i)) ∧
      ∀ b, ¬ (dst.key ≤ b ∧ b < dst.key + dst.len) → memRead t.mem b = memRead s.mem b := by
  have hu : BeforeEnd s k a (rangeCopied src.key dst.key dst.len s) := ⟨rfl, fun _ => rfl, rfl, rfl, h.home⟩
  have hended := finish_ended hu.home h.alive k n
  refine ⟨_, exec_complete_move h hp, ?_⟩
  rw [completeMove_book h hf hrows hsrc hdst hlen hoff, hended.mem]
  exact ⟨.of_ended (engKp_of_fields hf) hu hended, memRead_copied hs src.key dst.key dst.len⟩

/-- A COPY to a slice ends with the bytes that its rows give (spec/04 R70, R74). -/
theorem exec_copy_slice (h : DataReady s k n a) (hf : engFields a.cmd.instr = some (kind, o, fromS))
    (hk : kind ≠ .book) (hp : pushes a = false) (hself : selfMeet (planDst a.rows) = false)
    (hapart : ((planDst a.rows).any fun p => (planSrc a.rows).any (partsMeet p)) = false)
    (hdram : anyDram (planDst a.rows) = false) :
    ∃ t, exec (.engineCommandComplete k n) s = .next t ∧ EndedFrom s k n a.ctx o t ∧
      ArrivedOn s a ((copyOuts s.mem a).foldl (fun m w => memWrite m w.2.1 w.2.2) s.mem) t := by
  refine ⟨_, exec_complete_move h hp, ?_⟩
  rw [completeMove_copy h hf hk hself hapart, hdram, if_neg Bool.false_ne_true]
  refine finish_arrived (engKp_of_fields hf) h.alive ⟨rfl, fun _ => rfl, rfl, ?_, ?_⟩
  · rw [putOuts]
    show ((s.bumpFree.modCtx a.ctx _).ctx a.ctx).tok = _
    rw [State.modCtx_ctx_same, noteSent, modRegion_eq]
    rfl
  · rw [putOuts]
    show ((s.bumpFree.modCtx a.ctx _).ctx a.ctx).id.gen = _
    rw [State.modCtx_ctx_same, noteSent, modRegion_eq]
    exact h.home

/-- An arrival word whose payload has drained is written, and is due no longer (spec/04 R74). -/
theorem arrival_written {d : ArrivalDue} (hs : s.memOk) (hheld : coreHeld s k = false)
    (hd : (s.core k).arrivals[n]? = some d) (hstruck : struckAt s d.addr = false) (hshut : homeShut s d.addr = false)
    (hdrained : ((s.half (halfOf d.ctx)).weir.any fun w =>
      w.ctx == d.ctx && w.epoch == d.epoch && d.lines.contains w.w.line) = false) :
    ∃ t, exec (.arrivalWordWrite k n) s = .next t ∧ memWord t.mem d.addr = d.val ∧
      (∀ b, ¬ (d.addr ≤ b ∧ b < d.addr + 8) → memRead t.mem b = memRead s.mem b) ∧
      t = { s with mem := t.mem, cores := t.cores } ∧
      ∀ j, t.core j = { s.core j with
        now := (t.core j).now
        arrivals := if j = k then (s.core k).arrivals.eraseIdx n else (s.core j).arrivals } := by
  obtain ⟨by_, hexec⟩ := exec_arrivalWordWrite hheld hd hstruck hshut hdrained
  have hpres := presentKeys_presented k by_ 4 .write [d.addr] { s with mem := memPutNat s.mem d.addr 8 d.val.toNat }
  refine ⟨_, hexec, ?_, fun b hb => ?_, ?_, fun j => ?_⟩
  · rw [State.modCore_mem, hpres.mem]
    exact memWord_putNat_same hs _ _
  · rw [State.modCore_mem, hpres.mem]
    exact memRead_putNat_other _ _ _ _ (by omega)
  · rw [State.modCore_mem, hpres.mem]
    exact hpres.rest.trans (.modCore _ k _)
  · by_cases hj : j = k
    · subst hj
      rw [State.modCore_core_same, hpres.core, if_pos rfl]
      rfl
    · rw [State.modCore_core_other _ _ _ _ hj, hpres.core, if_neg hj]
      rfl

end completed

/-- Settles O41: `HeadReady` and `DataReady` hold what a start and a completion ask for, and each outcome is a lemma of
its own: what becomes active, what is stored, the fault, and the ends of a `cbload`, a COPY and a WINDOW. -/
theorem engineCommands : Obligations.EngineCommands := by
  refine ⟨?start, ?complete, ?arrival⟩
  case start =>
    intro s k q qs kind o fromS i
    generalize hslot : engSlot k i = p
    obtain ⟨c, st⟩ := p
    intro hheld hroom hhead hf hopen htok hsound
    have hr : HeadReady s k c st q qs kind o fromS := ⟨hslot, hheld, hroom, hhead, hf, hopen, htok, hsound⟩
    refine ⟨fun u a hs => ?_, fun hs hundo hpost => ⟨?_, ?_⟩, fun hk hpost hnone ho he hq hbad hsys htvec => ?_⟩
    · obtain ⟨t, hexec, hptr, htokens, hactive, hrest, hmem⟩ := exec_start_active hr hs
      obtain ⟨hact, hfire⟩ := startCmd_active hs
      exact ⟨t, hexec, ⟨hptr, htokens⟩, hactive, hrest, hmem, hact.cmd, hfire⟩
    · rintro rfl
      exact clear_stored hr hs hundo hpost
    · rintro rfl p hp
      exact set_stored hr hs hundo hpost hp
    · refine exec_start_fault hr (startCmd_no_field hk ?_) rfl ho he hq hbad ⟨hsys, htvec⟩
      rw [startView_mem hpost]
      exact hnone
  case complete =>
    intro s k n a kind o fromS c x hs hrun hact hsound hlost hsample hturn hopen hword hserved hpost hdead hhome hk hf
    have h : DataReady s k n a :=
      ⟨hrun, hact, hsound, hlost, hsample, hturn, hopen, hword, hserved, hpost, hdead, hhome, hk⟩
    have hkp := engKp_of_fields hf
    refine ⟨?book, ?copy, ?push⟩
    case book =>
      rintro src dst rfl hp ⟨i1, lo, hi, odd, dva, hrows⟩ hlen hoff
      exact exec_book h hs hf hp hrows rfl rfl hlen hoff
    case copy =>
      intro hkind hp hself hapart
      refine ⟨exec_copy_slice h hf hkind hp hself hapart, fun hdram hlate hls hroom => ?_⟩
      obtain ⟨t, ht, hended, hmem, hhalf, hnone, hdue⟩ := completeDram_ended h hkp hlate hls hroom
      refine ⟨t, ?_, hended, hmem, ?_, hnone, hdue⟩
      · rw [exec_complete_move h hp, completeMove_copy h hf hkind hself hapart, if_pos hdram, ht]
      · rw [hhalf, payloadPlaced_half]
    case push =>
      intro b _ hfill hbefore hroom
      refine ⟨fun hcopy _ hn hrows hdst => ?_, fun hwindow => ?_⟩
      · obtain ⟨t, hexec, hended, harrived, hq⟩ := exec_push_copy h hkp hfill hbefore hroom hcopy
        refine ⟨t, hexec, hended, harrived, fun hb hpitch hin => ?_, fun hb _ hpitch hin => ?_⟩
        · rw [hq]
          exact pushCopy_qa h (hdst.symm.trans hb) (.of_bounds hn hrows hpitch hin)
        · rw [hq]
          exact pushCopy_qb h (hdst.symm.trans hb) (.of_bounds hn hrows hpitch hin)
      · obtain ⟨t, hexec, hqa, hlast, hmore⟩ := exec_push_window h hkp hfill hbefore hroom hwindow
        refine ⟨t, hexec, ⟨_, hqa, ?_, ?_, windowEntry_held hsample hlost _⟩, hlast, hmore⟩
        · rw [windowEntry_eq hsample hlost]
        · rw [windowEntry_eq hsample hlost]
  case arrival =>
    intro s k n d hs hheld hd hstruck hshut hdrained
    refine arrival_written hs hheld hd hstruck hshut ?_
    simpa [imp_iff_not_or, or_assoc] using hdrained

end Sys2Proof.Machine

end

section

/-! PROOFS. The statement about `kwait` and `ksig` (O32; spec/02 R27, spec/06 R113, R114). -/

namespace Sys2Proof.Machine

/-! ## Tokens taken -/

theorem bumpCh_eq (e : Nat) (i : Fin 6) (d : Int) (x : Ctx) :
    bumpCh e i d x = { x with
      tok := { x.tok with ch := x.tok.ch.set i.val ((x.tok.ch[i.val] : Int) + d).toNat }
      reg := (bumpCh e i d x).reg, older := (bumpCh e i d x).older } := modRegion_eq ..

@[simp] theorem bumpCh_q (e : Nat) (i : Fin 6) (d : Int) (x : Ctx) : (bumpCh e i d x).q = x.q := by rw [bumpCh_eq]

@[simp] theorem bumpCh_tok (e : Nat) (i : Fin 6) (d : Int) (x : Ctx) : (bumpCh e i d x).tok =
    { x.tok with ch := x.tok.ch.set i.val ((x.tok.ch[i.val] : Int) + d).toNat } := by rw [bumpCh_eq]

theorem tokTake_q (e : Nat) (st : Stream) (t : Tok) (x : Ctx) : (tokTake e st t x).q = x.q := by
  unfold tokTake
  split <;> split <;> simp

/-- The counts that the tokens of an instruction leave depend on the counts alone. -/
theorem tokTake_tok_congr {x y : Ctx} (h : x.tok = y.tok) (e : Nat) (st : Stream) (t : Tok) :
    (tokTake e st t x).tok = (tokTake e st t y).tok := by
  unfold tokTake
  split <;> split <;> simp [h]

/-! ## An instruction that begins and waits -/

theorem Queues.get_set (q : Queues) (st : Stream) (l : List QEntry) : (q.set st l).get st = l := by
  cases st <;> rfl

/-- An instruction tried at once that begins takes its tokens and waits as the one entry of its stream. -/
theorem issue_held {s : State} {st : Stream} {tok : Tok} {rs : List (BitVec 5)} {i : Instr} {a b d : BitVec 5}
    {perf : CtxId → QEntry → State → Perform} (h : streamFree s st tok rs)
    (hrs : ∀ r ∈ [a, b, d], r = 0 ∨ r ∈ rs) (hmat : isMat i = false)
    (hperf : perf s.cur (capture st i a b d s.me) (began s) = .held (began s)) :
    issue st i tok a b d perf s = .next (s.setCtx s.cur
      (setQ st [{ capture st i a b d s.me with begun := true }] (tokTaken s.me.reg.epoch st tok (handed s)))) := by
  have hempty : (tokTaken s.me.reg.epoch st tok (handed s)).q.get st = [] := by
    obtain ⟨-, hclear, -⟩ := h
    rw [tokTaken, dequeued, tokTake_q]
    exact (queue_nil_of_streamClear hclear).1
  have happend : afterIssue st s.cur (capture st i a b d s.me)
      (begunWith st tok s.cur (capture st i a b d s.me) (s.modCtx s.cur stepPc) (.held (began s))) =
      s.setCtx s.cur (setQ st ((tokTaken s.me.reg.epoch st tok (handed s)).q.get st ++
        [{ capture st i a b d s.me with begun := true }]) (tokTaken s.me.reg.epoch st tok (handed s))) := by
    rw [begunWith, began, State.setCtx_modCtx, afterIssue, appendQ, State.setCtx_modCtx]
    rfl
  rw [issue_of_streamFree h hrs hmat, hperf, happend, hempty, List.nil_append]

/-! ## The counters of `kwait` and `ksig` -/

theorem ktokK_toNat (o : SY) : (ktokK o).toNat = o.imm.toNat % 16 := toNat_extract_low o.imm 4

theorem ktokN_eq (o : SY) : ktokN o = o.imm.toNat / 16 % 16 := by
  rw [ktokN, BitVec.extractLsb'_toNat, Nat.shiftRight_eq_div_pow]

theorem counter_getD (v : Vector Nat 16) (o : SY) : v[o.imm.toNat % 16]?.getD 0 = v[(ktokK o).toNat] := by
  rw [← ktokK_toNat, Vector.getElem?_eq_getElem (ktokK o).isLt, Option.getD_some]

/-- A change of a counter leaves all of a context but its counters and the notes of its regions. -/
theorem bumpK_frame (e : Nat) (k : BitVec 4) (d : Int) (x : Ctx) :
    bumpK e k d x = { x with
      tok := { x.tok with k := (bumpK e k d x).tok.k }, reg := (bumpK e k d x).reg
      older := (bumpK e k d x).older } := by
  rw [bumpK_k]
  exact modRegion_eq ..

/-- What a discard would take back changes in the counts of the region alone, be it the open or the older one. -/
theorem bumpK_notes (e : Nat) (k : BitVec 4) (d : Int) (x : Ctx) :
    (bumpK e k d x).reg = { x.reg with dk := (bumpK e k d x).reg.dk } ∧
      ((bumpK e k d x).older.map fun r => { r with dk := Vector.replicate 16 0 }) =
        (x.older.map fun r => { r with dk := Vector.replicate 16 0 }) := by
  unfold bumpK modRegion
  dsimp only
  cases x.older with
  | none => dsimp only; split <;> exact ⟨rfl, rfl⟩
  | some r =>
    dsimp only
    split
    · exact ⟨rfl, rfl⟩
    · split <;> exact ⟨rfl, rfl⟩

theorem bumpK_getElem? (e : Nat) (k : BitVec 4) (d : Int) (x : Ctx) (j : Nat) :
    (bumpK e k d x).tok.k[j]? = if j = k.toNat then some ((x.tok.k[k.toNat] : Int) + d).toNat else x.tok.k[j]? := by
  rw [bumpK_k]
  by_cases h : j = k.toNat
  · subst h
    rw [if_pos rfl, Vector.getElem?_set_self]
  · rw [if_neg h, Vector.getElem?_set_ne _ (Ne.symm h)]

/-- The change of the counter that `kwait` (false) and `ksig` (true) make. -/
def tokenStep (up : Bool) (o : SY) : Int := if up then (ktokN o : Int) else -(ktokN o : Int)

section tokens

variable {s : State} {i : Instr} {o : SY} {st : Stream}

/-- The effect of `kwait` (false) and `ksig` (true). -/
def performToken (st : Stream) (up : Bool) (o : SY) : CtxId → QEntry → State → Perform :=
  if up then performKsig st o else performKwait o

theorem exec_token {up : Bool} (h : tokenRow i = some (st, up, o)) (s : State) :
    isMat i = false ∧ exec i s = issue st i o.tok 0 0 0 (performToken st up o) s := by
  cases i with
  | kwaitL _ | kwaitC _ | kwaitS _ | ksigL _ | ksigC _ | ksigS _ => cases h; exact ⟨rfl, rfl⟩
  | _ => cases h

theorem performKwait_done {e : QEntry} (h : ktokN o ≤ s.me.tok.k[(ktokK o).toNat]) :
    performKwait o s.cur e (began s) =
      .done (s.setCtx s.cur (bumpK e.epoch (ktokK o) (-(ktokN o : Int)) (handed s))) := by
  rw [performKwait, began_ctx]
  refine (if_neg (not_lt.2 h)).trans ?_
  rw [began, State.setCtx_modCtx]

theorem performKwait_held {e : QEntry} (h : s.me.tok.k[(ktokK o).toNat] < ktokN o) :
    performKwait o s.cur e (began s) = .held (began s) := by
  rw [performKwait, began_ctx]
  exact if_pos h

theorem streamDone_began (h : streamDone s s.cur st = true) : streamDone (began s) s.cur st = true := by
  rw [← h, streamDone, began_ctx]
  rfl

theorem performKsig_done {e : QEntry} (hdone : streamDone s s.cur st = true)
    (h : s.me.tok.k[(ktokK o).toNat] + s.me.tok.res[(ktokK o).toNat] + ktokN o ≤ 15) :
    performKsig st o s.cur e (began s) =
      .done (s.setCtx s.cur (bumpK e.epoch (ktokK o) (ktokN o) (handed s))) := by
  rw [performKsig, streamDone_began hdone, began_ctx]
  refine (if_neg (not_lt.2 h)).trans ?_
  rw [began, State.setCtx_modCtx]

theorem performKsig_fault {e : QEntry} (hdone : streamDone s s.cur st = true)
    (h : 15 < s.me.tok.k[(ktokK o).toNat] + s.me.tok.res[(ktokK o).toNat] + ktokN o) :
    performKsig st o s.cur e (began s) = .fault (began s) 9 (BitVec.ofNat 64 (ktokK o).toNat) false := by
  rw [performKsig, streamDone_began hdone, began_ctx]
  exact if_pos h

end tokens

/-- Settles O32: `issue_done`, `issue_held` and `issue_fault` for what `performKwait` and `performKsig` come to, and
what `bumpK` changes. -/
theorem tokenCounters : Obligations.TokenCounters := by
  unfold Obligations.TokenCounters
  intro s i o st up hrow _ hfree hdone k n old x
  obtain ⟨hmat, hexec⟩ := exec_token hrow s
  have hk : k = (ktokK o).toNat := (ktokK_toNat o).symm
  have hn : n = ktokN o := (ktokN_eq o).symm
  have hold : old = s.me.tok.k[(ktokK o).toNat] := counter_getD _ o
  have hres : s.me.tok.res[k]?.getD 0 = s.me.tok.res[(ktokK o).toNat] := counter_getD _ o
  have hregs : ∀ r ∈ [(0 : BitVec 5), 0, 0], r = 0 ∨ r ∈ [] := by simp
  rw [hexec, hres, hold, hn]
  refine ⟨fun hfit => ?done, fun hup hshort => ?held, fun hup hover => ?fault⟩
  case done =>
    have hperf : performToken st up o s.cur (capture st i 0 0 0 s.me) (began s) =
        .done (s.setCtx s.cur (bumpK s.me.reg.epoch (ktokK o) (tokenStep up o) x)) := by
      cases up with
      | false => exact performKwait_done hfit
      | true => exact performKsig_done (hdone rfl) hfit
    have hch : (bumpK s.me.reg.epoch (ktokK o) (tokenStep up o) x).tok.ch = s.me.tok.ch := by rw [bumpK_frame]; rfl
    obtain ⟨hreg, holder⟩ := bumpK_notes s.me.reg.epoch (ktokK o) (tokenStep up o) x
    refine ⟨_, _, issue_done hfree hregs hmat hperf hch, rfl, bumpK_frame .., hreg, holder, fun j _ => ?_⟩
    rw [hk, bumpK_getElem?]
    congr 2
    cases up with
    | false =>
      show ((s.me.tok.k[(ktokK o).toNat] : Int) + -(ktokN o : Int)).toNat = s.me.tok.k[(ktokK o).toNat] - ktokN o
      omega
    | true =>
      show ((s.me.tok.k[(ktokK o).toNat] : Int) + (ktokN o : Int)).toNat = s.me.tok.k[(ktokK o).toNat] + ktokN o
      omega
  case held =>
    subst hup
    refine ⟨_, issue_held hfree hregs hmat (performKwait_held hshort), ?_, ?_⟩
    · rw [State.setCtx_me, setQ, Queues.get_set]
      rfl
    · rw [State.setCtx_me]
      exact tokTake_tok_congr (x := handed s) (y := s.me) rfl ..
  case fault =>
    subst hup
    rw [hk]
    exact issue_fault hfree hregs hmat (performKsig_fault (hdone rfl) hover)

end Sys2Proof.Machine

end

section

/-! PROOFS. Line accesses that the banks of a slice grant (spec/05 R87 to R89), and the state in which a load finds
memory (spec/15 R301, R302). -/

namespace Sys2Proof.Machine

/-! ## The cores but for their banks -/

/-- A core of which the accesses at its banks and their pointers have changed. -/
def BanksMoved (x y : Core) : Prop :=
  y = { x with now := y.now, taken := y.taken, served := y.served, bankPtr := y.bankPtr }

theorem BanksMoved.trans {x y z : Core} (h : BanksMoved x y) (h' : BanksMoved y z) : BanksMoved x z := by
  unfold BanksMoved at h h' ⊢
  rw [h] at h'
  exact h'

theorem coresSame.refl (s : State) : coresSame s s := fun _ => rfl

theorem coresSame.trans {s t u : State} (h : coresSame s t) (h' : coresSame t u) : coresSame s u := fun k =>
  (show BanksMoved (s.core k) (t.core k) from h k).trans (h' k)

theorem coresSame.modCore (s : State) (k : CoreId) {f : Core → Core} (hf : ∀ x, BanksMoved x (f x)) :
    coresSame s (s.modCore k f) := fun j => by
  by_cases hj : j = k
  · subst hj
    rw [State.modCore_core_same]
    exact hf _
  · rw [State.modCore_core_other _ _ _ _ hj]

theorem Presented.coresSame {s t : State} (h : Presented s t) : coresSame s t := fun k => by rw [h.core k]

theorem bankGate_coresSame (c : CtxId) (port : Fin 8) (acc : BankAcc) (pos epoch : Nat) (keys : List Nat) (s : State) :
    coresSame s (bankGate c port acc pos epoch keys s).2 := by
  unfold bankGate
  extract_lets k x mine lines miss us go
  have hgo : ∀ f : Core → Core, (∀ x, BanksMoved x (f x)) → coresSame s (go f s) := fun f hf => by
    have hserved : ∀ x : Core, BanksMoved x { x with served := x.served.filter fun u => !mine u } := fun _ => rfl
    exact (coresSame.modCore s k fun x => (hserved x).trans (hf _)).trans (presentFar_presented ..).coresSame
  split
  · exact (presentFar_presented ..).coresSame
  split
  · exact .refl s
  split
  · exact hgo _ fun _ => rfl
  split
  · exact hgo _ fun _ => rfl
  · exact (presentUses_presented ..).coresSame

/-! ## A request that is granted -/

theorem mem_dedup {l : List Nat} {a : Nat} : a ∈ dedup l ↔ a ∈ l := by
  induction l with
  | nil => rfl
  | cons x xs ih =>
    rw [dedup]
    split
    · next hx => simpa [ih] using fun h : a = x => h ▸ List.contains_iff_mem.1 hx
    · simp [ih]

theorem nodup_dedup (l : List Nat) : (dedup l).Nodup := by
  induction l with
  | nil => exact List.nodup_nil
  | cons x xs ih =>
    rw [dedup]
    split
    · exact ih
    · next hx => exact List.nodup_cons.2 ⟨fun h => hx (List.contains_iff_mem.2 (mem_dedup.1 h)), ih⟩

/-- The lines of the slice of a core that some keys touch. -/
theorem mem_linesAt_sliceLines {k : CoreId} {keys : List Nat} {l : Nat} :
    l ∈ linesAt k true (sliceLines keys) ↔ ∃ a ∈ keys, isSlice a = true ∧ sliceCore l = k.val ∧ l = a - a % 64 := by
  simp only [linesAt, sliceLines, List.mem_filter, mem_dedup, List.mem_map, beq_iff_eq]
  constructor
  · rintro ⟨⟨a, ⟨ha, hs⟩, rfl⟩, hk⟩
    exact ⟨a, ha, hs, by simpa using hk, rfl⟩
  · rintro ⟨a, ha, hs, hk, rfl⟩
    exact ⟨⟨a, ⟨ha, hs⟩, rfl⟩, by simpa using hk⟩

theorem ofRequest_iff {c : CtxId} {port : Fin 8} {req : Nat} {u : BankUse} :
    ofRequest c port req u = true ↔ u.by_ = some c ∧ u.port = port ∧ u.req = some req := by
  simp [ofRequest, and_assoc]

theorem banksApart_of_pairwise {us : List BankUse} (h : us.Pairwise fun u v => sameBank u v = false) :
    banksApart us = true := by
  induction us with
  | nil => rfl
  | cons u us ih =>
    obtain ⟨hu, hus⟩ := List.pairwise_cons.1 h
    have hany : us.any (sameBank u) = false := List.any_eq_false.2 fun v hv => by simp [hu v hv]
    rw [banksApart, hany, ih hus]
    rfl

/-- A bank takes a read or a write when nothing stands against it (spec/05 R88, R89). -/
theorem bankOpenTo_of_open {k : Core} {u : BankUse} (hnow : ∀ v ∈ k.now, bankOfKey v.line ≠ bankOfKey u.line)
    (htaken : ∀ v ∈ k.taken, bankOfKey v.line = bankOfKey u.line → v.acc = .read ∧ u.acc = .read ∧ v.line = u.line) :
    bankOpenTo k u = true := by
  have hany : k.now.any (sameBank u) = false :=
    List.any_eq_false.2 fun v hv => by simpa [sameBank] using (hnow v hv).symm
  rw [bankOpenTo, hany, Bool.not_false, Bool.true_and, List.all_eq_true]
  intro v hv
  obtain ⟨hv, hbank⟩ := List.mem_filter.1 hv
  obtain ⟨hacc, huacc, hline⟩ := htaken v hv (beq_iff_eq.1 hbank).symm
  simp [hacc, huacc, hline]

/-- A request goes on when its banks have granted its line accesses or grant them in the aclk under way. -/
theorem bankGate_of_grant {c : CtxId} {port : Fin 8} {acc : BankAcc} {pos : Nat} {keys : List Nat} {s : State}
    (hlag : s.lag = false) (h : banksGrant s c port acc pos keys) (epoch : Nat) :
    (bankGate c port acc pos epoch keys s).1 = true := by
  obtain ⟨hnow, hapart, hopen⟩ := h
  unfold bankGate
  extract_lets k x mine lines miss us go
  have hown := @mem_linesAt_sliceLines k keys
  split
  · rfl
  next hlines =>
  have hpresent : x.now.any mine = false := by
    obtain ⟨l, hl⟩ := List.exists_mem_of_ne_nil _ (mt List.isEmpty_iff.2 hlines)
    exact List.any_eq_false.2 fun u hu hm => hnow l (hown.1 hl) u hu (ofRequest_iff.1 hm)
  rw [hpresent, if_neg Bool.false_ne_true]
  split
  · rfl
  have hmiss : ∀ l ∈ miss, (∃ a ∈ keys, isSlice a = true ∧ sliceCore l = (coreOf c).val ∧ l = a - a % 64) ∧
      ∀ u ∈ x.served, (u.by_ = some c ∧ u.port = port ∧ u.req = some pos) → u.line ≠ l := fun l hl => by
    obtain ⟨hl, hserved⟩ := List.mem_filter.1 hl
    refine ⟨hown.1 hl, fun u hu hm hline => ?_⟩
    rw [Bool.not_eq_true', List.any_eq_false] at hserved
    exact hserved u hu (by simp [mine, ofRequest_iff.2 hm, hline])
  have hus : banksOpen x us = true := by
    have hnodup : miss.Nodup := ((nodup_dedup _).filter _).filter _
    rw [banksOpen, Bool.and_eq_true, List.all_eq_true]
    refine ⟨banksApart_of_pairwise (List.pairwise_map.2 ?_), fun u hu => ?_⟩
    · refine hnodup.pairwise_of_forall_ne fun l hl m hm hne => ?_
      simpa [sameBank] using mt (hapart l m (hmiss l hl) (hmiss m hm)) hne
    · obtain ⟨l, hl, rfl⟩ := List.mem_map.1 hu
      exact bankOpenTo_of_open (hopen l (hmiss l hl)).1 (hopen l (hmiss l hl)).2
  rw [hlag, hus]
  rfl

/-! ## Memory as a load finds it -/

theorem flushPosted_frame (c : CtxId) (s : State) :
    (flushPosted c s).mem = (s.ctx c).sync.posted.foldl (fun m p => memLine m p.w) s.mem ∧
      flushPosted c s = { s with
        mem := (flushPosted c s).mem, ctxs := s.ctxs.set c.val ((flushPosted c s).ctx c)
        cores := (flushPosted c s).cores } ∧ coresSame s (flushPosted c s) := by
  obtain ⟨u, hu, hflush⟩ : ∃ u,
      Presented { s with mem := (s.ctx c).sync.posted.foldl (fun m p => memLine m p.w) s.mem } u ∧
      flushPosted c s = u.modCtx c fun x => { x with sync := { x.sync with posted := [] } } :=
    ⟨_, presentFar_presented .., rfl⟩
  rw [hflush]
  refine ⟨hu.mem, ?_, hu.coresSame⟩
  obtain ⟨cores, rfl⟩ : ∃ cores, u = { s with
      mem := (s.ctx c).sync.posted.foldl (fun m p => memLine m p.w) s.mem, cores := cores } := ⟨_, hu.rest⟩
  rw [State.modCtx_ctx_same]
  rfl

/-- What a load finds once its own posted writes to the lines that it reads have landed (spec/15 R301). -/
theorem settleReads_readDone {s u v : State} (hv : OnlyCores u v) (hcores : coresSame u v) (keys : List Nat) :
    readDone s u (settleReads s.cur keys v) (linesOfKeys keys) ((settleReads s.cur keys v).ctx s.cur) := by
  have hctx : v.ctx s.cur = u.ctx s.cur := by rw [State.ctx, hv.frame.1]; rfl
  have hmem : v.mem = u.mem := hv.frame.2.1
  unfold readDone
  dsimp only
  by_cases hown : ((u.ctx s.cur).sync.posted.any fun p => (linesOfKeys keys).contains p.w.line) = true
  · have hflush : settleReads s.cur keys v = flushPosted s.cur v := if_pos (hctx ▸ hown)
    obtain ⟨hfmem, hfrest, hfcores⟩ := flushPosted_frame s.cur v
    rw [hflush, if_pos hown, if_pos hown]
    refine ⟨?_, ?_, ?_, hcores.trans hfcores⟩
    · rw [flushPosted_ctx_same, hctx]
    · rw [hfmem, hctx, hmem]
    · obtain ⟨cores, rfl⟩ : ∃ cores, v = { u with cores := cores } := ⟨_, hv⟩
      exact hfrest
  · have hstay : settleReads s.cur keys v = v := if_neg (hctx ▸ hown)
    rw [hstay, if_neg hown, if_neg hown]
    refine ⟨hctx, hmem, ?_, hcores⟩
    rw [hv]
    simp [State.ctx]

theorem readDone.setCtx {s u t : State} {lines : List Nat} {y : Ctx} (h : readDone s u t lines y) (z : Ctx) :
    readDone s u (t.setCtx s.cur z) lines y := by
  obtain ⟨hy, hmem, ht, hcores⟩ := h
  refine ⟨hy, hmem, ?_, hcores⟩
  rw [State.setCtx_ctx_same, State.setCtx_mem, State.setCtx_cores, State.setCtx, ht]
  simp

/-- The context that a load finds is the one that has begun, but for its posted writes and the notes of its regions. -/
theorem readDone.startFrame {s u t : State} {lines : List Nat} {y : Ctx} (hu : XlatFrame s.cur (began s) u)
    (h : readDone s u t lines y) : StartFrame (handed s) y := by
  have hframe := hu.startFrame
  rw [began_ctx] at hframe
  refine hframe.trans ?_
  obtain ⟨hy, -⟩ := h
  rw [hy]
  exact rfl

theorem readDone.lostRead {s u t : State} {lines : List Nat} {y : Ctx} (hu : XlatFrame s.cur (began s) u)
    (h : readDone s u t lines y) : t.lostRead = s.lostRead := by
  obtain ⟨-, -, ht, -⟩ := h
  have hlost : u.lostRead = s.lostRead := by
    rw [hu.state]
    rfl
  rw [ht, ← hlost]

theorem noteRead_of_none {c : CtxId} {e : QEntry} {s : State} (h : ∀ t ∈ (s.ctx c).q.parked, t.st ≠ e.st)
    (lines : List Nat) (m : List Host.Cell) : noteRead c e lines m s = s :=
  if_neg (Bool.eq_false_iff.1 (List.any_eq_false.2 fun t ht => by simp [h t ht]))

/-- An instruction that has no sample, and behind which nothing has read, finds memory as it is (spec/15 R302). -/
theorem seenMem_of_fresh {c : CtxId} {e : QEntry} {s : State} (hsample : e.sample = none)
    (hreads : (s.ctx c).reads = []) (unit : Nat) (lines : List Nat) (ps : List Part) :
    seenMem c e unit lines ps s = lostView s ps := by
  simp [seenMem, hsample, readOver, readBack, hreads]

theorem lostView_of_none {s : State} (h : s.lostRead = false) (ps : List Part) : lostView s ps = s.mem :=
  if_neg (Bool.eq_false_iff.1 h)

end Sys2Proof.Machine

end

section

/-! PROOFS. An instruction of the L stream that reads memory at once (spec/05 R89, spec/06 R104, R120, spec/15 R301). -/

namespace Sys2Proof.Machine

/-- An instruction tried at once whose effect leaves the channels as they are completes, and its tokens are taken and
given. -/
theorem issue_complete {s v : State} {st : Stream} {tok : Tok} {rs : List (BitVec 5)} {i : Instr} {a b d : BitVec 5}
    {perf : CtxId → QEntry → State → Perform} (h : streamFree s st tok rs) (hrs : ∀ r ∈ [a, b, d], r = 0 ∨ r ∈ rs)
    (hmat : isMat i = false) (hperf : perf s.cur (capture st i a b d s.me) (began s) = .done v)
    (hch : (v.ctx s.cur).tok.ch = s.me.tok.ch) :
    issue st i tok a b d perf s = .next (v.setCtx s.cur (tokensDone s st tok (v.ctx s.cur))) := by
  have hroom : tokRoom (v.ctx s.cur) st tok = true := by
    obtain ⟨-, -, -, -, -, -, -, hroom⟩ := h
    rw [← hroom, tokRoom, tokRoom, hch]
  have hgive := State.setCtx_modCtx v s.cur (tokTaken s.me.reg.epoch st tok (v.ctx s.cur))
    (tokGive s.me.reg.epoch st tok)
  rw [issue_of_streamFree h hrs hmat, hperf, begunWith, if_pos hroom]
  exact congrArg Host.Outcome.next hgive

/-- The lines of a read that the banks grant are read at once (spec/05 R89). -/
theorem readLines_of_grant {s u : State} {i : Instr} {tok : Tok} {rs : List (BitVec 5)} {a b : BitVec 5} {port : Fin 8}
    {keys : List Nat} (h : streamFree s .l tok rs) (hu : XlatFrame s.cur (began s) u)
    (hgrant : banksGrant u s.cur port .read s.me.pos keys) (unit : Nat) (ps : List Part)
    (k : State → List Host.Cell → Perform) :
    ∃ t, readDone s u t (linesOfKeys keys) (t.ctx s.cur) ∧
      readLines s.cur port (capture .l i a b 0 s.me) unit keys ps u k = k t (lostView t ps) := by
  obtain ⟨hlag, hclear, hreads, -⟩ := h
  generalize he : capture .l i a b 0 s.me = e
  have hpos : e.pos = s.me.pos := by rw [← he]; rfl
  have hst : e.st = .l := by rw [← he]; rfl
  have hsample : e.sample = none := by rw [← he]; rfl
  have hulag : u.lag = false := by rw [hu.state]; exact hlag
  have hgate := bankGate_of_grant hulag (hpos ▸ hgrant) e.epoch
  have hcores := bankGate_coresSame s.cur port .read e.pos e.epoch keys u
  have honly := bankGate_onlyCores s.cur port .read e.pos e.epoch keys u
  rw [readLines, withBanks]
  generalize bankGate s.cur port .read e.pos e.epoch keys u = r at hgate hcores honly
  obtain ⟨g, v⟩ := r
  have hdone := settleReads_readDone (s := s) honly hcores keys
  have hframe := hdone.startFrame hu
  subst hgate
  refine ⟨_, hdone, ?_⟩
  have hnone : ((settleReads s.cur keys v).ctx s.cur).reads = [] := by
    rw [hframe]
    exact hreads rfl
  have hpark : ∀ t ∈ ((settleReads s.cur keys v).ctx s.cur).q.parked, t.st ≠ e.st := by
    rw [hframe, hst]
    exact (queue_nil_of_streamClear hclear).2
  dsimp only
  rw [noteRead_of_none hpark, seenMem_of_fresh hsample hnone]

/-- A load whose line accesses the banks grant completes, with its effect on the context that it finds and on memory as
it finds it. -/
theorem issue_load {s u : State} {i : Instr} {tok : Tok} {rs : List (BitVec 5)} {a b : BitVec 5}
    {perf : CtxId → QEntry → State → Perform} {port : Fin 8} {unit : Nat} {keys : List Nat} {ps : List Part}
    {f : List Host.Cell → Ctx → Ctx} (h : streamFree s .l tok rs) (hrs : ∀ r ∈ [a, b, 0], r = 0 ∨ r ∈ rs)
    (hmat : isMat i = false) (hu : XlatFrame s.cur (began s) u)
    (hgrant : banksGrant u s.cur port .read s.me.pos keys)
    (hperf : perf s.cur (capture .l i a b 0 s.me) (began s) =
      readLines s.cur port (capture .l i a b 0 s.me) unit keys ps u fun t m => .done (t.modCtx s.cur (f m)))
    (hf : ∀ m x, (f m x).tok = x.tok) :
    ∃ t y, issue .l i tok a b 0 perf s = .next t ∧ readDone s u t (linesOfKeys keys) y ∧
      t.ctx s.cur = tokensDone s .l tok (f (lostView t ps) y) := by
  obtain ⟨t, hdone, hread⟩ := readLines_of_grant h hu hgrant unit ps fun t m => .done (t.modCtx s.cur (f m))
  have hch : ((t.modCtx s.cur (f (lostView t ps))).ctx s.cur).tok.ch = s.me.tok.ch := by
    rw [State.modCtx_ctx_same, hf, (hdone.startFrame hu).tok]
    rfl
  refine ⟨_, t.ctx s.cur, issue_complete h hrs hmat (hperf.trans hread) hch, ?_, ?_⟩
  · rw [State.modCtx_ctx_same, State.modCtx, State.setCtx_setCtx]
    exact hdone.setCtx _
  · rw [State.setCtx_ctx_same, State.modCtx_ctx_same]
    rfl

end Sys2Proof.Machine

end

section

/-! PROOFS. The parts of a span and their bytes (spec/03 R45, spec/06 R120, R121). -/

namespace Sys2Proof.Machine

/-! ## Numbers in memory -/

theorem memNat_lt (m : List Host.Cell) (a n : Nat) : memNat m a n < 2 ^ (8 * n) := by
  induction n generalizing a with
  | zero => exact Nat.one_pos
  | succ n ih =>
    have hrest := ih (a + 1)
    have hbyte := (memRead m a).isLt
    rw [memNat, Nat.mul_succ, pow_add]
    omega

theorem memNat_add (m : List Host.Cell) (a i n : Nat) :
    memNat m a (i + n) = memNat m a i + 2 ^ (8 * i) * memNat m (a + i) n := by
  induction i generalizing a with
  | zero => simp [memNat]
  | succ i ih =>
    rw [Nat.succ_add, memNat, memNat, ih, Nat.mul_succ, pow_add, Nat.add_assoc a 1 i, Nat.add_comm 1 i]
    ring

/-- The bytes of a number in memory from one place to another. -/
theorem memNat_field (m : List Host.Cell) (a : Nat) {i n len : Nat} (h : i + n ≤ len) :
    memNat m a len / 2 ^ (8 * i) % 2 ^ (8 * n) = memNat m (a + i) n := by
  obtain ⟨r, rfl⟩ := Nat.exists_eq_add_of_le h
  rw [Nat.add_assoc, memNat_add m a, Nat.add_mul_div_left _ _ (Nat.two_pow_pos _),
    Nat.div_eq_of_lt (memNat_lt m a i), Nat.zero_add, memNat_add m (a + i), Nat.add_mul_mod_self_left,
    Nat.mod_eq_of_lt (memNat_lt ..)]

theorem memNat_one (m : List Host.Cell) (a : Nat) : memNat m a 1 = (memRead m a).toNat := by simp [memNat]

/-! ## Parts -/

/-- The parts of a span of n bytes, in order and apart. -/
structure PartsOf (n : Nat) (ps : List Part) : Prop where
  ordered : ps.Pairwise fun p q => p.off + p.len ≤ q.off
  inside : ∀ p ∈ ps, p.off + p.len ≤ n

section parts

variable {m : List Host.Cell} {ps : List Part} {p : Part} {n o : Nat}

theorem PartsOf.tail (h : PartsOf n (p :: ps)) : PartsOf n ps :=
  ⟨(List.pairwise_cons.1 h.ordered).2, fun q hq => h.inside q (List.mem_cons_of_mem _ hq)⟩

/-- The bytes of the parts behind a place are a multiple of its power. -/
theorem pow_dvd_readParts (h : ∀ p ∈ ps, o ≤ p.off) : 2 ^ (8 * o) ∣ readParts m ps := by
  induction ps with
  | nil => exact Nat.dvd_zero _
  | cons p ps ih =>
    refine Nat.dvd_add (Dvd.dvd.mul_left (Nat.pow_dvd_pow 2 ?_) _) (ih fun q hq => h q (List.mem_cons_of_mem _ hq))
    exact Nat.mul_le_mul_left 8 (h p List.mem_cons_self)

/-- The first part below, and the bytes of the others above. -/
theorem PartsOf.readParts_cons (h : PartsOf n (p :: ps)) : ∃ r,
    readParts m ps = 2 ^ (8 * (p.off + p.len)) * r ∧
      readParts m (p :: ps) = 2 ^ (8 * p.off) * (memNat m p.key p.len + 2 ^ (8 * p.len) * r) := by
  obtain ⟨r, hr⟩ := pow_dvd_readParts (m := m) (List.pairwise_cons.1 h.ordered).1
  refine ⟨r, hr, ?_⟩
  rw [readParts, hr, Nat.mul_add 8, pow_add]
  ring

/-- The bytes of a part, as the parts of its span hold them. -/
theorem PartsOf.readParts_field (h : PartsOf n ps) (hp : p ∈ ps) {w : Nat} (ho : p.off ≤ o)
    (hw : o + w ≤ p.off + p.len) :
    readParts m ps / 2 ^ (8 * o) % 2 ^ (8 * w) = memNat m (p.key + (o - p.off)) w := by
  induction ps with
  | nil => exact absurd hp List.not_mem_nil
  | cons q ps ih =>
    obtain ⟨r, hr, hcons⟩ := h.readParts_cons (m := m)
    have hpow := fun k => Nat.two_pow_pos (8 * k)
    rcases List.mem_cons.1 hp with rfl | hp
    · obtain ⟨i, rfl⟩ := Nat.exists_eq_add_of_le ho
      have hsplit : 2 ^ (8 * p.len) = 2 ^ (8 * i) * (2 ^ (8 * w) * 2 ^ (8 * (p.len - i - w))) := by
        rw [← pow_add, ← pow_add]
        congr 1
        omega
      rw [hcons, Nat.add_sub_cancel_left, Nat.mul_add 8, pow_add, ← Nat.div_div_eq_div_mul,
        Nat.mul_div_cancel_left _ (hpow _), hsplit, Nat.mul_assoc, Nat.add_mul_div_left _ _ (hpow _), Nat.mul_assoc,
        Nat.add_mul_mod_self_left]
      exact memNat_field m p.key (by omega)
    · have hle : q.off + q.len ≤ o := ((List.pairwise_cons.1 h.ordered).1 p hp).trans ho
      obtain ⟨i, rfl⟩ := Nat.exists_eq_add_of_le hle
      have hlow : readParts m (q :: ps) / 2 ^ (8 * (q.off + q.len)) = r := by
        rw [hcons, Nat.mul_add 8, pow_add, ← Nat.div_div_eq_div_mul, Nat.mul_div_cancel_left _ (hpow _),
          Nat.add_mul_div_left _ _ (hpow _), Nat.div_eq_of_lt (memNat_lt ..), Nat.zero_add]
      rw [← ih h.tail hp, Nat.mul_add 8 (q.off + q.len), pow_add, ← Nat.div_div_eq_div_mul, hlow,
        ← Nat.div_div_eq_div_mul, hr, Nat.mul_div_cancel_left _ (hpow _)]

theorem PartsOf.readParts_lt (h : PartsOf n ps) : readParts m ps < 2 ^ (8 * n) := by
  induction ps with
  | nil => exact Nat.two_pow_pos _
  | cons p ps ih =>
    obtain ⟨r, hr, hcons⟩ := h.readParts_cons (m := m)
    obtain ⟨k, rfl⟩ := Nat.exists_eq_add_of_le (h.inside p List.mem_cons_self)
    have hrest := ih h.tail
    rw [hr, Nat.mul_add 8 (p.off + p.len), pow_add] at hrest
    have hrlt : r < 2 ^ (8 * k) := Nat.lt_of_mul_lt_mul_left hrest
    have hlow := memNat_lt m p.key p.len
    calc readParts m (p :: ps) < 2 ^ (8 * p.off) * (2 ^ (8 * p.len) * (r + 1)) := by
          rw [hcons]
          exact Nat.mul_lt_mul_of_pos_left (by rw [Nat.mul_succ]; omega) (Nat.two_pow_pos _)
      _ ≤ 2 ^ (8 * p.off) * (2 ^ (8 * p.len) * 2 ^ (8 * k)) :=
          Nat.mul_le_mul_left _ (Nat.mul_le_mul_left _ hrlt)
      _ = 2 ^ (8 * (p.off + p.len + k)) := by rw [← pow_add, ← pow_add]; congr 1; ring

/-- The key of a byte of a part. -/
theorem PartsOf.partKey (h : PartsOf n ps) (hp : p ∈ ps) (ho : p.off ≤ o) (hlt : o < p.off + p.len) :
    partKey ps o = p.key + (o - p.off) := by
  have hfind : (ps.find? fun p => decide (p.off ≤ o) && decide (o < p.off + p.len)) = some p := by
    induction ps with
    | nil => exact absurd hp List.not_mem_nil
    | cons q ps ih =>
      rcases List.mem_cons.1 hp with rfl | hp
      · simp [ho, hlt]
      · have hle := (List.pairwise_cons.1 h.ordered).1 p hp
        rw [List.find?_cons_of_neg (by simp; omega)]
        exact ih h.tail hp
  rw [Machine.partKey, hfind]

end parts

/-! ## Spans cut at the boundary of a page -/

theorem pageCut_ordered (va n : Nat) : (pageCut va n).Pairwise fun p q => p.1 + p.2 ≤ q.1 := by
  unfold pageCut
  extract_lets r
  split <;> simp

theorem pageCut_inside {va n : Nat} {p : Nat × Nat} (hp : p ∈ pageCut va n) : p.1 + p.2 ≤ n := by
  unfold pageCut at hp
  extract_lets r at hp
  split at hp
  · cases List.mem_singleton.1 hp
    omega
  · rcases List.mem_cons.1 hp with rfl | hp
    · dsimp only; omega
    · cases List.mem_singleton.1 hp
      dsimp only; omega

/-- An aligned element of a span lies in one part of it. -/
theorem exists_mem_pageCut {va n o w : Nat} (hw : w ∣ 65536) (hva : w ∣ va) (ho : w ∣ o) (hn : o + w ≤ n) :
    ∃ p ∈ pageCut va n, p.1 ≤ o ∧ o + w ≤ p.1 + p.2 := by
  unfold pageCut
  extract_lets r
  split
  · exact ⟨_, List.mem_singleton_self _, Nat.zero_le _, by omega⟩
  · by_cases hor : o < r
    · have hr : w ∣ r := Nat.dvd_sub hw ((Nat.dvd_mod_iff hw).2 hva)
      obtain ⟨i, rfl⟩ := ho
      obtain ⟨k, hk⟩ := hr
      have hik : i < k := Nat.lt_of_mul_lt_mul_left (hk ▸ hor)
      have hle : w * i + w ≤ w * k := by
        rw [← Nat.mul_succ]
        exact Nat.mul_le_mul_left w hik
      exact ⟨_, List.mem_cons_self, Nat.zero_le _, by dsimp only; omega⟩
    · exact ⟨_, List.mem_cons_of_mem _ (List.mem_singleton_self _), by dsimp only; omega, by dsimp only; omega⟩

theorem xlateList_ok {c : CtxId} {acc : Access} {n : Nat} {l : List (Nat × Word)} {s u : State} {ks : List (Nat × Nat)}
    (h : xlateList c acc n l s = (u, .ok ks)) : XlatFrame c s u ∧ ks.map (·.1) = l.map (·.1) := by
  refine ⟨by simpa [h] using xlateList_frame c acc n l s, ?_⟩
  induction l generalizing s ks with
  | nil => cases h; rfl
  | cons p l ih =>
    obtain ⟨j, va⟩ := p
    unfold xlateList at h
    split at h
    · cases h
    split at h
    · cases h
    split at h
    · cases h
    · cases h
    split at h
    · next hl => cases h; exact congrArg (j :: ·) (ih hl)
    · next hne => exact absurd h (hne _ _)

/-- The parts of a span are those of its cut that are used. -/
theorem spanParts_ok {c : CtxId} {acc : Access} {va : Word} {n : Nat} {used : Nat → Nat → Option Nat} {s u : State}
    {ps : List Part} (h : spanParts c acc va n used s = (u, .ok ps)) : XlatFrame c s u ∧
      ps.map (fun p => (p.off, p.len)) = (pageCut va.toNat n).filter fun p => (used p.1 p.2).isSome := by
  unfold spanParts at h
  extract_lets cut at h
  split at h
  · cases h
  split at h
  case h_1 l hl =>
    cases h
    obtain ⟨hframe, hkeys⟩ := xlateList_ok hl
    refine ⟨hframe, ?_⟩
    have hlen : cut.length ≤ l.length := by
      have := congrArg List.length hkeys
      simp only [List.length_map] at this
      omega
    have hcut : cut.map (·.1) = (pageCut va.toNat n).filter fun p => (used p.1 p.2).isSome := by
      rw [List.map_filterMap, ← List.filterMap_eq_filter]
      congr 1
      funext p
      cases hused : used p.1 p.2 <;> simp [Option.guard, hused]
    rw [← hcut, List.map_map, ← List.map_fst_zip hlen, List.map_map, List.map_fst_zip hlen]
    rfl
  all_goals cases h

end Sys2Proof.Machine

end

section

/-! PROOFS. The statement about vector loads (O28; spec/06 R120, R121). -/

namespace Sys2Proof.Machine

/-! ## Addresses -/

theorem word_add (m n : Int) : word (m + n) = word m + word n := BitVec.ofInt_add ..

theorem word_toInt (a : Word) : word a.toInt = a := BitVec.ofInt_toInt

theorem memAddr_eq (o : MM) (e : QEntry) : memAddr o e = word (e.a.toInt + o.off.toInt) := by
  rw [word_add, word_toInt]
  rfl

theorem strideAddr_eq (o : MM) (e : QEntry) (j : Nat) :
    strideAddr o e j = word (e.a.toInt + o.off.toInt + j * e.b.toInt) := by
  have hstep : word (j * e.b.toInt) = BitVec.ofNat 64 j * e.b := by
    rw [word, BitVec.ofInt_mul, BitVec.ofInt_toInt, BitVec.ofInt_natCast]
  rw [word_add, hstep, strideAddr, memAddr_eq]

theorem indexAddr_eq (o : MM) (e : QEntry) (x : Ctx) (j : Nat) : indexAddr o e x j = word (e.a.toInt + o.off.toInt +
    sextI 32 (elem 32 (j / (32 / tyWidth o.ty)) (readGroup e o.vi x (j % (32 / tyWidth o.ty))))) := by
  rw [word_add, ← memAddr_eq]
  rfl

/-- A divisor of 2^64 divides an integer and the word that is congruent to it, or neither. -/
theorem toNat_word_mod_eq_zero {k : Nat} (hk : k ∣ 2 ^ 64) (n : Int) : (word n).toNat % k = 0 ↔ n % k = 0 := by
  have hnn : 0 ≤ n % ((2 ^ 64 : Nat) : Int) := Int.emod_nonneg _ (by decide)
  rw [word, BitVec.toNat_ofInt, ← Int.natCast_inj, Int.natCast_mod, Int.toNat_of_nonneg hnn,
    Int.emod_emod_of_dvd n (Int.natCast_dvd_natCast.2 hk)]
  rfl

/-! ## Elements in memory -/

theorem elemBytes_eq_bytesOf (t : Ty) : elemBytes t = bytesOf t := by cases t <;> rfl

theorem elemBytes_dvd_page (t : Ty) : elemBytes t ∣ 65536 := by cases t <;> decide

theorem elemBytes_pos (t : Ty) : 0 < elemBytes t := lt_max_of_lt_left Nat.one_pos

/-- The elements of a type that takes no 4 bits have whole bytes. -/
theorem tyWidth_of_not4 {t : Ty} (h : tyNot4 t = true) : tyWidth t ≠ 4 ∧ tyWidth t = 8 * elemBytes t := by
  cases t with
  | s4 | n4 | e2m1 => cases h
  | _ => exact ⟨by decide, rfl⟩

/-- An element has 4 bits, or whole bytes. -/
theorem tyWidth_cases (t : Ty) :
    tyWidth t = 4 ∧ elemBytes t = 1 ∨ tyWidth t ≠ 4 ∧ tyWidth t = 8 * elemBytes t := by
  cases t with
  | s4 | n4 | e2m1 => exact .inl ⟨rfl, rfl⟩
  | _ => exact .inr (tyWidth_of_not4 rfl)

/-- The place of an element in a span of a whole register. -/
theorem element_place {t : Ty} {j : Nat} (hj : j < 4096 / tyWidth t) :
    elemBytes t ∣ j * tyWidth t / 8 ∧ j * tyWidth t / 8 + elemBytes t ≤ 512 := by
  rcases tyWidth_cases t with ⟨hw, hn⟩ | ⟨-, hw⟩
  · rw [hw] at hj
    rw [hw, hn]
    exact ⟨Nat.one_dvd _, by omega⟩
  · have hplace : j * tyWidth t / 8 = j * elemBytes t := by
      rw [hw, Nat.mul_left_comm, Nat.mul_div_cancel_left _ (by decide)]
    have hend : (j + 1) * tyWidth t ≤ 4096 :=
      (Nat.le_div_iff_mul_le (by rw [hw]; have := elemBytes_pos t; omega)).1 hj
    rw [hplace]
    refine ⟨Nat.dvd_mul_left .., ?_⟩
    rw [hw, Nat.mul_left_comm, Nat.add_mul, Nat.one_mul] at hend
    omega

/-- The value of an element that has been checked is what memory holds at its key. -/
theorem keyElem_eq {t : Ty} (ht : tyNot4 t = true) {ks : List (Nat × Nat)} {j : Nat} (hj : j ∈ ks.map (·.1))
    (m : List Host.Cell) : keyElem m (elemBytes t) ks j = elementAt m (tyWidth t) (keyOf ks j) j := by
  obtain ⟨hne, hw⟩ := tyWidth_of_not4 ht
  obtain ⟨k, hk⟩ : ∃ k, ks.lookup j = some k := by
    obtain ⟨p, hp, rfl⟩ := List.mem_map.1 hj
    exact Option.isSome_iff_exists.1 (List.lookup_isSome_iff.2 ⟨p, hp, BEq.rfl⟩)
  have hn : tyWidth t / 8 = elemBytes t := by omega
  rw [keyElem, keyOf, hk, elementAt, if_neg hne, hn]
  rfl

theorem keyElem_lt {t : Ty} (ht : tyNot4 t = true) (ks : List (Nat × Nat)) (j : Nat) (m : List Host.Cell) :
    keyElem m (elemBytes t) ks j < 2 ^ tyWidth t := by
  rw [keyElem, (tyWidth_of_not4 ht).2]
  split
  · exact memNat_lt ..
  · exact Nat.two_pow_pos _

/-- A field of 4 bits is a half of its byte. -/
theorem nibble_eq (n j : Nat) :
    n / 2 ^ (4 * j) % 2 ^ 4 = n / 2 ^ (8 * (j / 2)) % 2 ^ 8 / 16 ^ (j % 2) % 16 := by
  have hsplit : 2 ^ (4 * j) = 2 ^ (8 * (j / 2)) * 16 ^ (j % 2) := by
    rw [show (16 : Nat) = 2 ^ 4 from rfl, ← pow_mul, ← pow_add]
    congr 1
    omega
  rw [hsplit, ← Nat.div_div_eq_div_mul]
  rcases Nat.mod_two_eq_zero_or_one j with h | h <;> rw [h] <;> omega

/-- An element of a span that lies in one part of it is what memory holds at its key. -/
theorem spanElem_eq {t : Ty} {ps : List Part} {p : Part} {n j : Nat} (h : PartsOf n ps) (hp : p ∈ ps)
    (ho : p.off ≤ j * tyWidth t / 8) (hin : j * tyWidth t / 8 + elemBytes t ≤ p.off + p.len) (m : List Host.Cell) :
    spanElem (tyWidth t) (readParts m ps) j = elementAt m (tyWidth t) (partKey ps (j * tyWidth t / 8)) j := by
  have hfield := h.readParts_field (m := m) hp ho hin
  rw [← h.partKey hp ho ((Nat.lt_add_of_pos_right (elemBytes_pos t)).trans_le hin)] at hfield
  rw [spanElem, elementAt]
  rcases tyWidth_cases t with ⟨hw, hn⟩ | ⟨hne, hw⟩
  · rw [hw, hn] at hfield
    have hbyte : j * 4 / 8 = j / 2 := by omega
    rw [hw, if_pos rfl, nibble_eq, ← memNat_one, ← hfield, hbyte]
  · have hplace : tyWidth t * j = 8 * (j * tyWidth t / 8) := by
      rw [hw, Nat.mul_left_comm j, Nat.mul_div_cancel_left _ (by decide)]
      ring
    have hn : tyWidth t / 8 = elemBytes t := by omega
    rw [if_neg hne, hplace, hn, ← hfield, hw]

/-! ## The span of `ld.v` -/

theorem vectorSpan_ok {c : CtxId} {acc : Access} {t : Ty} {a : Word} {act : List Nat} {s u : State} {ps : List Part}
    (h : vectorSpan c acc t a act s = (u, .ok ps)) :
    spanParts c acc a 512 (firstUsed t act) s = (u, .ok ps) ∧ (act ≠ [] → a.toNat % elemBytes t = 0) := by
  cases act with
  | nil => exact ⟨h, fun hne => absurd rfl hne⟩
  | cons j act =>
    rw [vectorSpan, List.head?_cons] at h
    dsimp only at h
    split at h
    · cases h
    · next ha => exact ⟨h, fun _ => not_not.1 ha⟩

theorem partsOf_of_cut {va n : Nat} {f : Nat × Nat → Bool} {ps : List Part}
    (h : ps.map (fun p => (p.off, p.len)) = (pageCut va n).filter f) : PartsOf n ps := by
  constructor
  · have hordered := (pageCut_ordered va n).filter f
    rw [← h] at hordered
    exact List.pairwise_map.1 hordered
  · intro p hp
    have hmem := List.mem_map_of_mem (f := fun p : Part => (p.off, p.len)) hp
    rw [h] at hmem
    exact pageCut_inside (List.mem_of_mem_filter hmem)

theorem exists_part_of_cut {va n : Nat} {f : Nat × Nat → Bool} {ps : List Part}
    (h : ps.map (fun p => (p.off, p.len)) = (pageCut va n).filter f) {q : Nat × Nat} (hq : q ∈ pageCut va n)
    (hf : f q = true) : ∃ p ∈ ps, p.off = q.1 ∧ p.len = q.2 := by
  have hmem := List.mem_filter.2 ⟨hq, hf⟩
  rw [← h] at hmem
  obtain ⟨p, hp, rfl⟩ := List.mem_map.1 hmem
  exact ⟨p, hp, rfl, rfl⟩

/-- An active element lies in one part of the span (spec/03 R45, spec/06 R121). -/
theorem vectorSpan_part {c : CtxId} {acc : Access} {t : Ty} {a : Word} {act : List Nat} {s u : State} {ps : List Part}
    (h : vectorSpan c acc t a act s = (u, .ok ps)) {j : Nat} (hj : j ∈ act) (hlt : j < 4096 / tyWidth t) :
    ∃ p ∈ ps, p.off ≤ j * tyWidth t / 8 ∧ j * tyWidth t / 8 + elemBytes t ≤ p.off + p.len := by
  obtain ⟨hspan, halign⟩ := vectorSpan_ok h
  obtain ⟨-, hcut⟩ := spanParts_ok hspan
  have hpos := elemBytes_pos t
  obtain ⟨hdvd, hend⟩ := element_place hlt
  obtain ⟨q, hq, hle, hin⟩ := exists_mem_pageCut (elemBytes_dvd_page t)
    (Nat.dvd_of_mod_eq_zero (halign (List.ne_nil_of_mem hj))) hdvd hend
  have hused : (firstUsed t act q.1 q.2).isSome = true :=
    List.find?_isSome.2 ⟨_, List.mem_map_of_mem hj, by simp; omega⟩
  obtain ⟨p, hp, hpoff, hplen⟩ := exists_part_of_cut hcut hq hused
  exact ⟨p, hp, by omega, by omega⟩

/-! ## Destinations filled -/

/-- The destination of a load with the values of its active elements. -/
def fillDst (o : MM) (e : QEntry) (p : PReg) (g : Nat → Nat) (x : Ctx) : Ctx :=
  putDst e o.v (underMask (tyWidth o.ty) p (dstOld e o.v x) g) x

theorem fillDst_tok (o : MM) (e : QEntry) (p : PReg) (g : Nat → Nat) (x : Ctx) :
    (fillDst o e p g x).tok = x.tok := putDst_tok ..

theorem StartFrame.dstOld {x y : Ctx} (h : StartFrame x y) (e : QEntry) (d : BitVec 6) :
    dstOld e d y = dstOld e d x := by
  rw [h]
  rfl

theorem masked_congr {w j x y : Nat} {old : VReg} {p : Bool} (h : p = true → x = y) :
    masked w old p j x = masked w old p j y := by
  cases p with
  | false => rfl
  | true => exact h rfl

theorem mem_activeLanes {t : Ty} {p : PReg} {j : Nat} (hj : j < 4096 / tyWidth t) (hp : p.getLsbD j = true) :
    j ∈ activeLanes t p := List.mem_filter.2 ⟨List.mem_range.2 hj, hp⟩

/-- What the front captures for a load (spec/06 R105). -/
abbrev loadEntry (i : Instr) (o : MM) (s : State) : QEntry := capture .l i o.sa o.sb 0 s.me

/-- The governing predicate of a load as it begins. -/
abbrev loadPred (i : Instr) (o : MM) (s : State) : PReg := govern (loadEntry i o s) o.pred (handed s)

/-- What a vector load has done: each active element of its destination has its value, and the others keep theirs. -/
def Filled (s u t : State) (o : MM) (e : QEntry) (keys : List Nat) (g : List Host.Cell → Nat → Nat) : Prop :=
  ∃ y R, readDone s u t (linesOfKeys keys) y ∧ t.ctx s.cur = tokensDone s .l o.tok (putDst e o.v R y) ∧
    ∀ j, j < 4096 / tyWidth o.ty → elem (tyWidth o.ty) j R = masked (tyWidth o.ty) (dstOld e o.v (handed s))
      ((govern e o.pred (handed s)).getLsbD j) j (g t.mem j)

/-- A vector load whose lines are granted fills its destination with what memory holds for its active elements. -/
theorem issue_filled {s u : State} {i : Instr} {o : MM} {perf : CtxId → QEntry → State → Perform} {unit : Nat}
    {keys : List Nat} {ps : List Part} {g g' : List Host.Cell → Nat → Nat}
    (hfree : streamFree s .l o.tok [o.sa, o.sb]) (hlost : s.lostRead = false) (hmat : isMat i = false)
    (hu : XlatFrame s.cur (began s) u) (hgrant : banksGrant u s.cur (portL s.cur) .read s.me.pos keys)
    (hperf : perf s.cur (loadEntry i o s) (began s) =
      readLines s.cur (portL s.cur) (loadEntry i o s) unit keys ps u fun t m => .done (t.modCtx s.cur
        (fillDst o (loadEntry i o s) (loadPred i o s) (g m))))
    (hlt : ∀ m j, g m j < 2 ^ tyWidth o.ty)
    (hg : ∀ m, ∀ j ∈ activeLanes o.ty (loadPred i o s), g m j = g' m j) :
    ∃ t, issue .l i o.tok o.sa o.sb 0 perf s = .next t ∧
      Filled s u t o (loadEntry i o s) keys g' := by
  obtain ⟨t, y, hnext, hdone, hctx⟩ :=
    issue_load hfree (by simp) hmat hu hgrant hperf fun m x => fillDst_tok o _ _ (g m) x
  refine ⟨t, hnext, y, _, hdone, hctx, fun j hj => ?_⟩
  have hmem : lostView t ps = t.mem := lostView_of_none ((hdone.lostRead hu).trans hlost) ps
  rw [elem_underMask hj (hlt _ j), hmem, (hdone.startFrame hu).dstOld]
  exact masked_congr fun hp => hg _ j (mem_activeLanes hj hp)

/-! ## Loads whose elements have addresses of their own -/

theorem allOf_cons_eq_none {c : Option Reject} {l : List (Option Reject)} (h : allOf (c :: l) = none) :
    c = none ∧ allOf l = none := by
  cases c with
  | none => exact ⟨rfl, h⟩
  | some r => cases h

theorem need_eq_none {b : Bool} {r : Reject} (h : need b r = none) : b = true := by
  cases b with
  | true => rfl
  | false => cases h

theorem strideAligned_of_ok {o : MM} {e : QEntry} (h : strideOk o e) : strideAligned o e = true := by
  obtain ⟨hbase, hstep⟩ := h
  have hdvd : elemBytes o.ty ∣ 2 ^ 64 := (elemBytes_dvd_page o.ty).trans (by decide)
  rw [← elemBytes_eq_bytesOf] at hbase hstep
  have hb := (toNat_word_mod_eq_zero hdvd _).2 hstep
  rw [word_toInt] at hb
  rw [strideAligned, memAddr_eq, (toNat_word_mod_eq_zero hdvd _).2 hbase, hb]
  rfl

/-- `ld.vs`, `ld.vx` and `ld.bc` with room for their result, and a stride that is aligned, load element by element from
the addresses of their row. -/
theorem elementLoad_cases {i : Instr} {o : MM} {adr : QEntry → Ctx → Nat → Int} (h : elementLoad i = some (o, adr))
    (hcheck : checkInstr i = none) : tyNot4 o.ty = true ∧ isMat i = false ∧ ∃ perf,
      (∀ s, exec i s = issue .l i o.tok o.sa o.sb 0 perf s) ∧
      ∀ c e s, dstRoom o.v (s.ctx c) = true → ((∃ q, i = .ldVs q) → strideOk o e) →
        perf c e s = loadElems o c e (fun x j => word (adr e x j)) s := by
  cases i with
  | ldVs o' =>
    cases h
    refine ⟨need_eq_none (allOf_cons_eq_none hcheck).1, rfl, _, fun _ => rfl, fun c e s hroom hstride => ?_⟩
    have haddr : (fun _ => strideAddr o e : Ctx → Nat → Word) =
        fun _ j => word (e.a.toInt + o.off.toInt + (j : Nat) * e.b.toInt) := by funext; exact strideAddr_eq ..
    rw [performLdVs, hroom, strideAligned_of_ok (hstride ⟨_, rfl⟩), haddr]
    rfl
  | ldVx o' =>
    cases h
    refine ⟨need_eq_none (allOf_cons_eq_none hcheck).1, rfl, _, fun _ => rfl, fun c e s hroom _ => ?_⟩
    have haddr : indexAddr o e = fun x j => word (e.a.toInt + o.off.toInt + sextI 32
        (elem 32 (j / (32 / tyWidth o.ty)) (readGroup e o.vi x (j % (32 / tyWidth o.ty))))) := by
      funext; exact indexAddr_eq ..
    rw [performLdVx, hroom, haddr]
    rfl
  | ldBc o' =>
    cases h
    refine ⟨need_eq_none (allOf_cons_eq_none hcheck).1, rfl, _, fun _ => rfl, fun c e s hroom _ => ?_⟩
    rw [performLdBc, hroom, memAddr_eq]
    rfl
  | _ => cases h

/-- What a load of checked elements comes to as it begins. -/
theorem loadElems_began {s u : State} {o : MM} {e : QEntry} {adr : Ctx → Nat → Word} {ks : List (Nat × Nat)}
    (h : xlateList s.cur .load (elemBytes o.ty)
      ((activeLanes o.ty (govern e o.pred (handed s))).map fun j => (j, adr (handed s) j)) (began s) = (u, .ok ks)) :
    loadElems o s.cur e adr (began s) = readLines s.cur (portL s.cur) e 4 (ks.map (·.2))
      (elemParts (elemBytes o.ty) ks) u fun t m => .done (t.modCtx s.cur (fillDst o e (govern e o.pred (handed s)) (keyElem m (elemBytes o.ty) ks))) := by
  unfold loadElems
  extract_lets x p n
  have hx : x = handed s := began_ctx s
  have hlist : xlateList s.cur .load n ((activeIdx o.ty p).map fun j => (j, adr x j)) (began s) = (u, .ok ks) := by
    simp only [p, hx]
    exact h
  rw [hlist]
  simp only [p, hx]
  rfl

/-- `ld.vs`, `ld.vx` and `ld.bc` fill the active elements of their destination (spec/06 R120, R121). -/
theorem elementLoad_filled {s u : State} {i : Instr} {o : MM} {adr : QEntry → Ctx → Nat → Int} {ks : List (Nat × Nat)}
    (h : elementLoad i = some (o, adr)) (hcheck : checkInstr i = none) (hfree : streamFree s .l o.tok [o.sa, o.sb])
    (hroom : dstRoom o.v s.me = true) (hlost : s.lostRead = false)
    (hstride : (∃ q, i = .ldVs q) → strideOk o (loadEntry i o s))
    (hlist : xlateList s.cur .load (tyWidth o.ty / 8)
      ((activeLanes o.ty (loadPred i o s)).map
        fun j => (j, word (adr (loadEntry i o s) (handed s) j))) (began s) = (u, .ok ks))
    (hgrant : banksGrant u s.cur (portL s.cur) .read s.me.pos (ks.map (·.2))) :
    ∃ t, exec i s = .next t ∧ Filled s u t o (loadEntry i o s) (ks.map (·.2))
      fun m j => elementAt m (tyWidth o.ty) (keyOf ks j) j := by
  obtain ⟨hty, hmat, perf, hexec, hperf⟩ := elementLoad_cases h hcheck
  obtain ⟨-, hw⟩ := tyWidth_of_not4 hty
  have hbytes : tyWidth o.ty / 8 = elemBytes o.ty := by omega
  rw [hbytes] at hlist
  obtain ⟨hu, hkeys⟩ := xlateList_ok hlist
  have hroom' : dstRoom o.v ((began s).ctx s.cur) = true := by rw [began_ctx]; exact hroom
  rw [hexec]
  refine issue_filled hfree hlost hmat hu hgrant ((hperf _ _ _ hroom' hstride).trans (loadElems_began hlist))
    (fun m j => keyElem_lt hty ks j m) fun m j hj => keyElem_eq hty ?_ m
  rw [hkeys, List.map_map]
  simpa using hj

/-! ## `ld.v` to a register or a qv queue -/

theorem performLdV_reg {o : MM} (hqa : vop o.v ≠ .qa) (hqb : vop o.v ≠ .qb) (c : CtxId) (e : QEntry) (s : State) :
    performLdV o c e s = loadVReg o c e s := by
  unfold performLdV
  split
  · next h => exact absurd h hqa
  · next h => exact absurd h hqb
  · rfl

theorem loadVReg_began {s u : State} {o : MM} {e : QEntry} {ps : List Part} (hroom : dstRoom o.v s.me = true)
    (h : vectorSpan s.cur .load o.ty (word (e.a.toInt + o.off.toInt))
      (activeLanes o.ty (govern e o.pred (handed s))) (began s) = (u, .ok ps)) :
    loadVReg o s.cur e (began s) = readLines s.cur (portL s.cur) e 4
      ((activeLanes o.ty (govern e o.pred (handed s))).map fun j => partKey ps (j * tyWidth o.ty / 8)) ps u
      fun t m => .done (t.modCtx s.cur (fillDst o e (govern e o.pred (handed s))
        (spanElem (tyWidth o.ty) (readParts m ps)))) := by
  unfold loadVReg
  extract_lets x p act
  have hx : x = handed s := began_ctx s
  have hroom' : dstRoom o.v x = true := by rw [hx]; exact hroom
  have hspan : vectorSpan s.cur .load o.ty (memAddr o e) act (began s) = (u, .ok ps) := by
    simp only [act, p, hx, memAddr_eq]
    exact h
  rw [hroom', hspan]
  simp only [act, p, hx]
  rfl

/-- `ld.v` to a register or a qv queue fills the active elements of its destination (spec/06 R120, R121). -/
theorem loadVReg_filled {s u : State} {o : MM} {ps : List Part} (hqa : vop o.v ≠ .qa) (hqb : vop o.v ≠ .qb)
    (hfree : streamFree s .l o.tok [o.sa, o.sb]) (hroom : dstRoom o.v s.me = true) (hlost : s.lostRead = false)
    (hspan : vectorSpan s.cur .load o.ty (word ((loadEntry (.ldV o) o s).a.toInt + o.off.toInt))
      (activeLanes o.ty (loadPred (.ldV o) o s)) (began s) = (u, .ok ps))
    (hgrant : banksGrant u s.cur (portL s.cur) .read s.me.pos
      ((activeLanes o.ty (loadPred (.ldV o) o s)).map
        fun j => partKey ps (j * tyWidth o.ty / 8))) :
    ∃ t, exec (.ldV o) s = .next t ∧ Filled s u t o (loadEntry (.ldV o) o s)
      ((activeLanes o.ty (loadPred (.ldV o) o s)).map
        fun j => partKey ps (j * tyWidth o.ty / 8))
      fun m j => elementAt m (tyWidth o.ty) (partKey ps (j * tyWidth o.ty / 8)) j := by
  obtain ⟨hu, hcut⟩ := spanParts_ok (vectorSpan_ok hspan).1
  refine issue_filled hfree hlost rfl hu hgrant ((performLdV_reg hqa hqb ..).trans (loadVReg_began hroom hspan))
    (fun m j => Nat.mod_lt _ (Nat.two_pow_pos _)) fun m j hj => ?_
  obtain ⟨p, hp, ho, hin⟩ := vectorSpan_part hspan hj (List.mem_range.1 (List.mem_filter.1 hj).1)
  exact spanElem_eq (partsOf_of_cut hcut) hp ho hin m

/-- Settles O28: `elementLoad_filled` and `loadVReg_filled`. -/
theorem vectorLoads : Obligations.VectorLoads := by
  unfold Obligations.VectorLoads
  refine ⟨?elements, ?span⟩
  case elements =>
    intro s i o adr u ks hload hcheck hfree hroom hlost e x w p hstride hlist hgrant
    obtain ⟨t, hnext, y, R, hdone, hctx, helem⟩ :=
      elementLoad_filled hload hcheck hfree hroom hlost hstride hlist hgrant
    exact ⟨t, y, R, hnext, hdone, hctx, helem⟩
  case span =>
    intro s o u ps _ hqa hqb hfree hroom hlost e x w p hspan keys hgrant
    obtain ⟨t, hnext, y, R, hdone, hctx, helem⟩ := loadVReg_filled hqa hqb hfree hroom hlost hspan hgrant
    exact ⟨t, y, R, hnext, hdone, hctx, helem⟩

end Sys2Proof.Machine

end

section

/-! PROOFS. Rows that latch loads read, and the latch entries that hold them (spec/06 R115 to R117, R122, R126). -/

namespace Sys2Proof.Machine

/-! ## Bytes of a whole span -/

/-- The parts of a span of n bytes of which all are read. -/
structure WholeSpan (n : Nat) (ps : List Part) : Prop where
  parts : PartsOf n ps
  cover : ∀ b, b < n → ∃ p ∈ ps, p.off ≤ b ∧ b < p.off + p.len

theorem spanParts_whole {c : CtxId} {acc : Access} {va : Word} {n : Nat} {s u : State} {ps : List Part}
    (h : spanParts c acc va n allUsed s = (u, .ok ps)) : XlatFrame c s u ∧ WholeSpan n ps := by
  obtain ⟨hframe, hcut⟩ := spanParts_ok h
  refine ⟨hframe, partsOf_of_cut hcut, fun b hb => ?_⟩
  obtain ⟨q, hq, hle, hlt⟩ := exists_mem_pageCut (va := va.toNat) (Nat.one_dvd _) (Nat.one_dvd _) (Nat.one_dvd b) hb
  obtain ⟨p, hp, hoff, hlen⟩ := exists_part_of_cut hcut hq rfl
  exact ⟨p, hp, by omega, by omega⟩

theorem WholeSpan.one (n key : Nat) : WholeSpan n [⟨0, n, key⟩] where
  parts := ⟨List.pairwise_singleton .., fun p hp => by cases List.mem_singleton.1 hp; exact (Nat.zero_add n).le⟩
  cover b hb := ⟨_, List.mem_singleton_self _, Nat.zero_le b, by dsimp only; omega⟩

/-- A byte of a span that is read. -/
theorem WholeSpan.byte {n : Nat} {ps : List Part} (h : WholeSpan n ps) (m : List Host.Cell) {b : Nat} (hb : b < n) :
    BitVec.ofNat 8 (readParts m ps / 2 ^ (8 * b)) = memRead m (partKey ps b) := by
  obtain ⟨p, hp, ho, hlt⟩ := h.cover b hb
  have hfield := h.parts.readParts_field (m := m) (w := 1) hp ho hlt
  rw [← h.parts.partKey hp ho hlt, memNat_one] at hfield
  exact BitVec.eq_of_toNat_eq ((BitVec.toNat_ofNat ..).trans hfield)

/-- Behind a span that is read there are no bytes. -/
theorem WholeSpan.byte_of_le {n : Nat} {ps : List Part} (h : WholeSpan n ps) (m : List Host.Cell) {b : Nat}
    (hb : n ≤ b) : BitVec.ofNat 8 (readParts m ps / 2 ^ (8 * b)) = 0 := by
  rw [Nat.div_eq_of_lt (h.parts.readParts_lt.trans_le (Nat.pow_le_pow_right Nat.two_pos (Nat.mul_le_mul_left 8 hb)))]
  rfl

theorem partLines_aligned {ps : List Part} {k : Nat} (h : k ∈ partLines ps) : k % 64 = 0 := by
  obtain ⟨p, -, hk⟩ := List.mem_flatMap.1 h
  obtain ⟨i, -, rfl⟩ := List.mem_map.1 hk
  omega

/-- The lines of keys that are lines. -/
theorem linesOfKeys_of_aligned {keys : List Nat} (h : ∀ k ∈ keys, k % 64 = 0) : linesOfKeys keys = keys := by
  refine (List.map_congr_left fun k hk => ?_).trans (List.map_id _)
  rw [h k hk]
  rfl

theorem linesOfKeys_partLines (ps : List Part) : linesOfKeys (partLines ps) = partLines ps :=
  linesOfKeys_of_aligned fun _ => partLines_aligned

theorem linesOfKeys_rowsLines (l : List (Nat × List Part)) : linesOfKeys (rowsLines l) = rowsLines l :=
  linesOfKeys_of_aligned fun _ hk => by
    obtain ⟨r, -, hk⟩ := List.mem_flatMap.1 hk
    exact partLines_aligned hk

/-! ## Rows at a pitch -/

/-- Numbered rows of n bytes that have been checked, each number below a bound and at most once. -/
structure CheckedRows (n bound : Nat) (l : List (Nat × List Part)) : Prop where
  nodup : (l.map (·.1)).Nodup
  below : ∀ r ∈ l, r.1 < bound
  whole : ∀ r ∈ l, WholeSpan n r.2

theorem rowParts_ok {c : CtxId} {n : Nat} {rows : List (Nat × Word)} {s u : State}
    {l : List (Nat × List Part)} (h : rowParts c n rows s = (u, .ok l)) :
    XlatFrame c s u ∧ l.map (·.1) = rows.map (·.1) ∧ ∀ r ∈ l, WholeSpan n r.2 := by
  induction rows generalizing s l with
  | nil => cases h; exact ⟨.refl .., rfl, fun r hr => absurd hr List.not_mem_nil⟩
  | cons p rows ih =>
    obtain ⟨i, va⟩ := p
    unfold rowParts at h
    split at h
    · cases h
    · cases h
    · next v ps hps =>
      obtain ⟨hframe, hwhole⟩ := spanParts_whole hps
      split at h
      · next hl =>
        cases h
        obtain ⟨hrest, hkeys, hrows⟩ := ih hl
        exact ⟨hframe.trans hrest, congrArg (i :: ·) hkeys, List.forall_mem_cons.2 ⟨hwhole, hrows⟩⟩
      · next hne => exact absurd h (hne _ _)

theorem gatherKeys_ok {c : CtxId} {rows : List (Nat × Word)} {s : State} {l : List (Nat × List Part)}
    (h : gatherKeys c rows s = .ok l) : l.map (·.1) = rows.map (·.1) ∧ ∀ r ∈ l, WholeSpan 64 r.2 := by
  induction rows generalizing l with
  | nil => cases h; exact ⟨rfl, fun r hr => absurd hr List.not_mem_nil⟩
  | cons p rows ih =>
    obtain ⟨i, va⟩ := p
    unfold gatherKeys at h
    split at h
    · split at h
      · split at h
        · cases h
        split at h
        · next hl =>
          cases h
          obtain ⟨hkeys, hrows⟩ := ih hl
          exact ⟨congrArg (i :: ·) hkeys, List.forall_mem_cons.2 ⟨.one 64 _, hrows⟩⟩
        · next hne => exact absurd h (hne _)
      · cases h
      · cases h
    · cases h

/-- A row of a latch load as a row of a COPY: its number, and where its bytes come from. -/
def rowAsCopy (r : Nat × List Part) : CopyRow :=
  { i1 := r.1, lo := 0, hi := 0, odd := false, src := r.2, dva := 0, dst := [] }

theorem lookup_eq_find? {α : Type} (l : List (Nat × α)) (i : Nat) :
    l.lookup i = (l.find? fun r => r.1 == i).map (·.2) := by
  induction l with
  | nil => rfl
  | cons r l ih =>
    obtain ⟨k, a⟩ := r
    by_cases h : k = i
    · subst h
      simp
    · have hi : (i == k) = false := beq_false_of_ne (Ne.symm h)
      rw [List.lookup_cons, hi, List.find?_cons_of_neg (by simpa using h)]
      exact ih

/-- A value for each of some numbered rows, added at their places: it is less than a power of the bound, and holds in
the field of each row its value, and 0 in that of no row. -/
theorem rows_added {w bound : Nat} {l : List (Nat × List Part)} (hn : (l.map (·.1)).Nodup) {g : List Part → Nat}
    (hg : ∀ r ∈ l, g r.2 < 2 ^ w) (hi : ∀ r ∈ l, r.1 < bound) :
    l.foldl (fun d r => d + g r.2 * 2 ^ (w * r.1)) 0 < 2 ^ (w * bound) ∧
      ∀ i, i < bound → l.foldl (fun d r => d + g r.2 * 2 ^ (w * r.1)) 0 / 2 ^ (w * i) % 2 ^ w =
        ((l.lookup i).map g).getD 0 := by
  have hn' : ((l.map rowAsCopy).map (·.i1)).Nodup := by rw [List.map_map]; exact hn
  have hg' : ∀ r ∈ l.map rowAsCopy, g r.src < 2 ^ w := List.forall_mem_map.2 hg
  have hi' : ∀ r ∈ l.map rowAsCopy, r.i1 < bound := List.forall_mem_map.2 hi
  have hsum : l.foldl (fun d r => d + g r.2 * 2 ^ (w * r.1)) 0 =
      packFields w (rowFields (fun r => g r.src) (l.map rowAsCopy) bound) := by
    rw [← foldl_rowFields hn' hg' hi', List.foldl_map]
    rfl
  rw [hsum]
  refine ⟨(packFields_lt ..).trans_eq (by rw [rowFields_length]), fun i hib => ?_⟩
  rw [packFields_rowFields hn' hg' hib, lookup_eq_find?, List.find?_map]
  simp only [Option.map_map]
  rfl

/-- A latch entry holds its rows byte by byte, and everything else is a structural zero (spec/06 R115, R116). -/
theorem latch_holds {n bound pitch wd wm : Nat} {l : List (Nat × List Part)} (h : CheckedRows n bound l)
    (hn : n ≤ pitch) (hwd : 8 * pitch * bound ≤ wd) (hwm : pitch * bound ≤ wm) (m : List Host.Cell) {i b : Nat}
    (hi : i < bound) (hb : b < pitch) :
    latchByte (BitVec.ofNat wd (rowsData m pitch l)).toNat pitch i b =
        (if b < n then rowByte m l i b else none).getD 0 ∧
      (~~~BitVec.ofNat wm (rowsFilled pitch n l)).getLsbD (pitch * i + b) =
        (if b < n then rowByte m l i b else none).isNone := by
  have hlt : ∀ r ∈ l, readParts m r.2 < 2 ^ (8 * pitch) := fun r hr => (h.whole r hr).parts.readParts_lt.trans_le
    (Nat.pow_le_pow_right Nat.two_pos (Nat.mul_le_mul_left 8 hn))
  have hones : ∀ r ∈ l, 2 ^ n - 1 < 2 ^ pitch := fun _ _ =>
    (Nat.sub_lt (Nat.two_pow_pos n) Nat.one_pos).trans_le (Nat.pow_le_pow_right Nat.two_pos hn)
  obtain ⟨hsum, hrow⟩ := rows_added h.nodup (g := readParts m) hlt h.below
  obtain ⟨-, hmask⟩ := rows_added h.nodup (g := fun _ => 2 ^ n - 1) hones h.below
  have hdata : (BitVec.ofNat wd (rowsData m pitch l)).toNat = rowsData m pitch l := by
    rw [BitVec.toNat_ofNat]
    exact Nat.mod_eq_of_lt (hsum.trans_le (Nat.pow_le_pow_right Nat.two_pos hwd))
  have hin : pitch * i + b < wm := by nlinarith
  have hbyte := (latchByte_eq (rowsData m pitch l) i hb).trans
    (congrArg (fun d => BitVec.ofNat 8 (d / 2 ^ (8 * b))) (hrow i hi))
  have hbit := (testBit_field (rowsFilled pitch n l) i hb).trans (congrArg (·.testBit b) (hmask i hi))
  rw [hdata, hbyte, BitVec.getLsbD_not, BitVec.getLsbD_ofNat, decide_eq_true hin, hbit, rowByte]
  cases hl : l.lookup i with
  | none => simp
  | some ps =>
    have hwhole : WholeSpan n ps := by
      rw [lookup_eq_find?, Option.map_eq_some_iff] at hl
      obtain ⟨r, hr, rfl⟩ := hl
      exact h.whole r (List.mem_of_find?_eq_some hr)
    by_cases hbn : b < n
    · simp [hbn, hwhole.byte m hbn, Nat.testBit_two_pow_sub_one]
    · simp [hbn, hwhole.byte_of_le m (not_lt.1 hbn), Nat.testBit_two_pow_sub_one]

/-! ## The rows of the instructions -/

/-- Rows numbered by some of the numbers below a bound. -/
theorem rowsOf_numbers {bound : Nat} (p : Nat → Bool) (f : Nat → Word) :
    ((((List.range bound).filter p).map fun i => (i, f i)).map (·.1)).Nodup ∧
      ∀ i ∈ (((List.range bound).filter p).map fun i => (i, f i)).map (·.1), i < bound := by
  have hmap : (((List.range bound).filter p).map fun i => (i, f i)).map (·.1) = (List.range bound).filter p := by
    rw [List.map_map]
    exact List.map_id _
  rw [hmap]
  exact ⟨List.nodup_range.filter p, fun i hi => List.mem_range.1 (List.mem_of_mem_filter hi)⟩

theorem CheckedRows.of_numbers {n bound : Nat} {rows : List (Nat × Word)} {l : List (Nat × List Part)}
    (hl : l.map (·.1) = rows.map (·.1)) (hrows : (rows.map (·.1)).Nodup ∧ ∀ i ∈ rows.map (·.1), i < bound)
    (hwhole : ∀ r ∈ l, WholeSpan n r.2) : CheckedRows n bound l := by
  rw [← hl] at hrows
  exact ⟨hrows.1, fun r hr => hrows.2 _ (List.mem_map_of_mem hr), hwhole⟩

theorem latchRows_eq (o : MM) (e : QEntry) (x : Ctx) (n : Nat) : latchRows o e x n = rowsOf o e x n := by
  have haddr : (fun i => (i, strideAddr o e i)) = fun i => (i, rowAddr o e i) := by
    funext i
    rw [strideAddr_eq]
    rfl
  rw [latchRows, haddr]
  rfl

theorem filterMap_ite {α : Type} (p : Nat → Prop) [DecidablePred p] (f : Nat → α) (l : List Nat) :
    (l.filterMap fun i => if p i then some (f i) else none) = (l.filter fun i => p i).map f := by
  induction l with
  | nil => rfl
  | cons i l ih => by_cases h : p i <;> simp [h, ih]

theorem gatherRow_eq (o : MM) (e : QEntry) (x : Ctx) :
    (List.range 64).filterMap (gatherRow o e x) = gatherRows o e x := by
  refine congrArg (List.filterMap · (List.range 64)) (funext fun i => ?_)
  have haddr : e.a + BitVec.ofInt 64 (sextI 32 (elem 32 i (readGroup e o.vi x 0))) * e.b =
      word (e.a.toInt + sextI 32 (elem 32 i (readGroup e o.vi x 0)) * e.b.toInt) := by
    rw [word_add, word_toInt, word, BitVec.ofInt_mul, BitVec.ofInt_toInt]
  have hoff : o.off = 0 ↔ o.off.toNat = 0 := by simp [BitVec.toNat_eq]
  simp only [gatherRow, haddr, hoff, bitP]

theorem gatherRows_numbers (o : MM) (e : QEntry) (x : Ctx) :
    ((gatherRows o e x).map (·.1)).Nodup ∧ ∀ i ∈ (gatherRows o e x).map (·.1), i < 64 := by
  unfold gatherRows
  dsimp only
  rw [filterMap_ite]
  exact rowsOf_numbers _ _

end Sys2Proof.Machine

end

section

/-! PROOFS. The statement about loads to qa and qb, `gat.a`, `lds` and `ld.qsc` (O29; spec/06 R115 to R117, R122 to
R124, R126). -/

namespace Sys2Proof.Machine

/-! ## Loads to a latch queue -/

theorem withSlot_of_free {s : State} {b : Bool} (h : slotFree s b) {e : QEntry} (he : e.pos = s.me.pos) (k : Perform) :
    withSlot s.cur e b (began s) k = k := by
  obtain ⟨hparked, hbefore, hroom⟩ := h
  have hparked' : parkedSame (handed s) b e.pos = false := by rw [he]; exact hparked
  have hbefore' : pusherBefore (began s) s.cur b e.pos = false := by
    rw [← hbefore, he, pusherBefore, began_ctx]
    rfl
  have hroom' : latchRoom (handed s) b = true := hroom
  rw [withSlot, began_ctx, hparked', hbefore', hroom']
  rfl

theorem rowAligned_of_ok {a : Int} {e : QEntry} (h : rowsAligned a e) : rowAligned (word a) e = true := by
  obtain ⟨hbase, hstep⟩ := h
  have hdvd : 64 ∣ 2 ^ 64 := by decide
  have hb := (toNat_word_mod_eq_zero hdvd _).2 hstep
  rw [word_toInt] at hb
  rw [rowAligned, (toNat_word_mod_eq_zero hdvd a).2 hbase, hb]
  rfl

theorem StartFrame.stage {x y : Ctx} (h : StartFrame x y) : y.stage = x.stage := by rw [h]

/-- An entry pushed to qa. -/
def pushQa (a : QaEntry) (x : Ctx) : Ctx := { x with q := { x.q with qa := x.q.qa ++ [a] } }

/-- An entry pushed to qb. -/
def pushQb (b : QbEntry) (x : Ctx) : Ctx := { x with q := { x.q with qb := x.q.qb ++ [b] } }

section latch

variable {s u : State} {i : Instr} {o : MM} {perf : CtxId → QEntry → State → Perform} {port : Fin 8} {unit : Nat}
  {l : List (Nat × List Part)}

/-- A load of rows to qa whose lines are granted pushes an entry that holds them. -/
theorem issue_pushQa (hfree : streamFree s .l o.tok [o.sa, o.sb]) (hlost : s.lostRead = false) (hmat : isMat i = false)
    (hu : XlatFrame s.cur (began s) u) (hrows : CheckedRows 64 64 l)
    (hgrant : banksGrant u s.cur port .read s.me.pos (rowsLines l))
    (hperf : perf s.cur (loadEntry i o s) (began s) =
      readLines s.cur port (loadEntry i o s) unit (rowsLines l) (l.flatMap (·.2)) u fun t m =>
        .done (t.modCtx s.cur fun x => pushQa (qaOf (loadEntry i o s) x m l) x)) :
    ∃ t y a, issue .l i o.tok o.sa o.sb 0 perf s = .next t ∧ readDone s u t (rowsLines l) y ∧
      t.ctx s.cur = tokensDone s .l o.tok (pushQa a y) ∧ qaHolds a t.mem l s.me := by
  obtain ⟨t, y, hnext, hdone, hctx⟩ :=
    issue_load (f := fun m x => pushQa (qaOf (loadEntry i o s) x m l) x) hfree (by simp) hmat hu hgrant hperf
      fun _ _ => rfl
  rw [linesOfKeys_rowsLines] at hdone
  have hmem : lostView t (l.flatMap (·.2)) = t.mem := lostView_of_none ((hdone.lostRead hu).trans hlost) _
  rw [hmem] at hctx
  refine ⟨t, y, _, hnext, hdone, hctx, ?_, rfl, fun r b hr hb => ?_⟩
  · show y.stage.a = _
    rw [(hdone.startFrame hu).stage]
    rfl
  · have hheld := latch_holds hrows (le_refl 64) (wd := 32768) (wm := 4096) (by decide) (by decide) t.mem hr hb
    rw [if_pos hb] at hheld
    exact hheld

/-- A load of k rows of w-bit elements to qb whose lines are granted pushes an entry that holds them. -/
theorem issue_pushQb {k w : Nat} (hfree : streamFree s .l o.tok [o.sa, o.sb]) (hlost : s.lostRead = false)
    (hmat : isMat i = false) (hu : XlatFrame s.cur (began s) u) (hrows : CheckedRows (16 * w) k l)
    (hfit : 16 * w ≤ 8192 / k) (hgrant : banksGrant u s.cur port .read s.me.pos (rowsLines l))
    (hperf : perf s.cur (loadEntry i o s) (began s) =
      readLines s.cur port (loadEntry i o s) unit (rowsLines l) (l.flatMap (·.2)) u fun t m =>
        .done (t.modCtx s.cur fun x => pushQb (qbOf (loadEntry i o s) x m k w l) x)) :
    ∃ t y b, issue .l i o.tok o.sa o.sb 0 perf s = .next t ∧ readDone s u t (rowsLines l) y ∧
      t.ctx s.cur = tokensDone s .l o.tok (pushQb b y) ∧ qbHolds b k w t.mem l s.me := by
  obtain ⟨t, y, hnext, hdone, hctx⟩ :=
    issue_load (f := fun m x => pushQb (qbOf (loadEntry i o s) x m k w l) x) hfree (by simp) hmat hu hgrant hperf
      fun _ _ => rfl
  rw [linesOfKeys_rowsLines] at hdone
  have hmem : lostView t (l.flatMap (·.2)) = t.mem := lostView_of_none ((hdone.lostRead hu).trans hlost) _
  rw [hmem] at hctx
  have hsize : 8192 / k * k ≤ 8192 := Nat.div_mul_le_self ..
  refine ⟨t, y, _, hnext, hdone, hctx, ?_, rfl, rfl, rfl, fun r b hr hb => ?_⟩
  · show y.stage.b = _
    rw [(hdone.startFrame hu).stage]
    rfl
  · exact latch_holds hrows hfit (wd := 65536) (wm := 8192) (by rw [Nat.mul_assoc]; omega) hsize t.mem hr hb

end latch

section rows

variable {s u : State} {o : MM} {l : List (Nat × List Part)}

theorem rowParts_checked {c : CtxId} {n bound : Nat} {e : QEntry} {x : Ctx} {v : State}
    (h : rowParts c n (rowsOf o e x bound) v = (u, .ok l)) : XlatFrame c v u ∧ CheckedRows n bound l := by
  obtain ⟨hframe, hkeys, hwhole⟩ := rowParts_ok h
  exact ⟨hframe, .of_numbers hkeys (rowsOf_numbers ..) hwhole⟩

theorem loadVQa_began (hal : rowsAligned ((loadEntry (.ldV o) o s).a.toInt + o.off.toInt) (loadEntry (.ldV o) o s))
    (hslot : slotFree s false)
    (h : rowParts s.cur 64 (rowsOf o (loadEntry (.ldV o) o s) (handed s) (o.vi.toNat + 1)) (began s) = (u, .ok l)) :
    loadVQa o s.cur (loadEntry (.ldV o) o s) (began s) =
      readLines s.cur (portL s.cur) (loadEntry (.ldV o) o s) 4 (rowsLines l) (l.flatMap (·.2)) u fun t m =>
        .done (t.modCtx s.cur fun x => pushQa (qaOf (loadEntry (.ldV o) o s) x m l) x) := by
  rw [loadVQa, withSlot_of_free hslot rfl, memAddr_eq, rowAligned_of_ok hal, began_ctx, latchRows_eq, h]
  rfl

theorem loadVQb_began (hal : rowsAligned ((loadEntry (.ldV o) o s).a.toInt + o.off.toInt) (loadEntry (.ldV o) o s))
    (hslot : slotFree s true)
    (h : rowParts s.cur (16 * tyWidth o.ty) (rowsOf o (loadEntry (.ldV o) o s) (handed s) (qbK (o.vi.toNat % 4)))
      (began s) = (u, .ok l)) :
    loadVQb o s.cur (loadEntry (.ldV o) o s) (began s) =
      readLines s.cur (portL s.cur) (loadEntry (.ldV o) o s) 4 (rowsLines l) (l.flatMap (·.2)) u fun t m =>
        .done (t.modCtx s.cur fun x =>
          pushQb (qbOf (loadEntry (.ldV o) o s) x m (qbK (o.vi.toNat % 4)) (tyWidth o.ty) l) x) := by
  have hk : (o.vi.extractLsb' 0 2).toNat = o.vi.toNat % 4 := toNat_extract_low ..
  rw [loadVQb]
  dsimp only
  rw [withSlot_of_free hslot rfl, memAddr_eq, rowAligned_of_ok hal, began_ctx, latchRows_eq, hk, h]
  rfl

theorem performGatA_began (hal : rowsAligned (loadEntry (.gatA o) o s).a.toInt (loadEntry (.gatA o) o s))
    (hslot : slotFree s false)
    (h : gatherKeys s.cur (gatherRows o (loadEntry (.gatA o) o s) (handed s)) (began s) = .ok l) :
    performGatA o s.cur (loadEntry (.gatA o) o s) (began s) =
      readLines s.cur 5 (loadEntry (.gatA o) o s) 4 (rowsLines l) (l.flatMap (·.2)) (began s) fun t m =>
        .done (t.modCtx s.cur fun x => pushQa (qaOf (loadEntry (.gatA o) o s) x m l) x) := by
  have hal' := rowAligned_of_ok hal
  rw [word_toInt] at hal'
  rw [performGatA, withSlot_of_free hslot rfl, hal', began_ctx, gatherRow_eq]
  dsimp only
  rw [h]
  rfl

theorem performLdV_qa (h : vop o.v = .qa) (c : CtxId) (e : QEntry) (s : State) :
    performLdV o c e s = loadVQa o c e s := by rw [performLdV, h]

theorem performLdV_qb (h : vop o.v = .qb) (c : CtxId) (e : QEntry) (s : State) :
    performLdV o c e s = loadVQb o c e s := by rw [performLdV, h]

/-- Rows of B that are legal fit the pitch of their K (spec/06 R115, R118). -/
theorem qbRow_fits (hcheck : checkInstr (.ldV o) = none) (hv : vop o.v = .qb) :
    16 * tyWidth o.ty ≤ 8192 / qbK (o.vi.toNat % 4) := by
  have hqb : checkLdVQb o = none := by
    have h : checkLdV o = none := hcheck
    rwa [checkLdV, hv] at h
  have hk : (o.vi.extractLsb' 0 2).toNat = o.vi.toNat % 4 := toNat_extract_low ..
  obtain ⟨-, hrest⟩ := allOf_cons_eq_none hqb
  obtain ⟨-, hrest⟩ := allOf_cons_eq_none hrest
  have hle := of_decide_eq_true (need_eq_none (allOf_cons_eq_none hrest).1)
  rw [hk] at hle
  omega

end rows

/-! ## Scalars and scales -/

theorem memNat_putBytes_ones (m : List Host.Cell) (k n : Nat) :
    memNat (memPutBytes m k (List.replicate n 255)) k n = 256 ^ n - 1 := by
  induction n generalizing m k with
  | zero => rfl
  | succ n ih =>
    have hbyte : memRead (memWrite m k 255) k = 255 := by
      rw [memWrite, if_neg (by decide)]
      exact memRead_put_same m k 255
    have hpos : 0 < 256 ^ n := by positivity
    rw [List.replicate_succ, memPutBytes, memNat, memRead_putBytes_other _ _ _ (.inl (Nat.lt_succ_self k)), hbyte, ih,
      pow_succ]
    show 255 + 256 * (256 ^ n - 1) = _
    omega

/-- One access as a load finds it: all ones when it was a lost read of the outbound window (spec/21 R395). -/
theorem memNat_lostView (s : State) (n k : Nat) : memNat (lostView s [⟨0, n, k⟩]) k n =
    if s.lostRead && isHost k then 256 ^ n - 1 else memNat s.mem k n := by
  cases hl : s.lostRead with
  | false => rw [lostView_of_none hl]; rfl
  | true =>
    cases hk : isHost k with
    | false => simp [lostView, hl, hk]
    | true => simpa [lostView, hl, hk] using memNat_putBytes_ones s.mem k n

theorem scalarValue_eq (t : Ty) (n : Nat) : scalarValue t n = scalarOf t n := by
  unfold scalarValue scalarOf
  split
  · rfl
  · exact (BitVec.ofInt_natCast ..).symm

theorem performLds_began {s u : State} {o : MM} {e : QEntry} {k : Nat}
    (h : xlateList s.cur .load (scalarLen o.ty) [(0, word (e.a.toInt + o.off.toInt))] (began s) = (u, .ok [(0, k)])) :
    performLds o s.cur e (began s) = readLines s.cur (portL s.cur) e (max 4 (scalarLen o.ty)) [k]
      [⟨0, scalarLen o.ty, k⟩] u fun t m =>
        .done (t.modCtx s.cur (writeS (o.v.setWidth 5) (scalarOf o.ty (memNat m k (scalarLen o.ty))))) := by
  have hlist : xlateList s.cur .load (scalarBytes o.ty) [(0, memAddr o e)] (began s) = (u, .ok [(0, k)]) := by
    rw [memAddr_eq]
    exact h
  rw [performLds, hlist]
  simp only [withGot, extract_low_eq_setWidth, scalarValue_eq]
  rfl

/-- The scales that `ld.qsc` reads, in their staging buffer; what the L stream found there is kept for a discard. -/
def stageScales (e : QEntry) (qb : Bool) (ps : List Part) (m : List Host.Cell) (x : Ctx) : Ctx :=
  { keepL e.epoch x with stage := setStage qb (readParts m ps) (keepL e.epoch x).stage }

theorem keepL_stage (e : Nat) (x : Ctx) : (keepL e x).stage = x.stage := by rw [keepL, modRegion_eq]

theorem keepL_tok (e : Nat) (x : Ctx) : (keepL e x).tok = x.tok := by rw [keepL, modRegion_eq]

theorem performLdQsc_began {s u : State} {o : MM} {e : QEntry} {n : Nat} {ps : List Part}
    (hn : n = if vop o.v == .qb then 512 else 256) (hal : (word (e.a.toInt + o.off.toInt)).toNat % 64 = 0)
    (h : spanParts s.cur .load (word (e.a.toInt + o.off.toInt)) n allUsed (began s) = (u, .ok ps)) :
    performLdQsc o s.cur e (began s) = readLines s.cur (portL s.cur) e 4 (partLines ps) ps u fun t m =>
      .done (t.modCtx s.cur (stageScales e (vop o.v == .qb) ps m)) := by
  rw [performLdQsc, memAddr_eq, if_neg (not_not.2 hal), ← hn, h]
  rfl

/-- A byte of scales that fill a staging buffer. -/
theorem WholeSpan.extract_byte {n wd : Nat} {ps : List Part} (h : WholeSpan n ps) (hwd : 8 * n ≤ wd)
    (m : List Host.Cell) {b : Nat} (hb : b < n) :
    (BitVec.ofNat wd (readParts m ps)).extractLsb' (8 * b) 8 = memRead m (partKey ps b) := by
  have hlt := (h.parts.readParts_lt (m := m)).trans_le (Nat.pow_le_pow_right Nat.two_pos hwd)
  rw [← h.byte m hb]
  refine BitVec.eq_of_toNat_eq ?_
  rw [BitVec.extractLsb'_toNat, BitVec.toNat_ofNat, BitVec.toNat_ofNat, Nat.mod_eq_of_lt hlt,
    Nat.shiftRight_eq_div_pow]

/-- The staging buffer of a latch after its scales were read, and the other one (spec/06 R117, R123). -/
theorem setStage_holds {n : Nat} {ps : List Part} (v : VOp) (hn : n = if v = .qb then 512 else 256)
    (h : WholeSpan n ps) (m : List Host.Cell) (g : Staging) :
    (∀ b, b < n → (if v = .qb then (setStage (v == .qb) (readParts m ps) g).b.extractLsb' (8 * b) 8
        else (setStage (v == .qb) (readParts m ps) g).a.extractLsb' (8 * b) 8) = memRead m (partKey ps b)) ∧
      (if v = .qb then (setStage (v == .qb) (readParts m ps) g).a = g.a
        else (setStage (v == .qb) (readParts m ps) g).b = g.b) := by
  by_cases hv : v = .qb
  · rw [if_pos hv] at hn
    have hq : (v == .qb) = true := beq_iff_eq.2 hv
    simp only [if_pos hv, hq, setStage, if_true, and_true]
    exact fun b hb => h.extract_byte (by omega) m hb
  · rw [if_neg hv] at hn
    have hq : (v == .qb) = false := beq_false_of_ne hv
    simp only [if_neg hv, hq, setStage, Bool.false_eq_true, if_false, and_true]
    exact fun b hb => h.extract_byte (by omega) m hb

/-- Settles O29: `issue_pushQa` and `issue_pushQb` for the rows of `ld.v` and `gat.a`, and `issue_load` for `lds` and
`ld.qsc`. -/
theorem latchAndScalarLoads : Obligations.LatchAndScalarLoads := by
  unfold Obligations.LatchAndScalarLoads
  refine ⟨?latch, ?scalar⟩
  case latch =>
    intro s o u l hfree hlost
    refine ⟨?direct, ?gather⟩
    case direct =>
      intro hcheck e x hal
      refine ⟨?qa, ?qb⟩
      case qa =>
        intro hv hslot hrows hgrant
        obtain ⟨hu, hl⟩ := rowParts_checked hrows
        have hl' : CheckedRows 64 64 l := ⟨hl.nodup, fun r hr => (hl.below r hr).trans_le o.vi.isLt, hl.whole⟩
        exact issue_pushQa hfree hlost rfl hu hl' hgrant
          ((performLdV_qa hv ..).trans (loadVQa_began hal hslot hrows))
      case qb =>
        intro hv hslot k w hrows hgrant
        obtain ⟨hu, hl⟩ := rowParts_checked hrows
        exact issue_pushQb hfree hlost rfl hu hl (qbRow_fits hcheck hv) hgrant
          ((performLdV_qb hv ..).trans (loadVQb_began hal hslot hrows))
    case gather =>
      intro _ hslot e x hal hrows hgrant
      obtain ⟨hkeys, hwhole⟩ := gatherKeys_ok hrows
      exact issue_pushQa hfree hlost rfl (.refl ..) (.of_numbers hkeys (gatherRows_numbers ..) hwhole) hgrant
        (performGatA_began hal hslot hrows)
  case scalar =>
    intro s o u hfree
    refine ⟨?word, ?scales⟩
    case word =>
      intro k e n _ hkey hgrant
      obtain ⟨hu, -⟩ := xlateList_ok hkey
      obtain ⟨t, y, hnext, hdone, hctx⟩ := issue_load
        (f := fun m => writeS (o.v.setWidth 5) (scalarOf o.ty (memNat m k n))) hfree (by simp) rfl hu hgrant
        (performLds_began hkey) fun _ _ => writeS_tok ..
      have hulost : u.lostRead = t.lostRead := by rw [hdone.lostRead hu, hu.state]; rfl
      rw [memNat_lostView, ← hulost] at hctx
      exact ⟨t, y, hnext, hdone, hctx⟩
    case scales =>
      intro ps e a n _ hal hlost hspan hgrant
      obtain ⟨hu, hwhole⟩ := spanParts_whole hspan
      have hn : n = if vop o.v == .qb then 512 else 256 := by simp only [n, beq_iff_eq]
      obtain ⟨t, y, hnext, hdone, hctx⟩ := issue_load (f := stageScales e (vop o.v == .qb) ps) hfree (by simp) rfl hu
        hgrant (performLdQsc_began hn hal hspan) fun _ x => keepL_tok e.epoch x
      rw [linesOfKeys_partLines] at hdone
      rw [lostView_of_none ((hdone.lostRead hu).trans hlost)] at hctx
      have hheld := setStage_holds (vop o.v) rfl hwhole t.mem (keepL e.epoch y).stage
      refine ⟨t, y, _, hnext, hdone, hctx, hheld.1, ?_⟩
      rw [← keepL_stage e.epoch y]
      exact hheld.2

end Sys2Proof.Machine

end

section
/-! PROOFS. Rounding to a grid (spec/07 R135). -/

namespace Sys2Proof.Machine

/-! ## The four modes -/

theorem roundAt_of_le (rm : Rm) (neg : Bool) (m : Nat) {e q : Int} (h : q ≤ e) :
    roundAt rm neg m e q = (m * 2 ^ (e - q).toNat, false) := if_pos h

theorem roundAt_of_lt (rm : Rm) (neg : Bool) (m : Nat) {e q : Int} (h : e < q) :
    roundAt rm neg m e q =
      (if roundsUp rm neg (m / 2 ^ (q - e).toNat) (m % 2 ^ (q - e).toNat) (q - e).toNat
        then m / 2 ^ (q - e).toNat + 1 else m / 2 ^ (q - e).toNat, m % 2 ^ (q - e).toNat != 0) :=
  if_neg (not_le.2 h)

/-- A quotient raised by one where something is dropped is the quotient rounded up. -/
theorem div_add_one_eq_ceil (m : Nat) {d : Nat} (hd : 0 < d) :
    (if m % d ≠ 0 then m / d + 1 else m / d) = (m + d - 1) / d := by
  have hm := Nat.div_add_mod m d
  have hlt := Nat.mod_lt m hd
  rw [eq_comm, Nat.div_eq_iff hd]
  split <;> simp only [Nat.add_mul, Nat.mul_comm (m / d), Nat.one_mul] <;> omega

/-- Rounding to nearest goes at most half a step, and on a tie to the even multiple. -/
theorem nearest_bounds (neg : Bool) (m s : Nat) :
    let d := 2 ^ s
    let k := if roundsUp .rne neg (m / d) (m % d) s then m / d + 1 else m / d
    2 * m ≤ 2 * d * k + d ∧ 2 * d * k ≤ 2 * m + d ∧
      (2 * m = 2 * d * k + d ∨ 2 * d * k = 2 * m + d → k % 2 = 0) := by
  intro d k
  have hm := Nat.div_add_mod m d
  have hlt : m % d < d := Nat.mod_lt m (by positivity)
  have hup : roundsUp .rne neg (m / d) (m % d) s = true ↔
      d < 2 * (m % d) ∨ 2 * (m % d) = d ∧ m / d % 2 = 1 := by simp [roundsUp, d]
  rw [Nat.mul_assoc]
  by_cases h : roundsUp .rne neg (m / d) (m % d) s = true
  · have hk : d * k = d * (m / d) + d := by simp only [k, if_pos h, Nat.mul_succ]
    have hpar : k % 2 = (m / d + 1) % 2 := by simp only [k, if_pos h]
    rw [hup] at h
    omega
  · have hk : d * k = d * (m / d) := by simp only [k, if_neg h]
    have hpar : k % 2 = m / d % 2 := by simp only [k, if_neg h]
    rw [hup] at h
    omega

/-- Settles O25: on the grid nothing is dropped; between, each mode by its rule in `roundsUp`. -/
theorem roundingModes : Obligations.RoundingModes := by
  unfold Obligations.RoundingModes
  refine fun rm neg m e q => ⟨roundAt_of_le rm neg m, fun hlt => ?_⟩
  simp only [roundAt_of_lt rm neg m hlt]
  set s := (q - e).toNat
  have hceil := div_add_one_eq_ceil m (d := 2 ^ s) (by positivity)
  refine ⟨Bool.eq_iff_iff.2 (by simp), ?_⟩
  cases rm with
  | rne => exact nearest_bounds neg m s
  | rtz => rfl
  | rdn =>
    rw [← hceil]
    cases neg <;> simp [roundsUp]
  | rup =>
    rw [← hceil]
    cases neg <;> simp [roundsUp]

end Sys2Proof.Machine
end

section
/-! PROOFS. Writes of the control and status registers (spec/12 R240, R241, spec/07 R134). -/

namespace Sys2Proof.Machine

open Laws.Front

/-! ## What a register keeps of a value -/

theorem setWidth_extract_low (n : Nat) (v : Word) :
    (v.extractLsb' 0 n).setWidth 64 = v &&& BitVec.ofNat 64 (2 ^ n - 1) := by
  refine BitVec.eq_of_getLsbD_eq fun i hi => ?_
  simp only [BitVec.getLsbD_setWidth, BitVec.getLsbD_extractLsb', BitVec.getLsbD_and, BitVec.getLsbD_ofNat,
    Nat.testBit_two_pow_sub_one, hi, Nat.zero_add, decide_true, Bool.true_and]
  exact Bool.and_comm ..

theorem getLsbD_fieldAt {w : Nat} (v : BitVec w) (k : Nat) {i : Nat} (hi : i < 64) :
    (fieldAt v k).getLsbD i = (decide (k ≤ i) && v.getLsbD (i - k)) := by
  by_cases h : i < k
  · simp [fieldAt, h]
  · simp [fieldAt, hi, h, not_lt.1 h]

theorem getLsbD_bitWord (b : Bool) (k : Nat) {i : Nat} (hi : i < 64) :
    (bitWord b k).getLsbD i = (b && decide (i = k)) := by
  have hbit : (1#64 <<< k).getLsbD i = decide (i = k) := Bool.eq_iff_iff.2 (by simp [hi]; omega)
  cases b
  · exact BitVec.getLsbD_zero
  · exact hbit.trans (Bool.true_and _).symm

/-- LEASE keeps a new value of lwait; its other fields are not written (spec/10 R195). -/
theorem lease_kept (old : Word32) (v : Word) (held : Bool) {used : Nat} (hused : used ≤ 64) :
    let k : Word := if held then BitVec.ofNat 64 used else 0
    fieldAt (v.extractLsb' 32 32) 32 ||| bitWord held 15 ||| k =
      (v &&& 0xFFFF_FFFF_0000_0000#64) ||| ((fieldAt old 32 ||| bitWord held 15 ||| k) &&& 0xFFFF_FFFF) := by
  intro k
  have hhigh : ∀ i : Fin 64, (0xFFFF_FFFF_0000_0000#64).getLsbD i = decide (32 ≤ i.val) := by decide
  have hlow : ∀ i : Fin 64, (0xFFFF_FFFF : Word).getLsbD i = decide (i.val < 32) := by decide
  refine BitVec.eq_of_getLsbD_eq fun i hi => ?_
  have hk : 32 ≤ i → k.getLsbD i = false := fun h => by
    have hlt : used < 2 ^ i := (show used < 2 ^ 32 by omega).trans_le (Nat.pow_le_pow_right Nat.two_pos h)
    unfold k
    split
    · rw [BitVec.getLsbD_ofNat, Nat.testBit_lt_two_pow hlt, Bool.and_false]
    · exact BitVec.getLsbD_zero
  simp only [BitVec.getLsbD_or, BitVec.getLsbD_and, getLsbD_fieldAt _ _ hi, getLsbD_bitWord _ _ hi,
    BitVec.getLsbD_extractLsb', hhigh ⟨i, hi⟩, hlow ⟨i, hi⟩]
  by_cases h : 32 ≤ i
  · simp [h, hk h, show i ≠ 15 by omega, show i - 32 < 32 by omega]
  · simp [h, not_le.1 h]

/-- PSAMP keeps its three fields (spec/12 R246). -/
theorem psamp_kept (v : Word) : psampWord ⟨v.extractLsb' 4 4, v.getLsbD 1, v.getLsbD 0⟩ = v &&& 0xF3 := by
  have hmask : ∀ i : Fin 64,
      (0xF3 : Word).getLsbD i = decide (i.val = 0 ∨ i.val = 1 ∨ 4 ≤ i.val ∧ i.val < 8) := by decide
  refine BitVec.eq_of_getLsbD_eq fun i hi => ?_
  simp only [psampWord, BitVec.getLsbD_or, BitVec.getLsbD_and, getLsbD_fieldAt _ _ hi, getLsbD_bitWord _ _ hi,
    BitVec.getLsbD_extractLsb', hmask ⟨i, hi⟩]
  rcases show i = 0 ∨ i = 1 ∨ (i = 2 ∨ i = 3) ∨ 4 ≤ i by omega with rfl | rfl | h | h
  · simp
  · simp
  · simp [show ¬ 4 ≤ i by omega, show i ≠ 0 by omega, show i ≠ 1 by omega]
  · simp [h, show i ≠ 0 by omega, show i ≠ 1 by omega, show i - 4 < 4 ↔ i < 8 by omega, Bool.and_comm]

/-- REGMAX acts and reads as 1,024 at least (spec/12 R245). -/
theorem regmax_kept (v : Word) : BitVec.ofNat 64 (max (v.extractLsb' 0 32).toNat 1024) =
    if (v &&& 0xFFFF_FFFF).toNat < 1024 then 1024 else v &&& 0xFFFF_FFFF := by
  rw [show v &&& 0xFFFF_FFFF = (v.extractLsb' 0 32).setWidth 64 from (setWidth_extract_low 32 v).symm,
    BitVec.toNat_setWidth_of_le (by decide)]
  split
  case isTrue h => rw [max_eq_right h.le]; rfl
  case isFalse h => rw [max_eq_left (not_lt.1 h), BitVec.ofNat_toNat]

/-- REPLAYMAX acts and reads as 1 at least (spec/12 R245). -/
theorem replaymax_kept (v : Word) :
    BitVec.ofNat 64 (if v.extractLsb' 0 3 = 0 then 1 else (v.extractLsb' 0 3).toNat) =
      if v &&& 0x7 = 0 then 1 else v &&& 0x7 := by
  have hzero : (v.extractLsb' 0 3).setWidth 64 = (0 : Word) ↔ v.extractLsb' 0 3 = 0 := by
    rw [BitVec.toNat_eq, BitVec.toNat_setWidth_of_le (by decide), BitVec.toNat_eq]
    rfl
  rw [show v &&& 0x7 = (v.extractLsb' 0 3).setWidth 64 from (setWidth_extract_low 3 v).symm]
  simp only [hzero]
  split
  · rfl
  · exact BitVec.ofNat_toNat ..

/-! ## Registers written and read -/

/-- What a write leaves in a register that may be written, other than FPC, which the C stream writes. -/
theorem csrRead_csrWrite_same {s : State} {c : CtxId} {r : Csr} {sys : Bool} (v : Word) (hr : csrAccess r sys = .rw)
    (hfpc : r ≠ .fpc) (hused : (s.core (coreOf c)).used ≤ 64) :
    csrRead (csrWrite c r v s) c r = csrKept r (csrRead s c r) v := by
  have hctx : (csrWrite c r v s).ctx c = { s.ctx c with
    trap := writeTrap r v (s.ctx c).trap, cnt := writeCnt r v (s.ctx c).cnt
    front := writeFront r v (s.ctx c).front } := State.modCtx_ctx_same ..
  have hcore : (csrWrite c r v s).core (coreOf c) = writeCore r v (s.core (coreOf c)) := State.modCore_core_same ..
  simp only [csrRead, leaseWord, hctx, hcore]
  cases r with
  | rvb => exact setWidth_extract_low 5 v
  | rpb => exact setWidth_extract_low 3 v
  | gtol => exact setWidth_extract_low 32 v
  | lease => exact lease_kept _ v _ hused
  | psamp => exact psamp_kept v
  | regmax => exact regmax_kept v
  | replaymax => exact replaymax_kept v
  | tvec | tcause | tpc | tval | tscr0 | tscr1 | bkstall | qstall | fillc => rfl
  | fpc => exact absurd rfl hfpc
  | _ => cases sys <;> cases hr

theorem writeTrap_eq (r : Csr) (v : Word) (t : TrapRegs) : writeTrap r v t = { t with
    tvec := if r = .tvec then addrField v else t.tvec, tcause := if r = .tcause then v &&& 15 else t.tcause
    tpc := if r = .tpc then addrField v else t.tpc, tval := if r = .tval then v else t.tval
    tscr0 := if r = .tscr0 then v else t.tscr0, tscr1 := if r = .tscr1 then v else t.tscr1 } := by
  cases r <;> rfl

theorem writeCnt_eq (r : Csr) (v : Word) (t : Counters) : writeCnt r v t = { t with
    lwait := if r = .lease then v.extractLsb' 32 32 else t.lwait
    bkstall := if r = .bkstall then v else t.bkstall, qstall := if r = .qstall then v else t.qstall } := by
  cases r <;> rfl

theorem writeFront_eq (r : Csr) (v : Word) (f : FrontCk) : writeFront r v f = { f with
    rvb := if r = .rvb then v.extractLsb' 0 5 else f.rvb, rpb := if r = .rpb then v.extractLsb' 0 3 else f.rpb
    gtol := if r = .gtol then v.extractLsb' 0 32 else f.gtol } := by
  cases r <;> rfl

theorem writeCore_eq (r : Csr) (v : Word) (k : Core) : writeCore r v k = { k with
    regmax := if r = .regmax then v.extractLsb' 0 32 else k.regmax
    replaymax := if r = .replaymax then v.extractLsb' 0 3 else k.replaymax
    fillc := if r = .fillc then v else k.fillc
    psamp := if r = .psamp then ⟨v.extractLsb' 4 4, v.getLsbD 1, v.getLsbD 0⟩ else k.psamp } := by
  cases r <;> rfl

/-- A write of one register leaves the others. -/
theorem csrRead_csrWrite_other {s : State} {c : CtxId} {r r' : Csr} (v : Word) (hne : r ≠ r') :
    csrRead (csrWrite c r v s) c r' = csrRead s c r' := by
  have hctx : (csrWrite c r v s).ctx c = { s.ctx c with
    trap := writeTrap r v (s.ctx c).trap, cnt := writeCnt r v (s.ctx c).cnt
    front := writeFront r v (s.ctx c).front } := State.modCtx_ctx_same ..
  have hcore : (csrWrite c r v s).core (coreOf c) = writeCore r v (s.core (coreOf c)) := State.modCore_core_same ..
  simp only [csrRead, leaseWord, timeOf, regMax, replayMax, hctx, hcore, writeTrap_eq, writeCnt_eq, writeFront_eq,
    writeCore_eq]
  cases r' with
  | tvec | tcause | tpc | tval | tscr0 | tscr1 | lease | bkstall | qstall | rvb | rpb | gtol | regmax | replaymax
  | fillc | psamp => simp only [if_neg hne]
  | _ => rfl

/-- Registers do not depend on the scalar registers, the program counter and the regions of the context. -/
theorem csrRead_modCtx {s : State} {c : CtxId} {f : Ctx → Ctx}
    (hf : ∀ x, f x = { x with
      regs := (f x).regs, pos := (f x).pos, reg := (f x).reg, older := (f x).older, epochs := (f x).epochs })
    (r : Csr) : csrRead (s.modCtx c f) c r = csrRead s c r := by
  have hctx : (s.modCtx c f).ctx c = _ := (State.modCtx_ctx_same s c f).trans (hf _)
  simp only [csrRead, leaseWord, timeOf, hctx]
  cases r <;> rfl

/-! ## A write by the front -/

section write

variable {s : State} {i : Instr} {o : SI} {f : Word → Word → Word} {r : Csr}

theorem exec_of_csrWrites (hi : csrWrites i = some (o, f)) : exec i s = csrWriteOp i o f s := by
  cases i with
  | csrw _ | csrs _ | csrc _ => cases hi; rfl
  | _ => cases hi

theorem csrNum_eq (o : SI) : csrNum o = o.imm.toNat % 4096 := toNat_extract_low o.imm 12

/-- The level lets a write of a register pass that it may write. -/
theorem levelCheck_of_csrWrites (hi : csrWrites i = some (o, f)) (hr : csrOf (o.imm.toNat % 4096) = some r)
    (hrw : csrAccess r s.me.id.sys = .rw) : levelCheck s.me.id.sys i = none := by
  have hlevel : levelCsr s.me.id.sys true o = none := by simp only [levelCsr, csrNum_eq, hr, hrw]
  cases i with
  | csrw _ | csrs _ | csrc _ => cases hi; exact hlevel
  | _ => cases hi

theorem csrNamed_eq (hr : csrOf (o.imm.toNat % 4096) = some r) : csrNamed o = r := by
  rw [csrNamed, csrNum_eq, hr, Option.getD_some]

/-- An instruction that may be executed, at a commit point with no older region. -/
theorem withLevel_commitPoint {k : Host.Outcome State Fault Refusal} (hlevel : levelCheck s.me.id.sys i = none)
    (holder : s.me.older = none) : withLevel i s (commitPoint s k) = k := by
  simp [withLevel, hlevel, commitPoint, holder]

/-- A commit point behind an instruction that writes a scalar register: the next region begins. -/
theorem openRegion_stepPc_writeS (how : Closing) (time : Word) (d : BitVec 5) (v : Word) (x : Ctx) :
    openRegion how time (stepPc (writeS d v x)) =
      ranAhead how time { x with regs := { x.regs with s := (writeS d v x).regs.s } } := by
  unfold writeS
  split <;> rfl

theorem csrWrite_cur (c : CtxId) (r : Csr) (v : Word) (s : State) : (csrWrite c r v s).cur = s.cur := rfl

theorem readS_writeS_self (d : BitVec 5) (v : Word) (x : Ctx) :
    readS (writeS d v x) d = if d = 0 then 0 else v := by
  split
  case isTrue h => rw [h, readS_zero]
  case isFalse h => exact readS_writeS_same d v x h

theorem exec_csrWrite (hi : csrWrites i = some (o, f)) (hr : csrOf (o.imm.toNat % 4096) = some r)
    (hrw : csrAccess r s.me.id.sys = .rw) (hfpc : r ≠ .fpc) (hfree : registersFree s [o.sa, o.sd])
    (holder : s.me.older = none) :
    let old := csrRead s s.cur r
    exec i s = .next ((csrWrite s.cur r (f old (readS s.me o.sa)) s).modCtx s.cur fun x =>
      openRegion .commit (timeOf s s.cur) (stepPc (writeS o.sd old x))) := by
  intro old
  rw [exec_of_csrWrites hi, csrWriteOp, withLevel_commitPoint (levelCheck_of_csrWrites hi hr hrw) holder,
    csrNamed_eq hr]
  have hsa := busyS_of_free hfree (r := o.sa) (by simp)
  have hsd := busyS_of_free hfree (r := o.sd) (by simp)
  simp only [hsa, hsd, hfpc, Bool.or_self, Bool.false_eq_true, if_false]
  have htime : timeOf ((csrWrite s.cur r (f old (readS s.me o.sa)) s).modCtx s.cur fun x =>
      stepPc (writeS o.sd old x)) s.cur = timeOf s s.cur := by
    refine timeOf_congr rfl ?_
    rw [State.modCtx_ctx_same, stepPc_cnt, writeS_cnt, csrWrite, State.modCtx_ctx_same, writeCnt_eq]
    rfl
  rw [commitOpen, State.modCtx_cur, csrWrite_cur, htime, State.modCtx, State.modCtx_ctx_same, State.modCtx,
    State.setCtx_setCtx]
  rfl

/-- What the part is after a write by the front (spec/12 R240). -/
theorem csrWrites_front (hi : csrWrites i = some (o, f)) (hr : csrOf (o.imm.toNat % 4096) = some r)
    (hrw : csrAccess r s.me.id.sys = .rw) (hfpc : r ≠ .fpc) (hfree : registersFree s [o.sa, o.sd])
    (holder : s.me.older = none) (hused : (s.core (coreOf s.cur)).used ≤ 64) :
    let old := csrRead s s.cur r
    ∃ t, exec i s = .next t ∧
      csrRead t s.cur r = csrKept r old (f old (readS s.me o.sa)) ∧
      (∀ r', r' ≠ r → csrRead t s.cur r' = csrRead s s.cur r') ∧
      readS t.me o.sd = (if o.sd = 0 then 0 else old) ∧ scalarsSame s.me t.me o.sd ∧
      (t.me = ranAhead .commit (timeOf s s.cur)
        { s.me with trap := t.me.trap, cnt := t.me.cnt, front := t.me.front
                    regs := { s.me.regs with s := t.me.regs.s } }) ∧
      (∀ c, c ≠ s.cur → t.ctx c = s.ctx c) ∧ (∀ k, k ≠ coreOf s.cur → t.core k = s.core k) ∧
      (t.core (coreOf s.cur) = { s.core (coreOf s.cur) with
        regmax := (t.core (coreOf s.cur)).regmax, replaymax := (t.core (coreOf s.cur)).replaymax
        fillc := (t.core (coreOf s.cur)).fillc, psamp := (t.core (coreOf s.cur)).psamp }) ∧
      t = { s with ctxs := t.ctxs, cores := t.cores } := by
  intro old
  have hstep : ∀ x : Ctx, ∀ how time, let y := openRegion how time (stepPc (writeS o.sd old x))
      y = { x with regs := y.regs, pos := y.pos, reg := y.reg, older := y.older, epochs := y.epochs } := by
    intro x how time y
    unfold y
    rw [openRegion_stepPc_writeS]
    rfl
  set v := f old (readS s.me o.sa)
  set t := (csrWrite s.cur r v s).modCtx s.cur fun x =>
    openRegion .commit (timeOf s s.cur) (stepPc (writeS o.sd old x))
  have hme : t.me = openRegion .commit (timeOf s s.cur) (stepPc (writeS o.sd old { s.me with
      trap := writeTrap r v s.me.trap, cnt := writeCnt r v s.me.cnt, front := writeFront r v s.me.front })) := by
    refine (State.modCtx_ctx_same ..).trans (congrArg (fun x => openRegion _ _ (stepPc (writeS _ _ x))) ?_)
    exact State.modCtx_ctx_same ..
  rw [openRegion_stepPc_writeS] at hme
  have hregs : ∀ d, readS t.me d = readS (writeS o.sd old s.me) d := by
    intro d
    rw [hme]
    unfold writeS
    split <;> rfl
  have hcore : t.core (coreOf s.cur) = writeCore r v (s.core (coreOf s.cur)) := State.modCore_core_same ..
  refine ⟨t, exec_csrWrite hi hr hrw hfpc hfree holder, ?same, ?others, ?sd, ?scalars, ?me, ?ctxs, ?cores, ?core,
    rfl⟩
  case same => exact (csrRead_modCtx (fun x => hstep x _ _) r).trans (csrRead_csrWrite_same _ hrw hfpc hused)
  case others =>
    exact fun r' hne => (csrRead_modCtx (fun x => hstep x _ _) r').trans (csrRead_csrWrite_other _ hne.symm)
  case sd => rw [hregs, readS_writeS_self]
  case scalars => exact fun d hne => (hregs d).trans (readS_writeS_other _ _ _ _ hne)
  case me =>
    rw [hme]
    rfl
  case ctxs =>
    exact fun c hne => (State.modCtx_ctx_other _ _ _ _ hne).trans (State.modCtx_ctx_other _ _ _ _ hne)
  case cores => exact fun k hne => State.modCore_core_other _ _ _ _ hne
  case core =>
    rw [hcore, writeCore_eq]

end write

/-! ## A write of FPC in the C stream (spec/07 R134) -/

theorem fpcMarked_eq {i : Instr} {o : SI} {f : Word → Word → Word} (hi : csrWrites i = some (o, f)) (old : BitVec 7)
    (v : Word) : fpcMarked i old v = (f (old.setWidth 64) v).setWidth 7 := by
  cases i with
  | csrw _ => cases hi; exact extract_low_eq_setWidth v
  | csrs _ =>
    cases hi
    rw [fpcMarked, extract_low_eq_setWidth, BitVec.setWidth_or]
    simp
  | csrc _ =>
    cases hi
    rw [fpcMarked, extract_low_eq_setWidth, BitVec.setWidth_and]
    simp
  | _ => cases hi

/-- The C stream's entry into the only outstanding region is kept with it (spec/13 R256). -/
theorem setFpc_open {x : Ctx} (ho : x.older = none) (v : BitVec 7) : setFpc x.reg.epoch v x =
    { x with fpc := v, reg := { x.reg with cIn := some (x.reg.cIn.getD ⟨x.fpc, x.mat.steps⟩) } } := by
  rw [setFpc, keepC, modRegion_open ho]
  cases h : x.reg.cIn with
  | none => simp [entryC]
  | some k =>
    have hk : some ((some k).getD ⟨x.fpc, x.mat.steps⟩) = x.reg.cIn := h.symm
    rw [hk]

section fpc

variable {s : State} {i : Instr} {o : SI} {f : Word → Word → Word}

/-- The context after the marker of an FPC write has passed the C stream. -/
def fpcPassed (s : State) (v : BitVec 7) : Ctx :=
  { handed s with
    fpc := v, sinceDeq := s.me.sinceDeq.set 1 0
    reg := { (handed s).reg with cIn := some (s.me.reg.cIn.getD ⟨s.me.fpc, s.me.mat.steps⟩) } }

theorem issue_performFpc (hi : csrWrites i = some (o, f)) (holder : s.me.older = none)
    (hfree : streamFree s .c Tok.none [o.sa, o.sd]) : issue .c i Tok.none o.sa 0 0 performFpc s =
      .next (s.setCtx s.cur (fpcPassed s (fpcMarked i s.me.fpc (readS s.me o.sa)))) := by
  have hmat : isMat i = false := by
    cases i with
    | csrw _ | csrs _ | csrc _ => rfl
    | _ => cases hi
  have hset : setFpc s.me.reg.epoch (fpcMarked i s.me.fpc (readS s.me o.sa)) (handed s) = _ :=
    setFpc_open (x := handed s) holder _
  refine (issue_done (y := setFpc s.me.reg.epoch (fpcMarked i s.me.fpc (readS s.me o.sa)) (handed s)) hfree (by simp)
    hmat ?perf ?ch).trans ?result
  case perf => exact congrArg Perform.done (State.setCtx_modCtx ..)
  case ch => rw [hset]; rfl
  case result => rw [hset]; rfl

theorem exec_fpcWrite (hi : csrWrites i = some (o, f)) (himm : o.imm.toNat % 4096 = 0) (holder : s.me.older = none)
    (hfree : streamFree s .c Tok.none [o.sa, o.sd]) (hidle : o.sd ≠ 0 → cIdle s s.cur = true) :
    exec i s = .next (s.setCtx s.cur (openRegion .commit (timeOf s s.cur)
      (writeS o.sd (s.me.fpc.setWidth 64) (fpcPassed s (fpcMarked i s.me.fpc (readS s.me o.sa)))))) := by
  have hr : csrOf (o.imm.toNat % 4096) = some .fpc := by rw [himm]; rfl
  have hissue := issue_performFpc hi holder hfree
  obtain ⟨-, -, -, hregs, -⟩ := hfree
  have hsa := busyS_of_free hregs (r := o.sa) (by simp)
  have hsd := busyS_of_free hregs (r := o.sd) (by simp)
  have hwait : ¬ (o.sd ≠ 0 ∧ (!cIdle s s.cur) = true) := by simpa using hidle
  rw [exec_of_csrWrites hi, csrWriteOp, withLevel_commitPoint (levelCheck_of_csrWrites hi hr rfl) holder,
    csrNamed_eq hr]
  simp only [hsa, hsd, hwait, hissue, Bool.or_self, Bool.false_eq_true, if_false, if_true]
  set t := s.setCtx s.cur (fpcPassed s (fpcMarked i s.me.fpc (readS s.me o.sa)))
  have hme : t.me = fpcPassed s (fpcMarked i s.me.fpc (readS s.me o.sa)) := State.setCtx_ctx_same ..
  have hpos : t.me.pos ≠ s.me.pos := by
    rw [hme]
    exact Nat.succ_ne_self _
  rw [if_neg hpos]
  have htime : timeOf (t.modCtx s.cur (writeS o.sd (s.me.fpc.setWidth 64))) s.cur = timeOf s s.cur := by
    refine timeOf_congr rfl ?_
    rw [State.modCtx_ctx_same, writeS_cnt, show t.ctx s.cur = _ from hme]
    rfl
  rw [commitOpen, State.modCtx_cur, show t.cur = s.cur from rfl]
  simp only [csrRead]
  rw [show s.ctx s.cur = s.me from rfl, htime, State.setCtx_modCtx, State.setCtx_modCtx]

/-- What the part is after a write of FPC (spec/07 R134). -/
theorem csrWrites_fpc (hi : csrWrites i = some (o, f)) (himm : o.imm.toNat % 4096 = 0) (holder : s.me.older = none)
    (hfree : streamFree s .c Tok.none [o.sa, o.sd]) (hidle : o.sd ≠ 0 → cIdle s s.cur = true) :
    let a := readS s.me o.sa
    let r := s.me.reg
    ∃ t, exec i s = .next t ∧
      t.me.fpc.toNat = (f (s.me.fpc.setWidth 64) a).toNat % 128 ∧
      readS t.me o.sd = (if o.sd = 0 then 0 else s.me.fpc.setWidth 64) ∧ scalarsSame s.me t.me o.sd ∧
      onlyMe s t ∧
      t.me = ranAhead .commit (timeOf s s.cur)
        { s.me with
          fpc := t.me.fpc, regs := { s.me.regs with s := t.me.regs.s }, acting := r.epoch
          sinceDeq := s.me.sinceDeq.set 1 0
          reg := { r with cIn := some (r.cIn.getD ⟨s.me.fpc, s.me.mat.steps⟩) } } := by
  intro a r
  set old : Word := s.me.fpc.setWidth 64
  set v := fpcMarked i s.me.fpc a
  set t := s.setCtx s.cur (openRegion .commit (timeOf s s.cur) (writeS o.sd old (fpcPassed s v)))
  have hme : t.me = openRegion .commit (timeOf s s.cur) (writeS o.sd old (fpcPassed s v)) := State.setCtx_ctx_same ..
  have hfpc : t.me.fpc = v := by rw [hme]; exact writeS_fpc ..
  have hregs : ∀ d, readS t.me d = readS (writeS o.sd old (fpcPassed s v)) d := fun d => by rw [hme]; rfl
  refine ⟨t, exec_fpcWrite hi himm holder hfree hidle, ?fpc, ?sd, ?scalars, ?frame, ?me⟩
  case fpc => rw [hfpc, show v = _ from fpcMarked_eq hi .., BitVec.toNat_setWidth]
  case sd => rw [hregs, readS_writeS_self]
  case scalars => exact fun d hne => (hregs d).trans (readS_writeS_other _ _ _ _ hne)
  case frame => rw [onlyMe, hme]; rfl
  case me =>
    rw [hfpc, hme]
    unfold writeS
    split <;> rfl

end fpc

/-- Settles O16: `csrWrites_front` for the registers that the front writes, and `csrWrites_fpc` for FPC. -/
theorem csrWrites_takeEffect : Obligations.CsrWrites := by
  unfold Obligations.CsrWrites
  exact ⟨fun s i o f r hi hr hrw hfpc hfree holder hused => csrWrites_front hi hr hrw hfpc hfree holder hused,
    fun s i o f hi himm holder hfree hidle => csrWrites_fpc hi himm holder hfree hidle⟩

end Sys2Proof.Machine
end

section
/-! PROOFS. Floating instructions of the C stream: their results under the mode of FPC and the flags that they raise
(spec/07 R133, R134, spec/09 R170 to R176). -/

namespace Sys2Proof.Machine

/-! ## Flags -/

theorem FFlags.bits_lt (f : FFlags) : f.bits < 128 := by
  obtain ⟨nv, dz, ovf, unf, nx⟩ := f
  revert nv dz ovf unf nx
  decide

/-- The flags of a list joined to given ones. -/
theorem foldl_or_flags (l : List FFlags) (a : FFlags) : l.foldl FFlags.or a =
    ⟨a.nv || l.any (·.nv), a.dz || l.any (·.dz), a.ovf || l.any (·.ovf), a.unf || l.any (·.unf),
      a.nx || l.any (·.nx)⟩ := by
  induction l generalizing a with
  | nil => simp
  | cons f l ih => simp [ih, FFlags.or, Bool.or_assoc]

theorem orFlags_bits (l : List FFlags) : (orFlags l).bits = raisedBits l := by
  simp only [orFlags, foldl_or_flags, FFlags.none, Bool.false_or, FFlags.bits, raisedBits]
  simp only [Bool.toNat, Bool.cond_eq_ite, ite_mul, Nat.one_mul, Nat.zero_mul]

/-- The flags that the elements below n raise. -/
theorem flagsBelow_bits (n : Nat) (p : PReg) (f : Nat → Nat × FFlags) :
    (flagsBelow n p f).bits = raisedBy n p f := orFlags_bits _

/-- A context has come from another by writes of FPC in the C stream and what a discard needs for them. -/
def FpcMoved (y x : Ctx) : Prop :=
  y = { x with fpc := y.fpc, older := y.older, reg := y.reg } ∧ y.reg = { x.reg with cIn := y.reg.cIn } ∧
    (y.older.map fun r => { r with cIn := none }) = (x.older.map fun r => { r with cIn := none })

theorem FpcMoved.refl (x : Ctx) : FpcMoved x x := ⟨rfl, rfl, rfl⟩

theorem FpcMoved.trans {x y z : Ctx} (hz : FpcMoved z y) (hy : FpcMoved y x) : FpcMoved z x := by
  obtain ⟨hz, hzr, hzo⟩ := hz
  obtain ⟨hy, hyr, hyo⟩ := hy
  refine ⟨?_, ?_, hzo.trans hyo⟩
  · rw [hz, hy]
  · rw [hzr, hyr]

theorem FpcMoved.tok {x y : Ctx} (h : FpcMoved y x) : y.tok = x.tok := by rw [h.1]

theorem fpcMoved_modRegion (e : Nat) {f : Region → Region} (hf : ∀ r, f r = { r with cIn := (f r).cIn }) (x : Ctx) :
    FpcMoved (modRegion e f x) x := by
  unfold modRegion
  split
  case h_1 r ho =>
    split
    case isTrue => exact ⟨rfl, rfl, by rw [ho, Option.map_some, Option.map_some, hf r]⟩
    case isFalse =>
      split
      · exact ⟨rfl, hf _, rfl⟩
      · exact .refl x
  case h_2 =>
    split
    · exact ⟨rfl, hf _, rfl⟩
    · exact .refl x

theorem fpcMoved_setFpc (e : Nat) (v : BitVec 7) (x : Ctx) : FpcMoved (setFpc e v x) x := by
  have hkeep : FpcMoved (keepC e x) x := fpcMoved_modRegion e (fun r => by split <;> rfl) x
  exact .trans ⟨rfl, rfl, rfl⟩ hkeep

theorem fpcMoved_flagsBefore (e : Nat) (b : BitVec 7) (x : Ctx) : FpcMoved (flagsBefore e b x) x := by
  unfold flagsBefore
  split
  · exact fpcMoved_modRegion _ (fun _ => rfl) x
  · exact .refl x

theorem flagsBefore_fpc (e : Nat) (b : BitVec 7) (x : Ctx) : (flagsBefore e b x).fpc = x.fpc := by
  unfold flagsBefore
  split
  · rw [modRegion_eq]
  · rfl

/-- Flags raised stay with those that FPC held (spec/07 R133). -/
theorem flagged_raiseFlags (e : Nat) (f : FFlags) (x : Ctx) : flagged (raiseFlags e f x) x f.bits := by
  unfold raiseFlags
  split
  case isTrue h =>
    rw [h]
    exact ⟨(Nat.or_zero _).symm, FpcMoved.refl x⟩
  case isFalse =>
    refine ⟨?_, (fpcMoved_flagsBefore ..).trans (fpcMoved_setFpc ..)⟩
    rw [flagsBefore_fpc, setFpc, BitVec.toNat_or, BitVec.toNat_ofNat, Nat.mod_eq_of_lt f.bits_lt]

theorem raiseFlags_tok (e : Nat) (f : FFlags) (x : Ctx) : (raiseFlags e f x).tok = x.tok :=
  FpcMoved.tok (flagged_raiseFlags e f x).2

theorem fpcRm_eq (x : Ctx) : fpcRm x = modeOf x := congrArg rmOf (toNat_extract_low x.fpc 2)

/-! ## Elements that a result exceeds -/

theorem elem_underMask_mod {w j : Nat} (hj : j < 4096 / w) (p : PReg) (old : VReg) (f : Nat → Nat) :
    elem w j (underMask w p old f) = masked w old (p.getLsbD j) j (f j % 2 ^ w) := by
  rw [underMask, elem_buildV hj, masked, bitP]
  split
  · rfl
  · exact Nat.mod_eq_of_lt (elem_lt ..)

theorem elem_widenReg_mod {w q : Nat} (hq : q < 4096 / w) (k r : Nat) (p : PReg) (old : VReg) (f : Nat → Nat) :
    elem w q (widenReg w k r p old f) = widened w k old (fun j => p.getLsbD j) r q (f (k * q + r) % 2 ^ w) := by
  rw [widenReg, elem_buildV hq, widened, bitP]
  split
  · rfl
  · exact Nat.mod_eq_of_lt (elem_lt ..)

/-! ## Instructions that raise flags -/

section raising

variable {s : State} {i : Instr} {tok : Tok} {perf : CtxId → QEntry → State → Perform}

/-- An instruction of the C stream that finds its sources, and room for its result, completes with what it writes and
the flags that it raises. -/
theorem issue_raising {srcs : List (BitVec 6)} {dst : Option (BitVec 6)} {fl : List VReg → Ctx → FFlags}
    {g : List VReg → Ctx → Ctx} {vs : List VReg} {x : Ctx} (hfree : streamFree s .c tok []) (hmat : isMat i = false)
    (hexec : exec i s = issue .c i tok 0 0 0 perf s)
    (hperf : perf s.cur (capture .c i 0 0 0 s.me) (began s) =
      computeOp srcs dst (fun vs x => raiseFlags s.me.reg.epoch (fl vs x) (g vs x)) s.cur (capture .c i 0 0 0 s.me)
        (began s))
    (htake : takeSrcs (capture .c i 0 0 0 s.me) srcs (handed s) = .ok vs x) (hroom : dst.all (dstRoom · x) = true)
    (hg : (g vs x).tok = x.tok) :
    ∃ t y, exec i s = .next t ∧ ranC s t tok y ∧ flagged y (g vs x) (fl vs x).bits :=
  ⟨_, _, hexec.trans (issue_computeOp hfree (.inl rfl) hmat hperf htake hroom ((raiseFlags_tok ..).trans hg)), rfl,
    flagged_raiseFlags ..⟩

/-- A floating instruction completes with the values of its row when its operation forms them element by element. -/
theorem floatCompletes_of_floatOp {r : FloatRow} (hmat : isMat i = false)
    (hexec : exec i s = issue .c i r.o.tok 0 0 0 perf s)
    (hperf : ∀ c e u, perf c e u = floatOp r.srcs r.o.vd r.o.pred (fun rm vs p old =>
      let w := tyWidth r.o.ty
      floatMask w p old fun j => r.f rm (at_ w vs 0 j) (at_ w vs 1 j) (at_ w vs 2 j)) c e u) :
    floatCompletes s i r := by
  intro vs x _ hfree e htake hroom w p f
  obtain ⟨t, y, hnext, hran, hflag⟩ := issue_raising hfree hmat hexec (hperf _ _ _) htake hroom (putDst_tok ..)
  rw [fpcRm_eq] at hflag
  refine ⟨t, underMask w p (dstOld e r.o.vd x) fun j => (f j).1, y, hnext, hran, ?_, fun j hj =>
    elem_underMask_mod hj ..⟩
  rw [← flagsBelow_bits]
  exact hflag

theorem floatCompletes_of_floatRow {r : FloatRow} (s : State) (hi : floatRow i = some r) : floatCompletes s i r := by
  cases i with
  | vfadd _ | vfsub _ | vfmul _ | vfma _ | vfnma _ | vfmin _ | vfmax _ | vfabs _ | vfneg _ | vfclass _ | vfrcp _
  | vfrsq _ | vfsqrt _ | vfexp2 _ | vflog2 _ | vftanh _ | vfsig _ | vcvt _ =>
    cases hi
    exact floatCompletes_of_floatOp rfl rfl fun _ _ _ => rfl
  | _ => cases hi

end raising

/-! ## Conversions between widths -/

/-- `vnarrow` completes with its elements converted. -/
theorem narrowCompletes_all (s : State) (o : VX) : narrowCompletes s o := by
  intro _ hfree hroom e x w k p f
  have hexec : exec (.vnarrow o) s = issue .c (.vnarrow o) o.tok 0 0 0 (performVnarrow o) s := rfl
  have hroom' : (some o.vd).all (dstRoom · x) = true := hroom
  obtain ⟨t, y, hnext, hran, hflag⟩ := issue_raising (srcs := []) (fl := fun _ _ => _)
    (g := fun _ x => putDst e o.vd _ x) hfree rfl hexec rfl rfl hroom' (putDst_tok ..)
  rw [fpcRm_eq] at hflag
  refine ⟨t, underMask w p (dstOld e o.vd x) fun j => (f j).1, y, hnext, hran, ?_, fun j hj =>
    elem_underMask_mod hj ..⟩
  rw [← flagsBelow_bits]
  exact hflag

/-- `vwiden` completes with its elements converted. -/
theorem widenCompletes_all (s : State) (o : VX) : widenCompletes s o := by
  intro vs x _ hfree e htake w k p f
  have hexec : exec (.vwiden o) s = issue .c (.vwiden o) o.tok 0 0 0 (performVwiden o) s := rfl
  obtain ⟨t, y, hnext, hran, hflag⟩ := issue_raising hfree rfl hexec rfl htake rfl (writeGroup_tok ..)
  rw [fpcRm_eq] at hflag
  refine ⟨t, fun n => widenReg w k n p (oldGroup e o.vd x n) fun j => (f j).1, y, hnext, hran, ?_,
    fun n q _ hq => elem_widenReg_mod hq ..⟩
  rw [← flagsBelow_bits]
  exact hflag

end Sys2Proof.Machine
end

section
/-! PROOFS. The exact values of codes and of rounded results (spec/07 R130, R131, R135 to R137). -/

namespace Sys2Proof.Machine

/-! ## Dyadic values -/

/-- The magnitude m x 2^e. -/
def dyadic (m : Nat) (e : Int) : ℚ := m * 2 ^ e

/-- The value of a sign and a magnitude. -/
def signed (neg : Bool) (x : ℚ) : ℚ := if neg then -x else x

theorem two_zpow_pos (e : Int) : (0 : ℚ) < 2 ^ e := zpow_pos two_pos e

theorem dyadic_nonneg (m : Nat) (e : Int) : 0 ≤ dyadic m e := mul_nonneg (Nat.cast_nonneg m) (two_zpow_pos e).le

/-- A magnitude at a lower exponent. -/
theorem dyadic_shift (m : Nat) {q e : Int} (h : q ≤ e) : dyadic (m * 2 ^ (e - q).toNat) q = dyadic m e := by
  have hexp : (2 : ℚ) ^ e = 2 ^ (e - q).toNat * 2 ^ q := by
    rw [← zpow_natCast, Int.toNat_of_nonneg (by omega), ← zpow_add₀ two_ne_zero, Int.sub_add_cancel]
  rw [dyadic, dyadic, hexp]
  push_cast
  ring

theorem dyadic_le_dyadic {m n : Nat} {e : Int} : dyadic m e ≤ dyadic n e ↔ m ≤ n := by
  rw [dyadic, dyadic, mul_le_mul_iff_left₀ (two_zpow_pos e), Nat.cast_le]

theorem dyadic_lt_dyadic {m n : Nat} {e : Int} : dyadic m e < dyadic n e ↔ m < n := by
  rw [dyadic, dyadic, mul_lt_mul_iff_left₀ (two_zpow_pos e), Nat.cast_lt]

theorem dyadic_inj {m n : Nat} {e : Int} (h : dyadic m e = dyadic n e) : m = n :=
  le_antisymm (dyadic_le_dyadic.1 h.le) (dyadic_le_dyadic.1 h.ge)

/-- A power of two as a magnitude. -/
theorem dyadic_two_pow (n : Nat) (e : Int) : dyadic (2 ^ n) e = 2 ^ (n + e) := by
  rw [dyadic, zpow_add₀ two_ne_zero, zpow_natCast]
  push_cast
  rfl

/-- The binade of a magnitude. -/
theorem two_zpow_le_dyadic {m : Nat} (hm : m ≠ 0) (e : Int) :
    (2 : ℚ) ^ ((Nat.log2 m : Int) + e) ≤ dyadic m e := by
  rw [← dyadic_two_pow]
  exact dyadic_le_dyadic.2 (Nat.log2_self_le hm)

theorem dyadic_lt_two_zpow (m : Nat) (e : Int) : dyadic m e < (2 : ℚ) ^ ((Nat.log2 m : Int) + 1 + e) := by
  have h := dyadic_two_pow (Nat.log2 m + 1) e
  push_cast at h
  rw [← h]
  exact dyadic_lt_dyadic.2 Nat.lt_log2_self

theorem two_zpow_lt_iff {a b : Int} : (2 : ℚ) ^ a < 2 ^ b ↔ a < b := zpow_lt_zpow_iff_right₀ one_lt_two

theorem two_zpow_le_iff {a b : Int} : (2 : ℚ) ^ a ≤ 2 ^ b ↔ a ≤ b := zpow_le_zpow_iff_right₀ one_lt_two

/-! ## Rounding -/

/-- A step of a coarser grid in steps of a finer one. -/
theorem two_zpow_split {q e : Int} (h : q ≤ e) : (2 : ℚ) ^ e = (2 ^ (e - q).toNat : Nat) * 2 ^ q := by
  have hshift := dyadic_shift 1 h
  rw [Nat.one_mul] at hshift
  simpa [dyadic] using hshift.symm

/-- Nearest is within half a step. -/
theorem roundAt_rne_error (neg : Bool) (m : Nat) (e q : Int) :
    |dyadic (roundAt .rne neg m e q).1 q - dyadic m e| ≤ 2 ^ q / 2 := by
  rcases le_or_gt q e with h | h
  · rw [roundAt_of_le _ _ _ h, dyadic_shift m h, sub_self, abs_zero]
    exact (half_pos (two_zpow_pos q)).le
  · obtain ⟨-, hlow, hhigh, -⟩ := (roundingModes .rne neg m e q).2 h
    generalize (roundAt .rne neg m e q).1 = k at hlow hhigh ⊢
    have hpos := two_zpow_pos e
    rw [dyadic, dyadic, two_zpow_split h.le, abs_le]
    generalize 2 ^ (q - e).toNat = d at hlow hhigh
    have hlow' : (2 * m : ℚ) ≤ 2 * d * k + d := by exact_mod_cast hlow
    have hhigh' : (2 * d * k : ℚ) ≤ 2 * m + d := by exact_mod_cast hhigh
    constructor <;> nlinarith

/-- A magnitude on the grid is not changed. -/
theorem roundAt_of_grid (rm : Rm) (neg : Bool) {m n : Nat} {e k q : Int} (h : dyadic m e = dyadic n k) (hq : q ≤ k) :
    (roundAt rm neg m e q).2 = false := by
  rcases le_or_gt q e with hle | hlt
  · rw [roundAt_of_le _ _ _ hle]
  · have hm : m = n * 2 ^ (k - e).toNat := dyadic_inj (h.trans (dyadic_shift n (hlt.le.trans hq)).symm)
    have hdvd : 2 ^ (q - e).toNat ∣ m := hm ▸ Dvd.dvd.mul_left (Nat.pow_dvd_pow 2 (by omega)) n
    rw [roundAt_of_lt _ _ _ hlt, Nat.mod_eq_zero_of_dvd hdvd]
    rfl

/-- Nothing dropped, nothing changed. -/
theorem dyadic_roundAt_of_exact {rm : Rm} {neg : Bool} {m : Nat} {e q : Int} (h : (roundAt rm neg m e q).2 = false) :
    dyadic (roundAt rm neg m e q).1 q = dyadic m e := by
  rcases le_or_gt q e with hle | hlt
  · rw [roundAt_of_le _ _ _ hle, dyadic_shift m hle]
  · rw [roundAt_of_lt _ _ _ hlt] at h ⊢
    have hrem : m % 2 ^ (q - e).toNat = 0 := by simpa using h
    have hkeep : roundsUp rm neg (m / 2 ^ (q - e).toNat) 0 (q - e).toNat = false := by
      cases rm <;> simp [roundsUp, (Nat.two_pow_pos _).ne]
    simp only [hrem, hkeep, Bool.false_eq_true, if_false]
    rw [← dyadic_shift _ hlt.le, Nat.div_mul_cancel (Nat.dvd_of_mod_eq_zero hrem)]

/-- What rounding leaves lies between the neighbouring multiples. -/
theorem roundAt_bounds (rm : Rm) (neg : Bool) (m : Nat) {e q : Int} :
    (∀ n, dyadic n q ≤ dyadic m e → n ≤ (roundAt rm neg m e q).1) ∧
      ∀ n, dyadic m e < dyadic n q → (roundAt rm neg m e q).1 ≤ n := by
  rcases le_or_gt q e with hle | hlt
  · rw [roundAt_of_le _ _ _ hle, ← dyadic_shift m hle]
    exact ⟨fun n => dyadic_le_dyadic.1, fun n h => (dyadic_lt_dyadic.1 h).le⟩
  · rw [roundAt_of_lt _ _ _ hlt]
    have hpos : 0 < 2 ^ (q - e).toNat := by positivity
    refine ⟨fun n h => ?_, fun n h => ?_⟩
    · rw [← dyadic_shift n hlt.le, dyadic_le_dyadic, ← Nat.le_div_iff_mul_le hpos] at h
      dsimp only
      split <;> omega
    · rw [← dyadic_shift n hlt.le, dyadic_lt_dyadic, ← Nat.div_lt_iff_lt_mul hpos] at h
      dsimp only
      split <;> omega

/-! ## Codes of f32 -/

/-- The format of f32. -/
abbrev f32 : Fmt := fmtOf .f32

/-- A finite f32 value has 24 bits above the least subnormal. -/
theorem fvalOf_f32_bounds {code : Nat} {neg : Bool} {m : Nat} {e : Int} (h : fvalOf .f32 code = .fin neg m e) :
    m < 2 ^ 24 ∧ -149 ≤ e ∧ e ≤ 104 := by
  simp only [fvalOf, show ¬ Ty.f32 = .e8m0 by decide, if_false, show tyInt .f32 = false from rfl, Bool.false_eq_true,
    show fmtOf .f32 = ⟨32, 23, 127, 0x7F7FFFFF, true, 0x7FC00000⟩ from rfl] at h
  split at h
  · split at h
    · cases h; norm_num; omega
    · cases h; norm_num; omega
  · split at h <;> cases h

/-- The value of a finite code with its sign. -/
theorem fvalOf_signCode (neg : Bool) {c : Nat} (h : c ≤ 0x7F7FFFFF) : fvalOf .f32 (signCode f32 neg c) =
    if c / 2 ^ 23 = 0 then .fin neg (c % 2 ^ 23) (-149)
    else .fin neg (2 ^ 23 + c % 2 ^ 23) ((c / 2 ^ 23 : Nat) - 150) := by
  have hmag : signCode f32 neg c % 2 ^ 31 = c := by
    cases neg <;> simp [signCode, fmtOf] <;> omega
  have hsign : (signCode f32 neg c).testBit 31 = neg := by
    cases neg <;> simp [signCode, fmtOf, Nat.testBit_eq_decide_div_mod_eq] <;> omega
  simp only [fvalOf, show ¬ Ty.f32 = .e8m0 by decide, if_false, show tyInt .f32 = false from rfl, Bool.false_eq_true,
    show (fmtOf .f32).width - 1 = 31 from rfl, hmag, hsign, show (fmtOf .f32).maxCode = 0x7F7FFFFF from rfl, h, if_true,
    show (fmtOf .f32).frac = 23 from rfl, show (fmtOf .f32).bias = 127 from rfl]
  split
  · rfl
  · exact congrArg (FVal.fin neg _) (by omega)

/-- The spacing of f32 at a magnitude: 23 bits below the leading one, and that of the subnormals at least. -/
theorem quantum_f32 (m : Nat) (e : Int) : quantum f32 m e = max ((Nat.log2 m : Int) + e - 23) (-149) := rfl

/-- A rounded magnitude has 24 bits, or is the next power of two. -/
theorem roundAt_quantum_le (rm : Rm) (neg : Bool) (m : Nat) (e : Int) :
    (roundAt rm neg m e (quantum f32 m e)).1 ≤ 2 ^ 24 := by
  refine (roundAt_bounds rm neg m).2 _ ((dyadic_lt_two_zpow m e).trans_le ?_)
  rw [dyadic_two_pow, two_zpow_le_iff, quantum_f32]
  omega

/-- A rounded magnitude with fewer than 24 bits is 0 or subnormal. -/
theorem roundAt_quantum_subnormal {rm : Rm} {neg : Bool} {m : Nat} {e : Int}
    (h : (roundAt rm neg m e (quantum f32 m e)).1 < 2 ^ 23) :
    (roundAt rm neg m e (quantum f32 m e)).1 = 0 ∨ quantum f32 m e = -149 := by
  rcases eq_or_ne m 0 with rfl | hm
  · have hzero : dyadic 0 e = dyadic 0 (quantum f32 0 e) := by simp [dyadic]
    have hexact := dyadic_roundAt_of_exact (roundAt_of_grid rm neg hzero le_rfl)
    exact .inl (dyadic_inj (hexact.trans hzero))
  · refine .inr (by_contra fun hq => not_le.2 h ((roundAt_bounds rm neg m).1 _ ?_))
    refine le_trans ?_ (two_zpow_le_dyadic hm e)
    rw [dyadic_two_pow, two_zpow_le_iff]
    rw [quantum_f32] at hq ⊢
    omega

/-- The code of a normal value. -/
theorem fvalOf_normal (neg : Bool) {k c : Nat} {q : Int} (hlow : 2 ^ 23 ≤ k) (hhigh : k < 2 ^ 24) (hq : -149 ≤ q)
    (hc : c = (q + 150).toNat * 2 ^ 23 + (k - 2 ^ 23)) (hmax : c ≤ 0x7F7FFFFF) :
    fvalOf .f32 (signCode f32 neg c) = .fin neg k q := by
  have hdiv : c / 2 ^ 23 = (q + 150).toNat := by omega
  have hmod : c % 2 ^ 23 = k - 2 ^ 23 := by omega
  rw [fvalOf_signCode neg hmax, hdiv, hmod, if_neg (by omega), Nat.add_sub_cancel' hlow,
    show ((q + 150).toNat : Int) - 150 = q by omega]

/-- The code of a rounded magnitude has its value. -/
theorem fvalOf_magCode (neg : Bool) {k : Nat} {q : Int} (hk : k ≤ 2 ^ 24) (hq : -149 ≤ q)
    (hsub : k < 2 ^ 23 → k = 0 ∨ q = -149) (hmax : magCode f32 k q ≤ 0x7F7FFFFF) :
    ∃ n j, fvalOf .f32 (signCode f32 neg (magCode f32 k q)) = .fin neg n j ∧ dyadic n j = dyadic k q := by
  rcases lt_or_ge k (2 ^ 23) with hlt | hge
  · have hc : magCode f32 k q = k := if_pos hlt
    rw [fvalOf_signCode neg hmax, hc, if_pos (Nat.div_eq_of_lt hlt), Nat.mod_eq_of_lt hlt]
    refine ⟨_, _, rfl, ?_⟩
    rcases hsub hlt with rfl | rfl
    · simp [dyadic]
    · rfl
  · have hnormal : ¬ k < 2 ^ f32.frac := not_lt.2 hge
    rcases hk.lt_or_eq with hlt | rfl
    · have hcarry : ¬ 2 ^ (f32.frac + 1) ≤ k := not_le.2 hlt
      refine ⟨k, q, fvalOf_normal neg hge hlt hq ?_ hmax, rfl⟩
      simp only [magCode, if_neg hnormal, if_neg hcarry]
      simp only [fmtOf]
      omega
    · refine ⟨2 ^ 23, q + 1, fvalOf_normal neg le_rfl (by norm_num) (by omega) ?_ hmax, ?_⟩
      · simp only [magCode, if_neg hnormal, show 2 ^ (f32.frac + 1) ≤ 2 ^ 24 from le_rfl, if_true]
        simp only [fmtOf]
        omega
      · rw [dyadic_two_pow, dyadic_two_pow]
        congr 1
        omega

/-- A magnitude delivered in f32 with its subnormals kept, by the code of its rounded value. -/
theorem deliverFin_f32_eq (rm : Rm) (sat lossy neg : Bool) (m : Nat) (e : Int) :
    let z := roundAt rm neg m e (quantum f32 m e)
    let c := magCode f32 z.1 (quantum f32 m e)
    deliverFin .f32 rm sat false lossy neg m e =
      if 0x7F7FFFFF < c then (overflowCode .f32 rm sat neg, { ovf := true, nx := true })
      else (signCode f32 neg c, { unf := decide (z.1 < 2 ^ 23) && (z.2 || lossy), nx := z.2 || lossy }) := by
  intro z c
  have hsplit : deliverFin .f32 rm sat false lossy neg m e =
      if 0x7F7FFFFF < c then (overflowCode .f32 rm sat neg, { ovf := true, nx := true })
      else if z.1 < 2 ^ 23 then (signCode f32 neg c, { unf := z.2 || lossy, nx := z.2 || lossy })
      else (signCode f32 neg c, { nx := z.2 || lossy }) := rfl
  rw [hsplit]
  by_cases hsub : z.1 < 2 ^ 23
  · rw [if_pos hsub, decide_eq_true hsub, Bool.true_and]
  · rw [if_neg hsub, decide_eq_false hsub, Bool.false_and]

/-- What a magnitude comes to in f32 when it does not overflow: the rounded value, inexact when it changed. -/
theorem deliverFin_f32 {rm : Rm} {sat lossy neg : Bool} {m : Nat} {e : Int}
    (h : (deliverFin .f32 rm sat false lossy neg m e).2.ovf = false) :
    let r := deliverFin .f32 rm sat false lossy neg m e
    let z := roundAt rm neg m e (quantum f32 m e)
    (∃ n k, fvalOf .f32 r.1 = .fin neg n k ∧ dyadic n k = dyadic z.1 (quantum f32 m e)) ∧
      r.2.nx = (z.2 || lossy) := by
  intro r z
  have hr : r = _ := deliverFin_f32_eq rm sat lossy neg m e
  split at hr
  case isTrue =>
    have hovf : r.2.ovf = false := h
    rw [hr] at hovf
    cases hovf
  case isFalse hmax =>
    rw [hr]
    exact ⟨fvalOf_magCode neg (roundAt_quantum_le ..) (le_max_right _ _) roundAt_quantum_subnormal (not_lt.1 hmax),
      rfl⟩

/-- A magnitude below 2^127 does not overflow. -/
theorem deliverFin_f32_ovf {rm : Rm} {sat lossy neg : Bool} {m : Nat} {e : Int} (h : (Nat.log2 m : Int) + e < 127) :
    (deliverFin .f32 rm sat false lossy neg m e).2.ovf = false := by
  have hk := roundAt_quantum_le rm neg m e
  have hc : magCode f32 (roundAt rm neg m e (quantum f32 m e)).1 (quantum f32 m e) ≤ 0x7F7FFFFF := by
    have hq : quantum f32 m e ≤ 103 := by rw [quantum_f32]; omega
    generalize (roundAt rm neg m e (quantum f32 m e)).1 = k at hk
    generalize quantum f32 m e = q at hq
    simp only [magCode, fmtOf]
    split
    · omega
    · split <;> omega
  rw [deliverFin_f32_eq, if_neg (not_lt.2 hc)]

end Sys2Proof.Machine
end

section
/-! PROOFS. The bound of the special functions in units in the last place (spec/07 R142). -/

namespace Sys2Proof.Machine

/-! ## Within some ulp of an approximation -/

theorem signed_sub (neg : Bool) (x y : ℚ) : |signed neg x - signed neg y| = |x - y| := by
  cases neg
  · rfl
  · rw [signed, signed, if_pos rfl, if_pos rfl, neg_sub_neg, abs_sub_comm]

/-- A value within less than its magnitude of another has its sign. -/
theorem sign_of_near {a b : Bool} {x y u : ℚ} (hx : 0 ≤ x) (hu : u < y) (h : |signed a x - signed b y| ≤ u) :
    a = b ∧ |x - y| ≤ u := by
  have hfar : ¬ x + y ≤ u := by linarith
  cases a <;> cases b
  case false.false => exact ⟨rfl, h⟩
  case true.true => exact ⟨rfl, signed_sub true x y ▸ h⟩
  case false.true => exact absurd (by simpa [signed] using (le_abs_self _).trans h) hfar
  case true.false => exact absurd (by simpa [signed, add_comm] using (neg_le_abs _).trans h) hfar

/-- The aligned integer of a value, in steps of the exponent. -/
theorem alignI_value (neg : Bool) (m : Nat) {e base : Int} (h : base ≤ e) :
    (alignI neg m e base : ℚ) * 2 ^ base = signed neg (dyadic m e) := by
  have hshift : ((m * 2 ^ (e - base).toNat : Nat) : ℚ) * 2 ^ base = dyadic m e := dyadic_shift m h
  cases neg
  · exact hshift
  · rw [signed, if_pos rfl, ← hshift, alignI, if_pos rfl, Int.cast_neg, Int.cast_natCast, neg_mul]

/-- `withinUlp` compares exact values. -/
theorem withinUlp_iff {k code : Nat} {a : Approx} {neg : Bool} {m : Nat} {e : Int}
    (h : fvalOf .f32 code = .fin neg m e) : withinUlp k a code = true ↔
      |signed neg (dyadic m e) - signed a.neg (dyadic a.m a.e)| ≤ k * 2 ^ quantum f32 a.m a.e := by
  unfold withinUlp
  simp only [h, ulpExp]
  set u := quantum f32 a.m a.e
  set base := min (min e a.e) u
  have hd : signed neg (dyadic m e) - signed a.neg (dyadic a.m a.e) =
      (alignI neg m e base - alignI a.neg a.m a.e base : Int) * 2 ^ base := by
    rw [← alignI_value neg m (base := base) (by omega), ← alignI_value a.neg a.m (base := base) (by omega)]
    push_cast
    ring
  have hu : (k : ℚ) * 2 ^ u = (k * 2 ^ (u - base).toNat : Nat) * 2 ^ base := by
    rw [two_zpow_split (show base ≤ u by omega)]
    push_cast
    ring
  rw [hd, hu, abs_mul, abs_of_pos (two_zpow_pos base), mul_le_mul_iff_left₀ (two_zpow_pos base), ← Int.cast_abs,
    Int.abs_eq_natAbs, Int.cast_natCast, Nat.cast_le]
  exact decide_eq_true_iff

/-- A rounded value is within an ulp of what it has been rounded from. -/
theorem withinUlp_deliverFin {k : Nat} {a : Approx} {lossy : Bool} (hk : 1 ≤ k)
    (h : (deliverFin .f32 .rne false false lossy a.neg a.m a.e).2.ovf = false) :
    withinUlp k a (deliverFin .f32 .rne false false lossy a.neg a.m a.e).1 = true := by
  obtain ⟨⟨n, j, hval, hround⟩, -⟩ := deliverFin_f32 h
  rw [withinUlp_iff hval, signed_sub, hround]
  have hpos := two_zpow_pos (quantum f32 a.m a.e)
  have hk' : (1 : ℚ) ≤ k := by exact_mod_cast hk
  have herr := roundAt_rne_error a.neg a.m a.e (quantum f32 a.m a.e)
  nlinarith

/-! ## The result of a function with a bound -/

/-- A function with a bound delivers the rounded approximation, or a free value that is inexact and within its bound
where the rounded one is inexact too. -/
theorem boundedF32_cases (k : Nat) (free : Word32 → Word32) (x : Nat) (a : Approx) :
    let r := deliverFin .f32 .rne false false (!a.exact) a.neg a.m a.e
    let y := boundedF32 k free x a
    y = r ∨ r.2.ovf = false ∧ r.2.nx = true ∧ withinUlp k a y.1 = true ∧ y.2.nx = true ∧ y.2.ovf = false := by
  intro r y
  set c := (free (BitVec.ofNat 32 x)).toNat
  have hy : y = if r.2.ovf || !r.2.nx then r
      else if withinUlp k a c then (c, { nx := true, unf := decide (c % 2 ^ 31 < 2 ^ 23) }) else r := rfl
  split at hy
  case isTrue => exact .inl hy
  case isFalse hr =>
    split at hy
    case isTrue hc =>
      right
      rw [hy]
      simp only [Bool.or_eq_true, Bool.not_eq_true', not_or, Bool.not_eq_true, Bool.not_eq_false] at hr
      exact ⟨hr.1, hr.2, hc, rfl, rfl⟩
    case isFalse => exact .inl hy

/-- Short of an overflow the result lies within the bound. -/
theorem withinUlp_boundedF32 {k : Nat} {free : Word32 → Word32} {x : Nat} {a : Approx} (hk : 1 ≤ k)
    (h : (boundedF32 k free x a).2.ovf = false) : withinUlp k a (boundedF32 k free x a).1 = true := by
  rcases boundedF32_cases k free x a with hy | ⟨-, -, hwithin, -⟩
  · rw [hy] at h ⊢
    exact withinUlp_deliverFin hk h
  · exact hwithin

/-- A magnitude below 2^127 does not overflow. -/
theorem boundedF32_in_range {k : Nat} {free : Word32 → Word32} {x : Nat} {a : Approx}
    (h : (Nat.log2 a.m : Int) + a.e < 127) :
    (boundedF32 k free x a).2.ovf = false := by
  rcases boundedF32_cases k free x a with hy | ⟨-, -, -, -, hovf⟩
  · rw [hy]
    exact deliverFin_f32_ovf h
  · exact hovf

/-- The result is inexact as the rounded approximation is. -/
theorem boundedF32_nx {k : Nat} {free : Word32 → Word32} {x : Nat} {a : Approx}
    (h : (boundedF32 k free x a).2.ovf = false) : (boundedF32 k free x a).2.nx =
      ((roundAt .rne a.neg a.m a.e (quantum f32 a.m a.e)).2 || !a.exact) := by
  rcases boundedF32_cases k free x a with hy | ⟨hovf, hr, -, hnx, -⟩
  · rw [hy] at h ⊢
    exact (deliverFin_f32 h).2
  · rw [hnx, ← hr]
    exact (deliverFin_f32 hovf).2

/-- An f32 magnitude has a spacing no wider than its last bit. -/
theorem quantum_le_of_f32 {m n : Nat} {e k : Int} (hm : m ≠ 0) (hn : n < 2 ^ 24) (hk : -149 ≤ k)
    (h : dyadic m e = dyadic n k) : quantum f32 m e ≤ k := by
  have hlt : (2 : ℚ) ^ ((Nat.log2 m : Int) + e) < 2 ^ ((24 : Nat) + k) := by
    rw [← dyadic_two_pow 24]
    exact (two_zpow_le_dyadic hm e).trans_lt (h.trans_lt (dyadic_lt_dyadic.2 hn))
  rw [two_zpow_lt_iff] at hlt
  rw [quantum_f32]
  omega

/-- Where the approximation is exact, the result is inexact just when it is another value. -/
theorem boundedF32_nx_iff {k : Nat} {free : Word32 → Word32} {x : Nat} {a : Approx} {neg : Bool} {n : Nat} {j : Int}
    (hexact : a.exact = true) (hm : a.m ≠ 0) (hovf : (boundedF32 k free x a).2.ovf = false)
    (hval : fvalOf .f32 (boundedF32 k free x a).1 = .fin neg n j) :
    (boundedF32 k free x a).2.nx = true ↔ dyadic n j ≠ dyadic a.m a.e := by
  have hnx := boundedF32_nx hovf
  rw [hexact, Bool.not_true, Bool.or_false] at hnx
  constructor
  · intro hinexact heq
    obtain ⟨hn, hj, -⟩ := fvalOf_f32_bounds hval
    have hround := roundAt_of_grid .rne a.neg heq.symm (quantum_le_of_f32 hm hn hj heq.symm)
    rw [hnx, hround] at hinexact
    cases hinexact
  · intro hne
    by_contra hsame
    rw [Bool.not_eq_true] at hsame
    refine hne ?_
    rcases boundedF32_cases k free x a with hy | ⟨-, -, -, hinexact, -⟩
    · rw [hy] at hovf hval
      obtain ⟨⟨n', j', hval', hround⟩, -⟩ := deliverFin_f32 hovf
      cases hval.symm.trans hval'
      exact hround.trans (dyadic_roundAt_of_exact (hnx ▸ hsame))
    · rw [hsame] at hinexact
      cases hinexact

/-! ## Approximations cut below their last bit -/

/-- An approximation that is cut: the exact value, which is r x 2^(e + 1), or one that lies strictly between that and
(r + 1) x 2^(e + 1), with the last bit in its place. -/
def cutApprox (neg : Bool) (r : Nat) (e : Int) (exact : Bool) : Approx :=
  ⟨neg, 2 * r + (if exact then 0 else 1), e, exact⟩

theorem dyadic_succ (m : Nat) (e : Int) : dyadic m (e + 1) = dyadic (2 * m) e := by
  rw [← dyadic_shift m (show e ≤ e + 1 by omega), add_sub_cancel_left, mul_comm]
  rfl

section cut

variable {neg : Bool} {r : Nat} {e : Int} {exact : Bool}

@[simp] theorem cutApprox_neg : (cutApprox neg r e exact).neg = neg := rfl
@[simp] theorem cutApprox_e : (cutApprox neg r e exact).e = e := rfl
@[simp] theorem cutApprox_exact : (cutApprox neg r e exact).exact = exact := rfl
@[simp] theorem cutApprox_m : (cutApprox neg r e exact).m = 2 * r + (if exact then 0 else 1) := rfl

theorem log2_cutApprox (hr : r ≠ 0) : Nat.log2 (cutApprox neg r e exact).m = Nat.log2 r + 1 := by
  have hlow := Nat.log2_self_le hr
  have hhigh : r < 2 ^ (Nat.log2 r + 1) := Nat.lt_log2_self
  rw [cutApprox_m]
  rw [pow_succ] at hhigh
  rw [Nat.log2_eq_iff (by omega), pow_succ, pow_succ]
  split <;> omega

/-- The spacing of f32 at a value that is cut. -/
theorem quantum_cutApprox (hr : r ≠ 0) :
    quantum f32 (cutApprox neg r e exact).m (cutApprox neg r e exact).e =
      max ((Nat.log2 r : Int) + 1 + e - 23) (-149) := by
  rw [quantum_f32, log2_cutApprox hr]
  push_cast
  rfl

theorem dyadic_add (m n : Nat) (e : Int) : dyadic (m + n) e = dyadic m e + dyadic n e := by
  simp only [dyadic]
  push_cast
  ring

/-- A multiple within w steps of an approximation that is cut is within w steps of everything that this stands for. -/
theorem steps_of_near {j w : Nat} (h : |dyadic j (e + 1) - dyadic (cutApprox neg r e exact).m e| ≤ dyadic w (e + 1)) :
    j ≤ r + w ∧ r + (if exact then 0 else 1) ≤ j + w := by
  obtain ⟨hlow, hhigh⟩ := abs_le.1 h
  rw [dyadic_succ, dyadic_succ] at hlow hhigh
  have hup : dyadic (cutApprox neg r e exact).m e ≤ dyadic (2 * j + 2 * w) e := by rw [dyadic_add]; linarith
  have hdown : dyadic (2 * j) e ≤ dyadic ((cutApprox neg r e exact).m + 2 * w) e := by rw [dyadic_add]; linarith
  rw [dyadic_le_dyadic, cutApprox_m] at hup hdown
  have hbit : (if exact then 0 else 1) ≤ 1 := by split <;> omega
  omega

/-- An f32 value within an ulp of a normal approximation that is cut, in steps of the cut: its sign is that of the
approximation, and it is within an ulp of everything that the approximation stands for. -/
theorem steps_of_withinUlp {code : Nat} (hr : 2 ^ 100 ≤ r) (ht : -128 ≤ (Nat.log2 r : Int) + 1 + e)
    (h : withinUlp 1 (cutApprox neg r e exact) code = true) :
    ∃ n k j w, fvalOf .f32 code = .fin neg n k ∧ dyadic n k = dyadic j (e + 1) ∧
      (2 : ℚ) ^ max ((Nat.log2 r : Int) + 1 + e - 23) (-149) = dyadic w (e + 1) ∧
      w ≤ j ∧ j ≤ r + w ∧ r + (if exact then 0 else 1) ≤ j + w := by
  have hr0 : r ≠ 0 := (Nat.two_pow_pos 100).trans_le hr |>.ne'
  have hlog : 100 ≤ Nat.log2 r := (Nat.le_log2 hr0).2 hr
  cases hval : fvalOf .f32 code with
  | nan => simp [withinUlp, hval] at h
  | inf _ => simp [withinUlp, hval] at h
  | fin neg' n k =>
    rw [withinUlp_iff hval, Nat.cast_one, one_mul, quantum_cutApprox hr0, cutApprox_neg, cutApprox_e] at h
    set t := (Nat.log2 r : Int) + 1 + e
    set u := max (t - 23) (-149)
    obtain ⟨hn, hk, -⟩ := fvalOf_f32_bounds hval
    have hbin : (2 : ℚ) ^ t ≤ dyadic (cutApprox neg r e exact).m e := by
      have hle := two_zpow_le_dyadic (m := (cutApprox neg r e exact).m) (by simp [hr0]) e
      rwa [log2_cutApprox hr0] at hle
    have hhalf : (2 : ℚ) ^ t = 2 ^ (t - 1) + 2 ^ (t - 1) := by
      rw [← two_mul, ← zpow_one_add₀ two_ne_zero, add_sub_cancel]
    have hu : (2 : ℚ) ^ u ≤ 2 ^ (t - 1) := two_zpow_le_iff.2 (by omega)
    have hpos := two_zpow_pos (t - 1)
    obtain ⟨rfl, hnear⟩ := sign_of_near (dyadic_nonneg n k) (by linarith) h
    obtain ⟨hlow, hhigh⟩ := abs_le.1 hnear
    have hgrid : e + 1 ≤ k := by
      by_contra hlt
      have hsmall : dyadic n k < 2 ^ ((24 : Nat) + k) := (dyadic_lt_dyadic.2 hn).trans_eq (dyadic_two_pow 24 k)
      have hle : (2 : ℚ) ^ ((24 : Nat) + k) ≤ 2 ^ (t - 1) := two_zpow_le_iff.2 (by push_cast; omega)
      linarith
    obtain ⟨j, hj⟩ : ∃ j, dyadic n k = dyadic j (e + 1) := ⟨_, (dyadic_shift n hgrid).symm⟩
    obtain ⟨w, hw⟩ : ∃ w, (2 : ℚ) ^ u = dyadic w (e + 1) := ⟨_, two_zpow_split (by omega)⟩
    have hwj : dyadic w (e + 1) ≤ dyadic j (e + 1) := by linarith
    refine ⟨n, k, j, w, rfl, hj, hw, dyadic_le_dyadic.1 hwj, ?_⟩
    rw [hj, hw] at hnear
    exact steps_of_near hnear

/-- What a function with a bound of one ulp delivers for a normal value that is cut. -/
theorem boundedF32_cutApprox {free : Word32 → Word32} {x : Nat} (hr : 2 ^ 100 ≤ r)
    (ht : -128 ≤ (Nat.log2 r : Int) + 1 + e)
    (hovf : (boundedF32 1 free x (cutApprox neg r e exact)).2.ovf = false) :
    let y := boundedF32 1 free x (cutApprox neg r e exact)
    ∃ n k j w, fvalOf .f32 y.1 = .fin neg n k ∧ dyadic n k = dyadic j (e + 1) ∧
      (2 : ℚ) ^ max ((Nat.log2 r : Int) + 1 + e - 23) (-149) = dyadic w (e + 1) ∧
      w ≤ j ∧ j ≤ r + w ∧ r + (if exact then 0 else 1) ≤ j + w ∧
      (y.2.nx = true ↔ ¬ (exact = true ∧ j = r)) := by
  intro y
  obtain ⟨n, k, j, w, hval, hj, hw, hwj, hlow, hhigh⟩ := steps_of_withinUlp hr ht (withinUlp_boundedF32 le_rfl hovf)
  refine ⟨n, k, j, w, hval, hj, hw, hwj, hlow, hhigh, ?_⟩
  have hr0 : r ≠ 0 := (Nat.two_pow_pos 100).trans_le hr |>.ne'
  cases exact with
  | false => simpa using boundedF32_nx hovf
  | true =>
    have hnx := boundedF32_nx_iff rfl (by simp [hr0]) hovf hval
    refine hnx.trans (not_congr ⟨fun heq => ⟨rfl, ?_⟩, ?_⟩)
    · exact dyadic_inj (hj.symm.trans (heq.trans (dyadic_succ r e).symm))
    · rintro ⟨-, rfl⟩
      exact hj.trans (dyadic_succ j e)

end cut

end Sys2Proof.Machine
end

section
/-! PROOFS. The reciprocal and the reciprocal square root within one ulp (spec/07 R142). -/

namespace Sys2Proof.Machine

/-! ## Roots of a reciprocal -/

/-- The binade of the cut of a value, where the values that do not exceed it are those that P holds of. -/
theorem log2_unique {P : ℚ → Prop} (hP : ∀ {a b}, 0 ≤ a → a ≤ b → P b → P a) {r : Nat} {e t : Int}
    (hr : r ≠ 0) (hbin : P (2 ^ t)) (hnext : ¬ P (2 ^ (t + 1))) (hcut : P (dyadic r e))
    (hstep : ¬ P (dyadic (r + 1) e)) :
    (Nat.log2 r : Int) + e = t := by
  have hlt : (Nat.log2 r : Int) + e < t + 1 := by
    by_contra hle
    exact hnext (hP (two_zpow_pos _).le ((two_zpow_le_iff.2 (not_lt.1 hle)).trans (two_zpow_le_dyadic hr e)) hcut)
  have hgt : t < (Nat.log2 r : Int) + 1 + e := by
    by_contra hle
    refine hstep (hP (dyadic_nonneg ..) (le_trans ?_ (two_zpow_le_iff.2 (not_lt.1 hle))) hbin)
    have hpow := dyadic_two_pow (Nat.log2 r + 1) e
    push_cast at hpow
    rw [← hpow]
    exact dyadic_le_dyadic.2 Nat.lt_log2_self
  omega

section root

variable {p : Nat} {x : ℚ} {neg : Bool} {r : Nat} {e t : Int} {exact : Bool} {free : Word32 → Word32} {code : Nat}

/-- A function with a bound of one ulp whose exact value z is cut, with z^p x = 1. -/
theorem boundedF32_root (hp : p ≠ 0) (hx : 0 < x) (hr : 2 ^ 100 ≤ r) (hcut : dyadic r (e + 1) ^ p * x ≤ 1)
    (hstep : 1 < dyadic (r + 1) (e + 1) ^ p * x) (hexact : exact = true ↔ dyadic r (e + 1) ^ p * x = 1)
    (hbin : ((2 : ℚ) ^ t) ^ p * x ≤ 1) (hnext : 1 < ((2 : ℚ) ^ (t + 1)) ^ p * x) (ht : -128 ≤ t)
    (hovf : (boundedF32 1 free code (cutApprox neg r e exact)).2.ovf = false) :
    let y := boundedF32 1 free code (cutApprox neg r e exact)
    let ulp := (2 : ℚ) ^ max (t - 23) (-149)
    ∃ n k, fvalOf .f32 y.1 = .fin neg n k ∧ ulp ≤ dyadic n k ∧ (dyadic n k - ulp) ^ p * x ≤ 1 ∧
      1 ≤ (dyadic n k + ulp) ^ p * x ∧ (y.2.nx = true ↔ dyadic n k ^ p * x ≠ 1) := by
  intro y ulp
  have hmono : ∀ {a b : ℚ}, 0 ≤ a → a ≤ b → a ^ p * x ≤ b ^ p * x := fun ha hab =>
    mul_le_mul_of_nonneg_right (pow_le_pow_left₀ ha hab p) hx.le
  have hr0 : r ≠ 0 := (Nat.two_pow_pos 100).trans_le hr |>.ne'
  have hlog : (Nat.log2 r : Int) + 1 + e = t := by
    rw [← log2_unique (P := fun z => z ^ p * x ≤ 1) (fun ha hab => (hmono ha hab).trans) hr0 hbin
      (not_le.2 hnext) hcut (not_le.2 hstep)]
    omega
  obtain ⟨n, k, j, w, hval, hj, hw, hwj, hlow, hhigh, hnx⟩ := boundedF32_cutApprox hr (hlog ▸ ht) hovf
  rw [hlog] at hw
  have hulp : ulp = dyadic w (e + 1) := hw
  refine ⟨n, k, hval, ?ulp, ?low, ?high, hnx.trans (not_congr ?exact)⟩
  all_goals rw [hj]
  case ulp => exact hulp ▸ dyadic_le_dyadic.2 hwj
  case low =>
    have hle := dyadic_le_dyadic (e := e + 1).2 hlow
    rw [dyadic_add] at hle
    refine (hmono (sub_nonneg.2 (hulp ▸ dyadic_le_dyadic.2 hwj)) ?_).trans hcut
    linarith
  case high =>
    rw [hulp, ← dyadic_add]
    cases exact with
    | true =>
      exact (hexact.1 rfl).ge.trans (hmono (dyadic_nonneg ..) (dyadic_le_dyadic.2 hhigh))
    | false => exact hstep.le.trans (hmono (dyadic_nonneg ..) (dyadic_le_dyadic.2 hhigh))
  case exact =>
    constructor
    · rintro ⟨hex, rfl⟩
      exact hexact.1 hex
    · intro heq
      have hle : j ≤ r := by
        by_contra hlt
        exact absurd heq (hstep.trans_le (hmono (dyadic_nonneg ..) (dyadic_le_dyadic.2 (not_le.1 hlt)))).ne'
      have hge : r ≤ j := by
        by_contra hlt
        have hpow := pow_lt_pow_left₀ (dyadic_lt_dyadic (e := e + 1).2 (not_le.1 hlt)) (dyadic_nonneg ..) hp
        exact absurd heq ((mul_lt_mul_of_pos_right hpow hx).trans_le hcut).ne
      obtain rfl := le_antisymm hle hge
      exact ⟨hexact.2 heq, rfl⟩

end root

/-! ## The two functions -/

/-- A special function on an f32 operand. -/
theorem specialCode_f32 {fn : Special} {rm : Rm} {code : Nat} {v : FVal} (h : fvalIn .f32 code = v) :
    ∃ c, specialCode fn .f32 rm code = specialF32 fn c v := ⟨_, by rw [← h]; rfl⟩

/-- A finite f32 operand has 24 bits above the least subnormal. -/
theorem fvalIn_f32_bounds {code : Nat} {neg : Bool} {m : Nat} {e : Int} (h : fvalIn .f32 code = .fin neg m e) :
    m < 2 ^ 24 ∧ -149 ≤ e ∧ e ≤ 104 := by
  have hval : fvalOf .f32 code = .fin neg m e := by
    unfold fvalIn at h
    cases hv : fvalOf .f32 code <;> simp [hv, tyFlush] at h ⊢
    exact h
  exact fvalOf_f32_bounds hval

theorem dyadic_f32_lt {m : Nat} {e : Int} (hm : m < 2 ^ 24) (he : e ≤ 104) : dyadic m e < 2 ^ (128 : Int) :=
  ((dyadic_lt_dyadic.2 hm).trans_eq (dyadic_two_pow 24 e)).trans_le (two_zpow_le_iff.2 (by push_cast; omega))

theorem dyadic_pos {m : Nat} (hm : m ≠ 0) (e : Int) : 0 < dyadic m e :=
  mul_pos (Nat.cast_pos.2 (Nat.pos_of_ne_zero hm)) (two_zpow_pos e)

theorem two_pow_le_div {m k s : Nat} (hm : m ≠ 0) (hs : k + Nat.log2 m + 1 ≤ s) : 2 ^ k ≤ 2 ^ s / m := by
  rw [Nat.le_div_iff_mul_le (Nat.pos_of_ne_zero hm)]
  have hlt : m < 2 ^ (Nat.log2 m + 1) := Nat.lt_log2_self
  calc 2 ^ k * m ≤ 2 ^ k * 2 ^ (Nat.log2 m + 1) := Nat.mul_le_mul_left _ hlt.le
    _ = 2 ^ (k + Nat.log2 m + 1) := by rw [← pow_add, Nat.add_assoc]
    _ ≤ 2 ^ s := Nat.pow_le_pow_right Nat.two_pos hs

/-! ## The reciprocal -/

/-- The reciprocal is cut by an integer division. -/
theorem rcpApprox_eq (neg : Bool) (m : Nat) (e : Int) : let s := 160 + Nat.log2 m
    rcpApprox neg m e = cutApprox neg (2 ^ s / m) (-e - s - 1) (decide (2 ^ s % m = 0)) := by
  simp [rcpApprox, quotApprox, cutApprox]

/-- Where the reciprocal lies to its cut. -/
theorem rcp_cut {m : Nat} (hm : m ≠ 0) (e : Int) (s : Nat) :
    dyadic (2 ^ s / m) (-e - s - 1 + 1) ^ 1 * dyadic m e ≤ 1 ∧
      1 < dyadic (2 ^ s / m + 1) (-e - s - 1 + 1) ^ 1 * dyadic m e ∧
      (decide (2 ^ s % m = 0) = true ↔ dyadic (2 ^ s / m) (-e - s - 1 + 1) ^ 1 * dyadic m e = 1) := by
  have hscale : ∀ i, dyadic i (-e - s - 1 + 1) ^ 1 * dyadic m e = (i * m : Nat) / (2 ^ s : Nat) := fun i => by
    rw [show -e - (s : Int) - 1 + 1 = -e + -(s : Int) by ring]
    simp only [dyadic, zpow_add₀ (two_ne_zero' ℚ), zpow_neg, zpow_natCast]
    push_cast
    field_simp
  have hpos : (0 : ℚ) < (2 ^ s : Nat) := Nat.cast_pos.2 (Nat.two_pow_pos s)
  rw [hscale, hscale]
  refine ⟨?cut, ?step, ?exact⟩
  case cut =>
    rw [div_le_one hpos, Nat.cast_le]
    exact Nat.div_mul_le_self ..
  case step =>
    rw [one_lt_div hpos, Nat.cast_lt, Nat.add_mul, Nat.one_mul]
    exact Nat.lt_div_mul_add (Nat.pos_of_ne_zero hm)
  case exact =>
    have hdiv := Nat.div_add_mod (2 ^ s) m
    rw [div_eq_one_iff_eq hpos.ne', Nat.cast_inj, decide_eq_true_iff, Nat.mul_comm]
    omega

/-- `vfrcp` on a finite nonzero operand delivers a value within one ulp of the reciprocal. -/
theorem rcp_bound {rm : Rm} {code : Nat} {neg : Bool} {m : Nat} {e t : Int} (h : fvalIn .f32 code = .fin neg m e)
    (hm : m ≠ 0) (hbin : (2 : ℚ) ^ t * dyadic m e ≤ 1) (hnext : 1 < (2 : ℚ) ^ (t + 1) * dyadic m e)
    (hovf : (specialCode .rcp .f32 rm code).2.ovf = false) :
    let y := specialCode .rcp .f32 rm code
    let ulp := (2 : ℚ) ^ max (t - 23) (-149)
    ∃ n k, fvalOf .f32 y.1 = .fin neg n k ∧ |dyadic n k * dyadic m e - 1| ≤ ulp * dyadic m e ∧
      (y.2.nx = true ↔ dyadic n k * dyadic m e ≠ 1) := by
  obtain ⟨c, hc⟩ := specialCode_f32 (fn := .rcp) (rm := rm) h
  have hspecial : specialF32 .rcp c (.fin neg m e) = boundedF32 1 Config.rcpValue c (rcpApprox neg m e) := if_neg hm
  rw [hc, hspecial, rcpApprox_eq] at hovf ⊢
  obtain ⟨hm24, -, he⟩ := fvalIn_f32_bounds h
  obtain ⟨hcut, hstep, hexact⟩ := rcp_cut hm e (160 + Nat.log2 m)
  have ht : -128 ≤ t := by
    have hlt := hnext.trans (mul_lt_mul_of_pos_left (dyadic_f32_lt hm24 he) (two_zpow_pos _))
    rw [← zpow_add₀ two_ne_zero, ← zpow_zero (2 : ℚ), two_zpow_lt_iff] at hlt
    omega
  obtain ⟨n, k, hval, -, hlow, hhigh, hnx⟩ := boundedF32_root one_ne_zero (dyadic_pos hm e)
    (two_pow_le_div hm (by omega)) hcut hstep hexact (by rwa [pow_one]) (by rwa [pow_one]) ht hovf
  rw [pow_one] at hlow hhigh hnx
  exact ⟨n, k, hval, abs_le.2 ⟨by linarith, by linarith⟩, hnx⟩

/-! ## Integer square roots -/

/-- The bits below bit n are found from a root that is short by less than 2^n. -/
theorem isqrtGo_spec (x n : Nat) {r : Nat} (hlow : r * r ≤ x) (hhigh : x < (r + 2 ^ n) * (r + 2 ^ n)) :
    isqrtGo x n r * isqrtGo x n r ≤ x ∧ x < (isqrtGo x n r + 1) * (isqrtGo x n r + 1) := by
  induction n generalizing r with
  | zero => exact ⟨hlow, hhigh⟩
  | succ n ih =>
    rw [isqrtGo]
    split
    case isTrue h => exact ih h (by rwa [Nat.add_assoc, ← Nat.two_mul, ← Nat.pow_succ'])
    case isFalse h => exact ih hlow (not_le.1 h)

theorem isqrt_spec (x : Nat) : isqrt x * isqrt x ≤ x ∧ x < (isqrt x + 1) * (isqrt x + 1) := by
  refine isqrtGo_spec x _ (Nat.zero_le _) ?_
  have hlt : x < 2 ^ (Nat.log2 x + 1) := Nat.lt_log2_self
  rw [Nat.zero_add, ← pow_add]
  exact hlt.trans_le (Nat.pow_le_pow_right Nat.two_pos (by omega))

/-! ## The reciprocal square root -/

/-- The operand of a reciprocal square root as an integer at an even exponent. -/
def evened (m : Nat) (e : Int) : Nat := m * 2 ^ (e % 2).toNat

/-- The bits after the point of the reciprocal square root of an integer, as the model cuts it. -/
def rsqBits (m : Nat) : Nat := 160 + Nat.log2 m

/-- The reciprocal square root of an integer, cut after these bits. -/
def rsqCut (m : Nat) : Nat := isqrt (2 ^ (2 * rsqBits m) / m)

/-- The reciprocal square root is cut by an integer square root. -/
theorem rsqApprox_eq (m : Nat) (e : Int) : let m' := evened m e
    rsqApprox m e = cutApprox false (rsqCut m') (-(e / 2) - rsqBits m' - 1)
      (decide (rsqCut m' * rsqCut m' * m' = 2 ^ (2 * rsqBits m'))) := by
  intro m'
  have hodd : (e - (e % 2).toNat) / 2 = e / 2 := by omega
  have hhalf : ((2 * rsqBits m' : Nat) : Int) / 2 = rsqBits m' := by omega
  have hsplit : rsqApprox m e = cutApprox false (rsqCut m')
      (-((e - (e % 2).toNat) / 2) - ((2 * rsqBits m' : Nat) : Int) / 2 - 1)
      (decide (rsqCut m' * rsqCut m' * m' = 2 ^ (2 * rsqBits m'))) := rfl
  rw [hsplit, hodd, hhalf]

theorem evened_value (m : Nat) (e : Int) : dyadic m e = evened m e * (2 ^ (e / 2)) ^ 2 := by
  have hexp : (2 : ℚ) ^ e = 2 ^ (e % 2).toNat * (2 ^ (e / 2)) ^ 2 := by
    rw [← zpow_natCast, ← zpow_natCast, ← zpow_mul, ← zpow_add₀ two_ne_zero]
    congr 1
    push_cast
    omega
  rw [dyadic, hexp, evened]
  push_cast
  ring

theorem evened_ne_zero {m : Nat} (hm : m ≠ 0) (e : Int) : evened m e ≠ 0 := mul_ne_zero hm (by positivity)

theorem rsqCut_spec {m : Nat} (hm : m ≠ 0) : rsqCut m * rsqCut m * m ≤ 2 ^ (2 * rsqBits m) ∧
    2 ^ (2 * rsqBits m) < (rsqCut m + 1) * (rsqCut m + 1) * m :=
  ⟨(Nat.le_div_iff_mul_le (Nat.pos_of_ne_zero hm)).1 (isqrt_spec _).1,
    (Nat.div_lt_iff_lt_mul (Nat.pos_of_ne_zero hm)).1 (isqrt_spec _).2⟩

theorem two_pow_le_rsqCut {m : Nat} (hm : m ≠ 0) : 2 ^ 100 ≤ rsqCut m := by
  have hdiv : 2 ^ 200 ≤ 2 ^ (2 * rsqBits m) / m := two_pow_le_div hm (by unfold rsqBits; omega)
  by_contra hlt
  have hsmall := Nat.mul_le_mul (not_le.1 hlt) (not_le.1 hlt)
  rw [← pow_add] at hsmall
  exact absurd (hdiv.trans_lt (isqrt_spec _).2) (not_lt.2 hsmall)

/-- Where the reciprocal square root lies to its cut. -/
theorem rsq_cut {m : Nat} (hm : m ≠ 0) (e : Int) : let m' := evened m e
    let scaled := fun i => dyadic i (-(e / 2) - rsqBits m' - 1 + 1) ^ 2 * dyadic m e
    scaled (rsqCut m') ≤ 1 ∧ 1 < scaled (rsqCut m' + 1) ∧
      (decide (rsqCut m' * rsqCut m' * m' = 2 ^ (2 * rsqBits m')) = true ↔ scaled (rsqCut m') = 1) := by
  intro m' scaled
  have hscale : ∀ i, scaled i = (i * i * m' : Nat) / (2 ^ (2 * rsqBits m') : Nat) := fun i => by
    have hval : dyadic m e = m' * (2 ^ (e / 2)) ^ 2 := evened_value m e
    simp only [scaled]
    rw [hval, show -(e / 2) - (rsqBits m' : Int) - 1 + 1 = -(e / 2) + -(rsqBits m' : Int) by ring]
    simp only [dyadic, zpow_add₀ (two_ne_zero' ℚ), zpow_neg, zpow_natCast, pow_mul' 2 2]
    push_cast
    field_simp
  have hpos : (0 : ℚ) < (2 ^ (2 * rsqBits m') : Nat) := Nat.cast_pos.2 (Nat.two_pow_pos _)
  obtain ⟨hlow, hhigh⟩ := rsqCut_spec (evened_ne_zero hm e)
  rw [hscale, hscale]
  refine ⟨?cut, ?step, ?exact⟩
  case cut => rwa [div_le_one hpos, Nat.cast_le]
  case step => rwa [one_lt_div hpos, Nat.cast_lt]
  case exact => rw [div_eq_one_iff_eq hpos.ne', Nat.cast_inj, decide_eq_true_iff]

theorem four_zpow (u : Int) : (4 : ℚ) ^ u = (2 ^ u) ^ 2 := by
  rw [← zpow_natCast, ← zpow_mul, mul_comm, zpow_mul]
  norm_num

theorem two_zpow_sq_mul (u v : Int) : ((2 : ℚ) ^ u) ^ 2 * 2 ^ v = 2 ^ (2 * u + v) := by
  rw [zpow_add₀ two_ne_zero, ← zpow_natCast, ← zpow_mul, mul_comm u]
  rfl

/-- A magnitude whose square times an f32 value is 1 at most is below 2^75. -/
theorem log2_le_of_sq_mul_le {r m : Nat} {e k : Int} (hr : r ≠ 0) (hm : m ≠ 0) (he : -149 ≤ e)
    (h : dyadic r k ^ 2 * dyadic m e ≤ 1) : (Nat.log2 r : Int) + k ≤ 74 := by
  have hlow : (2 : ℚ) ^ (-149 : Int) ≤ dyadic m e :=
    (two_zpow_le_iff.2 (by omega)).trans (two_zpow_le_dyadic hm e)
  have hle := (mul_le_mul (pow_le_pow_left₀ (two_zpow_pos _).le (two_zpow_le_dyadic hr k) 2) hlow (two_zpow_pos _).le
    (pow_nonneg (dyadic_nonneg r k) 2)).trans h
  rw [two_zpow_sq_mul, ← zpow_zero (2 : ℚ), two_zpow_le_iff] at hle
  omega

/-- `vfrsq` on a positive operand delivers a value within one ulp of the reciprocal square root. -/
theorem rsq_bound {rm : Rm} {code : Nat} {m : Nat} {e t : Int} (h : fvalIn .f32 code = .fin false m e) (hm : m ≠ 0)
    (hbin : (4 : ℚ) ^ t * dyadic m e ≤ 1) (hnext : 1 < (4 : ℚ) ^ (t + 1) * dyadic m e) :
    let y := specialCode .rsq .f32 rm code
    let ulp := (2 : ℚ) ^ max (t - 23) (-149)
    ∃ n k, fvalOf .f32 y.1 = .fin false n k ∧ ulp ≤ dyadic n k ∧ (dyadic n k - ulp) ^ 2 * dyadic m e ≤ 1 ∧
      1 ≤ (dyadic n k + ulp) ^ 2 * dyadic m e ∧ (y.2.nx = true ↔ dyadic n k ^ 2 * dyadic m e ≠ 1) := by
  obtain ⟨c, hc⟩ := specialCode_f32 (fn := .rsq) (rm := rm) h
  have hspecial : specialF32 .rsq c (.fin false m e) = boundedF32 1 Config.rsqValue c (rsqApprox m e) := if_neg hm
  rw [hc, hspecial, rsqApprox_eq]
  obtain ⟨hm24, hlow, he⟩ := fvalIn_f32_bounds h
  obtain ⟨hcut, hstep, hexact⟩ := rsq_cut hm e
  have hr := two_pow_le_rsqCut (evened_ne_zero hm e)
  have hr0 : rsqCut (evened m e) ≠ 0 := (Nat.two_pow_pos 100).trans_le hr |>.ne'
  rw [four_zpow] at hbin hnext
  have ht : -128 ≤ t := by
    have hlt := hnext.trans (mul_lt_mul_of_pos_left (dyadic_f32_lt hm24 he) (pow_pos (two_zpow_pos _) 2))
    rw [two_zpow_sq_mul, ← zpow_zero (2 : ℚ), two_zpow_lt_iff] at hlt
    omega
  have hlog := log2_le_of_sq_mul_le hr0 hm hlow hcut
  have hovf := boundedF32_in_range (k := 1) (free := Config.rsqValue) (x := c)
    (a := cutApprox false (rsqCut (evened m e)) (-(e / 2) - rsqBits (evened m e) - 1)
      (decide (rsqCut (evened m e) * rsqCut (evened m e) * evened m e = 2 ^ (2 * rsqBits (evened m e)))))
    (by rw [log2_cutApprox hr0, cutApprox_e]; push_cast; omega)
  exact boundedF32_root two_ne_zero (dyadic_pos hm e) hr hcut hstep hexact hbin hnext ht hovf

end Sys2Proof.Machine
end

section
/-! PROOFS. The statement about floating results (O23; spec/07 R135, R136, R142, spec/09 R170 to R176). -/

namespace Sys2Proof.Machine

/-- A function whose exact value is approximated delivers a value within its bound. -/
theorem special_bound {rm : Rm} {code : Nat} {neg : Bool} {m : Nat} {e : Int} {fn : Special} {k : Nat} {a : Approx}
    (h : fvalIn .f32 code = .fin neg m e) (hm : m ≠ 0)
    (hfn : (fn = Special.exp2 ∧ k = 2 ∧ a = exp2Approx neg m e) ∨
      (fn = .log2 ∧ k = 2 ∧ neg = false ∧ log2Approx m e = some a) ∨
      (fn = .tanh ∧ k = 4 ∧ a = tanhApprox neg m e) ∨ (fn = .sig ∧ k = 4 ∧ a = sigApprox neg m e))
    (hovf : (specialCode fn .f32 rm code).2.ovf = false) : withinUlp k a (specialCode fn .f32 rm code).1 = true := by
  obtain ⟨c, hc⟩ := specialCode_f32 (fn := fn) (rm := rm) h
  obtain ⟨free, hspecial⟩ : ∃ free, specialF32 fn c (.fin neg m e) = boundedF32 k free c a := by
    rcases hfn with ⟨rfl, rfl, rfl⟩ | ⟨rfl, rfl, rfl, ha⟩ | ⟨rfl, rfl, rfl⟩ | ⟨rfl, rfl, rfl⟩
    case inr.inl =>
      refine ⟨Config.log2Value, (if_neg hm).trans ?_⟩
      rw [if_neg Bool.false_ne_true, ha]
    all_goals exact ⟨_, if_neg hm⟩
  rw [hc, hspecial] at hovf ⊢
  refine withinUlp_boundedF32 ?_ hovf
  rcases hfn with ⟨-, rfl, -⟩ | ⟨-, rfl, -⟩ | ⟨-, rfl, -⟩ | ⟨-, rfl, -⟩ <;> decide

/-- Settles O23: the rows are the elements of their operations, the conversions likewise, and the special functions lie
within their bounds by `rcp_bound`, `rsq_bound` and `special_bound`. -/
theorem floatResults : Obligations.FloatResults := by
  unfold Obligations.FloatResults
  refine ⟨fun s _ _ => floatCompletes_of_floatRow s, fun s o => ⟨narrowCompletes_all s o, widenCompletes_all s o⟩,
    fun rm code => ⟨?rcp, ?rsq, ?others⟩⟩
  case rcp => exact fun neg m e t h hm hbin hnext hovf => rcp_bound h hm hbin hnext hovf
  case rsq => exact fun m e t h hm hbin hnext => rsq_bound h hm hbin hnext
  case others => exact fun neg m e fn k a h hm hfn hovf => special_bound h hm hfn hovf

end Sys2Proof.Machine
end

section
/-! PROOFS. Reductions and the prefix scan of the C stream (spec/09 R182, R183). -/

namespace Sys2Proof.Machine

theorem raisedBits_singleton (f : FFlags) : raisedBits [f] = f.bits := (orFlags_bits [f]).symm

/-- An instruction of the C stream whose one result goes to vd with flags completes with what its operation gives in
the mode of FPC. -/
theorem exec_floatOp {s : State} {i : Instr} {tok : Tok} {srcs : List (BitVec 6)} {vd : BitVec 6} {pred : BitVec 4}
    {f : Rm → List VReg → PReg → VReg → VReg × FFlags} {vs : List VReg} {x : Ctx} (hmat : isMat i = false)
    (hexec : exec i s = issue .c i tok 0 0 0 (floatOp srcs vd pred f) s) (hfree : streamFree s .c tok [])
    (htake : takeSrcs (capture .c i 0 0 0 s.me) srcs (handed s) = .ok vs x) (hroom : dstRoom vd x = true) :
    let e := capture .c i 0 0 0 s.me
    let r := f (modeOf x) vs (govern e pred x) (dstOld e vd x)
    ∃ t y, exec i s = .next t ∧ ranC s t tok y ∧ flagged y (putDst e vd r.1 x) r.2.bits := by
  obtain ⟨t, y, hnext, hran, hflag⟩ := issue_raising (dst := some vd) hfree hmat hexec rfl htake hroom (putDst_tok ..)
  rw [fpcRm_eq] at hflag
  exact ⟨t, y, hnext, hran, hflag⟩

/-! ## Reductions -/

/-- A reduction completes with the value of its row when its operation puts that value into element 0. -/
theorem redCompletes_of_reduceOp {s : State} {i : Instr} {r : RedRow}
    {f : Rm → PReg → VReg → VReg → VReg × FFlags} (hmat : isMat i = false)
    (hexec : exec i s = issue .c i r.o.tok 0 0 0 (reduceOp r.o f) s)
    (hval : ∀ rm p a b, f rm p a b =
      (elem0 r.w (r.f rm (activeElems r.o.ty p a) b).1, (r.f rm (activeElems r.o.ty p a) b).2)) :
    redCompletes s i r := by
  intro vs x _ hfree e htake hroom w l v
  obtain ⟨t, y, hnext, hran, hflag⟩ := exec_floatOp hmat hexec hfree htake hroom
  rw [hval, ← raisedBits_singleton] at hflag
  exact ⟨t, y, hnext, hran, hflag⟩

/-- A sum over an integer type: the accumulator is the signed or unsigned lane of 32 bits in vb. -/
theorem redsumVal_of_int {t : Ty} (h : tyInt t = true) (rm : Rm) (sat : Bool) (p : PReg) (a b : VReg) :
    redsumVal t rm sat p a b =
      (narrowN sat (tySigned t) 32 ((if tySigned t then sextI 32 (elem 32 0 b) else (elem 32 0 b : Int)) +
        ((activeElems t p a).map (tyVal t)).sum), .none) := by
  have hfold (l : List Int) (n : Int) : l.foldl (· + ·) n = n + l.sum := by
    rw [List.sum_eq_foldl, ← List.foldl_assoc (op := (· + · : Int → Int → Int)), add_zero]
  simp only [redsumVal, if_pos h, hfold, fieldI_elem]

theorem redCompletes_of_redRow {i : Instr} {r : RedRow} (s : State) (hi : redRow i = some r) : redCompletes s i r := by
  cases i with
  | vredsum o =>
    cases hi
    refine redCompletes_of_reduceOp rfl rfl fun rm p a b => ?_
    cases ht : tyInt o.ty with
    | true => simp only [redsumVal_of_int ht, if_true]; rfl
    | false => simp only [redsumVal, ht, if_false, Bool.false_eq_true]; rfl
  | vredmax o | vredmin o =>
    cases hi
    exact redCompletes_of_reduceOp rfl rfl fun _ _ _ _ => rfl
  | _ => cases hi

/-! ## The prefix scan -/

/-- The sum of the active elements among the n from j on. -/
def activeSum (t : Ty) (p : PReg) (a : VReg) (j n : Nat) : Int :=
  (((List.range' j n).filter fun i => p.getLsbD i).map fun i => tyVal t (elem (tyWidth t) i a)).sum

theorem activeSum_succ (t : Ty) (p : PReg) (a : VReg) (j n : Nat) : activeSum t p a j (n + 1) =
    (if bitP p j then tyVal t (elem (tyWidth t) j a) else 0) + activeSum t p a (j + 1) n := by
  rw [activeSum, List.range'_succ, List.filter_cons, bitP]
  split
  · rw [List.map_cons, List.sum_cons]
    rfl
  · exact (zero_add _).symm

/-- The scan carries in its accumulator the sum of the active elements that it has passed. -/
theorem scanInt_eq_map (t : Ty) (sat : Bool) (p : PReg) (a old : VReg) (n j : Nat) (acc : Int) :
    scanInt t sat p a old n j acc = (List.range n).map fun i =>
      if bitP p (j + i) then narrowN sat (tySigned t) (tyWidth t) (acc + activeSum t p a j (i + 1))
      else elem (tyWidth t) (j + i) old := by
  induction n generalizing j acc with
  | zero => rfl
  | succ n ih =>
    have hzero : activeSum t p a (j + 1) 0 = 0 := rfl
    rw [List.range_succ_eq_map, List.map_cons, List.map_map, scanInt]
    split
    case isTrue h =>
      simp [ih, activeSum_succ t p a j, h, hzero, Function.comp_def, Nat.add_assoc, Nat.add_comm 1, Int.add_assoc]
    case isFalse h =>
      simp [ih, activeSum_succ t p a j, h, Function.comp_def, Nat.add_assoc, Nat.add_comm 1]

/-- Over an integer type each active element of a scan takes element 0 of vb and the active elements up to it. -/
theorem scanReg_of_ne_f32 {t : Ty} (h : t ≠ .f32) (rm : Rm) (sat : Bool) (p : PReg) (a b old : VReg) :
    scanReg t rm sat p a b old = (underMask (tyWidth t) p old fun j =>
      narrowN sat (tySigned t) (tyWidth t) (tyVal t (elem (tyWidth t) 0 b) + activeSum t p a 0 (j + 1)), .none) := by
  rw [scanReg, if_neg h, scanInt_eq_map]
  simp only [Nat.zero_add]
  rfl

theorem scanCompletes_all (s : State) (o : VX) : scanCompletes s o := by
  intro vs x _ hfree e htake hroom w p old r
  obtain ⟨t, y, hnext, hran, hflag⟩ := exec_floatOp rfl rfl hfree htake hroom
  by_cases ht : o.ty = .f32
  · rw [ht] at hflag
    refine ⟨t, r.1, y, hnext, hran, ?_, by rw [if_pos ht]⟩
    rw [if_pos ht, raisedBits_singleton]
    exact hflag
  · rw [scanReg_of_ne_f32 ht] at hflag
    refine ⟨t, _, y, hnext, hran, by rw [if_neg ht]; exact hflag, ?_⟩
    rw [if_neg ht]
    intro j hj
    rw [elem_underMask hj (narrowN_lt ..), activeSum, ← List.range_eq_range']
    rfl

/-- Settles O24: a reduction by the value of its row, the scan by `scanReg_of_ne_f32` or, over f32, as the model forms
it. -/
theorem reductions : Obligations.Reductions := by
  unfold Obligations.Reductions
  exact ⟨fun s _ _ => redCompletes_of_redRow s, scanCompletes_all⟩

end Sys2Proof.Machine
end

section
/-! PROOFS. Tiles: their elements, marks and sidecars after the matrix engine's operations (spec/10 R188, R199 to
R203). -/

namespace Sys2Proof.Machine

/-! ## Parts of a tile -/

theorem tabulate_getElem {α : Type} {n i : Nat} (f : Fin n → α) (hi : i < n) :
    (tabulate n f)[i] = f ⟨i, hi⟩ := by
  simp [tabulate]

/-- Row i of a tile whose rows are given one by one. -/
theorem row_tabulate (f : Fin 64 → VReg) (m : Vector (BitVec 128) 64) (r : BitVec 2048) {i : Nat} (hi : i < 64) :
    (Tile.mk (tabulate 64 f) m r).row i = f ⟨i, hi⟩ := by
  simp [Tile.row, hi, tabulate_getElem]

theorem mark_tabulate (v : Vector VReg 64) (f : Fin 64 → BitVec 128) (r : BitVec 2048) {i : Nat} (hi : i < 64) :
    (Tile.mk v (tabulate 64 f) r).mark i = f ⟨i, hi⟩ := by
  simp [Tile.mark, hi, tabulate_getElem]

theorem side_buildSide (v : Vector VReg 64) (m : Vector (BitVec 128) 64) (f : Nat → Nat) {i : Nat} (hi : i < 64) :
    (Tile.mk v m (buildSide f)).side i = f i % 2 ^ 32 := by
  have hpack : (buildSide f).toNat = packFields 32 ((List.range 64).map f) := toNat_ofNat_packFields 2048 32 f
  rw [Tile.side, hpack, packFields_field]
  simp [hi]

/-- A bit of a word that is packed from its bits. -/
theorem getLsbD_packBits {n j : Nat} (hj : j < n) (f : Nat → Bool) :
    (BitVec.ofNat n (packFields 1 ((List.range n).map fun k => if f k then 1 else 0))).getLsbD j = f j := by
  have hfield := packFields_field 1 ((List.range n).map fun k => if f k then 1 else 0) j
  rw [Nat.one_mul, pow_one] at hfield
  rw [BitVec.getLsbD_ofNat, decide_eq_true hj, Bool.true_and, Nat.testBit_eq_decide_div_mod_eq, hfield]
  cases hf : f j <;> simp [hj, hf]

theorem getLsbD_buildMarks {j : Nat} (hj : j < 128) (f : Nat → Bool) : (buildMarks f).getLsbD j = f j :=
  getLsbD_packBits hj f

/-! ## Fields of 32 bits -/

theorem sextI_emod (w x : Nat) : sextI w x % (2 ^ w : Nat) = (x : Int) % (2 ^ w : Nat) := by
  unfold sextI
  dsimp only
  split
  · rw [Int.natCast_mod, Int.emod_emod]
  · rw [Int.sub_emod_right, Int.natCast_mod, Int.emod_emod]

/-- A field and a number added modulo 2^w: the field may be taken with or without its sign. -/
theorem wrapN_sextI_add (w x : Nat) (y : Int) : wrapN w (sextI w x + y) = wrapN w (x + y) := by
  rw [wrapN, wrapN, ← Int.emod_add_emod, sextI_emod, Int.emod_add_emod]

theorem wrapN_sextI {w x : Nat} (h : x < 2 ^ w) : wrapN w (sextI w x) = x := by
  rw [wrapN, sextI_emod, ← Int.natCast_mod, Int.toNat_natCast, Nat.mod_eq_of_lt h]

theorem wrapN_wrapN_add (w : Nat) (x y : Int) : wrapN w ((wrapN w x : Int) + y) = wrapN w (x + y) := by
  have hnn : 0 ≤ x % (2 ^ w : Nat) := Int.emod_nonneg x (by positivity)
  have hx : (wrapN w x : Int) = x % (2 ^ w : Nat) := Int.toNat_of_nonneg hnn
  rw [hx, wrapN, wrapN, Int.emod_add_emod]

theorem side_lt (t : Tile) (i : Nat) : t.side i < 2 ^ 32 := Nat.mod_lt _ (by positivity)

/-- What the matrix engine rounds to f32 is a code of 32 bits. -/
theorem rneF32_lt (v : FVal) : rneF32 v < 2 ^ 32 := by
  have hsign (neg : Bool) {c : Nat} (hc : c ≤ 0x7FC00000) : signCode f32 neg c < 2 ^ 32 := by
    cases neg <;> simp [signCode, fmtOf] <;> omega
  cases v with
  | nan => decide
  | inf neg => cases neg <;> decide
  | fin neg m e =>
    unfold rneF32
    dsimp only
    split
    · cases neg <;> decide
    · rw [deliverFin_f32_eq]
      split
      · cases neg <;> decide
      · exact hsign neg (by omega)

theorem groupElemNew_lt (o : MX) (a : QaEntry) (b : QbEntry) (g i n c : Nat) :
    groupElemNew o a b g i n c < 2 ^ 32 := by
  unfold groupElemNew
  split
  · exact rneF32_lt _
  · exact narrowN_lt ..

/-! ## One group of an `mma` (spec/10 R199) -/

/-- The tile to which a group is added: the first group of acc = 0 finds the elements and the sidecar cleared. -/
def mmaFrom (o : MX) (g : Nat) (t : Tile) : Tile :=
  if g = 0 && !o.flags.getLsbD 2 then t.clearMN (shapeM o) (shapeN o) else t

theorem mmaFrom_succ (o : MX) (g : Nat) (t : Tile) : mmaFrom o (g + 1) t = t := rfl

theorem mmaFrom_zero_of_acc {o : MX} (hacc : o.flags.getLsbD 2 = true) (t : Tile) : mmaFrom o 0 t = t := by
  rw [mmaFrom, hacc]
  rfl

theorem mmaFrom_zero_of_not_acc {o : MX} (hacc : o.flags.getLsbD 2 = false) (t : Tile) :
    mmaFrom o 0 t = t.clearMN (shapeM o) (shapeN o) := by
  rw [mmaFrom, hacc]
  rfl

section group

variable (o : MX) (a : QaEntry) (b : QbEntry) (g : Nat) (t : Tile) {i n : Nat}

theorem elem_mmaFrom_zero (hi : i < 64) (hn : n < 128) : elem 32 n ((mmaFrom o 0 t).row i) =
    if i < shapeM o ∧ n < shapeN o then (if o.flags.getLsbD 2 then elem 32 n (t.row i) else 0)
    else elem 32 n (t.row i) := by
  cases hacc : o.flags.getLsbD 2 with
  | true => simp [mmaFrom_zero_of_acc hacc]
  | false =>
    rw [mmaFrom_zero_of_not_acc hacc, Tile.clearMN, row_tabulate _ _ _ hi]
    by_cases him : i < shapeM o
    · rw [if_pos him, elem_buildV_of_lt hn (by split; exacts [by positivity, elem_lt ..])]
      simp [him]
    · simp [him]

theorem mark_mmaFrom_zero (hi : i < 64) (hn : n < 128) : ((mmaFrom o 0 t).mark i).getLsbD n =
    if i < shapeM o ∧ n < shapeN o then o.flags.getLsbD 2 && (t.mark i).getLsbD n else (t.mark i).getLsbD n := by
  cases hacc : o.flags.getLsbD 2 with
  | true => simp [mmaFrom_zero_of_acc hacc]
  | false =>
    rw [mmaFrom_zero_of_not_acc hacc, Tile.clearMN, mark_tabulate _ _ _ hi]
    by_cases him : i < shapeM o
    · rw [if_pos him, getLsbD_buildMarks hn]
      by_cases hnn : n < shapeN o
      · simp [him, hnn]
      · simp [hnn, not_lt.1 hnn]
    · simp [him]

theorem side_mmaFrom_zero (hi : i < 64) : (mmaFrom o 0 t).side i =
    if i < shapeM o then (if o.flags.getLsbD 2 then t.side i else 0) else t.side i := by
  cases hacc : o.flags.getLsbD 2 with
  | true => simp [mmaFrom_zero_of_acc hacc]
  | false =>
    rw [mmaFrom_zero_of_not_acc hacc, Tile.clearMN, side_buildSide _ _ _ hi]
    split
    · rfl
    · exact Nat.mod_eq_of_lt (side_lt t i)

theorem elem_mmaStep (hi : i < 64) (hn : n < 128) : elem 32 n ((mmaStep o a b g t).row i) =
    if i < shapeM o ∧ n < shapeN o then groupElemNew o a b g i n (elem 32 n ((mmaFrom o g t).row i))
    else elem 32 n ((mmaFrom o g t).row i) := by
  refine (congrArg (elem 32 n) (row_tabulate _ _ _ hi)).trans ?_
  by_cases him : i < shapeM o
  · rw [if_pos him, elem_buildV_of_lt hn (by split; exacts [groupElemNew_lt .., elem_lt ..])]
    simp only [him, true_and]
    rfl
  · simp only [him, false_and, if_false]
    rfl

theorem mark_mmaStep (hi : i < 64) (hn : n < 128) : ((mmaStep o a b g t).mark i).getLsbD n =
    (((mmaFrom o g t).mark i).getLsbD n || (decide (i < shapeM o ∧ n < shapeN o) &&
      groupClamps o a b g i n (elem 32 n ((mmaFrom o g t).row i)))) := by
  refine (congrArg (·.getLsbD n) (mark_tabulate _ _ _ hi)).trans ?_
  by_cases him : i < shapeM o
  · simp only [him, if_true, true_and, getLsbD_buildMarks hn]
    rfl
  · simp only [him, if_false, false_and, decide_false, Bool.false_and, Bool.or_false]
    rfl

theorem side_mmaStep (hi : i < 64) : (mmaStep o a b g t).side i =
    if i < shapeM o ∧ o.flags.getLsbD 1 = true then wrapN 32 ((mmaFrom o g t).side i + groupRowSum o a g i)
    else (mmaFrom o g t).side i := by
  by_cases hrs : o.flags.getLsbD 1 = true
  · have hsum : (mmaStep o a b g t).side i = (if i < shapeM o
        then wrapN 32 (sextI 32 ((mmaFrom o g t).side i) + groupRowSum o a g i)
        else (mmaFrom o g t).side i) % 2 ^ 32 := by
      rw [mmaStep, if_pos hrs]
      exact side_buildSide _ _ _ hi
    rw [hsum, Nat.mod_eq_of_lt (by split; exacts [wrapN_lt .., side_lt ..]), wrapN_sextI_add]
    simp only [hrs, and_true]
  · rw [if_neg fun h => hrs h.2, mmaStep, if_neg hrs]
    rfl

end group

/-! ## All groups of an `mma` -/

section groups

variable {o : MX} {a : QaEntry} {b : QbEntry} {t : Tile} {i n : Nat}

theorem mmaValue_succ (o : MX) (a : QaEntry) (b : QbEntry) (t : Tile) (g i n : Nat) :
    mmaValue o a b t (g + 1) i n = groupElemNew o a b g i n (mmaValue o a b t g i n) := by
  rw [mmaValue, List.range_succ, List.foldl_append]
  rfl

theorem elem_mmaGroups (hi : i < 64) (hn : n < 128) (g : Nat) : elem 32 n ((mmaGroups o a b t (g + 1)).row i) =
    if i < shapeM o ∧ n < shapeN o then mmaValue o a b t (g + 1) i n else elem 32 n (t.row i) := by
  induction g with
  | zero =>
    rw [mmaGroups, elem_mmaStep _ _ _ _ _ hi hn, mmaGroups, elem_mmaFrom_zero _ _ hi hn, mmaValue_succ]
    split <;> rfl
  | succ g ih =>
    rw [mmaGroups, elem_mmaStep _ _ _ _ _ hi hn, mmaFrom_succ, ih, mmaValue_succ _ _ _ _ (g + 1)]
    split <;> rfl

theorem mark_mmaGroups (hi : i < 64) (hn : n < 128) (g : Nat) :
    ((mmaGroups o a b t (g + 1)).mark i).getLsbD n =
      if i < shapeM o ∧ n < shapeN o then
        (o.flags.getLsbD 2 && (t.mark i).getLsbD n) ||
          (List.range (g + 1)).any fun g => groupClamps o a b g i n (mmaValue o a b t g i n)
      else (t.mark i).getLsbD n := by
  induction g with
  | zero =>
    rw [mmaGroups, mark_mmaStep _ _ _ _ _ hi hn, mmaGroups, mark_mmaFrom_zero _ _ hi hn, elem_mmaFrom_zero _ _ hi hn]
    by_cases h : i < shapeM o ∧ n < shapeN o
    · simp [h, mmaValue]
    · simp [h]
  | succ g ih =>
    rw [mmaGroups, mark_mmaStep _ _ _ _ _ hi hn, mmaFrom_succ, ih, elem_mmaGroups hi hn]
    by_cases h : i < shapeM o ∧ n < shapeN o
    · simp only [h, and_self, if_true, decide_true, Bool.true_and]
      rw [List.range_succ (n := g + 1), List.any_append, Bool.or_assoc]
      simp
    · simp only [h, if_false, decide_false, Bool.false_and, Bool.or_false]

theorem side_mmaGroups (hi : i < 64) (g : Nat) : (mmaGroups o a b t (g + 1)).side i =
    if i < shapeM o then
      wrapN 32 ((if o.flags.getLsbD 2 then sextI 32 (t.side i) else 0) +
        if o.flags.getLsbD 1 then ((List.range (g + 1)).map fun g => groupRowSum o a g i).sum else 0)
    else t.side i := by
  induction g with
  | zero =>
    rw [mmaGroups, side_mmaStep _ _ _ _ _ hi, mmaGroups, side_mmaFrom_zero _ _ hi]
    by_cases him : i < shapeM o
    · cases o.flags.getLsbD 2 <;> cases o.flags.getLsbD 1 <;>
        simp [him, wrapN_sextI_add, wrapN_sextI (side_lt t i), show wrapN 32 0 = 0 from rfl]
    · simp [him]
  | succ g ih =>
    rw [mmaGroups, side_mmaStep _ _ _ _ _ hi, mmaFrom_succ, ih]
    by_cases him : i < shapeM o
    · by_cases hrs : o.flags.getLsbD 1 = true
      · simp only [him, hrs, and_self, if_true]
        rw [wrapN_wrapN_add, List.range_succ (n := g + 1), List.map_append, List.sum_append]
        simp [add_assoc]
      · simp only [him, hrs, true_and, if_true]
        rfl
    · simp [him]

/-- An `mma` has a group at least. -/
theorem groupCount_pos (o : MX) : 0 < groupCount o := by
  have hpos : 0 < groupG o := by unfold groupG; split <;> decide
  refine Nat.div_pos ?_ hpos
  unfold groupG shapeK
  cases o.aty <;> simp [matClass] <;> split <;> decide

/-- The tile that all groups of an `mma` leave (spec/10 R199). -/
theorem mmaWritten_mmaGroups (o : MX) (a : QaEntry) (b : QbEntry) (t : Tile) :
    mmaWritten o a b t (mmaGroups o a b t (groupCount o)) := by
  obtain ⟨g, hg⟩ := Nat.exists_eq_succ_of_ne_zero (groupCount_pos o).ne'
  unfold mmaWritten mmaRowSum
  rw [hg]
  exact ⟨fun i n hi hn => elem_mmaGroups hi hn g, fun i n hi hn => mark_mmaGroups hi hn g,
    fun i hi => side_mmaGroups hi g⟩

end groups

/-! ## Rows written, read and drained -/

/-- `mwr` writes its rows and clears their marks (spec/10 R201). -/
theorem rowsWritten_mwrTile (first n : Nat) (src : Nat → VReg) (t : Tile) :
    rowsWritten (mwrTile first n src t) t first n src := by
  refine ⟨rfl, fun i => ?_⟩
  have hrow : (mwrTile first n src t).rows[i.val] =
      if first ≤ i.val ∧ i.val < first + n then src (i.val - first) else t.row i.val := tabulate_getElem _ i.isLt
  have hmark : (mwrTile first n src t).marks[i.val] =
      if first ≤ i.val ∧ i.val < first + n then 0 else t.mark i.val := tabulate_getElem _ i.isLt
  rw [hrow, hmark]
  split
  · exact ⟨rfl, rfl⟩
  · simp [Tile.row, Tile.mark]

/-- The marks that `mrd` gives (spec/10 R202). -/
theorem getLsbD_mrdMarks {j : Nat} (hj : j < 1024) (first n : Nat) (t : Tile) : (mrdMarks first n t).getLsbD j =
    (decide (j / 128 < n) && (t.mark (first + j / 128)).getLsbD (j % 128)) :=
  getLsbD_packBits hj _

theorem drainElem_lt (ty : Ty) (first n : Nat) (t : Tile) (m c : VReg) (e : Nat) :
    drainElem ty first n t m c e < 2 ^ tyWidth ty := by
  unfold drainElem
  split
  · exact satN_lt ..
  · positivity

/-- A register of a drain holds a row, or its share of the requantised elements (spec/10 R203). -/
theorem drained_drainOut (o : MX) (e : QEntry) (t : Tile) (x : Ctx) (r : Nat) :
    drained o t (readGroup e o.v2 x 0) (readGroup e o.v2 x 1) r (drainOut o e t x r) := by
  unfold drained drainOut
  split
  · exact fun j hj => elem_buildV_of_lt hj (drainElem_lt ..)
  · rfl

end Sys2Proof.Machine
end

section
/-! PROOFS. MAT instructions that are tried at once: the lease, and the slot of a tile that is written (spec/10 R190,
R192, R194 to R196). -/

namespace Sys2Proof.Machine

/-! ## A part with another acting context and another core of it -/

/-- The part with its acting context and the core of that replaced. -/
def acted (s : State) (x : Ctx) (k : Core) : State :=
  { s with ctxs := s.ctxs.set s.cur.val x, cores := s.cores.set (coreOf s.cur).val k }

section acted

variable (s : State) (x : Ctx) (k : Core)

@[simp] theorem acted_ctx : (acted s x k).ctx s.cur = x := by simp [acted, State.ctx]

@[simp] theorem acted_me : (acted s x k).me = x := acted_ctx s x k

@[simp] theorem acted_core : (acted s x k).core (coreOf s.cur) = k := by simp [acted, State.core]

@[simp] theorem acted_modCtx (f : Ctx → Ctx) : (acted s x k).modCtx s.cur f = acted s (f x) k := by
  rw [State.modCtx, acted_ctx]
  simp [State.setCtx, acted]

@[simp] theorem acted_modCore (f : Core → Core) :
    (acted s x k).modCore (coreOf s.cur) f = acted s x (f k) := by
  rw [State.modCore, acted_core]
  simp [acted]

@[simp] theorem acted_setSlot (i : Nat) (t : Tile) : setSlot (coreOf s.cur) i t (acted s x k) =
    acted s x { k with slots := k.slots.setIfInBounds i (some t) } := acted_modCore ..

/-- Only the acting context and its core differ. -/
theorem acted_eq : acted s x k = { s with
    ctxs := s.ctxs.set s.cur.val (acted s x k).me
    cores := s.cores.set (coreOf s.cur).val ((acted s x k).core (coreOf s.cur)) } := by
  rw [acted_me, acted_core]
  rfl

theorem setCtx_eq_acted : s.setCtx s.cur x = acted s x (s.core (coreOf s.cur)) := by
  simp [State.setCtx, acted, State.core]

end acted

/-! ## The lease (spec/10 R194) -/

/-- The core of the acting context once a MAT instruction has taken a free lease. -/
def leasedCore (s : State) : Core :=
  let k := s.core (coreOf s.cur)
  if k.lease = none then { k with lease := some (bankOf s.cur), used := 0 } else k

theorem leasedCore_eq (s : State) : leasedCore s =
    { s.core (coreOf s.cur) with lease := (leasedCore s).lease, used := (leasedCore s).used } := by
  unfold leasedCore
  dsimp only
  split <;> rfl

theorem leasedCore_lease {s : State} (h : leaseOpen s) : (leasedCore s).lease = some (bankOf s.cur) := by
  unfold leasedCore
  dsimp only
  split
  · rfl
  next hheld => exact h.resolve_left hheld

/-- A MAT instruction at the head of its stream takes a free lease. -/
theorem takeLease_state (s : State) (x : Ctx) :
    (takeLease s.cur (s.setCtx s.cur x)).2 = acted s x (leasedCore s) := by
  have hcore : (s.setCtx s.cur x).core (coreOf s.cur) = s.core (coreOf s.cur) := rfl
  unfold takeLease leasedCore
  dsimp only
  rw [hcore]
  cases hl : (s.core (coreOf s.cur)).lease with
  | none => rw [if_pos rfl, setCtx_eq_acted, acted_modCore]
  | some b => rw [if_neg (Option.some_ne_none b), setCtx_eq_acted]

theorem withLease_of_held {s : State} {x : Ctx} {k : Core} (h : k.lease = some (bankOf s.cur))
    (f : State → Perform) : withLease s.cur (acted s x k) f = f (acted s x k) := by
  have htake : takeLease s.cur (acted s x k) = (true, acted s x k) := by
    rw [takeLease, acted_core, h]
    simp
  rw [withLease, htake]

/-- A use of the lease changes the lease and its count. -/
theorem useLease_acted (s : State) (x : Ctx) (k : Core) :
    ∃ l u, useLease s.cur (acted s x k) = acted s x { k with lease := l, used := u } := by
  unfold useLease endLease
  simp only [acted_modCore, acted_core]
  split
  · split
    · exact ⟨_, _, rfl⟩
    · exact ⟨_, _, rfl⟩
  · exact ⟨k.lease, _, rfl⟩

/-! ## A MAT instruction that is tried at once -/

/-- The state in which a MAT instruction that the front has just handed to an empty stream takes effect. -/
def matBegan (s : State) : State := acted s (handed s) (leasedCore s)

section tried

variable {s : State} {tok : Tok} {rs : List (BitVec 5)} {i : Instr} {perf : CtxId → QEntry → State → Perform}

/-- A MAT instruction handed to a free C stream takes a free lease and is tried at once. -/
theorem issue_mat (h : streamFree s .c tok rs) (hmat : isMat i = true) :
    let e := capture .c i 0 0 0 s.me
    issue .c i tok 0 0 0 perf s = .next (afterIssue .c s.cur e
      (begunWith .c tok s.cur e (acted s (stepPc s.me) (leasedCore s)) (perf s.cur e (matBegan s)))) := by
  intro e
  obtain ⟨hlag, hclear, -, -, hfault, hsluice, hready, -⟩ := h
  obtain ⟨hempty, haside⟩ := queue_nil_of_streamClear hclear
  have hfree : registersFree s [0, 0, 0] := by simp [registersFree, busyS]
  have hlen : ¬ 32 ≤ (s.me.q.get .c).length := by
    rw [show s.me.q.get .c = [] from hempty]
    decide
  have hat : ((s.modCtx s.cur stepPc).lag || !streamClear (s.modCtx s.cur stepPc) s.cur .c) = false := by
    rw [streamClear_stepPc, hclear, State.modCtx_lag, hlag]
    rfl
  have hctx : (s.modCtx s.cur stepPc).ctx s.cur = stepPc s.me := State.modCtx_ctx_same _ _ _
  have hleased : leaseFor s.cur e.instr (s.modCtx s.cur stepPc) = acted s (stepPc s.me) (leasedCore s) :=
    (if_pos hmat).trans (takeLease_state s _)
  have hpark : ∀ t ∈ (stepPc s.me).q.parked, t.st ≠ e.st := haside
  have hmay : mayBegin (stepPc s.me) .c tok e = true := by
    simp only [mayBegin, asideBefore_of_none hpark, Bool.not_false, Bool.and_true, Bool.and_eq_true]
    exact ⟨hsluice, hready⟩
  have hact : actFor s.cur e.epoch (acted s (stepPc s.me) (leasedCore s)) = matBegan s := acted_modCtx ..
  have htry : attempt .c tok perf s.cur e (s.modCtx s.cur stepPc) =
      begunWith .c tok s.cur e (acted s (stepPc s.me) (leasedCore s)) (perf s.cur e (matBegan s)) := by
    rw [attempt, hctx, behindFault_of_noFault hfault, if_neg Bool.false_ne_true, hleased]
    simp only [acted_ctx, hmay]
    rw [settleAside_of_none (by rwa [acted_ctx]), hact]
    rfl
  rw [issue_of_free hfree, if_neg hlen, handOver, hat, if_neg Bool.false_ne_true, htry]

/-- A MAT instruction tried at once whose effect changes the acting context and its core completes. -/
theorem issue_mat_done {y : Ctx} {k : Core} (h : streamFree s .c tok rs) (hmat : isMat i = true)
    (hperf : perf s.cur (capture .c i 0 0 0 s.me) (matBegan s) = .done (acted s y k)) (htok : y.tok = s.me.tok) :
    issue .c i tok 0 0 0 perf s = .next (acted s (tokensDone s .c tok y) k) := by
  have hroom : tokRoom y .c tok = true := by
    obtain ⟨-, -, -, -, -, -, -, hroom⟩ := h
    rw [← hroom, tokRoom, tokRoom, htok]
  rw [issue_mat h hmat, hperf, begunWith, acted_ctx, if_pos hroom, acted_modCtx, acted_modCtx]
  rfl

/-- A MAT instruction tried at once that finds a fault. -/
theorem issue_mat_fault {cause : Nat} {tval : Word} {pe : Bool} {u : State} (h : streamFree s .c tok rs)
    (hmat : isMat i = true)
    (hperf : perf s.cur (capture .c i 0 0 0 s.me) (matBegan s) = .fault u cause tval pe) :
    issue .c i tok 0 0 0 perf s = .next (raiseFault s.cur s.me.reg.epoch
      { cause := cause, tval := tval, pos := s.me.pos, fetch := false, pe := pe } u) := by
  rw [issue_mat h hmat, hperf]
  rfl

theorem withLease_matBegan (hlease : leaseOpen s) (f : State → Perform) :
    withLease s.cur (matBegan s) f = f (matBegan s) := withLease_of_held (leasedCore_lease hlease) f

end tried

/-! ## Tiles and slots (spec/10 R190, R192, R196) -/

/-- The values of a tile of a context on a core. -/
def tileIn (x : Ctx) (k : Core) (z : Nat) : Tile :=
  match slotOf x z with
  | some i => (k.slots[i]?.getD none).getD Tile.zero
  | none => Tile.zero

theorem tileOf_me (s : State) (z : Nat) : tileOf s s.cur z = tileIn s.me (s.core (coreOf s.cur)) z := rfl

theorem tileOf_acted (s : State) (x : Ctx) (k : Core) (z : Nat) : tileOf (acted s x k) s.cur z = tileIn x k z := by
  unfold tileOf
  rw [acted_ctx, acted_core]
  rfl

theorem tileIn_of_slot {x : Ctx} {k : Core} {z i : Nat} (h : slotOf x z = some i) :
    tileIn x k z = (k.slots[i]?.getD none).getD Tile.zero := by rw [tileIn, h]

/-- The tile of an instruction that is legal at the level of its context is z0 to z3, zt0 or zt1. -/
theorem tileNo_lt {sys : Bool} {z : ZOp} (h : levelTile sys z = none) : tileNo z < 6 := by
  cases z with
  | z n => simp only [tileNo]; omega
  | zt n => simp only [tileNo]; omega
  | rsv n => cases h

theorem mappedFrom_refl (x : Ctx) : mappedFrom x x := ⟨rfl, rfl, rfl⟩

theorem mappedFrom_modRegion (e : Nat) {f : Region → Region} (hf : ∀ r, f r = { r with tiles := (f r).tiles })
    (x : Ctx) : mappedFrom (modRegion e f x) x := by
  have hf' (r : Region) : ({ f r with tiles := [] } : Region) = { r with tiles := [] } := by rw [hf r]
  unfold modRegion
  split
  case h_1 r ho =>
    split
    case isTrue => exact ⟨rfl, rfl, by rw [ho, Option.map_some, Option.map_some, hf']⟩
    case isFalse =>
      split
      · exact ⟨rfl, hf _, rfl⟩
      · exact mappedFrom_refl x
  case h_2 =>
    split
    · exact ⟨rfl, hf _, rfl⟩
    · exact mappedFrom_refl x

theorem mappedFrom_mapTile (e z i : Nat) (x : Ctx) : mappedFrom (mapTile e z i x) x := by
  unfold mapTile
  split
  · obtain ⟨hctx, hreg, holder⟩ := mappedFrom_modRegion e (fun _ => rfl)
      (f := fun r => { r with tiles := r.tiles ++ [(Fin.ofNat 4 z, x.mat.map[(Fin.ofNat 4 z).val])] })
      { x with mat := { x.mat with map := x.mat.map.set (Fin.ofNat 4 z).val (some i) } }
    refine ⟨?_, hreg, holder⟩
    rw [hctx]
  · exact ⟨rfl, rfl, rfl⟩

theorem slotOf_mapTile {z : Nat} (hz : z < 6) (e i : Nat) (x : Ctx) : slotOf (mapTile e z i x) z = some i := by
  unfold mapTile slotOf
  split
  case isTrue h =>
    have hmod : z % 4 = z := Nat.mod_eq_of_lt h
    rw [modRegion_eq]
    simp [h, hmod]
  case isFalse h =>
    have hmod : (z - 4) % 2 = z - 4 := Nat.mod_eq_of_lt (by omega)
    have hlt : z - 4 < 2 := by omega
    simp [hmod, hlt]

/-- What a write of a tile finds: the tile has a slot, i, with the values of before; the context has changed in
the map of the tile alone, and its core in that slot. -/
structure SlotGiven (s : State) (z : Nat) (i : Fin 16) (x : Ctx) (k : Core) : Prop where
  slot : slotOf x z = some i.val
  mapped : mappedFrom x (handed s)
  core : k = { leasedCore s with slots := k.slots }
  others : ∀ m : Fin 16, m ≠ i → k.slots[m.val] = (s.core (coreOf s.cur)).slots[m.val]
  tile : tileIn x k z = tileOf s s.cur z

theorem leasedCore_slots (s : State) : (leasedCore s).slots = (s.core (coreOf s.cur)).slots := by rw [leasedCore_eq]

theorem tileIn_handed (s : State) (z : Nat) : tileIn (handed s) (leasedCore s) z = tileOf s s.cur z := by
  rw [tileOf_me, tileIn, leasedCore_slots]
  rfl

theorem hasSlot_handed (s : State) (z : Nat) :
    hasSlot (handed s) s.me.reg.epoch z = hasSlot s.me s.me.reg.epoch z := by
  have hregion : regionOf (handed s) s.me.reg.epoch = some (handed s).reg := if_pos rfl
  have hregion' : regionOf s.me s.me.reg.epoch = some s.me.reg := if_pos rfl
  rw [hasSlot, hasSlot, hregion, hregion']
  rfl

/-- The slot that a core gives is one that is free. -/
theorem freeSlotOf_of_free {k : Core} (h : ∃ n : Fin 16, k.slots[n.val] = none) :
    ∃ i : Fin 16, freeSlotOf k = some i.val := by
  obtain ⟨n, hn⟩ := h
  have hfree : k.slots.toList.findIdx (fun t => t.isNone) < k.slots.toList.length := by
    refine List.findIdx_lt_length.2 ⟨none, ?_, rfl⟩
    rw [← hn]
    simp
  refine ⟨⟨k.slots.toList.findIdx (fun t => t.isNone), by simpa using hfree⟩, ?_⟩
  exact List.findIdx?_eq_some_of_exists (List.findIdx_lt_length.1 hfree)

theorem setIfInBounds_same {v : Vector (Option Tile) 16} (i : Fin 16) (t : Tile) :
    (v.setIfInBounds i.val (some t))[i.val] = some t := by simp

theorem setIfInBounds_other {v : Vector (Option Tile) 16} {i m : Fin 16} (h : m ≠ i) (t : Tile) :
    (v.setIfInBounds i.val (some t))[m.val] = v[m.val] := by
  simp [Fin.val_ne_of_ne h.symm]

/-- A write of a tile that finds its slot. -/
theorem takeSlot_of_ready {s : State} {z : Nat} (hz : z < 6) (h : slotReady s z) :
    ∃ i x k, takeSlot s.cur s.me.reg.epoch z (matBegan s) = some (i.val, acted s x k) ∧ SlotGiven s z i x k := by
  obtain ⟨hrange, hready⟩ := h
  unfold takeSlot matBegan
  simp only [acted_ctx, acted_core, hasSlot_handed, tileOf_acted, tileIn_handed]
  cases hhas : hasSlot s.me s.me.reg.epoch z with
  | true =>
    rw [hhas, if_pos rfl] at hready
    obtain ⟨i, hi⟩ := Option.isSome_iff_exists.1 hready
    have hslot : slotOf (handed s) z = some i := hi
    refine ⟨⟨i, hrange i hi⟩, handed s, leasedCore s, ?_, hslot, mappedFrom_refl _, rfl, fun m _ => ?_,
      tileIn_handed s z⟩
    · rw [if_pos rfl, hslot, Option.map_some]
    · rw [leasedCore_slots]
  | false =>
    rw [hhas, if_neg Bool.false_ne_true, decide_eq_true_iff, ← leasedCore_slots] at hready
    obtain ⟨i, hi⟩ := freeSlotOf_of_free hready
    rw [if_neg Bool.false_ne_true, hi]
    refine ⟨i, mapTile s.me.reg.epoch z i (handed s), { leasedCore s with
      slots := (leasedCore s).slots.setIfInBounds i (some (tileOf s s.cur z)) }, ?_, slotOf_mapTile hz ..,
      mappedFrom_mapTile .., rfl, fun m hm => ?_, ?_⟩
    · simp only [acted_modCtx, acted_setSlot]
    · rw [setIfInBounds_other hm, leasedCore_slots]
    · rw [tileIn_of_slot (slotOf_mapTile hz ..)]
      simp

end Sys2Proof.Machine
end

section
/-! PROOFS. MAT instructions that write a tile, read one or drain one (O26; spec/10 R189 to R191, R198,
R200 to R203). -/

namespace Sys2Proof.Machine

/-! ## A tile written -/

/-- A write of a tile is complete when its slot holds the new values and the map of the tile is as the write left it. -/
theorem tileWritten_of_given {s : State} {z : Nat} {i : Fin 16} {x y : Ctx} {k k' : Core} {tok : Tok} {new : Tile}
    (h : SlotGiven s z i x k) (hmap : slotOf (tokensDone s .c tok y) z = slotOf x z)
    (hcore : k' = { k with
      slots := k.slots.setIfInBounds i.val (some new), lease := k'.lease, used := k'.used, checks := k'.checks }) :
    tileWritten s (acted s (tokensDone s .c tok y) k') tok z new y := by
  have hslots : k'.slots = k.slots.setIfInBounds i.val (some new) := by rw [hcore]
  unfold tileWritten
  simp only [acted_me, acted_core]
  refine ⟨⟨i, hmap.trans h.slot, ?_, fun m hm => ?_⟩, trivial, rfl, ?_⟩
  · simp only [hslots, setIfInBounds_same]
  · simp only [hslots, setIfInBounds_other hm, h.others m hm]
  · rw [hcore, h.core, leasedCore_eq]

/-- The tokens of an instruction concern no map. -/
theorem bumpCh_mat (e : Nat) (i : Fin 6) (d : Int) (x : Ctx) : (bumpCh e i d x).mat = x.mat := by rw [bumpCh_eq]

theorem tokensDone_mat (s : State) (st : Stream) (t : Tok) (x : Ctx) : (tokensDone s st t x).mat = x.mat := by
  unfold tokensDone tokGive tokTaken dequeued tokTake
  dsimp only
  repeat' split
  all_goals simp only [bumpCh_mat]

theorem tileBusy_acted (s : State) (x : Ctx) (k : Core) (z : Nat) (h : k.mmaRun = (s.core (coreOf s.cur)).mmaRun) :
    tileBusy (acted s x k) s.cur z = tileBusy s s.cur z := by
  rw [tileBusy, acted_core, h]
  rfl

theorem leasedCore_mmaRun (s : State) : (leasedCore s).mmaRun = (s.core (coreOf s.cur)).mmaRun := by
  rw [leasedCore_eq]

section write

variable {s : State} {o : MX} {i : Instr} {perf : CtxId → QEntry → State → Perform}

/-- A MAT instruction that writes a tile completes when the tile has its slot; x holds the queues that its sources
leave. -/
theorem issue_tileWrite (hfree : streamFree s .c o.tok []) (hmat : isMat i = true) (hz : tileNo o.z < 6)
    (hready : slotReady s (tileNo o.z)) (hbusy : tileBusy s s.cur (tileNo o.z) = false)
    (x : Ctx) (hx : x = { handed s with q := x.q }) (f : Tile → Tile)
    (hperf : perf s.cur (capture .c i 0 0 0 s.me) (matBegan s) =
      tileWrite s.cur o (capture .c i 0 0 0 s.me) x.q f (matBegan s)) :
    ∃ t y, issue .c i o.tok 0 0 0 perf s = .next t ∧ mappedFrom y x ∧
      tileWritten s t o.tok (tileNo o.z) (f (tileOf s s.cur (tileNo o.z))) y := by
  obtain ⟨n, w, k, htake, hgiven⟩ := takeSlot_of_ready hz hready
  obtain ⟨l, u, huse⟩ := useLease_acted s w k
  have hidle : tileBusy (matBegan s) s.cur (tileNo o.z) = false :=
    (tileBusy_acted _ _ _ _ (leasedCore_mmaRun s)).trans hbusy
  have hdone : perf s.cur (capture .c i 0 0 0 s.me) (matBegan s) = .done (acted s { w with q := x.q } { k with
      slots := k.slots.setIfInBounds n.val (some (f (tileOf s s.cur (tileNo o.z)))), lease := l, used := u }) := by
    rw [hperf, tileWrite, hidle, if_neg Bool.false_ne_true]
    simp only [show (capture .c i 0 0 0 s.me).epoch = s.me.reg.epoch from rfl, htake]
    rw [huse, tileOf_acted, hgiven.tile, acted_setSlot, acted_modCtx]
  obtain ⟨hw, hreg, holder⟩ := hgiven.mapped
  have htok : w.tok = s.me.tok := by rw [hw]; rfl
  refine ⟨_, { w with q := x.q }, issue_mat_done hfree hmat hdone htok, ⟨?_, ?_, ?_⟩,
    tileWritten_of_given hgiven ?_ rfl⟩
  · rw [hx, hw]
  · rw [hx]; exact hreg
  · rw [hx]; exact holder
  · rw [slotOf, slotOf, tokensDone_mat]

end write

/-! ## `mzero` and `mwr` -/

section instructions

variable {s : State} {o : MX}

theorem execMzero_done (hlegal : legalHere s (.mzero o)) (hfree : streamFree s .c o.tok []) (hlease : leaseOpen s)
    (hready : slotReady s (tileNo o.z)) (hbusy : tileBusy s s.cur (tileNo o.z) = false) :
    ∃ t y, exec (.mzero o) s = .next t ∧ mappedFrom y (handed s) ∧
      tileWritten s t o.tok (tileNo o.z) Tile.zero y := by
  have hexec : exec (.mzero o) s = issue .c (.mzero o) o.tok 0 0 0 (performMzero o) s :=
    withLevel_of_none hlegal.2 _
  rw [hexec]
  refine issue_tileWrite hfree rfl (tileNo_lt hlegal.2) hready hbusy (handed s) rfl (fun _ => Tile.zero) ?_
  rw [performMzero, withLease_matBegan hlease, matBegan, acted_ctx]

/-- `mwr` with its sources taken writes its rows. -/
theorem execMwr_done (hlegal : legalHere s (.mwr o)) (hfree : streamFree s .c o.tok []) (hlease : leaseOpen s)
    (hready : slotReady s (tileNo o.z)) (hbusy : tileBusy s s.cur (tileNo o.z) = false) {v : Nat → VReg} {x : Ctx}
    (hsrc : mwrSource o (capture .c (.mwr o) 0 0 0 s.me) (handed s) = .ok v x) (hx : x = { handed s with q := x.q }) :
    ∃ t y new, exec (.mwr o) s = .next t ∧ mappedFrom y x ∧ tileWritten s t o.tok (tileNo o.z) new y ∧
      rowsWritten new (tileOf s s.cur (tileNo o.z)) (matFirst o) (matRows o) v := by
  have hexec : exec (.mwr o) s = issue .c (.mwr o) o.tok 0 0 0 (performMwr o) s := withLevel_of_none hlegal.2 _
  have hperf : performMwr o s.cur (capture .c (.mwr o) 0 0 0 s.me) (matBegan s) =
      tileWrite s.cur o (capture .c (.mwr o) 0 0 0 s.me) x.q (mwrTile (matFirst o) (matRows o) v) (matBegan s) := by
    rw [performMwr, withLease_matBegan hlease, matBegan, acted_ctx, hsrc]
  obtain ⟨t, y, hnext, hmapped, hwritten⟩ :=
    issue_tileWrite hfree rfl (tileNo_lt hlegal.2) hready hbusy x hx _ hperf
  exact ⟨t, y, _, hexec.trans hnext, hmapped, hwritten, rowsWritten_mwrTile ..⟩

/-! ## `mrd` and `mdrain` -/

theorem putGroup_tok (e : QEntry) (code : BitVec 6) (n : Nat) (f : Nat → VReg) (x : Ctx) :
    (putGroup e code n f x).tok = x.tok := by
  unfold putGroup
  split <;> simp

theorem putPred_tok (e : QEntry) (p : BitVec 6) (v : PReg) (x : Ctx) : (putPred e p v x).tok = x.tok := by
  unfold putPred writeP
  split <;> rfl

/-- A MAT instruction that leaves the tiles has completed: the acting context is what the effect left, with the tokens
taken and given, and the rest of the part is as before but for the lease and its count. -/
def matRan (s t : State) (tok : Tok) (y : Ctx) : Prop :=
  t.me = tokensDone s .c tok y ∧
  t = { s with
    ctxs := s.ctxs.set s.cur.val t.me, cores := s.cores.set (coreOf s.cur).val (t.core (coreOf s.cur)) } ∧
  t.core (coreOf s.cur) = { s.core (coreOf s.cur) with
    lease := (t.core (coreOf s.cur)).lease, used := (t.core (coreOf s.cur)).used }

/-- A MAT instruction that leaves the tiles completes with its effect on the context. -/
theorem issue_matRead {i : Instr} {rs : List (BitVec 5)} {perf : CtxId → QEntry → State → Perform}
    (hfree : streamFree s .c o.tok rs) (hmat : isMat i = true) {f : Ctx → Ctx}
    (hperf : perf s.cur (capture .c i 0 0 0 s.me) (matBegan s) = .done ((useLease s.cur (matBegan s)).modCtx s.cur f))
    (htok : (f (handed s)).tok = s.me.tok) :
    ∃ t, issue .c i o.tok 0 0 0 perf s = .next t ∧ matRan s t o.tok (f (handed s)) := by
  obtain ⟨l, u, huse⟩ := useLease_acted s (handed s) (leasedCore s)
  rw [← matBegan] at huse
  rw [huse, acted_modCtx] at hperf
  refine ⟨_, issue_mat_done hfree hmat hperf htok, acted_me .., acted_eq .., ?_⟩
  rw [acted_core, leasedCore_eq]

theorem tileOf_matBegan (s : State) (z : Nat) : tileOf (matBegan s) s.cur z = tileOf s s.cur z :=
  (tileOf_acted ..).trans (tileIn_handed s z)

theorem stepCount_matBegan (s : State) (z : Nat) : stepCount (matBegan s) s.cur z = stepCount s s.cur z := by
  rw [stepCount, matBegan, acted_core, acted_ctx, leasedCore_mmaRun]
  rfl

theorem execMrd_done (hlegal : legalHere s (.mrd o)) (hfree : streamFree s .c o.tok [o.sd]) (hlease : leaseOpen s)
    (hroom : dstRoom o.v s.me = true) :
    let e := capture .c (.mrd o) 0 0 0 s.me
    ∃ t, exec (.mrd o) s = .next t ∧
      matRan s t o.tok (mrdRest o e (tileOf s s.cur (tileNo o.z)) (stepCount s s.cur (tileNo o.z))
        (putGroup e o.v (matRows o) (mrdReg o (tileOf s s.cur (tileNo o.z))) (handed s))) := by
  intro e
  have hsd : busyS s.me o.sd = false := by
    obtain ⟨-, -, -, hregs, -⟩ := hfree
    exact Laws.Front.busyS_of_free hregs (List.mem_singleton_self _)
  have hexec : exec (.mrd o) s = issue .c (.mrd o) o.tok 0 0 0 (performMrd o) s :=
    (withLevel_of_none hlegal.2 _).trans (if_neg (Bool.eq_false_iff.1 hsd))
  have hroom' : dstRoom o.v ((matBegan s).ctx s.cur) = true := by
    rw [matBegan, acted_ctx]
    exact hroom
  rw [hexec]
  refine issue_matRead hfree rfl (f := fun x => mrdRest o e (tileOf s s.cur (tileNo o.z))
    (stepCount s s.cur (tileNo o.z)) (putGroup e o.v (matRows o) (mrdReg o (tileOf s s.cur (tileNo o.z))) x)) ?_ ?_
  · rw [performMrd, withLease_matBegan hlease, hroom', Bool.not_true, if_neg Bool.false_ne_true, tileOf_matBegan,
      stepCount_matBegan]
  · unfold mrdRest
    dsimp only
    split <;> simp only [writeS_tok, putPred_tok, putGroup_tok] <;> rfl

theorem execMdrain_done (hlegal : legalHere s (.mdrain o)) (hfree : streamFree s .c o.tok [o.sd])
    (hlease : leaseOpen s) (hroom : dstRoom o.v s.me = true) (hbusy : tileBusy s s.cur (tileNo o.z) = false) :
    let e := capture .c (.mdrain o) 0 0 0 s.me
    ∃ t, exec (.mdrain o) s = .next t ∧
      matRan s t o.tok (putGroup e o.v (drainRegs o)
        (drainOut o e (tileOf s s.cur (tileNo o.z)) (handed s)) (handed s)) := by
  intro e
  have hexec : exec (.mdrain o) s = issue .c (.mdrain o) o.tok 0 0 0 (performMdrain o) s :=
    withLevel_of_none hlegal.2 _
  have hidle : tileBusy (matBegan s) s.cur (tileNo o.z) = false :=
    (tileBusy_acted _ _ _ _ (leasedCore_mmaRun s)).trans hbusy
  have hroom' : dstRoom o.v ((matBegan s).ctx s.cur) = true := by
    rw [matBegan, acted_ctx]
    exact hroom
  rw [hexec]
  refine issue_matRead hfree rfl (f := fun x => putGroup e o.v (drainRegs o)
    (drainOut o e (tileOf s s.cur (tileNo o.z)) x) x) ?_ (putGroup_tok ..)
  rw [performMdrain, withLease_matBegan hlease, hidle, hroom', tileOf_matBegan]
  rfl

end instructions

/-- Settles O26: a tile that is written by `issue_tileWrite`, one that is read by `issue_matRead`. -/
theorem tileTransfers : Obligations.TileTransfers := by
  unfold Obligations.TileTransfers
  constructor
  · intro s o hfree hlease hready hbusy old
    refine ⟨fun hlegal => execMzero_done hlegal hfree hlease hready hbusy, ?_⟩
    intro hlegal e
    constructor
    · intro v x hrows htake
      have hsrc : mwrSource o e (handed s) = .ok (fun _ => v) x := by rw [mwrSource, if_pos hrows, htake]
      have hdone := execMwr_done hlegal hfree hlease hready hbusy hsrc (takeSrc_ok htake)
      rwa [hrows] at hdone
    · intro hrows
      exact execMwr_done hlegal hfree hlease hready hbusy (if_neg hrows) rfl
  · intro s o hfree hlease hroom z k
    constructor
    · intro hlegal e old n f
      obtain ⟨t, hnext, hme, hframe, hcore⟩ := execMrd_done hlegal hfree hlease hroom
      exact ⟨t, mrdMarks (matFirst o) (matRows o) old, hnext, hme, fun _ hj => getLsbD_mrdMarks hj .., hframe,
        hcore⟩
    · intro hlegal hbusy e x
      obtain ⟨t, hnext, hme, hframe, hcore⟩ := execMdrain_done hlegal hfree hlease hroom hbusy
      exact ⟨t, drainOut o e (tileOf s s.cur z) x, hnext, hme, fun r _ => drained_drainOut .., hframe, hcore⟩

end Sys2Proof.Machine
end

section
/-! PROOFS. The statement about `mma` (O27; spec/10 R188, R190, R193, R199). -/

namespace Sys2Proof.Machine

/-! ## The context that an `mma` leaves -/

theorem keepC_eq (e : Nat) (x : Ctx) : keepC e x = { x with reg := (keepC e x).reg, older := (keepC e x).older } :=
  modRegion_eq ..

theorem stepsAt_eq (e t n : Nat) (x : Ctx) :
    stepsAt e t n x = { x with reg := (stepsAt e t n x).reg, older := (stepsAt e t n x).older } := by
  unfold stepsAt
  split
  · exact modRegion_eq ..
  · rfl

/-- The context as an `mma` leaves it when it runs through its groups at once. -/
def mmaCtx (e : Nat) (o : MX) (x : Ctx) : Ctx :=
  stepsAt e (tileNo o.z) (shapeK o) (setSteps e (tileNo o.z) (shapeK o) (popLatches o (keepC e x)))

/-- An `mma` pops the entries that it does not keep and sets the step count of its tile. -/
theorem mmaCtx_eq (e : Nat) (o : MX) (x : Ctx) : mmaCtx e o x = { popLatches o x with
    mat := { x.mat with steps := x.mat.steps.setIfInBounds (tileNo o.z) (shapeK o) }
    reg := (mmaCtx e o x).reg, older := (mmaCtx e o x).older } := by
  unfold mmaCtx
  rw [stepsAt_eq, setSteps]
  dsimp only
  rw [keepC_eq e (popLatches o (keepC e x)), keepC_eq e x]
  rfl

section mma

variable {s : State} {o : MX} {a : QaEntry} {b : QbEntry}

/-- What the latches' heads come to when both are of the open region (spec/06 R110, spec/10 R188). -/
theorem mmaOperands_of_heads (ha : s.me.q.qa.head? = some a) (hb : s.me.q.qb.head? = some b)
    (hea : a.epoch = s.me.reg.epoch) (heb : b.epoch = s.me.reg.epoch) (f : QaEntry → QbEntry → Perform) :
    mmaOperands s.cur o (capture .c (.mma o) 0 0 0 s.me) (matBegan s) f =
      if b.k ≠ shapeK o then .fault (matBegan s) 10 (BitVec.ofNat 64 b.k) false else f a b := by
  have hqa : (handed s).q.qa.head? = some a := ha
  have hqb : (handed s).q.qb.head? = some b := hb
  have hepoch : (capture .c (.mma o) 0 0 0 s.me).epoch = s.me.reg.epoch := rfl
  rw [mmaOperands, show (matBegan s).ctx s.cur = handed s from acted_ctx .., hqa, hqb]
  simp only [hepoch, hea, heb, lt_irrefl, or_self, if_false]

theorem matBegan_idle (hidle : (s.core (coreOf s.cur)).mmaRun = none) :
    ((matBegan s).core (coreOf s.cur)).mmaRun.isSome = false := by
  rw [matBegan, acted_core, leasedCore_mmaRun, hidle]
  rfl

/-- An `mma` that does not lag writes its tile, sets its context and adds a comparison that is due. -/
theorem mmaBegin_acted (hlag : s.lag = false) (e : QEntry) {i : Nat} {x : Ctx} {k : Core} (hrun : k.mmaRun = none) :
    ∃ k', mmaBegin s.cur o e a b i (acted s x k) = .done (acted s (mmaCtx e.epoch o x) k') ∧
      k' = { k with
        slots := k.slots.setIfInBounds i (some (mmaGroups o a b (tileIn x k (tileNo o.z)) (groupCount o)))
        lease := k'.lease, used := k'.used, checks := k'.checks } ∧
      k'.checks.length = k.checks.length + 1 := by
  obtain ⟨l, u, huse⟩ := useLease_acted s x k
  have hbase : tileOf (acted s (keepC e.epoch x) { k with lease := l, used := u }) s.cur (tileNo o.z) =
      tileIn x k (tileNo o.z) := by
    rw [tileOf_acted, keepC_eq]
    rfl
  have hlag' : (acted s (keepC e.epoch x) { k with lease := l, used := u }).lag = false := hlag
  unfold mmaBegin
  simp only [huse, acted_modCtx, hlag', hbase, Bool.false_eq_true, if_false]
  unfold mmaFinish
  simp only [acted_setSlot, acted_modCtx, acted_modCore]
  refine ⟨_, rfl, ?_, ?_⟩
  · rw [← hrun]
  · simp

/-- An `mma` whose operands agree in K completes. -/
theorem execMma_done (hlegal : legalHere s (.mma o)) (hfree : streamFree s .c o.tok []) (hlease : leaseOpen s)
    (hready : slotReady s (tileNo o.z)) (hidle : (s.core (coreOf s.cur)).mmaRun = none)
    (ha : s.me.q.qa.head? = some a) (hb : s.me.q.qb.head? = some b) (hea : a.epoch = s.me.reg.epoch)
    (heb : b.epoch = s.me.reg.epoch) (hk : b.k = shapeK o) :
    ∃ x k, exec (.mma o) s = .next (acted s (tokensDone s .c o.tok (mmaCtx s.me.reg.epoch o x)) k) ∧
      mappedFrom x (handed s) ∧
      tileWritten s (acted s (tokensDone s .c o.tok (mmaCtx s.me.reg.epoch o x)) k) o.tok (tileNo o.z)
        (mmaGroups o a b (tileOf s s.cur (tileNo o.z)) (groupCount o)) (mmaCtx s.me.reg.epoch o x) ∧
      k.checks.length = (s.core (coreOf s.cur)).checks.length + 1 := by
  have hexec : exec (.mma o) s = issue .c (.mma o) o.tok 0 0 0 (performMma o) s := withLevel_of_none hlegal.2 _
  obtain ⟨i, x, k, htake, hgiven⟩ := takeSlot_of_ready (tileNo_lt hlegal.2) hready
  have hrun : k.mmaRun = none := by rw [hgiven.core, ← hidle, ← leasedCore_mmaRun]
  have hlag : s.lag = false := hfree.1
  obtain ⟨k', hbegin, hcore, hchecks⟩ := mmaBegin_acted (o := o) (a := a) (b := b) (i := i.val) (x := x) hlag
    (capture .c (.mma o) 0 0 0 s.me) hrun
  have hperf : performMma o s.cur (capture .c (.mma o) 0 0 0 s.me) (matBegan s) =
      .done (acted s (mmaCtx s.me.reg.epoch o x) k') := by
    rw [performMma, withLease_matBegan hlease, matBegan_idle hidle, if_neg Bool.false_ne_true,
      mmaOperands_of_heads ha hb hea heb, if_neg (not_not.2 hk)]
    simp only [show (capture .c (.mma o) 0 0 0 s.me).epoch = s.me.reg.epoch from rfl, htake]
    exact hbegin
  have htok : (mmaCtx s.me.reg.epoch o x).tok = s.me.tok := by
    rw [mmaCtx_eq, hgiven.mapped.1]
    rfl
  refine ⟨x, k', hexec.trans (issue_mat_done hfree rfl hperf htok), hgiven.mapped, ?_, ?_⟩
  · rw [hgiven.tile] at hcore
    refine tileWritten_of_given hgiven ?_ hcore
    rw [slotOf, slotOf, tokensDone_mat, mmaCtx_eq]
  · rw [hchecks, hgiven.core, leasedCore_eq]

/-- Heads of different K are a fault in the state in which the instruction has begun (spec/10 R188). -/
theorem execMma_fault (hlegal : legalHere s (.mma o)) (hfree : streamFree s .c o.tok []) (hlease : leaseOpen s)
    (hidle : (s.core (coreOf s.cur)).mmaRun = none) (ha : s.me.q.qa.head? = some a)
    (hb : s.me.q.qb.head? = some b) (hea : a.epoch = s.me.reg.epoch) (heb : b.epoch = s.me.reg.epoch)
    (hk : b.k ≠ shapeK o) :
    exec (.mma o) s = .next (raiseFault s.cur s.me.reg.epoch
      { cause := 10, tval := BitVec.ofNat 64 b.k, pos := s.me.pos, fetch := false, pe := false } (matBegan s)) := by
  have hexec : exec (.mma o) s = issue .c (.mma o) o.tok 0 0 0 (performMma o) s := withLevel_of_none hlegal.2 _
  refine hexec.trans (issue_mat_fault hfree rfl ?_)
  rw [performMma, withLease_matBegan hlease, matBegan_idle hidle, if_neg Bool.false_ne_true,
    mmaOperands_of_heads ha hb hea heb, if_pos hk]

end mma

/-- Settles O27: the tile by `mmaWritten_mmaGroups`, the context by `mmaCtx_eq`, and the fault by `execMma_fault`. -/
theorem matrixProducts : Obligations.MatrixProducts := by
  unfold Obligations.MatrixProducts
  intro s o a b hlegal hfree hlease hready hidle ha hb hea heb
  constructor
  · intro hk
    obtain ⟨x, k, hnext, hmapped, hwritten, hchecks⟩ :=
      execMma_done hlegal hfree hlease hready hidle ha hb hea heb hk
    refine ⟨_, _, _, hnext, hwritten, mmaWritten_mmaGroups .., ?_, ?_, ?_⟩
    · rw [mmaCtx_eq, hmapped.1]
      rfl
    · have hz := tileNo_lt hlegal.2
      rw [mmaCtx_eq]
      simp [hz]
    · rw [acted_core, hchecks]
  · intro hk
    refine ⟨matBegan s, execMma_fault hlegal hfree hlease hidle ha hb hea heb hk, ?_⟩
    rw [matBegan, acted_core, ← leasedCore_lease hlease, ← leasedCore_eq]
    rfl

end Sys2Proof.Machine
end
